-- ==== Sys2Proof/Word.lean ====
section
/-! DEFINITION. The word types of the Uhlyx 9600 (R5, R6) and their plainest arithmetic. -/

namespace Sys2Proof

/-- A byte (R6 table of sizes). -/
abbrev Byte := BitVec 8
/-- A word: 64 bits. -/
abbrev Word := BitVec 64
/-- A codeword: the 80-bit stored form of a word (R355). -/
abbrev Codeword := BitVec 80
/-- An address register value (R128: AX registers are 48 bits). -/
abbrev Ax := BitVec 48

/-- Bits [hi:lo] of a word as a number; both ends included (R5). -/
def bits (w : Nat) (hi lo : Nat) : Nat := (w >>> lo) % 2 ^ (hi + 1 - lo)

/-- One bit of a number. -/
def bitOf (w i : Nat) : Bool := (w >>> i) % 2 == 1

/-- A Bool as 0 or 1. -/
def b2n (b : Bool) : Nat := if b then 1 else 0

end Sys2Proof
end

