-- ==== Sys2Proof/Syntax.lean ====
section
/-! DEFINITION. The commands of the module: one constructor of Instr per row of spec/opcode_table.json.
Operands that name a unit are its number (R2, R3). Operands that carry what the physical world does
(a sensor reading, a link that fails its bring-up, a residue mismatch, an upset of stored bits) are the
environment's part of the event. -/

namespace Sys2Proof

/-- The engine classes of a core and the four streams of a sequencer (Table 4.1, ENG). -/
inductive Eng where
  | me | ve | fe | xe
  deriving DecidableEq, Repr

/-- Power state of the host link (R24, Table 14.1). -/
inductive LinkState where
  | down | l0 | l1 | l2
  deriving DecidableEq, Repr

/-- The registers of the host port's configuration space (R401, R403): identity, Command, the three BARs, power management control, MSI-X
message control, Device Control (payload and read request sizes), the serial number, and the status registers of AER and of the CXL RAS
capability. -/
inductive CfgReg where
  | ids | classRev | subsystem | command | bar0 | bar2 | bar4 | pm | msix | devControl | serial | aerUnc | aerCor | rasUnc | rasCor
  deriving DecidableEq, Repr

/-- What the NOR's SFDP tables list (Table 2.3). -/
inductive QuadForm where
  | ec | eb | absent
  deriving DecidableEq, Repr

/-- How the arithmetic checks of one instruction went (R374, R375): clean, so many events passed on
recomputation or rerun, or a second failure of the same partial or lane group, after so many that passed and so many
events. -/
inductive ArithCheck where
  | clean
  | recomputed (events : Nat)
  | failed (passed events : Nat)
  deriving DecidableEq, Repr

/-- How the residue checks of one comb run went (R240). -/
inductive CombCheck where
  | clean
  | residue (events : Nat)
  | residueTwice
  deriving DecidableEq, Repr

/-- An upset of stored bits met by an access: the word index within the access and the flipped bits
of the stored codeword (R355). -/
abbrev Upsets := List (Nat × BitVec 80)

/-- The links whose bring-up or pattern test may fail (R54, Table 2.9). -/
inductive LinkId where
  | dch (n : Nat) | dcf (n : Nat) | d2d (l : Nat) | faceBond (d : Nat) | peerLane (p lane : Nat)
  deriving DecidableEq, Repr

/-- What the S6 tests found (R61, R254): the failing links; for each comb unit with a partial of the test tile that
is not the right one, those outputs with what it computed; the units whose residue check failed twice during the test. -/
structure TestOutcome where
  links : List LinkId
  results : List (Nat × List (Nat × Nat))
  residue : List Nat
  deriving DecidableEq, Repr

/-- A fault that no access of a program brings to light (Table 13.2): the loss of a face-bond link, an uncorrectable read of a sequencer's
snapshot or scalar state, the loss of a stack's row and column buses as a whole, an uncorrectable read of a die cache's tags. -/
inductive FoundFault where
  | faceBond (d : Nat) | seqState (d : Nat) | stackBuses (k : Nat) | dieTags (b : Nat)
  deriving DecidableEq, Repr

/-- How a journal page program ended (R43, R476): it read back as written, read back different, or timed out. -/
inductive PageEnd where
  | kept | differs | timedOut
  deriving DecidableEq, Repr

/-- What the read-back after the S5 SRAM clear found (R59): functions and comb units with an uncorrectable word, and the functions with
correctable ones and their number; and how the page program of the OPEN record of R477 ended. -/
structure FillOutcome where
  functions : List Nat
  units : List Nat
  corrected : List (Nat × Nat)
  openEnd : PageEnd
  deriving DecidableEq, Repr

/-- The head of a peer flit (Table 14.9). -/
structure FlitHead where
  vc : Nat
  seq : Nat
  ack : Nat
  cr0 : Nat
  cr1 : Nat
  cr2 : Nat
  deriving DecidableEq, Repr

/-- The head of a flit on VC 0 that acknowledges flit 0 and returns no credit. -/
def FlitHead.zero : FlitHead := { vc := 0, seq := 0, ack := 0, cr0 := 0, cr1 := 0, cr2 := 0 }

/-- A REQ body (Table 14.10); the remote descriptor is its 16 words. -/
structure ReqBody where
  dst : Nat
  src : Nat
  tag : Nat
  op : Nat
  hops : Nat
  len : Nat
  desc : List Word
  deriving DecidableEq, Repr

/-- A RSP body (Table 14.10). -/
structure RspBody where
  dst : Nat
  src : Nat
  tag : Nat
  status : Nat
  hops : Nat
  deriving DecidableEq, Repr

/-- A DATA body (Table 14.10): OFFSET in words, the data words with their poison bits. -/
structure DataBody where
  dst : Nat
  src : Nat
  tag : Nat
  offset : Nat
  hops : Nat
  words : List (Word × Bool)
  deriving DecidableEq, Repr

/-- A HELLO body (R427): the 24 hop bytes and serials of one page of the sender's swarm table. -/
structure HelloBody where
  src : Nat
  port : Nat
  lanes : Nat
  valid : Nat
  page : Nat
  version : Nat
  swarmId : Nat
  hops : List Nat
  serials : List Nat
  deriving DecidableEq, Repr

/-- A RESYNC body (Table 14.10). -/
structure ResyncBody where
  seq : Nat
  cr0 : Nat
  cr1 : Nat
  cr2 : Nat
  lanes : Nat
  deriving DecidableEq, Repr

/-- What the environment does in one home access (R306 to R309): the line a full set gives up, as its
line address, and the upset met when the line is read. -/
structure HomeEnv where
  victim : Option Nat
  upsets : Upsets
  deriving DecidableEq, Repr

/-- The commands: one constructor per row of spec/opcode_table.json, in the table's order. An operand with a default value says what the
environment added to the plain event: an upset met, an entry other than the first, a flit head that carries credits. -/
inductive Instr where
  | inputOn
  | undervoltageOff
  | overvoltageOff
  | mrstLow
  | mrstHigh
  | perstLow
  | perstHigh
  | pprsntChange (p : Nat) (level : Bool)
  | hostLinkStateChange (st : LinkState) (width rate : Nat)
  | caperr (n : Nat)
  | calert (n : Nat) (sramUe : List Nat)
  | corePllLockLoss (d : Nat)
  | strapSample (mhold bscan : Bool)
  | slotHeadersRead (jedec sfdp : Nat) (quad : QuadForm)
  | imageRead
  | imageVerify
  | railSequence (ok : Bool)
  | linkBringup (failed : List LinkId)
  | cappingFill (o : FillOutcome)
  | selfTest (o : TestOutcome)
  | s7Entry
  | norOperationDone
  | norTimeout
  | fatalLogWrite
  | getStatus (pecOk : Bool)
  | getIdent (pecOk : Bool)
  | getSensor (slot : Nat) (pecOk : Bool)
  | clearAlert (mask : Nat) (pecOk : Bool)
  | norRead (addr len : Nat) (pecOk : Bool)
  | norBuf (offset : Nat) (data : List Byte) (pecOk : Bool)
  | norProg (addr : Nat) (pecOk : Bool)
  | norErase (addr : Nat) (pecOk : Bool)
  | norStat (pecOk : Bool)
  | housekeepingRound (readings : List (Nat × Nat))
  | smokerStepDown
  | firstUseEnd
  | multiplierStepDown (stack : Nat)
  | slotFailed (slot : Nat)
  | thermalShutdown
  | thermalRestart
  | railFault (slot : Nat)
  | broadcast (d : Nat) (streams : List Eng)
  | nop (d : Nat) (st : Eng)
  | br (d : Nat) (st : Eng)
  | lset (d : Nat) (st : Eng)
  | stepBegin (d : Nat) (st : Eng)
  | stepBeginBarrier
  | stepEnd (d : Nat) (st : Eng)
  | endOfStep (ledgers : Upsets := [])
  | wtok (d : Nat) (st : Eng)
  | wagglePost (core : Nat) (eng : Eng)
  | waggleCompletion (n : Nat)
  | waggleWaitRelease (d : Nat) (st : Eng)
  | pace (d : Nat) (st : Eng)
  | paceRelease (d : Nat) (st : Eng)
  | halt (d : Nat) (st : Eng)
  | haltComplete
  | segmentSwap (d g : Nat)
  | segmentMeasurement (d g : Nat)
  | aadd (core : Nat) (eng : Eng)
  | asub (core : Nat) (eng : Eng)
  | amuli (core : Nat) (eng : Eng)
  | ashl (core : Nat) (eng : Eng)
  | ashr (core : Nat) (eng : Eng)
  | aand (core : Nat) (eng : Eng)
  | amin (core : Nat) (eng : Eng)
  | amax (core : Nat) (eng : Eng)
  | asel (core : Nat) (eng : Eng)
  | amovi (core : Nat) (eng : Eng)
  | arank (core : Nat) (eng : Eng)
  | dset (core : Nat) (eng : Eng)
  | dload (core : Nat) (eng : Eng)
  | dstore (core : Nat) (eng : Eng)
  | dadv (core : Nat) (eng : Eng)
  | fteRead (d frame : Nat)
  | mma (core : Nat) (chk : ArithCheck)
  | mmas (core : Nat) (chk : ArithCheck)
  | mzero (core : Nat)
  | mdrain (core : Nat)
  | mv (core : Nat) (chk : ArithCheck)
  | card (core : Nat) (chk : ArithCheck)
  | red (core : Nat)
  | mailboxReduction (mb : Nat)
  | softmax (core : Nat) (chk : ArithCheck)
  | maskgen (core : Nat)
  | gidx (core : Nat)
  | runAheadPrefetch (core q : Nat)
  | gather (core : Nat)
  | scatter (core : Nat)
  | fcompat (core : Nat)
  | move (core : Nat)
  | fill (core : Nat)
  | cmv (core : Nat)
  | mvFallback (core : Nat) (chk : ArithCheck)
  | cmvCompletion (core : Nat)
  | peerput (core : Nat)
  | peerget (core : Nat)
  | mirrorsync (core : Nat)
  | tokenPlace (core : Nat) (eng : Eng) (k : Nat := 0)
  | peerTransferTimeout (core slot : Nat)
  | tileSequence (unit : Nat)
  | rowCommandIssue (ctl blocked : Nat) (chk : CombCheck) (upsets : Upsets)
  | columnCommandIssue (ctl blocked : Nat)
  | residueLimit (unit : Nat)
  | runBoundary (unit : Nat)
  | evacuation (unit : Nat)
  | frameCopyDone (unit : Nat) (chainOk : Bool)
  | homeAccess (d : Nat) (env : HomeEnv)
  | mirrorDuplicate (d : Nat)
  | memoryRequest (ctl : Nat)
  | dramAccessComplete (ctl : Nat) (upsets : Upsets)
  | patrolScrub (ctl : Nat)
  | refreshDue (ctl idx : Nat)
  | powerDownTimer (ctl part : Nat)
  | diagWindowExpiry (ctl : Nat) (exchangeOk : Bool)
  | release (ctl : Nat) (exchangeOk : Bool)
  | stepWatchdog (stalled : List Nat)
  | bankLoss (ctl bank : Nat)
  | d2dLinkLoss (l : Nat)
  | d2dRetrain (l : Nat)
  | faultReplay (found : List FoundFault := []) (ledgers : Upsets := [])
  | rehydrationCopy
  | perFunctionResetDone (linkOk : Bool) (image : Upsets)
  | configRequest (r : CfgReg := .command) (value : Option Nat := none)
  | hdmCommit (i base size skip ways : Nat)
  | memRd (hpa : Nat)
  | memRdData (hpa : Nat)
  | memWr (hpa : Nat) (data : List Word) (poison : Bool)
  | memWrPtl (hpa : Nat) (data : List Word) (be : Nat) (poison : Bool)
  | memSpecRd (hpa : Nat)
  | programMemoryWrite (offset : Nat) (data : List Byte)
  | launchDb (value : Nat)
  | resume
  | frstReset (fid : Nat)
  | frstFence (fid : Nat)
  | expOpen (fid key : Nat)
  | expClose (fid : Nat)
  | svCommit (serialLow : Nat)
  | ownerEnrol (serialLow : Nat)
  | eqEnable (size : Nat)
  | eventWrite
  | counterLowRead (offset : Nat) (bar : Nat := 0) (size : Nat := 4)
  | registerWrite (bar offset size value : Nat)
  | getIdentity
  | getMeas (d : Nat) (segs : Bool)
  | getReport (d : Nat) (segs : Bool) (nonce : List Byte) (leafEnd openEnd : PageEnd)
  | close (pageEnd : PageEnd)
  | idle (p : Nat) (h : FlitHead)
  | req (p : Nat) (h : FlitHead) (b : ReqBody)
  | rsp (p : Nat) (h : FlitHead) (b : RspBody)
  | data (p : Nat) (h : FlitHead) (b : DataBody)
  | hello (p : Nat) (b : HelloBody) (h : FlitHead := .zero)
  | retry (p : Nat) (seq : Nat) (h : FlitHead := .zero)
  | resync (p : Nat) (b : ResyncBody) (h : FlitHead := .zero)
  | helloSend (p : Nat)
  | routeExpiry (p serial : Nat)
  | portRetrain (p good far : Nat)
  | clusterClockGate (c : Nat)
  | dormantEntry
  | dormantEntered
  | wakingEvent
  | wakeComplete (failedPll : List Nat)
  | holdUpExpiry
  | secCmdDone (blown : Nat)
  | flitCrcFail (p : Nat) (fec : Bool)
  | peerPortUp (p lanes : Nat)
  deriving DecidableEq, Repr

end Sys2Proof
end

