-- ==== Sys2Proof/Decode.lean ====
section
/-! DEFINITION. Commands as words: the table of operations gives no row any bits, so no word spells a command. -/

namespace Sys2Proof

/-- The command a word of nbits bits spells: the table gives none of its rows bits, so none. -/
def decodeTableWord (_nbits _w : Nat) : Option Instr := none

end Sys2Proof
end

