-- ==== Sys2Proof/Machine/Num.lean ====
section
/-! DEFINITION. Numbers (chapter 6): the format codes, values exact before rounding, the roundings, the conversions and the
additions of each engine. A bit pattern is a Nat; a value is exact: nothing is rounded but where a rule says so. -/

namespace Sys2Proof.Machine

/-- The value of a float pattern: NaN, an infinity, a zero of either sign, or m · 2^e with m ≠ 0. -/
inductive FV where
  | nan
  | inf (neg : Bool)
  | zero (neg : Bool)
  | fin (neg : Bool) (m : Nat) (e : Int)
  deriving DecidableEq, Repr

/-- The SAT and FLUSH events of one element (R201). -/
structure Ev where
  sat : Bool
  flush : Bool
  deriving DecidableEq, Repr

/-- No event. -/
def Ev.none : Ev := ⟨false, false⟩
def Ev.satur : Ev := ⟨true, false⟩
def Ev.flushed : Ev := ⟨false, true⟩
/-- Either's events: an element counts at most once in each (R202). -/
def Ev.or (a b : Ev) : Ev := ⟨a.sat || b.sat, a.flush || b.flush⟩

/-- A binary float format: precision and exponent bits. -/
structure FloatFmt where
  prec : Nat
  eb : Nat
  deriving DecidableEq, Repr

def fp32 : FloatFmt := ⟨24, 8⟩
def bf16 : FloatFmt := ⟨8, 8⟩
def fp16 : FloatFmt := ⟨11, 5⟩

/-- The exponent bias. -/
def FloatFmt.bias (f : FloatFmt) : Nat := 2 ^ (f.eb - 1) - 1
/-- The exponent of the least normal value. -/
def FloatFmt.emin (f : FloatFmt) : Int := 1 - f.bias
/-- The bit of the sign. -/
def FloatFmt.width (f : FloatFmt) : Nat := f.prec + f.eb
/-- The pattern of an infinity. -/
def FloatFmt.infBits (f : FloatFmt) (neg : Bool) : Nat :=
  (b2n neg <<< (f.width - 1)) ||| ((2 ^ f.eb - 1) <<< (f.prec - 1))
/-- The canonical NaN (R177). -/
def FloatFmt.nanBits (f : FloatFmt) : Nat := f.infBits false ||| (1 <<< (f.prec - 2))
/-- A zero. -/
def FloatFmt.zeroBits (f : FloatFmt) (neg : Bool) : Nat := b2n neg <<< (f.width - 1)
/-- The largest finite pattern. -/
def FloatFmt.maxBits (f : FloatFmt) (neg : Bool) : Nat := f.infBits neg - 1

/-- The value of a pattern (R176). -/
def FloatFmt.value (f : FloatFmt) (b : Nat) : FV :=
  let neg := b.testBit (f.width - 1)
  let ex := bits b (f.width - 2) (f.prec - 1)
  let fr := b % 2 ^ (f.prec - 1)
  if ex = 2 ^ f.eb - 1 then (if fr = 0 then .inf neg else .nan)
  else if ex = 0 then (if fr = 0 then .zero neg else .fin neg fr (f.emin - (f.prec - 1)))
  else .fin neg (fr + 2 ^ (f.prec - 1)) (Int.ofNat ex - f.bias - (f.prec - 1))

/-- m div 2^sh, rounded to nearest even. -/
def rneShift (m sh : Nat) : Nat :=
  let q := m >>> sh
  let r := m % 2 ^ sh
  let half := 2 ^ sh / 2
  if sh = 0 then m else if r > half ∨ (r = half ∧ q % 2 = 1) then q + 1 else q

/-- The exponent of the leading bit of m · 2^e, m ≠ 0. -/
def topExp (m : Nat) (e : Int) : Int := Int.ofNat (Nat.log2 m) + e

/-- m · 2^e as a multiple of 2^q, rounded to nearest even. -/
def roundAt (m : Nat) (e q : Int) : Nat :=
  if q ≤ e then m <<< (e - q).toNat else rneShift m (q - e).toNat

/-- Round to prec bits with an unbounded exponent: the multiple and its quantum's exponent. -/
def roundUnb (prec m : Nat) (e : Int) : Nat × Int :=
  let q := topExp m e - (prec - 1)
  (roundAt m e q, q)

/-- The pattern of n · 2^q, which the format holds as a normal or subnormal value. -/
def FloatFmt.pack (f : FloatFmt) (neg : Bool) (n : Nat) (q : Int) : Nat :=
  if n = 0 then f.zeroBits neg
  else
    let t := topExp n q
    if t > f.bias then f.infBits neg
    else
      let qq := max (t - (f.prec - 1)) (f.emin - (f.prec - 1))
      let fr := roundAt n q qq
      let ex := if t < f.emin then 0 else (t + f.bias).toNat
      (b2n neg <<< (f.width - 1)) ||| (ex <<< (f.prec - 1)) ||| (fr % 2 ^ (f.prec - 1))

/-- Round m · 2^e to the format per IEEE 754: overflow to infinity, subnormals kept (R192). -/
def FloatFmt.ieee (f : FloatFmt) (neg : Bool) (m : Nat) (e : Int) : Nat :=
  if m = 0 then f.zeroBits neg
  else
    let q := max (topExp m e - (f.prec - 1)) (f.emin - (f.prec - 1))
    f.pack neg (roundAt m e q) q

/-- Deliver a value in the format per IEEE 754. -/
def FloatFmt.ofValue (f : FloatFmt) : FV → Nat
  | .nan => f.nanBits
  | .inf n => f.infBits n
  | .zero n => f.zeroBits n
  | .fin n m e => f.ieee n m e

/-- Round to the format's precision, flushing what lies below the least normal value (R195); overflow to infinity. -/
def FloatFmt.flushing (f : FloatFmt) (neg : Bool) (m : Nat) (e : Int) : Nat × Ev :=
  if m = 0 then (f.zeroBits neg, .none)
  else
    let (n, q) := roundUnb f.prec m e
    if topExp n q < f.emin then (f.zeroBits neg, .flushed) else (f.pack neg n q, .none)

/-- Round to FP32, saturating at the largest finite value and flushing (the last rows of Tables 6.3 and 6.4). -/
def satFlush32 (neg : Bool) (m : Nat) (e : Int) : Nat × Ev :=
  let (n, q) := roundUnb 24 m e
  if topExp n q ≥ 128 then (fp32.maxBits neg, .satur)
  else if topExp n q < -126 then (fp32.zeroBits neg, .flushed)
  else (fp32.pack neg n q, .none)

/-- The sign of an integer as a Bool, with its magnitude. -/
def signOf (z : Int) : Bool := decide (z < 0)

/-- Two finite values summed exactly at the lower exponent. -/
def sumFin (n1 : Bool) (m1 : Nat) (e1 : Int) (n2 : Bool) (m2 : Nat) (e2 : Int) : Int × Int :=
  let e := min e1 e2
  let a : Int := Int.ofNat (m1 <<< (e1 - e).toNat)
  let b : Int := Int.ofNat (m2 <<< (e2 - e).toNat)
  ((if n1 then -a else a) + (if n2 then -b else b), e)

/-- An exact nonzero dyadic as a value; zero is +0. -/
def ofDyadic (z e : Int) : FV := if z = 0 then .zero false else .fin (signOf z) z.natAbs e

/-- The exact sum of two values per IEEE 754: opposite infinities give NaN; an exact zero is +0 unless both are −0. -/
def FV.add : FV → FV → FV
  | .nan, _ => .nan
  | _, .nan => .nan
  | .inf a, .inf b => if a = b then .inf a else .nan
  | .inf a, _ => .inf a
  | _, .inf b => .inf b
  | .zero a, .zero b => .zero (a && b)
  | .zero _, .fin n m e => .fin n m e
  | .fin n m e, .zero _ => .fin n m e
  | .fin n m e, .fin n' m' e' => let (z, q) := sumFin n m e n' m' e'; ofDyadic z q

/-- The exact product. -/
def FV.mul : FV → FV → FV
  | .nan, _ => .nan
  | _, .nan => .nan
  | .inf a, .inf b => .inf (xor a b)
  | .inf _, .zero _ => .nan
  | .zero _, .inf _ => .nan
  | .inf a, .fin n _ _ => .inf (xor a n)
  | .fin n _ _, .inf a => .inf (xor a n)
  | .zero a, .zero b => .zero (xor a b)
  | .zero a, .fin n _ _ => .zero (xor a n)
  | .fin n _ _, .zero a => .zero (xor a n)
  | .fin n m e, .fin n' m' e' => .fin (xor n n') (m * m') (e + e')

/-- Negation. -/
def FV.neg : FV → FV
  | .nan => .nan
  | .inf a => .inf !a
  | .zero a => .zero !a
  | .fin n m e => .fin (!n) m e

/-- Absolute value. -/
def FV.abs : FV → FV
  | .nan => .nan
  | .inf _ => .inf false
  | .zero _ => .zero false
  | .fin _ m e => .fin false m e

/-- The order on values, zeros equal; none where either is NaN (R196). -/
def FV.cmp : FV → FV → Option Ordering
  | .nan, _ => Option.none
  | _, .nan => Option.none
  | .inf a, .inf b => some (if a = b then .eq else if a then .lt else .gt)
  | .inf a, _ => some (if a then .lt else .gt)
  | _, .inf b => some (if b then .gt else .lt)
  | .zero _, .zero _ => some .eq
  | .zero _, .fin n _ _ => some (if n then .gt else .lt)
  | .fin n _ _, .zero _ => some (if n then .lt else .gt)
  | .fin n m e, .fin n' m' e' => let (z, _) := sumFin n m e (!n') m' e'; some (if z < 0 then .lt else if z = 0 then .eq else .gt)

/-- FP32 addition per IEEE 754 (R192). -/
def add32 (a b : Nat) : Nat := fp32.ofValue ((fp32.value a).add (fp32.value b))
/-- FP32 multiplication. -/
def mul32 (a b : Nat) : Nat := fp32.ofValue ((fp32.value a).mul (fp32.value b))
/-- FP32 fused multiply-add, rounded once. -/
def fma32 (a b c : Nat) : Nat := fp32.ofValue (((fp32.value a).mul (fp32.value b)).add (fp32.value c))

/-- minimumNumber (max = false) and maximumNumber of two FP32 patterns (R196). -/
def minMax32 (max : Bool) (a b : Nat) : Nat :=
  match fp32.value a, fp32.value b with
  | .nan, .nan => fp32.nanBits
  | .nan, _ => b
  | _, .nan => a
  | .zero na, .zero nb => if (if max then na && nb else na || nb) then fp32.zeroBits true else fp32.zeroBits false
  | x, y =>
    match x.cmp y with
    | some .lt => if max then b else a
    | some .gt => if max then a else b
    | _ => a

/-! ## Format codes (Table 6.1) -/

/-- Width in bits. -/
def fmtWidth (f : Nat) : Nat :=
  match f with
  | 0 => 8 | 1 => 8 | 2 => 4 | 3 => 4 | 4 => 8 | 5 => 16 | 6 => 16 | 7 => 32 | 8 => 32 | 9 => 16 | 10 => 8 | 11 => 1 | _ => 0

/-- Float-class formats. -/
def fmtFloat (f : Nat) : Bool := f == 4 || f == 5 || f == 6 || f == 7

/-- The binary float format of code 5, 6 or 7. -/
def fmtOf (f : Nat) : FloatFmt := if f = 5 then bf16 else if f = 6 then fp16 else fp32

/-- A two's complement value of w bits. -/
def sext (w n : Nat) : Int := if n.testBit (w - 1) then Int.ofNat (n % 2 ^ w) - 2 ^ w else Int.ofNat (n % 2 ^ w)

/-- An integer as a pattern of w bits. -/
def wrapBits (w : Nat) (z : Int) : Nat := (z % 2 ^ w).toNat

/-- The integer an integer-class pattern stands for (MASK1 as 0 or 1, SE8 as its code). -/
def intValue (f b : Nat) : Int :=
  match f with
  | 0 => sext 8 b | 2 => sext 4 b | 8 => sext 32 b | 9 => sext 16 b
  | 1 => Int.ofNat (b % 256) | 3 => Int.ofNat (b % 16) | 11 => Int.ofNat (b % 2) | _ => Int.ofNat (b % 256)

/-- Least and greatest value of an integer format. -/
def intRange (f : Nat) : Int × Int :=
  match f with
  | 0 => (-128, 127) | 1 => (0, 255) | 2 => (-8, 7) | 3 => (0, 15) | 8 => (-2147483648, 2147483647)
  | 9 => (-32768, 32767) | 11 => (0, 1) | _ => (0, 255)

/-- An integer brought into the format's range (Table 6.6). -/
def intClamp (f : Nat) (z : Int) : Nat × Ev :=
  let (lo, hi) := intRange f
  if z < lo then (wrapBits (fmtWidth f) lo, .satur) else if z > hi then (wrapBits (fmtWidth f) hi, .satur)
  else (wrapBits (fmtWidth f) z, .none)

/-- Saturating INT32 addition (R186). -/
def satAdd32 (a b : Int) : Int × Bool :=
  let z := a + b
  if z < -2147483648 then (-2147483648, true) else if z > 2147483647 then (2147483647, true) else (z, false)

/-! ## LG8 (R178 to R181) -/

/-- The antilog table (Table 6.2). -/
def antilog (f : Nat) : Nat :=
  ([256, 267, 279, 292, 304, 318, 332, 347, 362, 378, 395, 412, 431, 450, 470, 490] : List Nat).getD f 0

/-- The logarithm field n of a code. -/
def lgN (c : Nat) : Int := sext 7 c
/-- A zero code. -/
def lgZero (c : Nat) : Bool := c % 128 == 64

/-- The arithmetic value (R180). -/
def lgValue (c : Nat) : FV :=
  let s := c.testBit 7
  if lgZero c then .zero s else .fin s (antilog ((lgN c) % 16).toNat) (lgN c / 16 - 8)

/-- The Q15.16 term of a product (R181). -/
def lgTerm (a b : Nat) : Int :=
  if lgZero a || lgZero b then 0
  else
    let n := lgN a + lgN b
    let t : Int := Int.ofNat (antilog (n % 16).toNat <<< (n / 16 + 8).toNat)
    if xor (a.testBit 7) (b.testBit 7) then -t else t

/-- The code of a value (R200): k is 16·log2|x| rounded; floor(32·log2|x|) comes from the 32nd power. -/
def toLg : FV → Nat × Ev
  | .nan => (0x40, .flushed)
  | .zero n => (if n then 0xC0 else 0x40, .none)
  | .inf n => (if n then 0xBF else 0x3F, .satur)
  | .fin n m e =>
    let k : Int := (Int.ofNat (Nat.log2 (m ^ 32)) + 32 * e + 1) / 2
    if k ≥ 64 then (if n then 0xBF else 0x3F, .satur)
    else if k ≤ -64 then (if n then 0xC0 else 0x40, .flushed)
    else (b2n n * 128 + wrapBits 7 k, .none)

/-! ## Values of elements and conversions (Table 6.6) -/

/-- The value of an element of any format, integers as themselves. -/
def fmtValue (f b : Nat) : FV :=
  if f = 4 then lgValue b
  else if f = 5 ∨ f = 6 ∨ f = 7 then (fmtOf f).value b
  else ofDyadic (intValue f b) 0

/-- A value rounded to an integer to nearest even, with the events of a range (R199). -/
def toInt (f : Nat) : FV → Nat × Ev
  | .nan => (0, .flushed)
  | .zero _ => (0, .none)
  | .inf n => (wrapBits (fmtWidth f) (if n then (intRange f).1 else (intRange f).2), .satur)
  | .fin n m e => let z := roundAt m e 0; intClamp f (if n then -Int.ofNat z else Int.ofNat z)

/-- Convert an element from format f to format g. flush: the ME's flush of subnormal results at MDRAIN (R195). -/
def convert (flush : Bool) (f g b : Nat) : Nat × Ev :=
  if fmtFloat f || fmtFloat g then
    if g = 4 then toLg (fmtValue f b)
    else if fmtFloat g then
      match fmtValue f b with
      | .fin n m e => if flush then (fmtOf g).flushing n m e else ((fmtOf g).ieee n m e, .none)
      | v => ((fmtOf g).ofValue v, .none)
    else toInt g (fmtValue f b)
  else intClamp g (intValue f b)

/-! ## Block-scaled and unscaled accumulation (R183 to R188) -/

/-- The product of two expanded operands (R175, R181). -/
def product (fw fa w a : Nat) : Int := if fw = 4 then lgTerm w a else intValue fw w * intValue fa a

/-- A block or chunk partial: the exact sum of the products of two lists. -/
def partialSum (fw fa : Nat) (ws as : List Nat) : Int :=
  (ws.zip as).foldl (fun acc p => acc + product fw fa p.1 p.2) 0

/-- The scaled partial of a block (Table 6.3). -/
def scaledPartial (lg : Bool) (p : Int) (ea eb : Nat) : Nat × Ev :=
  if ea = 255 ∨ eb = 255 then (fp32.nanBits, .none)
  else if p = 0 then (0, .none)
  else satFlush32 (signOf p) p.natAbs (Int.ofNat (ea + eb) - 254 - (if lg then 16 else 0))

/-- The accumulator addition of the block-scaled path (Table 6.4). -/
def accAdd (acc s : Nat) : Nat × Ev :=
  match fp32.value acc, fp32.value s with
  | .nan, _ => (fp32.nanBits, .none)
  | _, .nan => (fp32.nanBits, .none)
  | .inf _, _ => (acc, .none)
  | x, y =>
    match x.add y with
    | .fin n m e => satFlush32 n m e
    | v => (fp32.ofValue v, .none)

/-- A product overflows when, rounded to FP32, it reaches 2^128 (R187). -/
def overflows : FV → Bool
  | .fin _ m e => let (n, q) := roundUnb 24 m e; decide (topExp n q ≥ 128)
  | _ => false

/-- The sum of a chunk of BF16 products (Table 6.5). -/
def bfChunk (as bs : List Nat) : Nat × Ev :=
  let ps := (as.zip bs).map fun p => (bf16.value p.1).mul (bf16.value p.2)
  let infs := ps.filterMap fun v => match v with
    | .inf n => some n
    | .fin n m e => if overflows (.fin n m e) then some n else Option.none
    | _ => Option.none
  if ps.any (fun v => v == .nan) || (infs.contains true && infs.contains false) then (fp32.nanBits, .none)
  else match infs with
  | n :: _ => (fp32.infBits n, .none)
  | [] =>
    match ps.foldl FV.add (.zero true) with
    | .fin n m e => let (r, ev) := fp32.flushing n m e; (r, ev)
    | .zero _ => (fp32.zeroBits (ps.all fun v => v == .zero true), .none)
    | v => (fp32.ofValue v, .none)

/-- The BF16 accumulator's addition (R188). -/
def bfAcc (acc c : Nat) : Nat × Ev :=
  match (fp32.value acc).add (fp32.value c) with
  | .fin n m e => fp32.flushing n m e
  | v => (fp32.ofValue v, .none)

/-- A list cut into pieces of n, the last one shorter. -/
def chunksOf {α : Type} (n : Nat) (xs : List α) : List (List α) :=
  (List.range ((xs.length + n - 1) / n)).map fun i => (xs.drop (n * i)).take n

/-- The unscaled integer accumulation of a sequence from an accumulator (R186). -/
def intAccum (fw fa : Nat) (acc : Int) (ws as : List Nat) : Int × Ev :=
  ((chunksOf 32 ws).zip (chunksOf 32 as)).foldl
    (fun r c => let (z, s) := satAdd32 r.1 (partialSum fw fa c.1 c.2); (z, ⟨r.2.sat || s, r.2.flush⟩)) (acc, .none)

/-- The block-scaled accumulation of a sequence from an accumulator: blocks with their two scale codes (R184, R185). -/
def scaledAccum (fw fa : Nat) (acc : Nat) (blocks : List (List Nat × List Nat × Nat × Nat)) : Nat × Ev :=
  blocks.foldl (fun r b =>
    let (s, e1) := scaledPartial (fw == 4) (partialSum fw fa b.1 b.2.1) b.2.2.1 b.2.2.2
    let (a, e2) := accAdd r.1 s
    (a, (r.2.or e1).or e2)) (acc, .none)

/-- The BF16 accumulation of a sequence from an accumulator (R187, R188). -/
def bfAccum (acc : Nat) (as bs : List Nat) : Nat × Ev :=
  ((chunksOf 32 as).zip (chunksOf 32 bs)).foldl
    (fun r c => let (s, e1) := bfChunk c.1 c.2; let (a, e2) := bfAcc r.1 s; (a, (r.2.or e1).or e2)) (acc, .none)

end Sys2Proof.Machine
end

