-- ==== Sys2Proof/Config.lean ====
section
/-! DEFINITION. What the spec leaves open: the free values. Each is an opaque constant with no body: nothing in Lean
can evaluate one or prove a value of it. A value that is fresh at each use is applied to the counter
State.freeCtr. -/

namespace Sys2Proof.Config

/-- The time, in µs, that a step reads (START_US, event and completion times, Table 2.7, 14.6, 14.7, 15.6): the model
has no clock, so a time is a free value. -/
opaque freeTime : Nat → BitVec 64

/-- DMA or access milliseconds left in a diagnosis window (FREEZE_STAT.REMAIN): a time, free. -/
opaque freeRemain : Nat → BitVec 16

/-- Data bits delivered with poison where no stored word backs them (a frozen, fenced or lost place): free. -/
opaque freeData : Nat → BitVec 64

/-- EXP2 where Table 7.4 gives a bound only: the value the tables of stepping B0 deliver, one per input (R225). -/
opaque exp2Raw : BitVec 32 → BitVec 32
/-- LOG2 where Table 7.4 gives a bound only. -/
opaque log2Raw : BitVec 32 → BitVec 32
/-- RCP where Table 7.4 gives a bound only. -/
opaque rcpRaw : BitVec 32 → BitVec 32
/-- RSQRT where Table 7.4 gives a bound only. -/
opaque rsqrtRaw : BitVec 32 → BitVec 32

/-- SHA-256 (FIPS 180-4), which R468 names and does not restate. -/
opaque sha256 : List Byte → BitVec 256

/-- LMS verification of a signature over a 32-byte message under a 56-byte public key (RFC 8554; R468 names it
and does not restate it). -/
opaque lmsVerify : List Byte → BitVec 256 → List Byte → Bool

/-- The HSS signature of a message under the attestation key by epoch and leaf, 5,076 bytes (R468, R478): derived from DEVSECRET,
which nothing reads. -/
opaque hssSign : BitVec 256 → Nat → Nat → List Byte → List Byte

/-- The set of a die cache a line goes to: the spec gives 16 ways and no selection (Table 0.2). -/
opaque dieSet : Nat → Nat

/-- The refresh rate that an MR4 code names, in parts per nominal rate (JESD209-5C, which R339 names and does not restate). -/
opaque mr4Rate : Nat → Nat

/-- Flits' ordering and other choices the spec leaves to timing: a fresh free bit. -/
opaque freeBit : Nat → Bool

end Sys2Proof.Config
end

