-- ==== Sys2Proof/Machine/Ecc.lean ====
section
/-! DEFINITION. The stored form of a word: the 80-bit codeword, its encoder and its decoder (R355 to R361). -/

namespace Sys2Proof.Machine

/-- The generator g(x) (R357). -/
def eccG : Nat := 0x4377

/-- The remainder of the polynomial v, of degree below 14 + n, by g(x). -/
def eccRem : Nat → Nat → Nat
  | 0, v => v
  | n + 1, v => eccRem n (if v.testBit (14 + n) then v ^^^ (eccG <<< n) else v)

/-- The XOR of the low n bits of v. -/
def parity : Nat → Nat → Bool
  | 0, _ => false
  | n + 1, v => xor (v.testBit n) (parity n v)

/-- The codeword of data d with poison p (R355 to R357). -/
def encode (d : Word) (p : Bool) : Codeword :=
  let info := (d.toNat <<< 14) ^^^ (b2n p <<< 78)
  let c := eccRem 65 info
  let q := b2n (parity 79 (info ^^^ c))
  BitVec.ofNat 80 (d.toNat ||| (b2n p <<< 64) ||| ((((q <<< 14) ||| c) ^^^ 0x2AAA) <<< 65))

/-- Multiply by α in GF(2^7): α^7 = α^3 + 1. -/
def gfX (a : Nat) : Nat := if a.testBit 6 then ((a <<< 1) ^^^ 0x89) &&& 0x7F else a <<< 1

/-- α^e. -/
def gfPow : Nat → Nat
  | 0 => 1
  | n + 1 => gfX (gfPow n)

/-- The product in GF(2^7), by the bits of b from the highest of n. -/
def gfMulN : Nat → Nat → Nat → Nat → Nat
  | 0, acc, _, _ => acc
  | n + 1, acc, a, b => gfMulN n (gfX acc ^^^ (if b.testBit n then a else 0)) a b

/-- The product in GF(2^7). -/
def gfMul (a b : Nat) : Nat := gfMulN 7 0 a b

/-- The logical form of a stored codeword: F = stored [79:65] XOR 0x2AAA (R356), as the polynomial of R357 with Q at bit 79. -/
def logical (cw : Codeword) : Nat :=
  let n := cw.toNat
  let f := bits n 79 65 ^^^ 0x2AAA
  (f &&& 0x3FFF) ||| (bits n 63 0 <<< 14) ||| (bits n 64 64 <<< 78) ||| (bits f 14 14 <<< 79)

/-- The polynomial's value at α, by Horner's rule over its n highest-first coefficients. -/
def eval1 : Nat → Nat → Nat → Nat
  | 0, acc, _ => acc
  | n + 1, acc, c => eval1 n (gfX acc ^^^ b2n (c.testBit n)) c

/-- The polynomial's value at α^3. -/
def eval3 : Nat → Nat → Nat → Nat
  | 0, acc, _ => acc
  | n + 1, acc, c => eval3 n (gfX (gfX (gfX acc)) ^^^ b2n (c.testBit n)) c

/-- S1 = c(α) of a logical codeword (R358). -/
def synd1 (c : Nat) : Nat := eval1 79 0 c
/-- S3 = c(α^3). -/
def synd3 (c : Nat) : Nat := eval3 79 0 c

/-- The syndrome as registers report it: S1, S3, p (R358). -/
def syndrome (cw : Codeword) : Nat :=
  let c := logical cw
  synd1 c ||| (synd3 c <<< 7) ||| (b2n (parity 80 c) <<< 14)

/-- The exponents below n whose element satisfies p, lowest first, as α^e runs on from a = α^i. -/
def expsWith (p : Nat → Bool) : Nat → Nat → Nat → List Nat
  | 0, _, _ => []
  | n + 1, i, a => if p a then i :: expsWith p n (i + 1) (gfX a) else expsWith p n (i + 1) (gfX a)

/-- How a decoder classifies a codeword (Table 12.2). -/
inductive EccClass where
  | clean
  | corrected (bitCount : Nat)
  | uncorrectable
  deriving DecidableEq, Repr

/-- What a decoder delivers: data, poison, class and syndrome. -/
structure Decoded where
  d : Word
  p : Bool
  cls : EccClass
  synd : Nat
  deriving DecidableEq, Repr

/-- Data and poison of a logical codeword. -/
def deliver (c : Nat) (cls : EccClass) (synd : Nat) : Decoded :=
  { d := BitVec.ofNat 64 (bits c 77 14), p := c.testBit 78, cls := cls, synd := synd }

/-- Data bits as stored, with poison set (R360). -/
def deliverBad (cw : Codeword) (synd : Nat) : Decoded :=
  { d := cw.setWidth 64, p := true, cls := .uncorrectable, synd := synd }

/-- Decode by the first row of Table 12.2 that applies. The syndrome of a codeword is zero, and its parity even, exactly when
re-encoding its data and poison gives it back. -/
def decode (cw : Codeword) : Decoded :=
  if cw = 0 then deliverBad cw (syndrome cw)
  else if encode (cw.setWidth 64) (cw.getLsbD 64) = cw then { d := cw.setWidth 64, p := cw.getLsbD 64, cls := .clean, synd := 0 }
  else
    let c := logical cw
    let s1 := synd1 c
    let s3 := synd3 c
    let p := parity 80 c
    let sy := s1 ||| (s3 <<< 7) ||| (b2n p <<< 14)
    let cube := gfMul s1 (gfMul s1 s1)
    if s1 = 0 then
      if s3 = 0 then deliver c (.corrected 1) sy else deliverBad cw sy
    else if s3 = cube then
      match expsWith (fun z => z == s1) 79 0 1 with
      | e :: _ => deliver (c ^^^ (1 <<< e)) (.corrected (if p then 1 else 2)) sy
      | [] => deliverBad cw sy
    else if p then deliverBad cw sy
    else
      match expsWith (fun z => gfMul s1 (gfMul z z) ^^^ gfMul (gfMul s1 s1) z ^^^ s3 ^^^ cube == 0) 79 0 1 with
      | [e, f] => deliver (c ^^^ (1 <<< e) ^^^ (1 <<< f)) (.corrected 2) sy
      | _ => deliverBad cw sy

/-- A word whose bits are all covered. -/
def fullMask : Word := BitVec.allOnes 64

/-- The new bits where the mask covers, the old ones elsewhere. -/
def mergeBits (old new mask : Word) : Word := (old &&& ~~~mask) ||| (new &&& mask)

/-- The bit mask of byte enables. -/
def byteMask (be : Nat) : Word :=
  BitVec.ofNat 64 ((List.range 8).foldl (fun a i => if be.testBit i then a ||| (0xFF <<< (8 * i)) else a) 0)

/-- What a write stores: a fresh codeword when it covers the whole word (R365), else the merge with the decoded old word
(Table 12.3), and what the decoder said of the old word when it was read. -/
def rmw (old : Codeword) (new mask : Word) (p : Bool) : Codeword × Option Decoded :=
  if mask = fullMask then (encode new p, none)
  else
    let o := decode old
    (encode (mergeBits o.d new mask) (o.p || p), some o)

end Sys2Proof.Machine
end

