-- ==== Sys2Proof/Machine/Isa.lean ====
section
/-! DEFINITION. The program's instruction words: the head word, the extension words, and the checks at fetch (R110 to R128, R131,
R135, R138 to R140). -/

namespace Sys2Proof.Machine

/-- The fields of a head word (Table 4.1), with the low 39 bits whole for the layouts of Tables 4.4 and 4.6. -/
structure Head where
  op : Nat
  eng : Nat
  lc : Nat
  wv : Bool
  wlane : Nat
  pv : Bool
  plane : Nat
  hd : Nat
  ha : Nat
  hb : Nat
  md : Nat
  low : Nat
  deriving DecidableEq, Repr

/-- The head word's fields. -/
def headOf (w : Nat) : Head :=
  { op := bits w 63 56, eng := bits w 55 54, lc := bits w 53 51, wv := bitOf w 50, wlane := bits w 49 45, pv := bitOf w 44,
    plane := bits w 43 39, hd := bits w 38 31, ha := bits w 30 23, hb := bits w 22 15, md := bits w 14 0, low := bits w 38 0 }

/-- The number of a stream (Table 4.1, Table 3.9). -/
def engNum : Eng → Nat
  | .me => 0 | .ve => 1 | .fe => 2 | .xe => 3

/-- The stream of a number. -/
def engOf : Nat → Eng
  | 0 => .me | 1 => .ve | 2 => .fe | _ => .xe

/-- The four streams in order. -/
def allEng : List Eng := [.me, .ve, .fe, .xe]

/-- Groups of Table 4.3. -/
inductive OpGroup where
  | control | address | descriptor | engine (e : Eng) | bad
  deriving DecidableEq, Repr

/-- The group of an opcode (Table 4.3, R121). -/
def opGroup (op : Nat) : OpGroup :=
  if 0x01 ≤ op ∧ op ≤ 0x08 then .control
  else if 0x10 ≤ op ∧ op ≤ 0x1A then .address
  else if 0x20 ≤ op ∧ op ≤ 0x23 then .descriptor
  else if 0x40 ≤ op ∧ op ≤ 0x44 then .engine .me
  else if 0x50 ≤ op ∧ op ≤ 0x53 then .engine .ve
  else if 0x60 ≤ op ∧ op ≤ 0x63 then .engine .fe
  else if 0x70 ≤ op ∧ op ≤ 0x75 then .engine .xe
  else .bad

/-- Extension words of an instruction (Table 4.3). -/
def extWords (h : Head) : Nat :=
  if h.op = 0x02 ∨ h.op = 0x03 ∨ h.op = 0x19 ∨ h.op = 0x52 ∨ h.op = 0x53 ∨ h.op = 0x71 then 1
  else if h.op = 0x20 then bits h.md 3 3
  else if h.op = 0x50 then bits h.md 3 0
  else 0

/-! ## Stage words (R138 to R140) -/

/-- A stage word's fields (Table 4.12). -/
structure Stage where
  fn : Nat
  src : Nat
  neg : Bool
  abs : Bool
  sub : Nat
  rsv : Nat
  imm : Nat
  deriving DecidableEq, Repr

/-- Its fields from the word. -/
def stageOf (w : Nat) : Stage :=
  { fn := bits w 63 58, src := bits w 57 56, neg := bitOf w 55, abs := bitOf w 54, sub := bits w 53 51, rsv := bits w 50 32,
    imm := bits w 31 0 }

/-- Float-class functions. -/
def fnFloat (f : Nat) : Bool := (0x01 ≤ f && f ≤ 0x08) || (0x20 ≤ f && f ≤ 0x23)
/-- Integer-class functions. -/
def fnInt (f : Nat) : Bool := 0x10 ≤ f && f ≤ 0x19
/-- Blocking functions. -/
def fnBlocking (f : Nat) : Bool := 0x20 ≤ f && f ≤ 0x23
/-- Functions marked "no b". -/
def fnNoB (f : Nat) : Bool := f == 0x15 || f == 0x19 || fnBlocking f || f == 0x30

/-- CLAMP's bounds, sign-extended (Table 4.13). -/
def clampLo (imm : Nat) : Int := if bitOf imm 15 then Int.ofNat (bits imm 15 0) - 65536 else Int.ofNat (bits imm 15 0)
def clampHi (imm : Nat) : Int := if bitOf imm 31 then Int.ofNat (bits imm 31 16) - 65536 else Int.ofNat (bits imm 31 16)

/-- One stage word meets R138 and R139, with HB null or not (R140); NEG and ABS belong to float-class functions only. -/
def stageOk (hbNull : Bool) (g : Stage) : Bool :=
  (fnFloat g.fn || fnInt g.fn || g.fn == 0x30)
  && (g.src == 0 || (g.src == 1 && !fnNoB g.fn && !hbNull))
  && ((!g.neg && !g.abs) || fnFloat g.fn)
  && (if g.fn == 0x05 then g.sub ≤ 3 else if g.fn == 0x11 then g.sub ≤ 1 else g.sub == 0)
  && g.rsv == 0
  && (g.fn != 0x30 || g.imm ≤ 9)
  && (g.fn != 0x19 || clampLo g.imm ≤ clampHi g.imm)
  && !(g.fn == 0x04 && g.src == 0 && hbNull)

/-- The classes along a chain: cur is the class so far (none where only HA will tell), ch the changes made. -/
def classWalk : Option Bool → Nat → List Stage → Bool
  | _, ch, [] => ch ≤ 1
  | cur, ch, g :: gs =>
    if g.fn == 0x30 then
      let t := 4 ≤ g.imm && g.imm ≤ 7
      classWalk (some t) (match cur with | some c => if c == t then ch else ch + 1 | none => ch) gs
    else
      match cur with
      | some c => c == fnFloat g.fn && classWalk cur ch gs
      | none => classWalk (some (fnFloat g.fn)) ch gs

/-- Every SEL follows a CMP. -/
def selOk : Bool → List Stage → Bool
  | _, [] => true
  | cmp, g :: gs => (g.fn != 0x06 || cmp) && selOk (cmp || g.fn == 0x05) gs

/-- The stage list is valid, as far as the words tell (R140). -/
def stagesOk (hbNull : Bool) (gs : List Stage) : Bool :=
  gs.all (stageOk hbNull) && ((gs.filter fun g => fnBlocking g.fn).length ≤ 1) && selOk false gs && classWalk none 0 gs

/-! ## Checks at fetch (Table 4.2) -/

/-- A control instruction's [38:0] and extension word (Table 4.4, 4.5). -/
def controlOk (st : Eng) (h : Head) (ext : Nat) : Bool :=
  let l := h.low
  h.lc == 0 && !h.wv && h.wlane == 0 && !h.pv && h.plane == 0 &&
  (match h.op with
  | 0x02 =>
    let c := bits l 38 36
    c != 7 && bits l 25 19 == 0 && (c != 6 || (bits l 35 26 == 0 && ext == 0))
  | 0x03 =>
    let dk := bits l 38 37
    let di := bits l 36 33
    let sk := bits l 32 31
    ((dk == 0 && di ≤ 11) || (dk == 1 && di ≤ 3)) && sk != 3 && (sk != 0 || bits l 30 27 == 0) && bits l 26 0 == 0
  | 0x05 => (bits l 38 38 == 0 || st == .xe) && bits l 34 34 == 0 && bits l 33 0 == 0
  | 0x06 => bits l 38 37 != 0 && bits l 30 0 == 0
  | 0x07 => bits l 30 0 == 0
  | 0x08 => bits l 38 15 == 0
  | _ => l == 0)

/-- An address-arithmetic instruction's [38:0] and extension word (Tables 4.6, 4.7). -/
def addressOk (h : Head) (ext : Nat) : Bool :=
  let l := h.low
  let ab := bits l 28 24
  let is := bits l 23 23
  let imm := bits l 22 0
  h.lc == 0 && bits l 38 34 != 31 &&
  (match h.op with
  | 0x12 => is == 1 && ab == 0
  | 0x18 => is == 0
  | 0x19 => bits l 33 0 == 0 && bits ext 63 48 == 0
  | 0x1A => is == 0 && ((imm == 0 && ab == 0) || imm == 1)
  | _ => true)

/-- A descriptor instruction's handles and MOD (Table 4.8, R132). -/
def descriptorOk (h : Head) : Bool :=
  h.lc == 0 && h.hd != 0 && h.ha == 0 && h.hb == 0 &&
  (match h.op with
  | 0x20 => bits h.md 14 9 ≤ 0x17 && bits h.md 2 0 == 0 && (bits h.md 3 3 == 0 || bits h.md 8 4 == 0)
  | 0x23 => bits h.md 12 12 == 1 || (bits h.md 11 9 == 0 && bits h.md 3 0 == 0)
  | _ => bits h.md 14 13 != 3 && bits h.md 12 9 == 0 && bits h.md 3 0 == 0)

/-- An engine instruction's handles, MOD and extension words (Table 4.10). -/
def engineOk (h : Head) (ext : List Nat) : Bool :=
  let d := h.hd != 0
  let a := h.ha != 0
  let b := h.hb != 0
  let e0 := ext.headD 0
  match h.op with
  | 0x40 | 0x41 => !d && a && b && bits h.md 14 2 == 0
  | 0x42 => !d && !a && !b && bits h.md 14 2 == 0 && bits h.md 1 0 != 0
  | 0x43 => d && !a && !b && bits h.md 14 2 == 0
  | 0x44 | 0x72 => d && a && b && bits h.md 14 1 == 0
  | 0x50 =>
    d && a && bits h.md 14 7 == 0 && bits h.md 6 4 != 7 && 1 ≤ bits h.md 3 0 && bits h.md 3 0 ≤ 8
    && stagesOk (!b) (ext.map stageOf)
  | 0x51 =>
    let mb := bitOf h.md 3
    a && !b && d == !mb && bits h.md 2 0 ≤ 5 && bits h.md 14 13 == 0 && (!mb || h.lc == 0)
  | 0x52 => d && a && !b && bits h.md 14 1 == 0 && bits e0 63 32 == 0
  | 0x53 => d && !a && !b && bits h.md 1 0 != 3 && bits h.md 14 7 == 0 && bits e0 63 32 == 0
  | 0x60 => !d && a && !b && bits h.md 14 2 == 0
  | 0x61 | 0x63 => d && a && !b && bits h.md 14 3 == 0
  | 0x62 | 0x70 => d && a && !b && bits h.md 14 1 == 0
  | 0x71 => d && !a && !b && bits h.md 14 1 == 0
  | 0x73 | 0x74 => d && a && !b && bits h.md 14 14 == 0 && (bits h.md 13 12 == 0 || bits h.md 13 12 == 2)
  | 0x75 => !d && a && !b && h.md == 0
  | _ => false

/-- Every check of Table 4.2 but the extent, on an instruction's words in a stream. -/
def fetchOk (st : Eng) (words : List Nat) : Bool :=
  let h := headOf (words.headD 0)
  let ext := words.tail
  h.lc ≤ 4 &&
  (match opGroup h.op with
  | .control => controlOk st h (ext.headD 0)
  | .address => addressOk h (ext.headD 0)
  | .descriptor => h.eng == engNum st && descriptorOk h
  | .engine e => e == st && h.eng == engNum st && engineOk h ext
  | .bad => false)

end Sys2Proof.Machine
end

