-- ==== Sys2Proof/Machine/AMap.lean ====
section
/-! DEFINITION. Sparse maps from numbers: lists of (key, value) pairs in ONE canonical form, keys strictly
rising and no value equal to what an unlisted key reads as. Memories, register files and the sets of
like units (cores, controllers, comb units) are held so, and equal contents are equal data. -/

namespace Sys2Proof.Machine

/-- A sparse map: (key, value) pairs, keys rising. What an unlisted key reads as is an argument of get and set. -/
abbrev AMap (α : Type) := List (Nat × α)

/-- The value at key k; d where nothing is listed. -/
def AMap.get {α : Type} (d : α) : AMap α → Nat → α
  | [], _ => d
  | (j, v) :: m, k => if j = k then v else if k < j then d else AMap.get d m k

/-- Write without regard to the default: replace or insert in key order. -/
def AMap.put {α : Type} : AMap α → Nat → α → AMap α
  | [], k, v => [(k, v)]
  | (j, w) :: m, k, v =>
    if k < j then (k, v) :: (j, w) :: m else if j = k then (k, v) :: m else (j, w) :: AMap.put m k v

/-- Remove the entry at key k. -/
def AMap.erase {α : Type} : AMap α → Nat → AMap α
  | [], _ => []
  | (j, w) :: m, k => if j = k then m else if k < j then (j, w) :: m else (j, w) :: AMap.erase m k

/-- Write v at key k, keeping the canonical form: writing the default removes the entry. -/
def AMap.set {α : Type} [DecidableEq α] (d : α) (m : AMap α) (k : Nat) (v : α) : AMap α :=
  if v = d then AMap.erase m k else AMap.put m k v

/-- Apply f to the value at key k. -/
def AMap.upd {α : Type} [DecidableEq α] (d : α) (m : AMap α) (k : Nat) (f : α → α) : AMap α :=
  AMap.set d m k (f (AMap.get d m k))

/-- Every key of m is above b. -/
def AMap.above {α : Type} (b : Nat) : AMap α → Bool
  | [] => true
  | (j, _) :: m => decide (b < j) && AMap.above b m

/-- The canonical form: keys strictly rising, no entry equal to the default. -/
def AMap.wf {α : Type} [DecidableEq α] (d : α) : AMap α → Bool
  | [] => true
  | (j, v) :: m => decide (v ≠ d) && AMap.above j m && AMap.wf d m

/-- Keep the entries whose key satisfies p. -/
def AMap.filterKeys {α : Type} (p : Nat → Bool) (m : AMap α) : AMap α := m.filter fun e => p e.1

/-- Apply f to every listed value; an unlisted value is unchanged, so f should keep the default. -/
def AMap.mapVals {α : Type} [DecidableEq α] (d : α) (f : α → α) (m : AMap α) : AMap α :=
  m.filterMap fun e => if f e.2 = d then none else some (e.1, f e.2)

/-- Write v at every key of a list. -/
def AMap.setAll {α : Type} [DecidableEq α] (d : α) (m : AMap α) (ks : List Nat) (v : α) : AMap α :=
  ks.foldl (fun m k => AMap.set d m k v) m

/-- The sum of f over the listed entries. -/
def AMap.sum {α : Type} (f : α → Nat) (m : AMap α) : Nat := m.foldl (fun a e => a + f e.2) 0

end Sys2Proof.Machine
end

