-- ==== Sys2Proof/Machine/State.lean ====
section
/-! DEFINITION. The state of the module: everything the spec gives it, as plain data, and State.reset.
Numbers of units are those of R2 and R3. A field that stands for a register of a block table names it. -/

namespace Sys2Proof.Machine

/-- The stored codeword of data 0 with poison 0 (R57): what an unlisted word of a memory holds. -/
def zeroCw : Codeword := 0x55540000000000000000

/-- One value per stream or engine (ME, VE, FE, XE). -/
structure Four (α : Type) where
  me : α
  ve : α
  fe : α
  xe : α
  deriving DecidableEq, Repr

/-- One component of a Four. -/
def Four.get {α : Type} (f : Four α) : Eng → α
  | .me => f.me
  | .ve => f.ve
  | .fe => f.fe
  | .xe => f.xe

/-- Replace one component of a Four. -/
def Four.set {α : Type} (f : Four α) (e : Eng) (v : α) : Four α :=
  match e with
  | .me => { f with me := v }
  | .ve => { f with ve := v }
  | .fe => { f with fe := v }
  | .xe => { f with xe := v }

/-- The same value four times. -/
def Four.all {α : Type} (v : α) : Four α := ⟨v, v, v, v⟩

/-- What a register held before the write at a slot: the exposed latencies of R86 are read from these. -/
structure Undo (α : Type) where
  slot : Nat
  key : Nat
  old : α
  deriving DecidableEq, Repr

/-! ## Pins and power -/

/-- Levels of the input pins (true is high), what the module asserts, and the state of the 54 V input (R18 to R29). -/
structure Pins where
  perst : Bool
  mrst : Bool
  mhold : Bool
  bscan : Bool
  pprsnt : Nat
  wake : Bool
  thermtrip : Bool
  inputOn : Bool
  aonOn : Bool
  rails : Nat
  holdUp : Bool
  corePll : Nat
  unclean : Bool
  deriving DecidableEq, Repr

/-- Start-up states S0 to S7, HOLD, boundary scan and no start-up in progress (R36). -/
inductive BootState where
  | off | s0 | s1 | s2 | s3 | s4 | s5 | s6 | s7 | hold | bscan
  deriving DecidableEq, Repr

/-- A function fenced during start-up: its ID, the state that fenced it, the first affected DPA (R63). -/
structure StartFence where
  fid : Nat
  state : Nat
  dpa : Nat
  deriving DecidableEq, Repr

/-- Start-up: the state, the fields of START_STATUS (Table 2.7), the ranked candidate slots still to be tried, the
image buffer (R66), and what S7 must still report. -/
structure Boot where
  st : BootState
  slot : Nat
  fallback : Bool
  failA : Nat
  failB : Nat
  failMod : Nat
  startUs : Nat
  cands : List Nat
  headersRead : Bool
  imgBuf : AMap Codeword
  imgLen : Nat
  imgMeas : BitVec 256
  imgValid : Bool
  s6Done : Bool
  fences : List StartFence
  thermRestart : Bool
  deriving DecidableEq, Repr

/-! ## NOR, management interface, housekeeping -/

/-- Why a NOR operation was requested. -/
inductive NorPurpose where
  | slot | journal | fatal | eraseAhead
  deriving DecidableEq, Repr

/-- A NOR program (up to a page of bytes) or sector erase (R41). -/
inductive NorOp where
  | prog (addr : Nat) (data : List Byte) (why : NorPurpose)
  | erase (addr : Nat) (why : NorPurpose)
  deriving DecidableEq, Repr

/-- A fatal event not yet in the log (Table 15.6, words 1 and 3). -/
structure FatalEvent where
  ty : Nat
  slot : Nat
  reading : Nat
  step : Nat
  deriving DecidableEq, Repr

/-- The NOR flash and the SPI interface: contents (erased bytes read 0xFF), the operation in progress, those requested
after it, the page buffer of NOR_BUF, and the fatal-event log's place (R457). -/
structure Nor where
  mem : AMap Byte
  busy : Option NorOp
  queue : List NorOp
  timedOut : Bool
  buf : AMap Byte
  fatalQ : List FatalEvent
  fatalSeq : Nat
  fatalPos : Nat
  deriving DecidableEq, Repr

/-- The management interface: MG_ALERT bits 1 to 3 (R437) and the last answer. -/
structure Mgmt where
  alert : Nat
  status : Nat
  resp : List Byte
  deriving DecidableEq, Repr

/-- Housekeeping (R449 to R460): the round count, the readings with their rounds (SENSOR k), INVALID runs, failed slots, slots whose
last reading was a shutdown reading, the smoker, and what rounds have made due. -/
structure Hk where
  round : Nat
  sensors : AMap Nat
  invalidRun : AMap Nat
  failed : Nat
  failDue : Nat
  hot : Nat
  shutDue : Option (Nat × Nat)
  coolRounds : Nat
  shutdown : Bool
  level : Nat
  down : Nat
  sinceS7 : Nat
  power : Nat
  stepDownDue : Bool
  firstUseDue : Bool
  hiArmed : Bool
  maxRun : Nat
  maxEvt : Nat
  thermSlot : Nat
  thermValid : Bool
  thermReading : Nat
  thermCount : Nat
  deriving DecidableEq, Repr

/-- A stack's refresh multiplier (R282 to R284): the multiplier, its last ACT and TEMP, comb segments of the round in quarters, and
the run of rounds whose target was below. -/
structure Stack where
  mult : Nat
  act : Nat
  temp : Int
  quarters : Nat
  below : Nat
  stepDue : Bool
  first : Bool
  deriving DecidableEq, Repr

/-! ## The configuration image's values -/

/-- A region-table entry (Table 10.2). -/
structure Region where
  stack : Nat
  sid : Nat
  comb : Bool
  hf : Nat
  deriving DecidableEq, Repr

/-- A rail record (R442). -/
structure Rail where
  set : Nat
  tol : Nat
  ocp : Nat
  deriving DecidableEq, Repr

/-- REFRESH (Table 9.8). -/
structure RefreshCfg where
  fixedMode : Bool
  fixed : Nat
  t2 : Nat
  t4 : Nat
  a2 : Nat
  a4 : Nat
  hold : Nat
  post : Nat
  deriving DecidableEq, Repr

/-- SMOKER (Table 15.7). -/
structure SmokerCfg where
  budget : Nat
  band1 : Nat
  band2 : Nat
  band3 : Nat
  hyst : Nat
  down : Nat
  deriving DecidableEq, Repr

/-- PEER (Table 14.12). -/
structure PeerCfg where
  enable : Nat
  maxHops : Nat
  helloMs : Nat
  swarmId : Nat
  xferTo : Nat
  deriving DecidableEq, Repr

/-- HOSTID (Table 14.2). -/
structure HostIdCfg where
  vid : Nat
  did : Nat
  ssvid : Nat
  ssid : Nat
  revid : Nat
  cls : Nat
  maxW : Nat
  maxS : Nat
  deriving DecidableEq, Repr

/-- TIMERS (Table 11.9). -/
structure TimersCfg where
  dormant : Nat
  pd : Nat
  diag : Nat
  panicPct : Nat
  deriving DecidableEq, Repr

/-- SCRUB (Table 12.6). -/
structure ScrubCfg where
  periodN : Nat
  periodF : Nat
  enable : Nat
  deriving DecidableEq, Repr

/-- Every value the running image gives (R48): the header's fields and the sections. Delay words of the controllers are keyed by
BAR 0 offset of their live copy, those of the other links by KIND × 2^16 + INDEX × 64 + word. -/
structure Cfg where
  secver : Nat
  seq : Nat
  owner : Bool
  ownerKey : List Byte
  rails : List Rail
  pllLock : Nat
  delay : AMap Word
  linkDelay : AMap Word
  regions : List Region
  cmask : List Nat
  bmask : List Nat
  fbmask : List Nat
  frmask : Nat
  frameBase : Nat
  refresh : RefreshCfg
  smoker : SmokerCfg
  peer : PeerCfg
  hostId : HostIdCfg
  liveMask : BitVec 2048
  maxCores : Nat
  allow : Nat
  scrub : ScrubCfg
  timers : TimersCfg
  deriving DecidableEq, Repr

/-! ## Sequencers -/

/-- Sequencer states (Table 3.8). -/
inductive SeqState where
  | idle | run | drain | halted | parked | replay
  deriving DecidableEq, Repr

/-- What a stream of a sequencer waits for before it fetches again. -/
inductive StreamWait where
  | none
  | stepBegin
  | stepEnd (rq : Bool) (mbn : Nat)
  | waggle (n : Nat)
  | pace (s : Eng) (n : Nat)
  deriving DecidableEq, Repr

/-- The step snapshot of R92. -/
structure Snapshot where
  pc : Four Nat
  sx : AMap Word
  mb : AMap Word
  lcnt : Four (AMap Nat)
  wcnt : AMap Nat
  deriving DecidableEq, Repr

/-- A waggle sequencer (R71 to R108): stream PCs, scalar registers, mailboxes, loop counts, completion counts, executed-slot counts,
program memory with its shadows, and its measurements (R475). -/
structure Seq where
  st : SeqState
  cause : Nat
  infoStream : Nat
  infoCode : Nat
  infoPc : Nat
  pc : Four Nat
  slot : Four Nat
  wait : Four StreamWait
  sx : AMap Word
  sxUndo : Four (List (Undo Word))
  mb : AMap Word
  mbEmpty : Nat
  lcnt : Four (AMap Nat)
  lcntUndo : Four (List (Undo Nat))
  wcnt : AMap Nat
  snap : Snapshot
  pm : AMap Codeword
  shadow : AMap Codeword
  pmPending : Nat
  dirty : Nat
  meas : AMap (BitVec 256)
  log : BitVec 256
  deriving DecidableEq, Repr

/-- One core's contribution to a mailbox reduction (R146, R230). -/
structure Contrib where
  core : Nat
  qid : Nat
  mb : Nat
  tile : Nat
  op : Nat
  isFloat : Bool
  included : Bool
  empty : Bool
  value : Nat
  ext : Nat
  sat : Bool
  deriving DecidableEq, Repr

/-- A halt that has begun: its cause (Table 3.4) and the offending instruction. -/
structure HaltReq where
  cause : Nat
  stream : Nat
  pc : Nat
  code : Nat
  deriving DecidableEq, Repr

/-- The program as a whole: the live mask applied, the step, the launch, module totals (Table 17.3), the mailbox reductions in progress. -/
structure Prog where
  admitted : BitVec 2048
  live : BitVec 2048
  step : Word
  inStep : Bool
  attempts : Nat
  sx12 : Nat
  sx13 : Nat
  sx15 : Nat
  launchNo : Nat
  norec : Bool
  nomsi : Bool
  vec : Nat
  caddr : Nat
  halt : Option HaltReq
  stepSat : Nat
  stepFlush : Nat
  launchSat : Nat
  launchFlush : Nat
  mbEmptySeen : Bool
  contribs : List Contrib
  nextQid : Nat
  deriving DecidableEq, Repr

/-! ## Cores and clusters -/

/-- How far a queued instruction has come: in the queue, started with work outstanding (a CMV, a transfer), or executed with its
token still to be placed. -/
inductive Phase where
  | queued | running | executed
  deriving DecidableEq, Repr

/-- An instruction in a core queue: its words as stored in the queue's SRAM, its PC, slot and attached loop counts, what it has
consumed and what it will report (status bits POISON 1, MIXED 2, EMPTY 4, VOID 8). -/
structure QEntry where
  qid : Nat
  words : List Codeword
  pc : Nat
  slot : Nat
  lc : List Nat
  phase : Phase
  consumed : Bool
  recv : Nat
  status : Nat
  sat : Nat
  flush : Nat
  counted : Bool
  deriving DecidableEq, Repr

/-- A token lane (R163) with the counts of R170. -/
structure Lane where
  count : Nat
  status : Nat
  placed : Nat
  consumed : Nat
  retired : Nat
  deriving DecidableEq, Repr

/-- Accumulator bank kinds (R205). -/
inductive BankKind where
  | none | int32 | fp32
  deriving DecidableEq, Repr

/-- An index stream of a forager (R316): the bound handle, the descriptors and loop counts it was bound with, the next position to
run ahead with the lines of its row already asked for, the next one to draw, the indices read ahead (plus 1; 0 none), and whether
run-ahead stands at a stop. -/
structure IdxStream where
  bound : Bool
  handle : Nat
  desc : List Word
  idxDesc : List Word
  lc : List Nat
  levels : Nat
  total : Nat
  ahead : Nat
  drawn : Nat
  sub : Nat
  vals : AMap Int
  stopped : Bool
  deriving DecidableEq, Repr

/-- A comb tile, or the same work as an MV fallback (R242 to R247): the issuing core and instruction, the geometry, the weight and scale
addressing with the frames it was dispatched with, the activation operand, where the partials go, and the controller's request count when it accepted the tile (R308). -/
structure Tile where
  core : Nat
  qid : Nat
  inMajor : Bool
  fmtW : Nat
  fmtA : Nat
  block : Nat
  t : Nat
  j : Nat
  n0 : Nat
  n1 : Nat
  nIn : Nat
  grp : Nat
  wBase : Int
  wStr : List Int
  wFull3 : Bool
  sBase : Int
  sStr : List Int
  space : Nat
  sSpace : Nat
  frames : List (Nat × Nat)
  act : List Nat
  actScale : List Nat
  actPoison : Bool
  hdBase : Int
  hdStr : List Int
  after : Nat
  deriving DecidableEq, Repr

/-- A CMV with tiles outstanding: tiles left, its totals so far (R250), and the spans of its HD. -/
structure CmvRec where
  left : Nat
  status : Nat
  sat : Nat
  flush : Nat
  spans : List (Int × Int)
  deriving DecidableEq, Repr

/-- A peer transfer of a core (R423): its queue entry, the operation (1 PUT, 2 GET, 3 GET on VC 2), the VC of a PUT's data, the peer's serial,
the remote descriptor, LEN; of a PUT the packed words with their poison, of a GET the local places of its elements (plus 1; 0 none), their
space and width, and the words still to arrive; the RSP status already received, plus 1. -/
structure Xfer where
  active : Bool
  qid : Nat
  op : Nat
  vc : Nat
  peer : Nat
  desc : List Word
  len : Nat
  data : List (Word × Bool)
  places : List Nat
  space : Nat
  width : Nat
  got : List Nat
  rsp : Nat
  deriving DecidableEq, Repr

/-- A core (R3, R149, R163, R203, R214): queues, address registers, descriptor table, lanes, core store, batts,
accumulators, index streams, outstanding CMVs with the tiles waiting for the ME and those not dispatched yet, the destination spans of
MDRAINs in progress (space, first and last bit), transfers, the engines that began to wait on a lane in order of beginning, each with its
instruction (R165), and its CORE block registers; lastVe is the VE instruction whose counts LASTOP holds, plus 1. -/
structure Core where
  q : Four (List QEntry)
  ax : Four (AMap Ax)
  axUndo : Four (List (Undo Ax))
  desc : AMap Codeword
  descUndo : Four (List (Undo (List Codeword × Nat)))
  poisoned : AMap Nat
  lanes : AMap Lane
  tokstat : Nat
  store : AMap Codeword
  batt : AMap Codeword
  acc : AMap Codeword
  kind0 : BankKind
  kind1 : BankKind
  rank : Nat
  liveCopy : Nat
  streams : AMap IdxStream
  slots : Nat
  cmvs : AMap CmvRec
  mvq : List Tile
  undisp : List Tile
  drains : AMap (List (Nat × Int × Int))
  waitq : List (Eng × Nat)
  xfers : AMap Xfer
  posted : AMap Nat
  lastSat : Four Nat
  lastFlush : Four Nat
  stepSat : Nat
  stepFlush : Nat
  lastVe : Nat
  deriving DecidableEq, Repr

/-- A cluster: its store and whether its engine clocks are gated (R448). -/
structure Cluster where
  store : AMap Codeword
  gated : Bool
  deriving DecidableEq, Repr

/-! ## Memory -/

/-- A write of some bits of one 8-byte word: word index (DPA div 8), the bits it covers, data, poison. -/
structure WUpd where
  w : Nat
  mask : Word
  d : Word
  p : Bool
  deriving DecidableEq, Repr

/-- What a controller request is for: nothing further, a host read of one half of a line, a host write, a scrub read, a scrub write-back, or a
peer's write of the transfer with that source and tag; free is the port, plus 1, whose real-time buffer the write empties of a flit. -/
inductive ReqFor where
  | plain | hostWrite | scrub | scrubBack
  | hostRead (half : Nat)
  | peer (src tag free : Nat)
  deriving DecidableEq, Repr

/-- A request to a channel controller (R331). -/
structure Req where
  id : Nat
  src : Nat
  dpa : Nat
  len : Nat
  ws : List WUpd
  keep : Bool
  why : ReqFor
  deriving DecidableEq, Repr

/-- Controller states (Table 11.12). -/
inductive CtlState where
  | run | frozen | reset | fenced | selfRefresh | entering
  deriving DecidableEq, Repr

/-- The FREEZE_* snapshot (Table 11.11). -/
structure Freeze where
  multi : Bool
  cause : Nat
  req : Nat
  dpa : Nat
  cw : Codeword
  synd : Nat
  wq : Nat
  bq : Nat
  cmds : List Nat
  repaired : Bool
  deriving DecidableEq, Repr

/-- A channel controller, DCH n or DCF n (R324): requests in arrival order, reads whose data is on its way, rows kept open (row + 1; 0
none), refresh debt per bank or rank, power-down and the parts whose timer has run out, the ranks whose WCK runs, the banks of a rank that
the refresh in progress has covered, lost banks, freeze, scrub position and the rest of its scheduling state. -/
structure Ctl where
  st : CtlState
  q : List Req
  inflight : List Req
  openRow : AMap Nat
  idleRow : AMap Nat
  debt : AMap Nat
  debtMax : Nat
  pd : Nat
  pdDue : Nat
  sr : Nat
  wck : Nat
  perBank : AMap Nat
  lost : AMap Nat
  ueRows : AMap (List (Nat × Nat))
  rot : Nat
  colRot : Nat
  wrDir : Bool
  batch : Nat
  select : AMap Nat
  brk : List Nat
  cmds : List Nat
  frz : Freeze
  scrubPos : Nat
  mr4 : Nat
  seq : Nat
  deriving DecidableEq, Repr

/-- A die-cache line (R309): its 16 words with their poison, stored as codewords; no words when the line is not present. -/
structure Line where
  words : List Codeword
  dirty : Bool
  deriving DecidableEq, Repr

/-- What an access waiting at a home is for. -/
inductive HomeFor where
  | prefetch (core q : Nat)
  deriving DecidableEq, Repr

/-- An access waiting at a home die cache (R307, R315). -/
structure HomeReq where
  src : Nat
  dpa : Nat
  why : HomeFor
  deriving DecidableEq, Repr

/-- A duplicate of a mirrored write on its way to the mirror's home (R310). -/
structure Dup where
  ws : List WUpd
  frame : Nat
  src : Nat
  home : Nat
  deriving DecidableEq, Repr

/-- The memory system of a base die: its die cache, frame translation cache (most recently used first), and the accesses and duplicates
waiting at it. -/
structure BaseDie where
  lines : AMap Line
  ftc : AMap (List (Nat × Codeword))
  inbox : List HomeReq
  dups : List Dup
  deriving DecidableEq, Repr

/-- A write held while its frame is copied (R256). -/
structure HeldWrite where
  ws : List WUpd
  src : Nat
  frame : Nat
  off : Nat
  why : ReqFor
  deriving DecidableEq, Repr

/-! ## Comb units -/

/-- Comb commands (Table 9.3, R263). -/
inductive CombCmd where
  | cfg (mr data : Nat)
  | latch (tgt burst : Nat)
  | run (kind banks : Nat)
  | stat
  | drain (b : Nat)
  deriving DecidableEq, Repr

/-- Unit states (Table 8.5). -/
inductive UnitState where
  | service | evacuating | fenced
  deriving DecidableEq, Repr

/-- A comb unit (Table 8.1): state and cause, mode registers, latch, SE8 buffer, block partials, accumulators, tile status (Table 9.5), the
tile in progress with the commands still to issue for it, the tiles accepted and waiting, and its residue window. A run is in progress
(running), the tile has run (ran), the phase has (inPhase); its pair owes refreshes at a boundary: 1 by preemption, 2 by insertion (R276);
stat is the last CMB_STAT burst (Table 9.5). -/
structure CUnit where
  st : UnitState
  cause : Nat
  window : List Nat
  limitDue : Bool
  faultDue : Nat
  mr : AMap Nat
  latch : AMap Nat
  se8 : AMap Nat
  part : AMap Int
  acc : AMap (BitVec 32)
  pois : Nat
  satm : Nat
  flushm : Nat
  ce : Nat
  ue : Nat
  res : Nat
  mixed : Bool
  cur : Option Tile
  seq : List CombCmd
  waiting : List Tile
  running : Bool
  ran : Bool
  inPhase : Bool
  owed : Nat
  stat : List Byte
  mixNext : Bool
  rowsSince : AMap Nat
  deriving DecidableEq, Repr

/-- The evacuation of one unit (R255): frames still to move with the FTE read in step 1, the copy in progress with its target DPA
frame and the rows already moved, the current target pair, and the counts. -/
structure Evac where
  unit : Nat
  todo : List (Nat × Word)
  copy : Option (Nat × Word × Nat)
  rows : Nat
  pair : Option Nat
  moved : Nat
  left : Nat
  deriving DecidableEq, Repr

/-- A ring (channel and SID): units waiting to evacuate and the evacuation in progress (R257). -/
structure Ring where
  queue : List Nat
  cur : Option Evac
  deriving DecidableEq, Repr

/-! ## Faults -/

/-- A detected fault: its row of Table 13.2, the function ID, and a unit, bank or word it concerns. -/
structure Flt where
  row : Nat
  fid : Nat
  arg : Nat
  deriving DecidableEq, Repr

/-- An entry of the rehydration list (R392): TVA frame, the old FTE, the FTE phase 1 wrote. -/
structure Rehyd where
  frame : Nat
  old : Word
  now : Word
  deriving DecidableEq, Repr

/-- A request held while a die cache is under per-function reset (R312): a host read or write of a line, or a peer's flit at a port. -/
inductive HomeHeld where
  | read (dpa : Nat)
  | write (dpa : Nat) (ws : List WUpd)
  | flit (p : Nat) (i : Instr)
  deriving DecidableEq, Repr

/-- Faults, fencing and recovery (chapter 13): fenced functions, FRST and FRST_STAT, the request held outside steps, what a die
cache's reset holds, the faults of the recovery in progress, FLT_STAT, rehydration, headroom taken, and the end of service. -/
structure Faults where
  fenced : List Nat
  busy : Option (Nat × Bool)
  held : Option (Nat × Bool)
  result : Nat
  last : Nat
  resetting : List Nat
  homeHeld : List HomeHeld
  pend : List Flt
  fltFid : Nat
  fltClass : Nat
  fltStep : Nat
  watchdog : Bool
  replayMax : Bool
  rehyd : List Rehyd
  rehydMoved : Nat
  rehydLeft : Nat
  pairOf : List (Nat × Nat)
  taken : List Nat
  ended : Bool
  broken : Nat
  deriving DecidableEq, Repr

/-! ## Host port, peers, security, dormant state -/

/-- An event entry (Table 14.7) not yet written to host memory. -/
structure Event where
  ty : Nat
  count : Nat
  fid : Nat
  d0 : Nat
  d1 : Nat
  us : Nat
  deriving DecidableEq, Repr

/-- An HDM decoder (R405). -/
structure Hdm where
  committed : Bool
  err : Bool
  base : Nat
  size : Nat
  skip : Nat
  deriving DecidableEq, Repr

/-- The host port's configuration space (R401): Command, D3hot, MSI-X enable and function mask, payload and read-request codes, the BAR
assignments, and the status of AER and of the CXL RAS capability. -/
structure CfgSpace where
  command : Nat
  d3 : Bool
  msixOn : Bool
  msixMask : Bool
  payload : Nat
  readReq : Nat
  bar0 : Nat
  bar2 : Nat
  bar4 : Nat
  aerUnc : Nat
  aerCor : Nat
  rasUnc : Nat
  rasCor : Nat
  deriving DecidableEq, Repr

/-- What the module sends to the host: answers, posted writes, interrupts, data objects. -/
inductive HostMsg where
  | cfgRetry
  | cfgOk
  | cfgData (value : Nat)
  | unsupported
  | memData (dpa : Nat) (words : List Word) (poison : Bool)
  | cmp (dpa : Nat)
  | write (addr : Nat) (words : List Word)
  | msix (vec : Nat)
  | regData (offset : Nat) (value : Nat)
  | barData (bar offset : Nat) (data : List Byte)
  | doe (data : List Byte)
  deriving DecidableEq, Repr

/-- The host port (chapter 14): its link, configuration space, launch status, event queue (eqGroup: entries written since the last vector 0)
and pending store, completion record, decoders, MSI-X, and what it has sent. -/
structure HostPort where
  link : LinkState
  width : Nat
  rate : Nat
  degraded : Bool
  complLost : Bool
  launchStat : Nat
  eqProd : Nat
  eqPhase : Bool
  eqCons : Nat
  eqGroup : Bool
  pend : List Event
  merged : Option Event
  compl : List Word
  hdm0 : Hdm
  hdm1 : Hdm
  cs : CfgSpace
  msix : AMap Word
  pba : AMap Nat
  msgWaiting : Bool
  out : List HostMsg
  deriving DecidableEq, Repr

/-- A peer flit sent or held for sending (Table 14.10). -/
inductive Flit where
  | idle
  | req (vc : Nat) (b : ReqBody)
  | rsp (b : RspBody)
  | data (vc : Nat) (b : DataBody)
  | hello (b : HelloBody)
  | retry (seq : Nat)
  | resync (b : ResyncBody)
  deriving DecidableEq, Repr

/-- Peer port states (Table 14.17). -/
inductive PortState where
  | disabled | down | training | up | loop
  deriving DecidableEq, Repr

/-- A peer port (R416 to R422): state, lane mask, the lanes S6 removed, far-end serial, sequence numbers, credits, credits owed, flits held in the receive buffers, replay buffer, flits
waiting for a credit with the port (plus 1) whose receive buffer holds them (0 own), the RETRY run, recent retrains, and what has been sent. -/
structure Port where
  st : PortState
  lanes : Nat
  badLanes : Nat
  far : Nat
  txSeq : Nat
  rxSeq : Nat
  credit : List Nat
  owed : List Nat
  replay : List (Nat × Flit)
  held : List Nat
  waitq : List (Flit × Nat)
  retrySeq : Nat
  retryRun : Nat
  recent : List Nat
  fecRun : Nat
  retrainDue : Bool
  page : Nat
  sent : List (FlitHead × Flit)
  deriving DecidableEq, Repr

/-- A swarm-table entry (R429): the peer's serial, its routes as (port, hops), and whether the handle has been freed since the
last launch. -/
structure Peer where
  serial : Nat
  valid : Bool
  routes : List (Nat × Nat)
  freed : Bool
  deriving DecidableEq, Repr

/-- A PUT this module is the target of (R424): source, tag, the remote descriptor, the port of its REQ, the words still to arrive, the
writes still to be accepted, poison so far, and the STATUS it was refused with (0 none). -/
structure Target where
  src : Nat
  tag : Nat
  desc : List Word
  port : Nat
  got : List Nat
  waiting : Nat
  poison : Bool
  refused : Nat
  deriving DecidableEq, Repr

/-- A DATA flit of a PUT that arrived before its REQ: port, VC, body. -/
structure Early where
  port : Nat
  vc : Nat
  body : DataBody
  deriving DecidableEq, Repr

/-- Peer-side state of the module. -/
structure Swarm where
  peers : AMap Peer
  fullSeen : Bool
  targets : List Target
  early : List Early
  rtOcc : AMap Nat
  deriving DecidableEq, Repr

/-- A die-to-die link: 0 UP, 1 RETRAINING, 2 FENCED (Table 14.18), modules in use. -/
structure D2d where
  st : Nat
  modules : Nat
  deriving DecidableEq, Repr

/-- The fuses and the one-time-programmable array (R469, Table 16.2, 16.3). -/
structure Fuses where
  serial : Nat
  vendorKh : BitVec 256
  ownerKh : BitVec 256
  sv : Nat
  epoch : Nat
  devSecret : BitVec 256
  identity : AMap Byte
  deriving DecidableEq, Repr

/-- Attestation and security commands (chapter 16). -/
structure Sec where
  next : Nat
  jfail : Bool
  closed : Bool
  jseq : Nat
  jpos : Nat
  busy : Nat
  svOld : Nat
  result : Nat
  deriving DecidableEq, Repr

/-- The dormant state (Table 15.8) and the requests held until wake (R463). -/
inductive DormState where
  | active | entering | dormant | waking
  deriving DecidableEq, Repr

structure Dormant where
  st : DormState
  lastWake : Nat
  held : List Instr
  scrubStopped : Bool
  deriving DecidableEq, Repr

/-- The state of the module. pending is the queue of commands waiting, first in, first out; freeCtr is the model's own counter, which
free values are applied to. -/
structure State where
  pins : Pins
  boot : Boot
  nor : Nor
  mgmt : Mgmt
  hk : Hk
  stk : AMap Stack
  cfg : Cfg
  seqs : AMap Seq
  prog : Prog
  cores : AMap Core
  clusters : AMap Cluster
  dram : AMap Codeword
  ctls : AMap Ctl
  dies : AMap BaseDie
  homeOut : AMap (List Req)
  heldWrites : List HeldWrite
  units : AMap CUnit
  rings : AMap Ring
  flt : Faults
  host : HostPort
  ports : AMap Port
  swarm : Swarm
  d2d : AMap D2d
  fuses : Fuses
  sec : Sec
  dorm : Dormant
  regs : AMap Word
  cnt : AMap Word
  cntLatch : AMap Nat
  novf : Nat
  firstOvf : Nat
  unlocked : List Nat
  expResult : Nat
  expLast : Nat
  ledg : AMap Nat
  ledgAudit : AMap Nat
  auditStep : Nat
  freeCtr : Nat
  pending : List Instr
  deriving DecidableEq, Repr

/-! ## Initial values -/

/-- The pins with 54 V not yet applied: pull-ups and pull-downs of Table 1.2 and 1.4 give the levels. -/
def Pins.init : Pins :=
  { perst := false, mrst := true, mhold := true, bscan := false, pprsnt := 0xFF, wake := false, thermtrip := false,
    inputOn := false, aonOn := false, rails := 0, holdUp := false, corePll := 0, unclean := false }

def Boot.init : Boot :=
  { st := .off, slot := 0, fallback := false, failA := 0, failB := 0, failMod := 0, startUs := 0, cands := [],
    headersRead := false, imgBuf := [], imgLen := 0, imgMeas := 0, imgValid := false, s6Done := false, fences := [],
    thermRestart := false }

def Nor.init : Nor :=
  { mem := [], busy := none, queue := [], timedOut := false, buf := [], fatalQ := [], fatalSeq := 0, fatalPos := 0 }

def Mgmt.init : Mgmt := { alert := 0, status := 0, resp := [] }

/-- Level 15 until the first use ends (R64). -/
def Hk.init : Hk :=
  { round := 0, sensors := [], invalidRun := [], failed := 0, failDue := 0, hot := 0, shutDue := none, coolRounds := 0,
    shutdown := false, level := 15, down := 0, sinceS7 := 0, power := 0, stepDownDue := false, firstUseDue := false,
    hiArmed := true, maxRun := 0, maxEvt := 0, thermSlot := 0, thermValid := false, thermReading := 0, thermCount := 0 }

/-- Multiplier 4 on every stack at S7 (Table 2.10). -/
def Stack.init : Stack :=
  { mult := 4, act := 0, temp := 0, quarters := 0, below := 0, stepDue := false, first := true }

/-- The values with no image loaded: every optional section at its default (Table 2.6), required ones empty. -/
def Cfg.init : Cfg :=
  { secver := 0, seq := 0, owner := false, ownerKey := [], rails := [], pllLock := 0, delay := [], linkDelay := [],
    regions := [], cmask := [], bmask := [], fbmask := [], frmask := 0, frameBase := 0,
    refresh := { fixedMode := false, fixed := 1, t2 := 85, t4 := 95, a2 := 256, a4 := 0xFFFF, hold := 8, post := 1 },
    smoker := { budget := 2600, band1 := 50, band2 := 150, band3 := 300, hyst := 100, down := 4 },
    peer := { enable := 0xFF, maxHops := 4, helloMs := 1, swarmId := 0, xferTo := 10 },
    hostId := { vid := 0, did := 0, ssvid := 0, ssid := 0, revid := 0, cls := 0, maxW := 0, maxS := 0 },
    liveMask := BitVec.allOnes 2048, maxCores := 0, allow := 0x07FF,
    scrub := { periodN := 24, periodF := 24, enable := 3 },
    timers := { dormant := 5000, pd := 20, diag := 50, panicPct := 75 } }

def Snapshot.init : Snapshot := { pc := .all 0, sx := [], mb := [], lcnt := .all [], wcnt := [] }

def Seq.init : Seq :=
  { st := .idle, cause := 0, infoStream := 0, infoCode := 0, infoPc := 0, pc := .all 0, slot := .all 0,
    wait := .all .none, sx := [], sxUndo := .all [], mb := [], mbEmpty := 0, lcnt := .all [], lcntUndo := .all [],
    wcnt := [], snap := .init, pm := [], shadow := [], pmPending := 0, dirty := 0, meas := [], log := 0 }

def Prog.init : Prog :=
  { admitted := 0, live := 0, step := 0, inStep := false, attempts := 0, sx12 := 0, sx13 := 0, sx15 := 0, launchNo := 0,
    norec := false, nomsi := false, vec := 0, caddr := 0, halt := none, stepSat := 0, stepFlush := 0,
    launchSat := 0, launchFlush := 0, mbEmptySeen := false, contribs := [], nextQid := 0 }

def Lane.init : Lane := { count := 0, status := 0, placed := 0, consumed := 0, retired := 0 }

def IdxStream.init : IdxStream :=
  { bound := false, handle := 0, desc := [], idxDesc := [], lc := [], levels := 0, total := 0, ahead := 0, drawn := 0,
    sub := 0, vals := [], stopped := false }

def CmvRec.init : CmvRec := { left := 0, status := 0, sat := 0, flush := 0, spans := [] }

def Xfer.init : Xfer :=
  { active := false, qid := 0, op := 0, vc := 0, peer := 0, desc := [], len := 0, data := [], places := [], space := 0, width := 1,
    got := [], rsp := 0 }

def Core.init : Core :=
  { q := .all [], ax := .all [], axUndo := .all [], desc := [], descUndo := .all [], poisoned := [], lanes := [],
    tokstat := 0, store := [], batt := [], acc := [], kind0 := .none, kind1 := .none, rank := 0, liveCopy := 0,
    streams := [], slots := 0, cmvs := [], mvq := [], undisp := [], drains := [], waitq := [], xfers := [], posted := [], lastSat := .all 0, lastFlush := .all 0,
    stepSat := 0, stepFlush := 0, lastVe := 0 }

def Cluster.init : Cluster := { store := [], gated := false }

def Freeze.init : Freeze :=
  { multi := false, cause := 0, req := 0, dpa := 0, cw := 0, synd := 0, wq := 0, bq := 0, cmds := [], repaired := false }

def Ctl.init : Ctl :=
  { st := .run, q := [], inflight := [], openRow := [], idleRow := [], debt := [], debtMax := 0, pd := 0, pdDue := 0, sr := 0,
    wck := 0, perBank := [],
    lost := [], ueRows := [], rot := 0, colRot := 0, wrDir := false, batch := 0, select := [], brk := [], cmds := [],
    frz := .init, scrubPos := 0, mr4 := 1, seq := 0 }

def Line.init : Line := { words := [], dirty := false }

def BaseDie.init : BaseDie := { lines := [], ftc := [], inbox := [], dups := [] }

def CUnit.init : CUnit :=
  { st := .service, cause := 0, window := [], limitDue := false, faultDue := 0, mr := [], latch := [], se8 := [],
    part := [], acc := [], pois := 0, satm := 0, flushm := 0, ce := 0, ue := 0, res := 0, mixed := false, cur := none,
    seq := [], waiting := [], running := false, ran := false, inPhase := false, owed := 0, stat := [], mixNext := false,
    rowsSince := [] }

def Ring.init : Ring := { queue := [], cur := none }

def Faults.init : Faults :=
  { fenced := [], busy := none, held := none, result := 0, last := 0, resetting := [], homeHeld := [], pend := [], fltFid := 0,
    fltClass := 0, fltStep := 0, watchdog := false, replayMax := false, rehyd := [], rehydMoved := 0, rehydLeft := 0,
    pairOf := [], taken := [], ended := false, broken := 0 }

def Hdm.init : Hdm := { committed := false, err := false, base := 0, size := 0, skip := 0 }

/-- D0, MSI-X disabled, 128-byte payloads and 512-byte read requests: the reset values of PCIe (PRESUMED). -/
def CfgSpace.init : CfgSpace :=
  { command := 0, d3 := false, msixOn := false, msixMask := false, payload := 0, readReq := 2, bar0 := 0, bar2 := 0, bar4 := 0,
    aerUnc := 0, aerCor := 0, rasUnc := 0, rasCor := 0 }

def HostPort.init : HostPort :=
  { link := .down, width := 0, rate := 0, degraded := false, complLost := false, launchStat := 0, eqProd := 0,
    eqPhase := false, eqCons := 0, eqGroup := false, cs := .init, pend := [], merged := none, compl := List.replicate 8 0, hdm0 := .init, hdm1 := .init,
    msix := [], pba := [], msgWaiting := false, out := [] }

def Port.init : Port :=
  { st := .down, lanes := 0, badLanes := 0, far := 0, txSeq := 0, rxSeq := 0, credit := [0, 0, 0], owed := [0, 0, 0], held := [0, 0, 0], replay := [],
    waitq := [], retrySeq := 0, retryRun := 0, recent := [], fecRun := 0, retrainDue := false, page := 0, sent := [] }

def Peer.init : Peer := { serial := 0, valid := false, routes := [], freed := false }

def Swarm.init : Swarm := { peers := [], fullSeen := false, targets := [], early := [], rtOcc := [] }

def D2d.init : D2d := { st := 0, modules := 4 }

def Fuses.init : Fuses :=
  { serial := 0, vendorKh := 0, ownerKh := 0, sv := 0, epoch := 0, devSecret := 0, identity := [] }

def Sec.init : Sec :=
  { next := 0, jfail := false, closed := false, jseq := 0, jpos := 0, busy := 0, svOld := 0, result := 0 }

def Dormant.init : Dormant := { st := .active, lastWake := 0, held := [], scrubStopped := false }

/-- The module as it leaves the factory and before 54 V is first applied: no rail is on, START_STATUS reads nothing, every
memory is as S5 leaves it and the NOR is erased. INPUT_ON then begins start-up (R35). -/
def State.reset : State :=
  { pins := .init, boot := .init, nor := .init, mgmt := .init, hk := .init, stk := [], cfg := .init, seqs := [],
    prog := .init, cores := [], clusters := [], dram := [], ctls := [], dies := [], homeOut := [], heldWrites := [],
    units := [], rings := [], flt := .init, host := .init, ports := [], swarm := .init, d2d := [], fuses := .init,
    sec := .init, dorm := .init, regs := [], cnt := [], cntLatch := [], novf := 0, firstOvf := 0, unlocked := [],
    expResult := 0, expLast := 0, ledg := [], ledgAudit := [], auditStep := 0, freeCtr := 0, pending := [] }

/-! ## Stops -/

/-- Faults: none is a fault of the hardware; each is a stop of the model, safe. -/
inductive Fault where
  /-- Raised by the CXL.mem commands when no committed HDM decoder covers the address, or it is not the address of a
  64-B line: no requester reaches such an address (R289), so the spec gives it no meaning. Safe. -/
  | noDecoder
  deriving DecidableEq, Repr

/-- Refusals. -/
inductive Refusal where
  /-- Raised by exec's arm of a command that has no meaning yet. Safe. -/
  | notModelled (mnemonic : String)
  deriving DecidableEq, Repr

/-- The answer of a step. -/
abbrev Out := Host.Outcome State Fault Refusal

end Sys2Proof.Machine
end

