-- ==== Sys2Proof/Machine/Registers.lean ====
section
/-! DEFINITION. The register map of BAR 0 (R493): blocks, the masks of each register's RW, EXP, W1C and WO bits, the function that
owns its EXP fields, and the value each stored register has when nothing has been written to it. -/

namespace Sys2Proof.Machine

/-- The blocks of Table 17.5; die blocks split into their four parts. -/
inductive Block where
  | glb | hk | sec | ledg | seq (d : Nat) | face (d : Nat) | clu (g : Nat) | core (g : Nat) | ctl (n : Nat) | comb (n : Nat)
  | peer (p : Nat) | host | d2d (l : Nat) | map | frame | none
  deriving DecidableEq, Repr

/-- The block of a BAR 0 offset and the offset within it. DESIGN CHOICE: Table 14.14 would put LPG_ERR 248 to 255 of a 4 KiB block (a DCH, DCF
or D2D) at offsets that Table 17.5 gives to the next block; each offset is the register of the block Table 17.5 places there, so those
LPG_ERR cannot be read. -/
def blockAt (off : Nat) : Block × Nat :=
  if off < 0x100000 then (.glb, off)
  else if off < 0x200000 then (.hk, off - 0x100000)
  else if off < 0x300000 then (.sec, off - 0x200000)
  else if off < 0x400000 then (.ledg, off - 0x300000)
  else if off < 0x1400000 then
    let d := (off - 0x400000) / 0x400000
    let r := (off - 0x400000) % 0x400000
    if r < 0x8000 then (.seq d, r)
    else if r < 0x10000 then (.face d, r - 0x8000)
    else if r < 0x20000 then (.clu (d * 16 + (r - 0x10000) / 0x1000), r % 0x1000)
    else if 0x100000 ≤ r ∧ r < 0x180000 then (.core (d * 512 + (r - 0x100000) / 0x400), r % 0x400)
    else (.none, 0)
  else if off < 0x1510000 then (.ctl ((off - 0x1400000) / 0x1000), off % 0x1000)
  else if 0x1600000 ≤ off ∧ off < 0x1700000 then (.comb ((off - 0x1600000) / 0x1000), off % 0x1000)
  else if 0x1700000 ≤ off ∧ off < 0x1780000 then (.peer ((off - 0x1700000) / 0x10000), off % 0x10000)
  else if 0x1780000 ≤ off ∧ off < 0x1790000 then (.host, off - 0x1780000)
  else if 0x1790000 ≤ off ∧ off < 0x1794000 then (.d2d ((off - 0x1790000) / 0x1000), off % 0x1000)
  else if 0x17A0000 ≤ off ∧ off < 0x17B0000 then (.map, off - 0x17A0000)
  else if 0x17B0000 ≤ off ∧ off < 0x17C0000 then (.frame, off - 0x17B0000)
  else (.none, 0)

/-- Base offset of the SEQ block of die d (R108). -/
def seqOff (d : Nat) : Nat := 0x400000 + d * 0x400000
/-- Base offset of the CORE block of global core g (R171). -/
def coreOff (g : Nat) : Nat := seqOff (g / 512) + 0x100000 + (g % 512) * 0x400
/-- Base offset of the CLU block of global cluster g. -/
def cluOff (g : Nat) : Nat := seqOff (g / 16) + 0x10000 + (g % 16) * 0x1000
/-- Base offset of the block of a controller: DCH n is n, DCF n is 256 + n (R354). -/
def ctlOff (c : Nat) : Nat := 0x1400000 + c * 0x1000
/-- Base offset of COMB block n (R260). -/
def combOff (n : Nat) : Nat := 0x1600000 + n * 0x1000
/-- Base offset of PEER block p (R439). -/
def peerOff (p : Nat) : Nat := 0x1700000 + p * 0x10000
/-- Base offset of the HOSTPORT block (R438). -/
def hostOff : Nat := 0x1780000
/-- Base offset of D2D block l (R440). -/
def d2dOff (l : Nat) : Nat := 0x1790000 + l * 0x1000
/-- Base offset of the FRAME block (R323). -/
def frameOff : Nat := 0x17B0000
/-- Base offset of the LEDG block (R400). -/
def ledgOff : Nat := 0x300000
/-- Base offset of the HK block (R467). -/
def hkOff : Nat := 0x100000

/-- The function ID of a controller (Table 13.1). -/
def ctlFid (c : Nat) : Nat := if c < 256 then 0x4000 + c else 0x6000 + (c - 256)

/-- The function that owns a block, 0 where none does (R487, Table 17.5). -/
def blockFid : Block → Nat
  | .seq d => 0x3000 + d | .face d => 0x3000 + d | .clu g => 0x2000 + g | .core g => 0x1000 + g | .ctl n => ctlFid n
  | .comb n => 0x5000 + n | .peer p => 0x7000 + p | .host => 0xA000 | .d2d l => 0x8000 + l
  | _ => 0

/-- The function that owns the EXP fields at an offset (Table 17.5): the die caches own theirs of the FRAME block. -/
def expOwner (off : Nat) : Nat :=
  match blockAt off with
  | (.frame, r) => 0x9000 + (r - 0x280) / 0x20
  | (b, _) => blockFid b

/-- A mask of the bits [hi:lo]. -/
def maskOf (hi lo : Nat) : Nat := (2 ^ (hi + 1 - lo) - 1) <<< lo

/-- The bits of a register by access: RW, EXP, W1C, WO. -/
structure RegDesc where
  rw : Nat
  exp : Nat
  w1c : Nat
  wo : Nat
  deriving DecidableEq, Repr

def RegDesc.ro : RegDesc := ⟨0, 0, 0, 0⟩
def RegDesc.ofExp (m : Nat) : RegDesc := ⟨0, m, 0, 0⟩
def RegDesc.ofRw (m : Nat) : RegDesc := ⟨m, 0, 0, 0⟩
def RegDesc.ofWo (m : Nat) : RegDesc := ⟨0, 0, 0, m⟩

/-- All 64 bits. -/
def allBits : Nat := 2 ^ 64 - 1

/-- The EXP bits of an LPG register (Table 14.14), at its offset from +0x800. -/
def lpgDesc (r : Nat) : RegDesc :=
  if r = 0 then .ofExp (maskOf 4 0) else if r = 8 then .ofExp allBits else if r = 0x10 then .ofExp (maskOf 47 0)
  else if 0x18 ≤ r ∧ r ≤ 0x30 then .ofExp allBits else .ro

/-- The assigned bits of delay word r (offset within the stage or live copy) of a controller (R347, Table 11.8). -/
def delayMask (dcf : Bool) (r : Nat) : Nat :=
  let dq := 0x7F7F7F7F7F7F7F7F
  if r ≤ 0x98 then dq
  else if dcf then
    if r ≤ 0xA8 then dq else if r = 0xB0 then maskOf 31 0 &&& dq
    else if r ≤ 0xE0 then dq else if r = 0xE8 then maskOf 15 0 &&& dq
    else if r = 0xF0 then maskOf 39 0 else if r = 0xF8 then maskOf 15 0 else 0
  else
    if r = 0xA0 then dq else if r = 0xA8 then maskOf 15 0 &&& dq
    else if r ≤ 0xB8 then dq else if r = 0xC0 then maskOf 39 0 &&& dq
    else if r = 0xC8 then maskOf 39 0 else if r = 0xD0 then maskOf 15 0 else 0

/-- The SFLIP registers (Table 12.10) at their offset from SFLIP_LO of a CORE or CLU block. -/
def sflipDesc (r : Nat) : RegDesc :=
  if r = 0 then .ofExp allBits else if r = 8 then .ofExp (maskOf 15 0)
  else if r = 0x10 then ⟨0, maskOf 3 0 ||| maskOf 31 8, maskOf 4 4, 0⟩ else .ro

/-- The access of each register of BAR 0 that a write can act on; every other register is RO or IMG. -/
def regDesc (off : Nat) : RegDesc :=
  match blockAt off with
  | (.glb, r) =>
    if r = 0x180 then ⟨maskOf 47 0, 0, 0, maskOf 63 63⟩
    else if r = 0x200 then .ofWo (maskOf 16 0)
    else if 0x300 ≤ r ∧ r ≤ 0x378 then .ofRw allBits
    else if r = 0x600 then .ofWo (maskOf 32 0)
    else if r = 0x700 then ⟨0, 0, 3, 0⟩ else .ro
  | (.hk, r) => if r = 0x18 then .ofExp (maskOf 49 0) else if r = 0x20 then .ofExp (maskOf 4 0) else .ro
  | (.sec, r) => if r = 0x10 then .ofWo (maskOf 3 0 ||| maskOf 63 32) else .ro
  | (.ledg, r) => if r = 0x18 then .ofRw (maskOf 31 0) else .ro
  | (.face _, r) => if 0x800 ≤ r then lpgDesc (r - 0x800) else .ro
  | (.clu _, r) => if 0x810 ≤ r then sflipDesc (r - 0x810) else .ro
  | (.core _, r) => if 0x220 ≤ r then sflipDesc (r - 0x220) else .ro
  | (.ctl n, r) =>
    if r = 0x008 then .ofExp (maskOf 4 0 ||| maskOf 15 8 ||| maskOf 27 16)
    else if r = 0x010 then .ofExp (maskOf 39 0)
    else if r = 0x108 then .ofWo 1
    else if r = 0x380 then .ofExp allBits
    else if r = 0x388 then .ofExp (maskOf 15 0)
    else if r = 0x390 then ⟨0, maskOf 0 0 ||| maskOf 40 3, maskOf 1 1, 0⟩
    else if 0x500 ≤ r ∧ r ≤ 0x5F8 then .ofExp (delayMask (n ≥ 256) (r - 0x500))
    else if r = 0x700 then (if n < 256 then .ofExp (maskOf 3 0) else .ro)
    else if 0x800 ≤ r then lpgDesc (r - 0x800) else .ro
  | (.comb _, r) => if r = 0x018 then .ofExp (maskOf 3 0 ||| maskOf 31 16) else .ro
  | (.peer _, r) => if 0x800 ≤ r ∧ r < 0x1100 then lpgDesc (r - 0x800) else .ro
  | (.host, r) =>
    if r = 0x008 then .ofRw (maskOf 63 12) else if r = 0x010 then .ofRw (maskOf 4 0)
    else if 0x800 ≤ r ∧ r < 0x1100 then lpgDesc (r - 0x800) else .ro
  | (.d2d _, r) => if 0x800 ≤ r then lpgDesc (r - 0x800) else .ro
  | (.frame, r) =>
    if 0x280 ≤ r ∧ r < 0x300 then
      let q := (r - 0x280) % 0x20
      if q = 0 then .ofExp allBits else if q = 8 then .ofExp (maskOf 15 0)
      else if q = 0x10 then ⟨0, maskOf 1 0 ||| maskOf 40 3, maskOf 2 2, 0⟩ else .ro
    else .ro
  | _ => .ro

/-- SMK_TABLE as the SMOKER section gives it (Table 15.11). -/
def smkTableOf (c : SmokerCfg) : Nat :=
  c.band1 ||| (c.band2 <<< 11) ||| (c.band3 <<< 22) ||| (c.hyst <<< 33) ||| (c.down <<< 43)

/-- The value after start of an LPG register. -/
def lpgDefault (r : Nat) : Word :=
  if r = 0x10 then 10000000 else if 0x18 ≤ r ∧ r ≤ 0x30 then BitVec.allOnes 64 else 0

/-- The value a stored register has until it is written: its After start column, or the image's (R500). -/
def regDefault (cfg : Cfg) (off : Nat) : Word :=
  match blockAt off with
  | (.hk, r) => if r = 0x18 then BitVec.ofNat 64 (smkTableOf cfg.smoker) else 0
  | (.ledg, r) => if r = 0x18 then 1000 else 0
  | (.ctl n, r) =>
    if r = 0x008 then 0x01006010
    else if 0x400 ≤ r ∧ r ≤ 0x4F8 then AMap.get 0 cfg.delay off
    else if 0x500 ≤ r ∧ r ≤ 0x5F8 then AMap.get 0 cfg.delay (off - 0x100)
    else if r = 0x700 then (if n < 256 then BitVec.ofNat 64 cfg.refresh.post else 0)
    else if 0x800 ≤ r then lpgDefault (r - 0x800) else 0
  | (.comb _, r) => if r = 0x018 then 0x04000003 else 0
  | (.face _, r) => if 0x800 ≤ r then lpgDefault (r - 0x800) else 0
  | (.peer _, r) => if 0x800 ≤ r ∧ r < 0x1100 then lpgDefault (r - 0x800) else 0
  | (.host, r) => if 0x800 ≤ r ∧ r < 0x1100 then lpgDefault (r - 0x800) else 0
  | (.d2d _, r) => if 0x800 ≤ r then lpgDefault (r - 0x800) else 0
  | _ => 0

/-- A stored register. -/
def State.reg (s : State) (off : Nat) : Word := AMap.get (regDefault s.cfg off) s.regs off

/-- Set a stored register. -/
def State.setReg (s : State) (off : Nat) (v : Word) : State :=
  { s with regs := AMap.set (regDefault s.cfg off) s.regs off v }

/-- Return the EXP fields of a function to their image values (R10, R500); what else shares a register with them, such as DONE, stays. -/
def State.revertExp (s : State) (fid : Nat) : State :=
  (s.regs.filter fun e => expOwner e.1 == fid).foldl (fun s e =>
    let m := BitVec.ofNat 64 (regDesc e.1).exp
    s.setReg e.1 ((e.2 &&& ~~~m) ||| (regDefault s.cfg e.1 &&& m))) s

end Sys2Proof.Machine
end

