-- ==== Sys2Proof/Machine/Ops.lean ====
section
/-! DEFINITION. The operations every family shares: units of the state by number, event counters (R484 to R487), ledgers (R396),
events (R412 to R414), halts (R103 to R107), faults, exposed latencies (R86), core SRAMs (R368, R380) and token lanes (R163 to R170). -/

namespace Sys2Proof.Machine

/-! ## Units by number -/

def State.seq (s : State) (d : Nat) : Seq := AMap.get .init s.seqs d
def State.setSeq (s : State) (d : Nat) (q : Seq) : State := { s with seqs := AMap.set .init s.seqs d q }
def State.core (s : State) (g : Nat) : Core := AMap.get .init s.cores g
def State.setCore (s : State) (g : Nat) (c : Core) : State := { s with cores := AMap.set .init s.cores g c }
def State.cluster (s : State) (g : Nat) : Cluster := AMap.get .init s.clusters g
def State.setCluster (s : State) (g : Nat) (c : Cluster) : State := { s with clusters := AMap.set .init s.clusters g c }
def State.ctl (s : State) (n : Nat) : Ctl := AMap.get .init s.ctls n
def State.setCtl (s : State) (n : Nat) (c : Ctl) : State := { s with ctls := AMap.set .init s.ctls n c }
def State.die (s : State) (d : Nat) : BaseDie := AMap.get .init s.dies d
def State.setDie (s : State) (d : Nat) (b : BaseDie) : State := { s with dies := AMap.set .init s.dies d b }
def State.cunit (s : State) (u : Nat) : CUnit := AMap.get .init s.units u
def State.setUnit (s : State) (u : Nat) (c : CUnit) : State := { s with units := AMap.set .init s.units u c }
def State.ring (s : State) (r : Nat) : Ring := AMap.get { queue := [], cur := none } s.rings r
def State.setRing (s : State) (r : Nat) (v : Ring) : State := { s with rings := AMap.set { queue := [], cur := none } s.rings r v }
def State.port (s : State) (p : Nat) : Port := AMap.get .init s.ports p
def State.setPort (s : State) (p : Nat) (v : Port) : State := { s with ports := AMap.set .init s.ports p v }
def State.link (s : State) (l : Nat) : D2d := AMap.get .init s.d2d l
def State.setLink (s : State) (l : Nat) (v : D2d) : State := { s with d2d := AMap.set .init s.d2d l v }
def State.stack (s : State) (k : Nat) : Stack := AMap.get .init s.stk k
def State.setStack (s : State) (k : Nat) (v : Stack) : State := { s with stk := AMap.set .init s.stk k v }

/-- Change one part of the state. -/
def State.onBoot (s : State) (f : Boot → Boot) : State := { s with boot := f s.boot }
def State.onPins (s : State) (f : Pins → Pins) : State := { s with pins := f s.pins }
def State.onHk (s : State) (f : Hk → Hk) : State := { s with hk := f s.hk }
def State.onFlt (s : State) (f : Faults → Faults) : State := { s with flt := f s.flt }
def State.onProg (s : State) (f : Prog → Prog) : State := { s with prog := f s.prog }
def State.onHost (s : State) (f : HostPort → HostPort) : State := { s with host := f s.host }
def State.onSec (s : State) (f : Sec → Sec) : State := { s with sec := f s.sec }
def State.onNor (s : State) (f : Nor → Nor) : State := { s with nor := f s.nor }
def State.onDorm (s : State) (f : Dormant → Dormant) : State := { s with dorm := f s.dorm }
def State.onSwarm (s : State) (f : Swarm → Swarm) : State := { s with swarm := f s.swarm }

/-- Apply f for each number of a list in order. -/
def overList (xs : List Nat) (f : Nat → State → State) (s : State) : State := xs.foldl (fun s x => f x s) s

/-- The four compute dies. -/
def fourDies : List Nat := [0, 1, 2, 3]

/-- A function is fenced. -/
def State.isFenced (s : State) (fid : Nat) : Bool := s.flt.fenced.contains fid
/-- A core has no part in service: it, its cluster or its die is fenced. -/
def State.coreDown (s : State) (g : Nat) : Bool :=
  s.isFenced (0x1000 + g) || s.isFenced (0x2000 + g / 32) || s.isFenced (0x3000 + g / 512)
/-- A core takes part in the program: it is in the live mask and not fenced since (R381, R383). -/
def State.isLive (s : State) (g : Nat) : Bool := s.prog.live.getLsbD g && !s.coreDown g
/-- A die cache is under per-function reset: what would pass it waits (R312). -/
def State.cacheReset (s : State) : Bool := s.flt.resetting.any fun f => f / 0x1000 == 9
/-- The live cores in ascending global number. -/
def State.liveCores (s : State) : List Nat := (List.range 2048).filter s.isLive
/-- The live cores of die d. -/
def State.liveOf (s : State) (d : Nat) : List Nat := ((List.range 512).map (d * 512 + ·)).filter s.isLive
/-- Die d's sequencer is not parked. -/
def State.unparked (s : State) (d : Nat) : Bool := (s.seq d).st != .parked
/-- The sequencers that are not parked. -/
def State.activeSeqs (s : State) : List Nat := fourDies.filter s.unparked
/-- Some sequencer is in one of RUN, DRAIN and REPLAY. -/
def State.busy (s : State) : Bool :=
  fourDies.any fun d => match (s.seq d).st with | .run | .drain | .replay => true | _ => false
/-- Some sequencer runs. -/
def State.running (s : State) : Bool := fourDies.any fun d => (s.seq d).st == .run

/-- A function's unlock closes when its per-function reset or fence begins (R496). -/
def State.closeUnlock (s : State) (fid : Nat) : State := { s with unlocked := s.unlocked.filter (· != fid) }

/-! ## Free values -/

/-- A fresh free time of n bits, and the state that has used it. -/
def State.freshTime (s : State) (n : Nat) : Nat × State :=
  ((Config.freeTime s.freeCtr).toNat % 2 ^ n, { s with freeCtr := s.freeCtr + 1 })

/-! ## Ledgers (Table 13.6) -/

/-- Add n to count j (0 IN, 1 OUT, 2 ALT, 3 HELD) of ledger k. -/
def State.ledgAdd (s : State) (k j n : Nat) : State := { s with ledg := AMap.upd 0 s.ledg (4 * k + j) (· + n) }
/-- Take n from HELD of ledger k. -/
def State.ledgTake (s : State) (k n : Nat) : State := { s with ledg := AMap.upd 0 s.ledg (4 * k + 3) (· - n) }
/-- n come in: IN and HELD rise. -/
def State.ledgIn (s : State) (k n : Nat) : State := (s.ledgAdd k 0 n).ledgAdd k 3 n
/-- n go out. -/
def State.ledgOut (s : State) (k n : Nat) : State := (s.ledgAdd k 1 n).ledgTake k n
/-- n leave the other way. -/
def State.ledgAlt (s : State) (k n : Nat) : State := (s.ledgAdd k 2 n).ledgTake k n
/-- A count of a ledger. -/
def State.ledgGet (s : State) (k j : Nat) : Nat := AMap.get 0 s.ledg (4 * k + j)

/-! ## Events (R412 to R414) -/

/-- Add an occurrence to the pending store: 4,095 entries, then merging (R414). -/
def mergeEvent (h : HostPort) (e : Event) : HostPort :=
  if h.pend.length < 4095 then { h with pend := h.pend ++ [e] }
  else
    match h.pend.reverse.findIdx? (fun x => x.ty == e.ty && x.fid == e.fid) with
    | some i =>
      let j := h.pend.length - 1 - i
      match h.pend[j]? with
      | some x =>
        if x.count < 65535 then { h with pend := h.pend.set j { x with count := x.count + 1 } }
        else { h with merged := some (match h.merged with
          | some m => { m with d0 := m.d0 + 1 } | none => { ty := 0xFF, count := 1, fid := 0, d0 := 1, d1 := 0, us := e.us }) }
      | none => h
    | none => { h with merged := some (match h.merged with
        | some m => { m with d0 := m.d0 + 1 } | none => { ty := 0xFF, count := 1, fid := 0, d0 := 1, d1 := 0, us := e.us }) }

/-- Raise an event: it waits in the pending store until it is written to the host's ring; ledger 5 counts it. -/
def State.raise (s : State) (ty fid d0 d1 : Nat) : State :=
  let (us, s) := s.freshTime 48
  let s := s.ledgIn 5 1
  { s with host := mergeEvent s.host { ty := ty, count := 1, fid := fid, d0 := d0, d1 := d1, us := us } }

/-! ## Event counters (R484 to R487) -/

/-- The value of an event counter: EXT and COUNT as one number. -/
def State.counter (s : State) (off : Nat) : Nat := (AMap.get 0 s.cnt off).toNat

/-- EXT and COUNT after k more events: EXT sticks at 0xFFFF. -/
def bumpVal (v k : Nat) : Nat :=
  if bits v 63 48 = 0xFFFF then (0xFFFF <<< 48) ||| ((v + k) % 2 ^ 48)
  else if v + k < 0xFFFF <<< 48 then v + k else (0xFFFF <<< 48) ||| ((v + k) % 2 ^ 48)

/-- Add k events to the counter at a BAR 0 offset; at its overflow set OVF, count it and raise the event (R487). -/
def State.bumpN (s : State) (off k : Nat) : State :=
  let v := s.counter off
  let w := bumpVal v k
  let s := { s with cnt := AMap.set 0 s.cnt off (BitVec.ofNat 64 w) }
  if bits v 63 48 ≠ 0xFFFF ∧ bits w 63 48 = 0xFFFF then
    let s := s.setReg 0x700 (s.reg 0x700 ||| 1)
    let s := { s with firstOvf := if s.novf = 0 then off else s.firstOvf, novf := min (s.novf + 1) 0xFFFF }
    s.raise 0x000E (blockFid (blockAt off).1) off 0
  else s

/-- Add one event. -/
def State.bump (s : State) (off : Nat) : State := s.bumpN off 1

/-! ## Halts (R104 to R106) -/

/-- The causes that flush every queue: all but the step limit, HALT and the reset of a sequencer. -/
def isErrorHalt (cause : Nat) : Bool := cause == 3 || cause == 4 || cause == 5 || cause == 6 || cause == 8

/-- The queues, outstanding tiles and transfers of a core given up; its lanes and SRAMs are untouched. -/
def Core.flush (c : Core) : Core :=
  { c with q := .all [], cmvs := [], mvq := [], undisp := [], drains := [], waitq := [], xfers := [], streams := [], slots := 0 }

/-- Abandon the tiles of a comb unit: the one in progress at its segment boundary, those waiting at once. -/
def CUnit.dropTiles (u : CUnit) : CUnit :=
  { u with cur := none, seq := [], waiting := [], running := false, ran := false, inPhase := false, owed := 0,
           mixNext := false, rowsSince := [] }

/-- Drop the prefetches waiting at a home whose core satisfies p (R320). -/
def BaseDie.dropPrefetch (p : Nat → Bool) (b : BaseDie) : BaseDie :=
  { b with inbox := b.inbox.filter fun r => match r.why with | .prefetch g _ => !p g }

/-- Flush every queue of the module (R105): flushed instructions consume no token and post none; their slots are returned. -/
def State.flushAll (s : State) : State :=
  let held := AMap.sum (fun c => c.slots) s.cores
  let s := { s with cores := AMap.mapVals .init Core.flush s.cores, units := AMap.mapVals .init CUnit.dropTiles s.units,
                    dies := AMap.mapVals .init (BaseDie.dropPrefetch fun _ => true) s.dies,
                    prog := { s.prog with contribs := [] } }
  s.ledgOut 2 held

/-- Sequencers of a state that runs go to DRAIN. -/
def Seq.drain (q : Seq) : Seq :=
  if q.st = .run ∨ q.st = .replay then { q with st := .drain } else q

/-- Begin a halt: every sequencer that runs stops fetching, an error halt flushes every queue, and the cause with the highest
code is kept (R104 to R106). -/
def State.beginHalt (s : State) (cause stream pc code : Nat) : State :=
  let h := match s.prog.halt with
    | some h => if h.cause < cause then { cause := cause, stream := stream, pc := pc, code := code } else h
    | none => { cause := cause, stream := stream, pc := pc, code := code }
  let s := { s with prog := { s.prog with halt := some h },
                    seqs := AMap.mapVals .init Seq.drain s.seqs }
  if isErrorHalt cause then s.flushAll else s

/-! ## Faults (R384, R387, R390, R96) -/

/-- A sequencer that runs goes to REPLAY. -/
def Seq.toReplay (q : Seq) : Seq := if q.st = .run then { q with st := .replay } else q

/-! ## Leaving the dormant entry (R343, R462) -/

/-- A controller leaves self-refresh or gives up entering it: the SIDs or ranks it has entered still take their SRX (R343). -/
def Ctl.exitSr (c : Ctl) : Ctl :=
  match c.st with
  | .entering => { c with st := .run }
  | .selfRefresh => { c with st := .run }
  | _ => c

/-- The core PLLs that run outside the dormant state: those of dies neither parked nor fenced (R447). -/
def State.pllMask (s : State) : Nat :=
  fourDies.foldl (fun m d => if s.unparked d && !s.isFenced (0x3000 + d) then m ||| (1 <<< d) else m) 0

/-- Undo an entry in progress (Table 15.8). -/
def State.cancelEntry (s : State) : State :=
  if s.dorm.st = .entering then
    ({ s with dorm := { s.dorm with st := .active, scrubStopped := false }, ctls := AMap.mapVals .init Ctl.exitSr s.ctls,
              pins := { s.pins with corePll := s.pllMask } }).bump (hkOff + 0x40)
  else s

/-! ## Faults -/

/-- A fault is detected: it is recorded for recovery, a step in progress stops for replay (R387), and a program outside a step, running or
already halting, halts with it (R96, R106). -/
def State.fault (s : State) (row fid arg : Nat) : State :=
  let s := s.cancelEntry
  let s := { s with flt := { s.flt with pend := s.flt.pend ++ [Flt.mk row fid arg] } }
  if s.running then
    if s.prog.inStep then
      { s with seqs := AMap.mapVals .init Seq.toReplay s.seqs }
    else s.beginHalt 8 0 0 0
  else if s.prog.halt.isSome ∧ s.prog.inStep = false then s.beginHalt 8 0 0 0
  else s

/-! ## Exposed latencies (R86) -/

/-- The value a stream at slot q sees: what the oldest of its own recent writes, not yet visible, replaced; else the current one. -/
def undoView {α : Type} (us : List (Undo α)) (lat q key : Nat) (cur : α) : α :=
  match us.find? (fun u => u.key == key && decide (q < u.slot + lat)) with
  | some u => u.old
  | none => cur

/-- Record what a write at slot q replaced, dropping records no later slot can need. -/
def undoPush {α : Type} (us : List (Undo α)) (lat q key : Nat) (old : α) : List (Undo α) :=
  us.filter (fun u => decide (q < u.slot + lat)) ++ [{ slot := q, key := key, old := old }]

/-- AX k of stream e as an instruction at slot q reads it; AX31 is the rank (R80). -/
def Core.axView (c : Core) (e : Eng) (q k : Nat) : Nat :=
  if k = 31 then c.rank
  else (undoView (c.axUndo.get e) 3 q k (AMap.get 0 (c.ax.get e) k)).toNat

/-- Write AX k of stream e at slot q; AX31 is read-only. -/
def Core.axWrite (c : Core) (e : Eng) (q k v : Nat) : Core :=
  if k = 31 then c
  else
    { c with ax := c.ax.set e (AMap.set 0 (c.ax.get e) k (BitVec.ofNat 48 v)),
             axUndo := c.axUndo.set e (undoPush (c.axUndo.get e) 3 q k (AMap.get 0 (c.ax.get e) k)) }

/-- LCNT l of a stream as an instruction at slot q reads it. -/
def Seq.lcntView (x : Seq) (e : Eng) (q l : Nat) : Nat :=
  undoView (x.lcntUndo.get e) 4 q l (AMap.get 0 (x.lcnt.get e) l)

/-- SX12 to SX15 as the module keeps them (Table 3.1): live clusters, comb units in service, the step, live cores. -/
def Prog.preset (p : Prog) (k : Nat) : Word :=
  if k = 12 then BitVec.ofNat 64 p.sx12 else if k = 13 then BitVec.ofNat 64 p.sx13 else if k = 14 then p.step else BitVec.ofNat 64 p.sx15

/-- SX k as stream e reads it at slot q: its own writes wait four slots, other streams' are seen as they stand (R77). -/
def Seq.sxView (x : Seq) (p : Prog) (e : Eng) (q k : Nat) : Word :=
  if 12 ≤ k then p.preset k else undoView (x.sxUndo.get e) 4 q k (AMap.get 0 x.sx k)

/-! ## Core SRAMs (R366, R368, R380) -/

/-- The SRAM targets of a core (Table 12.10): 0 core store, 1 batts, 2 descriptor table, 3 accumulators. -/
def Core.sram (c : Core) (tgt : Nat) : AMap Codeword :=
  match tgt with | 1 => c.batt | 2 => c.desc | 3 => c.acc | _ => c.store

def Core.setSram (c : Core) (tgt : Nat) (m : AMap Codeword) : Core :=
  match tgt with | 1 => { c with batt := m } | 2 => { c with desc := m } | 3 => { c with acc := m } | _ => { c with store := m }

/-- Apply an SFLIP mask, whose registers stand at base, to a codeword written to word idx of a target (R380). -/
def State.sflip (s : State) (base tgt idx : Nat) (anyTgt : Bool) (cw : Codeword) : Codeword × State :=
  let lo := s.reg base
  let hi := s.reg (base + 8)
  let ct := (s.reg (base + 0x10)).toNat
  let t := if bits ct 2 0 ≥ 5 then 0 else bits ct 2 0
  if (lo = 0 ∧ hi = 0) ∨ ¬(anyTgt ∨ t = tgt) ∨ (bitOf ct 3 ∧ bits ct 31 8 ≠ idx) then (cw, s)
  else
    let m : Codeword := BitVec.ofNat 80 (lo.toNat ||| (hi.toNat <<< 64))
    (cw ^^^ m, ((s.setReg base 0).setReg (base + 8) 0).setReg (base + 0x10) (s.reg (base + 0x10) ||| 0x10))

/-- Store a codeword in a core SRAM. -/
def State.coreStore (s : State) (g tgt idx : Nat) (cw : Codeword) : State :=
  let (cw, s) := s.sflip (coreOff g + 0x220) tgt idx false cw
  let c := s.core g
  s.setCore g (c.setSram tgt (AMap.set zeroCw (c.sram tgt) idx cw))

/-- Count what decoding an SRAM word of a core found on a read (R368, R377): an uncorrectable one is a core fault and an event. -/
def State.coreEcc (s : State) (g loc : Nat) (o : Decoded) : State :=
  match o.cls with
  | .clean => s
  | .corrected _ => s.bump (coreOff g + 0x200)
  | .uncorrectable => ((s.bump (coreOff g + 0x208)).raise 4 (0x1000 + g) loc (o.synd ||| (1 <<< 16))).fault 1 (0x1000 + g) 0

/-- Read a word of a core SRAM: data and poison; a correctable codeword is rewritten. -/
def State.coreRead (s : State) (g tgt idx : Nat) : (Word × Bool) × State :=
  let o := decode (AMap.get zeroCw ((s.core g).sram tgt) idx)
  let s := s.coreEcc g idx o
  match o.cls with
  | .corrected _ => ((o.d, o.p), s.coreStore g tgt idx (encode o.d o.p))
  | _ => ((o.d, o.p), s)

/-- Write the masked bits of a word of a core SRAM with a poison bit (Table 12.3): no fault is declared. -/
def State.coreWrite (s : State) (g tgt idx : Nat) (d mask : Word) (p : Bool) : State :=
  let (cw, o) := rmw (AMap.get zeroCw ((s.core g).sram tgt) idx) d mask p
  let s := match o with
    | some o => match o.cls with
      | .clean => s
      | .corrected _ => s.bump (coreOff g + 0x200)
      | .uncorrectable => (s.bump (coreOff g + 0x208)).raise 4 (0x1000 + g) idx (o.synd ||| (2 <<< 16))
    | none => s
  s.coreStore g tgt idx cw

/-- The cluster of a core (R2). -/
def clusterOf (g : Nat) : Nat := g / 32

/-- Store a codeword in a cluster store. -/
def State.clusterStore (s : State) (k idx : Nat) (cw : Codeword) : State :=
  let (cw, s) := s.sflip (cluOff k + 0x810) 0 idx true cw
  let c := s.cluster k
  s.setCluster k { c with store := AMap.set zeroCw c.store idx cw }

/-- Read a word of a cluster store; an uncorrectable one is a cluster fault. -/
def State.clusterRead (s : State) (k idx : Nat) : (Word × Bool) × State :=
  let o := decode (AMap.get zeroCw (s.cluster k).store idx)
  match o.cls with
  | .clean => ((o.d, o.p), s)
  | .corrected _ => ((o.d, o.p), (s.bump (cluOff k + 0x800)).clusterStore k idx (encode o.d o.p))
  | .uncorrectable =>
    ((o.d, o.p), ((s.bump (cluOff k + 0x808)).raise 4 (0x2000 + k) idx (o.synd ||| (1 <<< 16))).fault 2 (0x2000 + k) 0)

/-- Write the masked bits of a word of a cluster store. -/
def State.clusterWrite (s : State) (k idx : Nat) (d mask : Word) (p : Bool) : State :=
  let (cw, o) := rmw (AMap.get zeroCw (s.cluster k).store idx) d mask p
  let s := match o with
    | some o => match o.cls with
      | .clean => s
      | .corrected _ => s.bump (cluOff k + 0x800)
      | .uncorrectable => (s.bump (cluOff k + 0x808)).raise 4 (0x2000 + k) idx (o.synd ||| (2 <<< 16))
    | none => s
  s.clusterStore k idx cw

/-! ## Descriptor table (R149, R363) -/

/-- The words of a descriptor as codewords, by handle. -/
def Core.descWords (c : Core) (h : Nat) : List Codeword := (List.range 16).map fun i => AMap.get zeroCw c.desc (h * 16 + i)

/-- The codewords and the poison mark of handle h as an instruction of stream e at slot q sees them (R133). -/
def Core.descSeen (c : Core) (e : Eng) (q h : Nat) : List Codeword × Nat :=
  undoView (c.descUndo.get e) 6 q h (c.descWords h, AMap.get 0 c.poisoned h)

/-- The codewords of handle h as an instruction of stream e at slot q sees them. -/
def Core.descView (c : Core) (e : Eng) (q h : Nat) : List Codeword := (c.descSeen e q h).1

/-- An instruction of stream e at slot q sees handle h marked poisoned: the mark holds the DSET fields written since, plus one bit
above them (R363). -/
def Core.isPoisoned (c : Core) (e : Eng) (q h : Nat) : Bool := (c.descSeen e q h).2 != 0

/-- Record that handle h is written at slot q. -/
def Core.descMark (c : Core) (e : Eng) (q h : Nat) : Core :=
  { c with descUndo := c.descUndo.set e (undoPush (c.descUndo.get e) 6 q h (c.descWords h, AMap.get 0 c.poisoned h)) }

/-! ## Token lanes (R163 to R170) -/

def Core.lane (c : Core) (t : Nat) : Lane := AMap.get .init c.lanes t
def Core.setLane (c : Core) (t : Nat) (l : Lane) : Core := { c with lanes := AMap.set .init c.lanes t l }

/-- Place a token with status st on lane t of core g: the lane's count is below 63. -/
def State.placeToken (s : State) (g t st : Nat) : State :=
  let c := s.core g
  let l := c.lane t
  (s.setCore g (c.setLane t { l with count := l.count + 1, status := l.status ||| st, placed := l.placed + 1 })).ledgIn 1 1

/-- Consume a token of lane t: the lane's status is received, TOKSTAT gathers it, and the status clears with the last token. -/
def State.consumeToken (s : State) (g t : Nat) : Nat × State :=
  let c := s.core g
  let l := c.lane t
  let n := l.count - 1
  let c := { c.setLane t { l with count := n, status := if n = 0 then 0 else l.status, consumed := l.consumed + 1 } with
             tokstat := c.tokstat ||| l.status }
  (l.status, (s.setCore g c).ledgOut 1 1)

/-- Retire every token of a core: counts to 0, statuses cleared. -/
def State.retireLanes (s : State) (g : Nat) : State :=
  let c := s.core g
  let n := AMap.sum (fun l => l.count) c.lanes
  let ls := AMap.mapVals .init (fun l => { l with count := 0, status := 0, retired := l.retired + l.count }) c.lanes
  (s.setCore g { c with lanes := ls }).ledgAlt 1 n

/-- Unbind the index streams of a core and return its slots (R320). -/
def State.unbindStreams (s : State) (g : Nat) : State :=
  let c := s.core g
  let s := { s with dies := AMap.mapVals .init (BaseDie.dropPrefetch (· == g)) s.dies }
  (s.setCore g { c with streams := [], slots := 0 }).ledgOut 2 c.slots

/-! ## Live mask (R80, R130, R107) -/

/-- The counts a live mask gives: live cores, live clusters, live dies. -/
def liveCounts (live : BitVec 2048) : Nat × Nat × Nat :=
  (((List.range 2048).filter live.getLsbD).length,
   ((List.range 64).filter fun k => (List.range 32).any fun i => live.getLsbD (k * 32 + i)).length,
   ((List.range 4).filter fun d => (List.range 512).any fun i => live.getLsbD (d * 512 + i)).length)

/-- Comb units in SERVICE. -/
def State.serviceUnits (s : State) : Nat :=
  12288 - (s.units.filter fun e => e.2.st != .service).length

/-- The number of live cores below g. -/
def rankOf (live : BitVec 2048) (g : Nat) : Nat := ((List.range g).filter live.getLsbD).length

/-- SX12, SX13 and SX15 are preset from the live mask and the comb units in service (R107). -/
def State.presetCounts (s : State) : State :=
  let (n, k, _) := liveCounts s.prog.live
  s.onProg fun p => { p with sx12 := k, sx13 := s.serviceUnits, sx15 := n }

/-- The live mask takes effect: ranks and LIVE of the live cores, and dies without a live core park. -/
def State.applyLive (s : State) : State :=
  let live := s.prog.live
  let (n, _, _) := liveCounts live
  let s := overList ((List.range 2048).filter live.getLsbD) (fun g s =>
    let c := s.core g
    s.setCore g { c with rank := rankOf live g, liveCopy := n }) s
  let s := overList fourDies (fun d s => if s.liveOf d = [] then s.setSeq d { s.seq d with st := .parked } else s) s
  s.onPins fun p => { p with corePll := p.corePll &&& s.pllMask }

end Sys2Proof.Machine
end

