-- ==== Sys2Proof/Machine/Descr.lean ====
section
/-! DEFINITION. Tensor descriptors: their fields, element addresses, spans and the validity rules of Table 5.3 (R150 to R161). -/

namespace Sys2Proof.Machine

/-- A descriptor's fields (Table 5.1); rsv tells that a reserved bit is 1. -/
structure Desc where
  base : Nat
  space : Nat
  fmt : Nat
  rank : Nat
  scalemode : Nat
  role : Nat
  attr : Nat
  scaleh : Nat
  indexh : Nat
  maskh : Nat
  sizes : List Nat
  strides : List Int
  incs : List Int
  rsv : Bool
  deriving DecidableEq, Repr

/-- The fields of 16 descriptor words. -/
def descOf (ws : List Nat) : Desc :=
  let w := fun i => ws.getD i 0
  let half := fun i => bits (w (i / 2)) (if i % 2 = 0 then 31 else 63) (if i % 2 = 0 then 0 else 32)
  { base := bits (w 0) 47 0, space := bits (w 1) 1 0, fmt := bits (w 1) 5 2, rank := bits (w 1) 8 6, scalemode := bits (w 1) 10 9,
    role := bits (w 1) 12 11, attr := bits (w 1) 15 13, scaleh := bits (w 1) 31 24, indexh := bits (w 1) 39 32,
    maskh := bits (w 1) 47 40,
    sizes := (List.range 5).map fun d => half (4 + d) % 2 ^ 24,
    strides := (List.range 5).map fun d => sext 40 (w (5 + d)),
    incs := (List.range 4).map fun l => sext 32 (half (20 + l)),
    rsv := bits (w 0) 63 48 != 0 || bits (w 1) 23 16 != 0 || bits (w 1) 63 48 != 0
      || (List.range 5).any (fun d => bits (half (4 + d)) 31 24 != 0) || half 9 != 0
      || (List.range 5).any (fun d => bits (w (5 + d)) 63 40 != 0)
      || (List.range 4).any (fun i => w (12 + i) != 0) }

/-- Where a DSET field lies (Table 4.9, Table 5.1): word, lowest bit, width. -/
def fieldPlace (f : Nat) : Nat × Nat × Nat :=
  if f = 0 then (0, 0, 48)
  else if f ≤ 5 then (2 + (f - 1) / 2, 32 * ((f - 1) % 2), 24)
  else if f ≤ 0xA then (f - 1, 0, 40)
  else if f ≤ 0xE then (10 + (f - 0xB) / 2, 32 * ((f - 0xB) % 2), 32)
  else if f = 0xF then (1, 2, 4) else if f = 0x10 then (1, 6, 3) else if f = 0x11 then (1, 0, 2) else if f = 0x12 then (1, 9, 2)
  else if f = 0x13 then (1, 24, 8) else if f = 0x14 then (1, 32, 8) else if f = 0x15 then (1, 40, 8) else if f = 0x16 then (1, 11, 2)
  else (1, 13, 3)

/-- Spaces (Table 5.2). -/
def spCS : Nat := 0
def spCL : Nat := 1
def spTVA : Nat := 2
def spBT : Nat := 3

/-- Sizes of the dimensions in use. -/
def Desc.used (d : Desc) : List Nat := d.sizes.take d.rank
/-- Strides of the dimensions in use. -/
def Desc.usedStr (d : Desc) : List Int := d.strides.take d.rank

/-- The product of sizes. -/
def product' (ns : List Nat) : Nat := ns.foldl (· * ·) 1

/-- The index tuples of sizes in linear order, i0 fastest. -/
def tuples : List Nat → List (List Nat)
  | [] => [[]]
  | n :: ns => (tuples ns).flatMap fun t => (List.range n).map (· :: t)

/-- Σ xᵢ·yᵢ of the shorter length. -/
def dotInt (xs : List Nat) (ys : List Int) : Int := (xs.zip ys).foldl (fun a p => a + Int.ofNat p.1 * p.2) 0

/-- The byte base of an iteration (R83, R152). -/
def Desc.baseAt (d : Desc) (js : List Nat) : Int := Int.ofNat d.base + dotInt js d.incs

/-- The bit address of the element at an index tuple of an iteration (R152). -/
def Desc.bitAt (d : Desc) (js ix : List Nat) : Int := 8 * d.baseAt js + Int.ofNat (fmtWidth d.fmt) * dotInt ix d.usedStr

/-- The lowest and highest bit addresses of an iteration: of a descriptor with elements. -/
def Desc.span (d : Desc) (js : List Nat) : Int × Int :=
  let ext := (d.used.zip d.usedStr).map fun p => Int.ofNat (p.1 - 1) * p.2
  let lo := ext.foldl (fun a e => a + min e 0) 0
  let hi := ext.foldl (fun a e => a + max e 0) 0
  let w := Int.ofNat (fmtWidth d.fmt)
  (8 * d.baseAt js + w * lo, 8 * d.baseAt js + w * hi + w - 1)

/-- A span lies within its space's extent (Table 5.4). -/
def inExtent (space : Nat) (sp : Int × Int) : Bool :=
  match space with
  | 0 => decide (0 ≤ sp.1 ∧ sp.2 < 8 * 2 ^ 20)
  | 1 => decide (0 ≤ sp.1 ∧ sp.2 < 8 * 2 ^ 24)
  | 2 => decide (0 ≤ sp.1 ∧ sp.2 < 8 * 2 ^ 41)
  | _ => decide (0 ≤ sp.1 ∧ sp.2 < 8 * 2 ^ 18 ∧ sp.1 / (8 * 2 ^ 16) = sp.2 / (8 * 2 ^ 16))

/-- The iterations of loop counts, i0 fastest (R83); none where a count is 0 (R84). -/
def iterations (lc : List Nat) : List (List Nat) := tuples lc

/-- The rows of Table 5.3 that one descriptor meets by itself: reserved bits, codes, alignment, extent, destination. -/
def Desc.ok (d : Desc) (write : Bool) (its : List (List Nat)) : Bool :=
  !d.rsv && 1 ≤ d.rank && d.rank ≤ 5 && d.fmt < 0xC && d.scalemode != 3 && d.role != 3
  && its.all (fun js =>
      (fmtWidth d.fmt ≤ 8 || d.baseAt js % Int.ofNat (fmtWidth d.fmt / 8) == 0)
      && (product' d.used == 0 || inExtent d.space (d.span js)))
  && (!write || (bits d.attr 2 2 == 0 && (d.used.zip d.usedStr).all fun p => p.1 ≤ 1 || p.2 != 0))

/-- An operand: its descriptor and those it links. -/
structure Opnd where
  h : Nat
  d : Desc
  idx : Option Desc
  scale : Option Desc
  mask : Option Desc
  deriving DecidableEq, Repr

/-- The effective sizes (R157): along an indexed dimension, the index descriptor's. -/
def Opnd.shape (o : Opnd) : List Nat :=
  match o.idx with
  | some x => o.d.used.take (o.d.rank - 1) ++ [x.sizes.getD 0 0]
  | none => o.d.used

/-- Number of elements of an operand. -/
def Opnd.count (o : Opnd) : Nat := product' o.shape

/-- The operand of a handle, through a reading of descriptors. -/
def opndOf (get : Nat → Desc) (h : Nat) : Opnd :=
  let d := get h
  { h := h, d := d, idx := if d.indexh = 0 then none else some (get d.indexh),
    scale := if d.scaleh = 0 then none else some (get d.scaleh), mask := if d.maskh = 0 then none else some (get d.maskh) }

/-- A linked descriptor links nothing. -/
def Desc.plain (d : Desc) : Bool := d.scaleh == 0 && d.indexh == 0 && d.maskh == 0

/-- The block length of SCALEMODE. -/
def blockLen (m : Nat) : Nat := if m = 1 then 16 else 32

/-- Scale sizes (R158, R207): along r they are the operand's effective sizes divided by B, elsewhere equal; where the instruction names no reduction
dimension, along some one dimension. -/
def scaleSizesOk (b : Nat) (r : Option Nat) (os ss : List Nat) : Bool :=
  let at' := fun k => (List.range os.length).all fun i =>
    let o := os.getD i 0
    let q := ss.getD i 0
    if i = k then o % b == 0 && q * b == o else o == q
  match r with
  | some k => at' k
  | none => (List.range os.length).any at'

/-- Links (R157 to R159). -/
def Opnd.linksOk (o : Opnd) (r : Option Nat) (its : List (List Nat)) : Bool :=
  (match o.idx with
    | some x => x.ok false its && x.rank == 1 && (x.fmt == 8 || x.fmt == 9) && x.scalemode == 0 && x.plain
    | none => true)
  && (match o.scale with
    | some x => o.d.scalemode != 0 && x.ok false its && x.fmt == 0xA && x.rank == o.d.rank && x.scalemode == 0 && x.plain
        && scaleSizesOk (blockLen o.d.scalemode) r o.shape x.used
    | none => o.d.scalemode == 0)
  && (match o.mask with
    | some x => x.ok false its && x.fmt == 0xB && x.rank == o.d.rank && x.scalemode == 0 && x.plain && x.used == o.shape
    | none => true)

/-- An operand's descriptors are valid, but for the Instruction row of Table 5.3. -/
def Opnd.ok (o : Opnd) (write : Bool) (r : Option Nat) (its : List (List Nat)) : Bool := o.d.ok write its && o.linksOk r its

/-- The handles an operand names, links included. -/
def Opnd.handles (o : Opnd) : List Nat := [o.h, o.d.scaleh, o.d.indexh, o.d.maskh].filter (· != 0)

/-- Two operands describe exactly the same elements (R221). -/
def Desc.same (a b : Desc) : Bool :=
  a.space == b.space && a.base == b.base && a.fmt == b.fmt && a.rank == b.rank && a.used == b.used && a.usedStr == b.usedStr

/-- Two operands' spans meet in some iteration. -/
def spansMeet (a b : Desc) (its : List (List Nat)) : Bool :=
  a.space == b.space && product' a.used != 0 && product' b.used != 0
  && its.any fun js => let x := a.span js; let y := b.span js; decide (x.1 ≤ y.2 ∧ y.1 ≤ x.2)

end Sys2Proof.Machine
end

