-- ==== Sys2Proof/Machine/Flags.lean ====
section
/-! DEFINITION. What instructions report: the status bits of tokens (Table 5.7, R167), the SAT and FLUSH counts (R202), and the result an
engine operation hands to the completion. -/

namespace Sys2Proof.Machine

def stPOISON : Nat := 1
def stMIXED : Nat := 2
def stEMPTY : Nat := 4
def stVOID : Nat := 8

/-- A status bit where b holds. -/
def statusIf (b : Bool) (st : Nat) : Nat := if b then st else 0

/-- What an instruction reports: status, counts, and whether work of it is still outstanding. -/
structure Res where
  status : Nat
  sat : Nat
  flush : Nat
  running : Bool
  deriving DecidableEq, Repr

def Res.nothing : Res := ⟨0, 0, 0, false⟩
def Res.poison : Res := ⟨1, 0, 0, false⟩

/-- Count an element's events: at most once in each (R202). -/
def Res.count (r : Res) (e : Ev) : Res := { r with sat := r.sat + b2n e.sat, flush := r.flush + b2n e.flush }
/-- Add status bits. -/
def Res.flag (r : Res) (st : Nat) : Res := { r with status := r.status ||| st }

/-- Add counts to a core's step totals while a step is in progress, else to the launch totals (R490); they saturate (R491). -/
def satTotal (a b : Nat) : Nat × Bool := if a + b ≥ 2 ^ 64 then (2 ^ 64 - 1, true) else (a + b, false)

/-- CNT_OVF.TOTALS is set where a total saturated. -/
def State.totalsFlag (s : State) (b : Bool) : State := if b then s.setReg 0x700 (s.reg 0x700 ||| 2) else s

/-- Add to the launch totals. -/
def State.addLaunch (s : State) (sat flush : Nat) : State :=
  let a := satTotal s.prog.launchSat sat
  let b := satTotal s.prog.launchFlush flush
  { s with prog := { s.prog with launchSat := a.1, launchFlush := b.1 } }.totalsFlag (a.2 || b.2)

/-- Record the counts of an instruction that engine e of core g completes (R489, R490). -/
def State.recordOp (s : State) (g : Nat) (e : Eng) (sat flush : Nat) : State :=
  let c := s.core g
  let c := { c with lastSat := c.lastSat.set e (sat % 2 ^ 48), lastFlush := c.lastFlush.set e (flush % 2 ^ 48) }
  if s.prog.inStep then
    let a := satTotal c.stepSat sat
    let b := satTotal c.stepFlush flush
    (s.setCore g { c with stepSat := a.1, stepFlush := b.1 }).totalsFlag (a.2 || b.2)
  else (s.setCore g c).addLaunch sat flush

end Sys2Proof.Machine
end

