-- ==== Sys2Proof/Machine/Memory.lean ====
section
/-! DEFINITION. Memory: how DPAs decode (R289 to R293, R327, R328), the controllers' acceptance of requests (R331 to R334, R350), DRAM
words with their codewords, the home die caches (R306 to R309) and frame translation (R298 to R304). -/

namespace Sys2Proof.Machine

/-! ## Address decoding -/

/-- Where an address lies: controller, bank (32·SID + b, or 16·rank + b), row and burst of the row. -/
structure Place where
  ctl : Nat
  bank : Nat
  row : Nat
  col : Nat
  deriving DecidableEq, Repr

/-- Entry r of the region table. -/
def regionAt (cfg : Cfg) (r : Nat) : Region := cfg.regions.getD r ⟨0, 0, false, 0⟩

/-- The number whose bit j is parity(o AND mask j) (R327, R328). -/
def hashBits (o : Nat) : List Nat → Nat
  | [] => 0
  | m :: ms => b2n (parity 35 (o &&& m)) + 2 * hashBits o ms

/-- A tier-N address. -/
def inTierN (dpa : Nat) : Bool := dpa < 0xC000000000
/-- A tier-F address. -/
def inTierF (dpa : Nat) : Bool := 0x10000000000 ≤ dpa && dpa < 0x18000000000

/-- The region of a tier-N address. -/
def regionOfDpa (cfg : Cfg) (dpa : Nat) : Region := regionAt cfg (bits dpa 39 35)

/-- The place of an address; none where no memory lies (Table 10.1). -/
def placeOf (cfg : Cfg) (dpa : Nat) : Option Place :=
  let o := dpa % 2 ^ 35
  if inTierN dpa then
    let g := regionOfDpa cfg dpa
    if g.comb then
      some { ctl := 32 * g.stack + bits o 34 30, bank := 32 * g.sid + bits o 29 25, row := bits o 24 10, col := bits o 9 7 }
    else
      some { ctl := 32 * g.stack + hashBits o cfg.cmask, bank := 32 * g.sid + hashBits o cfg.bmask, row := bits o 34 20,
             col := bits o 14 12 }
  else if inTierF dpa then
    some { ctl := 256 + bits dpa 38 35, bank := 16 * b2n (parity 35 (o &&& cfg.frmask)) + hashBits o cfg.fbmask,
           row := bits o 34 18, col := bits o 12 7 }
  else none

/-- The base die of a controller (Table 0.2). -/
def ctlDie (n : Nat) : Nat := if n < 256 then n / 64 else (n - 256) / 4

/-- An address lies in a comb region. -/
def combAddr (cfg : Cfg) (dpa : Nat) : Bool := inTierN dpa && (regionOfDpa cfg dpa).comb

/-- The base die whose cache is an address's home (R306). -/
def homeOf (cfg : Cfg) (dpa : Nat) : Nat :=
  if inTierF dpa then bits dpa 38 35 / 4 else (regionOfDpa cfg dpa).stack / 2

/-! ## Controllers -/

/-- Controller n is a DCH. -/
def isDch (n : Nat) : Bool := n < 256
/-- Banks of a controller: 32·SID + b, or 16·rank + b. -/
def banksOf (n : Nat) : List Nat := List.range (if isDch n then 96 else 32)
/-- The SID or rank of a bank. -/
def partOf (n bank : Nat) : Nat := if isDch n then bank / 32 else bank / 16
/-- SIDs or ranks of a controller. -/
def partsOf (n : Nat) : List Nat := List.range (if isDch n then 3 else 2)
/-- Banks of a part. -/
def partBanks (n p : Nat) : List Nat := (banksOf n).filter fun b => partOf n b == p

/-- The bits of a mask without bit i. -/
def clearBit (m i : Nat) : Nat := m &&& (allBits ^^^ (1 <<< i))

/-- Controller state: whether requests to a bank of it are performed (R350, R386). -/
def State.serves (s : State) (pl : Place) : Bool :=
  let c := s.ctl pl.ctl
  (c.st == .run || c.st == .entering || c.st == .selfRefresh) && AMap.get 0 c.lost pl.bank == 0

/-- Writes in a controller's queue. -/
def Ctl.writes (c : Ctl) : List Req := (c.q ++ c.inflight).filter fun r => r.ws != []

/-- Entries a controller's bank queues hold (R332): requests queued, and writes whose data is still to be written. -/
def Ctl.entries (c : Ctl) : List Req := c.q ++ c.inflight.filter fun r => r.ws != []

/-- Freeze a controller with its snapshot, which counts the failing read among the bank-queue entries (R349, R350): a second trigger only
sets MULTI. -/
def State.freeze (s : State) (n cause req dpa : Nat) (cw : Codeword) (synd : Nat) : State :=
  let c := s.ctl n
  if c.st = .frozen then s.setCtl n { c with frz := { c.frz with multi := true } }
  else
    let s := s.setCtl n { c with
      st := .frozen,
      frz := { multi := false, cause := cause, req := req, dpa := dpa, cw := cw, synd := synd, wq := c.writes.length,
               bq := c.entries.length + b2n (cause == 1), cmds := c.cmds, repaired := false } }
    (s.raise 3 (ctlFid n) cause dpa).fault 5 (ctlFid n) dpa

/-- Record a row of a bank that met an uncorrectable read, with the round (Table 13.2, bank loss). -/
def Ctl.noteUe (c : Ctl) (bank row round : Nat) : Ctl :=
  let rs := (AMap.get [] c.ueRows bank).filter fun r => r.1 != row && decide (round < r.2 + 1024)
  { c with ueRows := AMap.set [] c.ueRows bank (rs ++ [(row, round)]) }

/-- Count what an ordinary read found in the word at DPA word index w (R361, R377); an uncorrectable one freezes (R349). -/
def State.dramEcc (s : State) (pl : Place) (w src : Nat) (cw : Codeword) (o : Decoded) : State :=
  let b := ctlOff pl.ctl
  let s := match o.cls with
    | .clean => s
    | .corrected k =>
      let s := s.bump (b + 0x600)
      let s := if k = 2 then s.bump (b + 0x608) else s
      (s.setReg (b + 0x640) (BitVec.ofNat 64 (8 * w))).setReg (b + 0x648) (BitVec.ofNat 64 o.synd)
    | .uncorrectable =>
      let s := s.bump (b + 0x610)
      let s := if s.reg (b + 0x650) = 0 then s.setReg (b + 0x650) (BitVec.ofNat 64 (8 * w + 2 ^ 63)) else s
      let s := s.setCtl pl.ctl ((s.ctl pl.ctl).noteUe pl.bank pl.row s.hk.round)
      (s.raise 4 (ctlFid pl.ctl) (8 * w) (o.synd ||| (1 <<< 16))).freeze pl.ctl 1 src (8 * w) cw o.synd
  if o.p && o.cls != .uncorrectable then s.bump (b + 0x618) else s

/-- The writes a controller or its home still holds that touch word w, oldest first. -/
def State.overlay (s : State) (n w : Nat) : List WUpd :=
  let c := s.ctl n
  ((c.inflight ++ c.q ++ AMap.get [] s.homeOut n).flatMap fun r => r.ws).filter fun u => u.w == w

/-- A value with later writes applied. -/
def applyUpds (v : Word × Bool) (us : List WUpd) : Word × Bool :=
  us.foldl (fun v u => if u.mask = fullMask then (u.d, u.p) else (mergeBits v.1 u.d u.mask, v.2 || u.p)) v

/-- A fresh free data word. -/
def State.freshData (s : State) : Word × State := (Config.freeData s.freeCtr, { s with freeCtr := s.freeCtr + 1 })

/-- The codeword a read of word w meets: the stored one, with the writes that arrived before the read performed (R333, R367). -/
def State.metWord (s : State) (n w : Nat) : Codeword :=
  (s.overlay n w).foldl (fun cw u => (rmw cw u.d u.mask u.p).1) (AMap.get zeroCw s.dram w)

/-- A word of memory as an ordinary read of a controller that serves it delivers it, with what is counted. -/
def State.readWord (s : State) (pl : Place) (src w : Nat) : (Word × Bool) × State :=
  let cw := s.metWord pl.ctl w
  let o := decode cw
  ((o.d, o.p), s.dramEcc pl w src cw o)

/-- Store a codeword in DRAM through a controller, whose FLIP mask may strike it (R352). -/
def State.dramStore (s : State) (n w : Nat) (cw : Codeword) : State :=
  let b := ctlOff n
  let lo := s.reg (b + 0x380)
  let hi := s.reg (b + 0x388)
  let ct := (s.reg (b + 0x390)).toNat
  if (lo = 0 ∧ hi = 0) ∨ (bitOf ct 0 ∧ bits ct 40 3 ≠ w) then { s with dram := AMap.set zeroCw s.dram w cw }
  else
    let m : Codeword := BitVec.ofNat 80 (lo.toNat ||| (hi.toNat <<< 64))
    let s := ((s.setReg (b + 0x380) 0).setReg (b + 0x388) 0).setReg (b + 0x390) (s.reg (b + 0x390) ||| 2)
    { s with dram := AMap.set zeroCw s.dram w (cw ^^^ m) }

/-- Perform a write of some bits of a word (Table 12.3), counted in the controller's registers and ledger 4. -/
def State.commitUpd (s : State) (n : Nat) (u : WUpd) : State :=
  let b := ctlOff n
  let (cw, o) := rmw (AMap.get zeroCw s.dram u.w) u.d u.mask u.p
  let pois := cw.getLsbD 64
  let s := match o with
    | none => s
    | some o =>
      let s := match o.cls with
        | .clean => s
        | .corrected k =>
          let s := s.bump (b + 0x600)
          let s := if k = 2 then s.bump (b + 0x608) else s
          (s.setReg (b + 0x640) (BitVec.ofNat 64 (8 * u.w))).setReg (b + 0x648) (BitVec.ofNat 64 o.synd)
        | .uncorrectable =>
          let s := s.bump (b + 0x610)
          let s := if s.reg (b + 0x650) = 0 then s.setReg (b + 0x650) (BitVec.ofNat 64 (8 * u.w + 2 ^ 63)) else s
          s.raise 4 (ctlFid n) (8 * u.w) (o.synd ||| (2 <<< 16))
      if pois then s.bump (b + 0x620) else s
  (if pois then s.ledgAlt 4 1 else s.ledgOut 4 1).dramStore n u.w cw

/-- Entries of a bank's queue that are taken. -/
def Ctl.bankLoad (cfg : Cfg) (c : Ctl) (bank : Nat) : Nat :=
  (c.entries.filter fun r => match placeOf cfg r.dpa with | some p => p.bank == bank | none => false).length

/-- A request of a real-time port. -/
def Req.rt (r : Req) : Bool := r.src / 0x1000 == 8

/-- Whether a controller has entries for a request (R332): 32 per bank; 128 writes, of which the real-time port's fill entries 112 to 127
first and only they take those. -/
def State.hasRoom (s : State) (pl : Place) (r : Req) : Bool :=
  let c := s.ctl pl.ctl
  let ws := c.writes
  let rt := (ws.filter Req.rt).length
  decide (c.bankLoad s.cfg pl.bank < 32) &&
    (r.ws == [] || decide (ws.length < 128 ∧ (r.rt = false → ws.length - rt + (rt - 16) < 112)))

/-- What a controller does with a request that arrives. -/
inductive Verdict where
  | accepted | refused | poisoned | forwarded (vs : List (Word × Bool))
  deriving DecidableEq, Repr

/-- The writes of a controller's write queue to a word, oldest first. -/
def Ctl.writesTo (c : Ctl) (w : Nat) : List WUpd := (c.writes.flatMap fun q => q.ws).filter fun u => u.w == w

/-- The values of words each of whose bytes has its youngest write in the write queue (R334). -/
def Ctl.forward (c : Ctl) (ws : List Nat) : Option (List (Word × Bool)) :=
  if ws.all fun w => (c.writesTo w).foldl (fun m u => m ||| u.mask) 0 == fullMask then
    some (ws.map fun w => applyUpds (0, false) (c.writesTo w))
  else none

/-- Every byte of a read has its youngest write in the write queue (R334). -/
def State.forwardable (s : State) (n : Nat) (r : Req) : Option (List (Word × Bool)) :=
  if r.ws == [] then (s.ctl n).forward ((List.range (r.len / 8)).map (r.dpa / 8 + ·)) else none

/-- Words that a write's words take from scrub write-backs not yet performed (R371). -/
def dropScrub (ws : List WUpd) (q : List Req) : List Req :=
  (q.map fun b => if b.why = .scrubBack then { b with ws := b.ws.filter fun u => !(ws.any fun v => v.w == u.w) } else b).filter
    fun b => !(b.why == .scrubBack && b.ws == [])

/-- A controller meets a request (R331 to R334, R350, R386, R343, R371): a write accepted later than a scrub's read discards the
scrub's write-back of its words. -/
def State.ctlOffer (s : State) (n : Nat) (r : Req) : Verdict × State :=
  match placeOf s.cfg r.dpa with
  | none => (.poisoned, s)
  | some pl =>
    let c := s.ctl n
    if c.st = .reset then (.refused, s)
    else if !s.serves pl then (.poisoned, if r.ws == [] then s else (s.ledgIn 4 r.ws.length).ledgAlt 4 r.ws.length)
    else match s.forwardable n r with
    | some vs => (.forwarded vs, s.bump (ctlOff n + 0x210))
    | none =>
      if s.hasRoom pl r then
        let s := if r.src / 0x1000 = 9 ∧ c.sr = 0 then s else s.cancelEntry
        let s := if r.why = .scrubBack ∨ r.ws = [] then s else
          { s with homeOut := AMap.set [] s.homeOut n (dropScrub r.ws (AMap.get [] s.homeOut n)) }
        let c := s.ctl n
        let q := if r.why = .scrubBack then c.q else dropScrub r.ws c.q
        let s := s.setCtl n { c with q := q ++ [{ r with id := c.seq }], seq := c.seq + 1, pdDue := clearBit c.pdDue (partOf n pl.bank) }
        (.accepted, if r.ws == [] then s else s.ledgIn 4 r.ws.length)
      else (.refused, s.bump (ctlOff n + 0x248))

/-- The home sends a request to a controller: one it refuses is held with later ones of the same source (R332). -/
def State.ctlSubmit (s : State) (n : Nat) (r : Req) : Verdict × State :=
  let held := AMap.get [] s.homeOut n
  if held.any (fun h => h.src == r.src) then (.refused, { s with homeOut := AMap.set [] s.homeOut n (held ++ [r]) })
  else
    match s.ctlOffer n r with
    | (.refused, s) => (.refused, { s with homeOut := AMap.set [] s.homeOut n (held ++ [r]) })
    | v => v

/-! ## Rows and commands -/

/-- Log a command of the row (0) or column (1) bus: its word where the spec gives one, its CK a time (Table 11.11). -/
def State.logCmd (s : State) (n bus : Nat) (word : Option Nat) : State :=
  let (ck, s) := s.freshTime 12
  let (w, s) : Nat × State := match word with
    | some w => (w, s)
    | none => let (d, s) := s.freshData; (d.toNat % 2 ^ 48, s)
  let c := s.ctl n
  s.setCtl n { c with cmds := ((w ||| (bus <<< 48) ||| (ck <<< 52)) :: c.cmds).take 16 }

/-- Close a row. -/
def Ctl.close (c : Ctl) (bank : Nat) : Ctl := { c with openRow := AMap.set 0 c.openRow bank 0, idleRow := AMap.set 0 c.idleRow bank 0 }

/-- PRE: a row closes. -/
def State.closeRow (s : State) (n bank : Nat) : State := (s.setCtl n ((s.ctl n).close bank)).logCmd n 0 none

/-- ACT, or the pair ACT-1 and ACT-2 of tier F (R326): a row opens, counted in ACTS. -/
def State.openRowOf (s : State) (n bank row : Nat) : State :=
  let c := s.ctl n
  let s := ((s.setCtl n { c with openRow := AMap.set 0 c.openRow bank (row + 1) }).bump (ctlOff n + 0x218)).logCmd n 0 none
  if isDch n then s else s.logCmd n 0 none

/-- SRX: a SID or rank leaves self-refresh. -/
def State.exitPart (s : State) (n p : Nat) : State :=
  let c := s.ctl n
  (s.setCtl n { c with sr := clearBit c.sr p }).logCmd n 0 none

/-- MRS, or the MRW of tier F: the mode registers of each SID or rank are written (R325, R326, R351 step 3). -/
def State.modeRegs (s : State) (n : Nat) : State := (partsOf n).foldl (fun s _ => s.logCmd n 0 none) s

/-- PDX: a SID or rank leaves power-down. -/
def State.wakePart (s : State) (n p : Nat) : State :=
  let c := s.ctl n
  (s.setCtl n { c with pd := clearBit c.pd p }).logCmd n 0 none

/-- CAS of tier F before the first column command after WCK has stopped (R326). -/
def State.startWck (s : State) (n p : Nat) : State :=
  let c := s.ctl n
  if isDch n || bitOf c.wck p then s else (s.setCtl n { c with wck := c.wck ||| (1 <<< p) }).logCmd n 1 none

/-- A row with a page hint stays open after a column command (R335, Table 11.13). -/
def State.keepRow (s : State) (n : Nat) (keep : Bool) : Bool :=
  let sched := (s.reg (ctlOff n + 8)).toNat
  if bits sched 25 16 = 0 then false
  else match bits sched 27 26 with | 1 => false | 2 => true | _ => keep

/-- A column command to an open row, with or without the closing of the row: a kept row counts ROWHIT. -/
def State.column (s : State) (n bank : Nat) (keep : Bool) : State :=
  let s := if AMap.get 0 (s.ctl n).idleRow bank != 0 then s.bump (ctlOff n + 0x220) else s
  let s := s.startWck n (partOf n bank)
  let c := s.ctl n
  let c := if s.keepRow n keep then { c with idleRow := AMap.set 0 c.idleRow bank 1 } else c.close bank
  (s.setCtl n c).logCmd n 1 none

/-- A line fill as a request to its controller (R331 to R335, R341): refused while its bank has no entry, completed from the write queue
where that holds all of it, else a read with what its part and its row need. The command that needs the line waits for it, so it takes no
entry that another command could find taken. -/
def State.fillRequest (s : State) (pl : Place) (ws : List Nat) (keep : Bool) : State :=
  let n := pl.ctl
  let s := s.cancelEntry
  match (s.ctl n).forward ws with
  | some _ => s.bump (ctlOff n + 0x210)
  | none =>
    let s := if 32 ≤ (s.ctl n).bankLoad s.cfg pl.bank then s.bump (ctlOff n + 0x248) else s
    let p := partOf n pl.bank
    let s := s.setCtl n { s.ctl n with pdDue := clearBit (s.ctl n).pdDue p }
    let s := if bitOf (s.ctl n).sr p then s.exitPart n p else s
    let s := if bitOf (s.ctl n).pd p then s.wakePart n p else s
    let o := AMap.get 0 (s.ctl n).openRow pl.bank
    let s := if o = pl.row + 1 then s else (if o = 0 then s else s.closeRow n pl.bank).openRowOf n pl.bank pl.row
    (s.column n pl.bank keep).bump (ctlOff n + 0x200)

/-! ## Die caches -/

/-- Apply a die cache's SFLIP mask to line data (TGT 0) or a translation entry (TGT 1) as it is written (R380). -/
def State.dieFlip (s : State) (d tgt w : Nat) (cw : Codeword) : Codeword × State :=
  let b := frameOff + 0x280 + 0x20 * d
  let lo := s.reg b
  let hi := s.reg (b + 8)
  let ct := (s.reg (b + 0x10)).toNat
  if (lo = 0 ∧ hi = 0) ∨ bits ct 0 0 ≠ tgt ∨ (tgt = 0 ∧ bitOf ct 1 ∧ bits ct 40 3 ≠ w) then (cw, s)
  else
    let m : Codeword := BitVec.ofNat 80 (lo.toNat ||| (hi.toNat <<< 64))
    (cw ^^^ m, ((s.setReg b 0).setReg (b + 8) 0).setReg (b + 0x10) (s.reg (b + 0x10) ||| 4))

/-- The line of address 128·la in die cache d, if present. -/
def State.line? (s : State) (d la : Nat) : Option Line :=
  let l := AMap.get Line.init (s.die d).lines la
  if l.words == [] then none else some l

/-- Put a line. -/
def State.putLine (s : State) (d la : Nat) (l : Line) : State :=
  let b := s.die d
  s.setDie d { b with lines := AMap.set Line.init b.lines la l }

/-- Write a line's word as a codeword. -/
def State.lineStore (s : State) (d la i : Nat) (cw : Codeword) (dirty : Bool) : State :=
  match s.line? d la with
  | none => s
  | some l =>
    let (cw, s) := s.dieFlip d 0 (16 * la + i) cw
    s.putLine d la { words := l.words.set i cw, dirty := l.dirty || dirty }

/-- Count what a die cache's word was found to be (R377): an uncorrectable one places an event with its cause. -/
def State.dieEcc (s : State) (d w cause : Nat) (o : Decoded) : State :=
  match o.cls with
  | .clean => s
  | .corrected _ => s.bump (frameOff + 0x200 + 8 * d)
  | .uncorrectable => (s.bump (frameOff + 0x220 + 8 * d)).raise 4 (0x9000 + d) (8 * w) (o.synd ||| (cause <<< 16))

/-- Write back a dirty line: full-word writes by the home (R309, Table 12.4), and leave it clean. -/
def State.writeBack (s : State) (d la : Nat) : State :=
  match s.line? d la with
  | none => s
  | some l =>
    if l.dirty then
      match placeOf s.cfg (128 * la) with
      | none => s
      | some pl =>
        let os := l.words.map decode
        let s := os.zipIdx.foldl (fun s e => s.dieEcc d (16 * la + e.2) 1 e.1) s
        let ws := os.zipIdx.map fun e => ({ w := 16 * la + e.2, mask := fullMask, d := e.1.d, p := e.1.p } : WUpd)
        (s.ctlSubmit pl.ctl { id := 0, src := 0x9000 + d, dpa := 128 * la, len := 128, ws := ws, keep := false, why := .plain }).2.putLine
          d la { l with dirty := false }
    else s

/-- A line enters a die cache of sets of 16 ways (Table 0.2): which addresses share a set, and which of 16 lines gives way to a 17th, the
spec leaves open; the line that gives way is written back when dirty. -/
def State.makeRoom (s : State) (d la : Nat) : State :=
  let ls := (s.die d).lines
  if ls.length < 16 then s
  else
    let same := (ls.map (·.1)).filter fun k => Config.dieSet k == Config.dieSet la
    if same.length < 16 ∨ same.contains la then s
    else
      let (v, s) := s.freshData
      let out := same.getD (v.toNat % same.length) la
      (s.writeBack d out).putLine d out Line.init

/-- Place a line's words as codewords (R380). -/
def State.storeLine (s : State) (d la : Nat) (vs : List (Word × Bool)) : State :=
  let s := s.makeRoom d la
  let go := vs.zipIdx.foldl (fun (acc : List Codeword × State) e =>
    let (cw, s) := acc.2.dieFlip d 0 (16 * la + e.2) (encode e.1.1 e.1.2)
    (acc.1 ++ [cw], s)) ([], s)
  go.2.putLine d la { words := go.1, dirty := false }

/-- Read the words of a line from its controller: words that skip names are left for a write that covers them. A read that froze the
controller returns poison (R351 step 5). -/
def State.readLine (s : State) (pl : Place) (la src : Nat) (keep : Bool) (skip : List Nat) : List (Word × Bool) × State :=
  let is := List.range 16
  let s := s.fillRequest pl ((is.filter fun i => !skip.contains i).map (16 * la + ·)) keep
  let go := is.foldl (fun (acc : List (Word × Bool) × State) i =>
    if skip.contains i then (acc.1 ++ [(0, false)], acc.2)
    else let (v, s) := acc.2.readWord pl src (16 * la + i); (acc.1 ++ [v], s)) ([], s)
  if go.2.serves pl then go else (go.1.map fun v => (v.1, true), go.2)

/-- Fill a line of a home from memory (R308): one whose read froze the controller is delivered and not kept. -/
def State.fillLine (s : State) (pl : Place) (d la src : Nat) (keep : Bool) : List (Word × Bool) × State :=
  let (vs, s) := s.readLine pl la src keep []
  (vs, if s.serves pl then s.storeLine d la vs else s)

/-- Poison where nothing is read: a controller that performs no request, a lost bank, no memory. -/
def State.noWord (s : State) : (Word × Bool) × State := let (d, s) := s.freshData; ((d, true), s)

/-- Word i of a line a home fills: poison where its controller performs nothing. -/
def State.fillWord (s : State) (d la i src : Nat) (keep : Bool) : (Word × Bool) × State :=
  match placeOf s.cfg (128 * la) with
  | none => s.noWord
  | some pl => if s.serves pl then let (vs, s) := s.fillLine pl d la src keep; (vs.getD i (0, true), s) else s.noWord

/-- Read word i of a line that is present (R368, Table 12.4): an uncorrectable word of a clean line is read again from memory. -/
def State.lineRead (s : State) (d la i src : Nat) : (Word × Bool) × State :=
  match s.line? d la with
  | none => s.noWord
  | some l =>
    let o := decode (l.words.getD i zeroCw)
    let s := s.dieEcc d (16 * la + i) 1 o
    match o.cls with
    | .clean => ((o.d, o.p), s)
    | .corrected _ => ((o.d, o.p), s.lineStore d la i (encode o.d o.p) false)
    | .uncorrectable =>
      if l.dirty then ((o.d, true), s)
      else ((s.bump (frameOff + 0x240 + 8 * d)).putLine d la Line.init).fillWord d la i src false

/-- Read the word at DPA word index w through its home (R306 to R309), with the page hint of the instruction: a miss fills the line. -/
def State.homeRead (s : State) (src w : Nat) (keep : Bool := false) : (Word × Bool) × State :=
  let d := homeOf s.cfg (8 * w)
  match s.line? d (w / 16) with
  | some _ => s.lineRead d (w / 16) (w % 16) src
  | none => s.fillWord d (w / 16) (w % 16) src keep

/-- The FTC set of a frame (R303). -/
def ftcSet (frame : Nat) : Nat := frame % 4096

/-- Drop a frame's entry from every FTC (R304). -/
def State.dropFte (s : State) (frame : Nat) : State :=
  overList fourDies (fun d s =>
    let b := s.die d
    s.setDie d { b with ftc := AMap.upd [] b.ftc (ftcSet frame) (fun es => es.filter fun e => e.1 != frame) }) s

/-- The TVA frame whose FTE lies at word w, if w lies in the frame table (R298). -/
def fteFrame (cfg : Cfg) (w : Nat) : Option Nat :=
  if cfg.frameBase / 8 ≤ w ∧ w < cfg.frameBase / 8 + 2 ^ 24 then some (w - cfg.frameBase / 8) else none

/-- Write words of one line at their home (R304, R308): tier F and spread regions write back with allocation, comb regions write
through. Answers whether the write is performed. -/
def State.homeWrite (s : State) (src : Nat) (keep : Bool) (why : ReqFor) (ws : List WUpd) : Bool × State :=
  match ws with
  | [] => (true, s)
  | u0 :: _ =>
    let dpa := 8 * u0.w
    match placeOf s.cfg dpa with
    | none => (false, s)
    | some pl =>
      let d := homeOf s.cfg dpa
      let la := u0.w / 16
      let s := ws.foldl (fun s u => match fteFrame s.cfg u.w with | some f => s.dropFte f | none => s) s
      let upd := fun (s : State) (dirty : Bool) => ws.foldl (fun s u =>
        match s.line? d la with
        | none => s
        | some l =>
          let (cw, o) := rmw (l.words.getD (u.w % 16) zeroCw) u.d u.mask u.p
          let s := match o with | some o => s.dieEcc d u.w 2 o | none => s
          s.lineStore d la (u.w % 16) cw dirty) s
      if combAddr s.cfg dpa then
        match s.ctlSubmit pl.ctl { id := 0, src := src, dpa := dpa, len := 8 * ws.length, ws := ws, keep := keep, why := why } with
        | (.poisoned, s) => (false, s)
        | (_, s) => (true, upd s false)
      else
        match s.line? d la with
        | some _ => (true, ((upd s true).ledgIn 4 ws.length).ledgOut 4 ws.length)
        | none =>
          if s.serves pl then
            let (vs, s) := s.readLine pl la src keep ((ws.filter fun u => u.mask == fullMask).map fun u => u.w % 16)
            let s := s.storeLine d la vs
            (true, ((upd s true).ledgIn 4 ws.length).ledgOut 4 ws.length)
          else (false, (s.ledgIn 4 ws.length).ledgAlt 4 ws.length)

/-! ## Frame translation -/

/-- An FTE's fields (Table 10.3). -/
structure Fte where
  v : Bool
  tier : Nat
  comb : Bool
  mir : Bool
  rdo : Bool
  sin : Bool
  mstale : Bool
  frame : Nat
  mframe : Nat
  rsv : Bool
  deriving DecidableEq, Repr

def fteOf (w : Word) : Fte :=
  let n := w.toNat
  { v := bitOf n 0, tier := bits n 1 1, comb := bitOf n 2, mir := bitOf n 3, rdo := bitOf n 4, sin := bitOf n 5, mstale := bitOf n 6,
    frame := bits n 31 8, mframe := bits n 55 32, rsv := bitOf n 7 || bits n 63 56 != 0 }

/-- A valid entry is consistent (R300). -/
def Fte.consistent (cfg : Cfg) (f : Fte) : Bool :=
  let dpa := f.frame * 2 ^ 17
  let mdpa := f.mframe * 2 ^ 17
  !f.rsv && f.tier == bits f.frame 23 23 && (inTierN dpa || inTierF dpa)
  && (!f.comb || combAddr cfg dpa)
  && (if f.mir then inTierF mdpa && homeOf cfg mdpa != homeOf cfg dpa else f.mframe == 0 && !f.mstale)

/-- The entry of a frame in FTC d; it becomes the most recently used. -/
def State.ftcLook (s : State) (d frame : Nat) : Option Word × State :=
  let b := s.die d
  let es := AMap.get [] b.ftc (ftcSet frame)
  match es.find? (fun e => e.1 == frame) with
  | none => (none, s)
  | some e =>
    let o := decode e.2
    let rest := es.filter fun x => x.1 != frame
    match o.cls with
    | .uncorrectable =>
      let s := s.setDie d { b with ftc := AMap.set [] b.ftc (ftcSet frame) rest }
      (none, (s.bump (frameOff + 0x220 + 8 * d)).raise 4 (0x9000 + d) (8 * frame) (o.synd ||| (1 <<< 16)))
    | .corrected _ =>
      let s := s.bump (frameOff + 0x200 + 8 * d)
      let (cw, s) := s.dieFlip d 1 frame (encode o.d o.p)
      let b := s.die d
      (some o.d, s.setDie d { b with ftc := AMap.set [] b.ftc (ftcSet frame) ((frame, cw) :: rest) })
    | .clean => (some o.d, s.setDie d { b with ftc := AMap.set [] b.ftc (ftcSet frame) (e :: rest) })

/-- Place an entry in FTC d, the least recently used of 16 giving way. -/
def State.ftcPut (s : State) (d frame : Nat) (w : Word) : State :=
  let (cw, s) := s.dieFlip d 1 frame (encode w false)
  let b := s.die d
  let es := (AMap.get [] b.ftc (ftcSet frame)).filter fun e => e.1 != frame
  s.setDie d { b with ftc := AMap.set [] b.ftc (ftcSet frame) ((frame, cw) :: es.take 15) }

/-- The FTE of a TVA frame as compute or base die d translates it (R298 to R303): none when invalid, inconsistent or poisoned. -/
def State.translate (s : State) (d frame : Nat) : Option Fte × State :=
  match s.ftcLook d frame with
  | (some w, s) => (some (fteOf w), s.bump (frameOff + 0x100 + 8 * d))
  | (none, s) =>
    let s := s.bump (frameOff + 0x120 + 8 * d)
    let (v, s) := s.homeRead (0x9000 + d) (s.cfg.frameBase / 8 + frame)
    let f := fteOf v.1
    if v.2 then (none, s.bump (frameOff + 8))
    else if !f.v then (none, s)
    else if !f.consistent s.cfg then (none, s.bump (frameOff + 8))
    else (some f, s.ftcPut d frame v.1)

/-- The DPA word index of TVA word w of a frame. -/
def Fte.word (f : Fte) (w : Nat) : Nat := f.frame * 2 ^ 14 + w % 2 ^ 14

/-- Writes to a frame that a copy holds (R256): a DPA frame being copied by an evacuation or by rehydration. -/
def State.copying (s : State) (frame : Nat) : Bool :=
  s.rings.any fun r => match r.2.cur with
    | some e => match e.copy with | some (_, w, _) => (fteOf w).frame == frame | none => false
    | none => false

/-- Write words of one line of a translated frame: held while the frame is copied (R256), and duplicated to its mirror (R310). -/
def State.frameWrite (s : State) (src tvaFrame : Nat) (f : Fte) (keep : Bool) (why : ReqFor) (ws : List WUpd) : Bool × State :=
  if s.copying f.frame then
    (true, { s with heldWrites := s.heldWrites ++ [{ ws := ws, src := src, frame := tvaFrame, off := f.frame, why := why }] })
  else
    let (ok, s) := s.homeWrite src keep why ws
    if ok && f.mir && !f.mstale && !f.rdo then
      let d := homeOf s.cfg (f.frame * 2 ^ 17)
      let b := s.die d
      let dws := ws.map fun u => { u with w := f.mframe * 2 ^ 14 + u.w % 2 ^ 14 }
      (ok, s.setDie d { b with dups := b.dups ++ [{ ws := dws, frame := tvaFrame, src := src, home := homeOf s.cfg (f.mframe * 2 ^ 17) }] })
    else (ok, s)

end Sys2Proof.Machine
end

