-- ==== Sys2Proof/Machine/Operands.lean ====
section
/-! DEFINITION. Operands in motion: reading and writing words and elements in the four spaces (R119, R152, R153, R362), and how a core
engine runs the instruction at its queue's head (R73, R113, R118, R165, R166). -/

namespace Sys2Proof.Machine

/-- A computation that may stop with a halt cause (Table 3.4), keeping what it has done. -/
abbrev M := ExceptT Nat (StateM State)

/-- The instruction an engine runs: core, engine, slot, PC, words, the loop counts it uses, its page hint; and the base die whose real-time
port its writes come through, for data that arrived on VC 2. -/
structure Ctx where
  g : Nat
  e : Eng
  q : Nat
  pc : Nat
  qid : Nat
  h : Head
  ext : List Nat
  lc : List Nat
  keep : Bool
  rt : Option Nat := none
  deriving DecidableEq, Repr

/-- The requester ID of an engine, or of the real-time port its writes come through (Table 11.5, R344). -/
def Ctx.src (c : Ctx) : Nat :=
  match c.rt with
  | some d => 0x8000 + d
  | none => (engNum c.e + 1) * 0x1000 + c.g
/-- The compute die of the core. -/
def Ctx.die (c : Ctx) : Nat := c.g / 512
/-- The iterations the instruction performs. -/
def Ctx.its (c : Ctx) : List (List Nat) := iterations c.lc
/-- Operand AX k of the instruction, as its slot sees it. -/
def Ctx.ax (c : Ctx) (s : State) (k : Nat) : Nat := (s.core c.g).axView c.e c.q k

/-- Apply a state operation with a result. -/
def act {α : Type} (f : State → α × State) : M α := do
  let s ← get
  let (a, s) := f s
  set s
  pure a

/-- The ME's accumulators beside the four spaces of Table 5.2: the banks, then the MV set. -/
def spAcc : Nat := 4

/-- Read word w of a space (R119, R368); a frame without a valid FTE halts with FRAME_MISS. -/
def readWord (c : Ctx) (space w : Nat) : M (Word × Bool) := do
  if space = 0 then act fun s => s.coreRead c.g 0 w
  else if space = spAcc then act fun s => s.coreRead c.g 3 w
  else if space = 1 then act fun s => s.clusterRead (clusterOf c.g) w
  else if space = 3 then act fun s => s.coreRead c.g 1 w
  else
    match ← act (fun s => s.translate c.die (w / 2 ^ 14)) with
    | none => throw 5
    | some f => act fun s => s.homeRead c.src (f.word w) c.keep

/-- A write through an FTE: read-only halts with ILLEGAL, step-input during a step with STEP_ROLE (R301). -/
def fteWritable (inStep : Bool) (f : Fte) : M Unit := do
  if f.rdo then throw 6
  if f.sin && inStep then throw 4

/-- Write words of one line of TVA space; answers whether they were performed. -/
def writeLine (c : Ctx) (ws : List WUpd) : M Bool := do
  match ws with
  | [] => pure true
  | u :: _ =>
    let fr := u.w / 2 ^ 14
    match ← act (fun s => s.translate c.die fr) with
    | none => throw 5
    | some f =>
      fteWritable (← get).prog.inStep f
      act fun s => s.frameWrite c.src fr f c.keep .plain (ws.map fun u => { u with w := f.word u.w })

/-- Group consecutive updates of one line. -/
def groupLines : List WUpd → List (List WUpd)
  | [] => []
  | u :: us =>
    match groupLines us with
    | (v :: vs) :: gs => if u.w / 16 = v.w / 16 then (u :: v :: vs) :: gs else [u] :: (v :: vs) :: gs
    | gs => [u] :: gs

/-- Write one word of an SRAM space. -/
def writeLocal (c : Ctx) (space : Nat) (u : WUpd) : M Unit :=
  act fun s =>
    let s := if space = 1 then s.clusterWrite (clusterOf c.g) u.w u.d u.mask u.p
      else s.coreWrite c.g (if space = 3 then 1 else if space = spAcc then 3 else 0) u.w u.d u.mask u.p
    let s := s.ledgIn 4 1
    ((), if u.p then s.ledgAlt 4 1 else s.ledgOut 4 1)

/-- Write words of a space in order; answers the status: POISON where poison is written or a write is not performed. -/
def writeWords (c : Ctx) (space : Nat) (us : List WUpd) : M Nat := do
  let mut st := statusIf (us.any fun u => u.p) stPOISON
  if space = 2 then
    for ws in groupLines us do
      let ok ← writeLine c ws
      if !ok then st := st ||| stPOISON
  else
    for u in us do writeLocal c space u
  pure st

/-! ## Elements -/

/-- An element as read: pattern and poison. -/
abbrev Elem := Nat × Bool

/-- Read elements of width w bits at bit addresses, in order; a word that follows itself is read once. -/
def readElems (c : Ctx) (space w : Nat) (as : List Nat) : M (List Elem) := do
  let mut last : Option (Nat × Word × Bool) := none
  let mut out : Array Elem := #[]
  for a in as do
    let k := a / 64
    let v ← match last with
      | some (j, v, p) => if j = k then pure (v, p) else readWord c space k
      | none => readWord c space k
    last := some (k, v.1, v.2)
    out := out.push (bits v.1.toNat (a % 64 + w - 1) (a % 64), v.2)
  pure out.toList

/-- An element to write: bit address, pattern, poison. -/
structure Put where
  a : Nat
  v : Nat
  p : Bool
  deriving DecidableEq, Repr

/-- The updates of element writes of w bits in order: consecutive elements of one word are one write. -/
def putsToUpds (w : Nat) : List Put → List WUpd
  | [] => []
  | x :: xs =>
    let m : Word := BitVec.ofNat 64 ((2 ^ w - 1) <<< (x.a % 64))
    let d : Word := BitVec.ofNat 64 ((x.v % 2 ^ w) <<< (x.a % 64))
    match putsToUpds w xs with
    | u :: us =>
      if u.w = x.a / 64 then { w := u.w, mask := u.mask ||| m, d := mergeBits d u.d u.mask, p := u.p || x.p } :: us
      else { w := x.a / 64, mask := m, d := d, p := x.p } :: u :: us
    | [] => [{ w := x.a / 64, mask := m, d := d, p := x.p }]

/-- Write elements of w bits. -/
def writeElems (c : Ctx) (space w : Nat) (xs : List Put) : M Nat := writeWords c space (putsToUpds w xs)

/-- Bit addresses of a descriptor's elements in an iteration, for index tuples. -/
def Desc.addrs (d : Desc) (js : List Nat) (ixs : List (List Nat)) : List Nat := ixs.map fun ix => (d.bitAt js ix).toNat

/-- The signed index values of an index descriptor in an iteration, with the poison of their words. -/
def readIndices (c : Ctx) (x : Desc) (js : List Nat) : M (List (Int × Bool)) := do
  let es ← readElems c x.space (fmtWidth x.fmt) (x.addrs js (tuples [x.sizes.getD 0 0]))
  pure (es.map fun e => (intValue x.fmt e.1, e.2))

/-- The mask bits of an operand's positions in linear order, poison with each; all kept without a mask. -/
def readMask (c : Ctx) (o : Opnd) (js : List Nat) : M (List (Bool × Bool)) := do
  match o.mask with
  | none => pure (List.replicate o.count (true, false))
  | some m =>
    let es ← readElems c m.space 1 (m.addrs js (tuples m.used))
    pure (es.map fun e => (e.1 == 1, e.2))

/-- A source element at a position: its index tuple, pattern, poison and whether it is kept. -/
structure SrcEl where
  ix : List Nat
  v : Nat
  p : Bool
  keep : Bool
  deriving DecidableEq, Repr

/-- Run a computation whose halt is kept as a value: what it has done stays done (R119). -/
def attempt {α : Type} (m : M α) : M (Except Nat α) :=
  ExceptT.mk do
    let r ← m.run
    pure (.ok r)

/-- End with a halt where one is due. -/
def finish : Option Nat → M Unit
  | some k => throw k
  | none => pure ()

/-- Where position ix of an operand lies (R157): an index outside the dimension halts with ILLEGAL (R142); none where the index word
is poisoned (R362). -/
def resolveAt (o : Opnd) (idx : List (Int × Bool)) (js ix : List Nat) : M (Option Nat) := do
  match o.idx with
  | none => pure (some (o.d.bitAt js ix).toNat)
  | some _ =>
    let (v, p) := idx.getD (ix.getLastD 0) (0, false)
    if p then pure none
    else if v < 0 ∨ v ≥ Int.ofNat (o.d.used.getLastD 0) then throw 6
    else pure (some (o.d.bitAt js (ix.dropLast ++ [v.toNat])).toNat)

/-- The indices of an operand, if it is indexed. -/
def opndIndices (c : Ctx) (o : Opnd) (js : List Nat) : M (List (Int × Bool)) :=
  match o.idx with
  | none => pure []
  | some x => readIndices c x js

/-- The elements of a source in linear order (R216), up to the first that halts, with that halt. A position whose index word is
poisoned reads nothing and is poisoned (R362); a masked one is absent (R159). -/
def readSourceWith (c : Ctx) (o : Opnd) (js : List Nat) (idx : List (Int × Bool)) : M (List SrcEl × Option Nat) := do
  let ms ← readMask c o js
  let mut out : Array SrcEl := #[]
  let mut last : Option (Nat × Word × Bool) := none
  let mut stop : Option Nat := none
  let w := fmtWidth o.d.fmt
  for (ix, m) in (tuples o.shape).zip ms do
    if stop.isNone then
      if !m.1 then out := out.push { ix := ix, v := 0, p := m.2, keep := false }
      else
        match ← attempt (resolveAt o idx js ix) with
        | .error k => stop := some k
        | .ok none => out := out.push { ix := ix, v := 0, p := true, keep := true }
        | .ok (some a) =>
          let rd := match last with
            | some (j, v, p) => if j = a / 64 then pure (v, p) else readWord c o.d.space (a / 64)
            | none => readWord c o.d.space (a / 64)
          match ← attempt rd with
          | .error k => stop := some k
          | .ok v =>
            last := some (a / 64, v.1, v.2)
            out := out.push { ix := ix, v := bits v.1.toNat (a % 64 + w - 1) (a % 64), p := v.2 || m.2, keep := true }
  pure (out.toList, stop)

/-- The elements of a source whose indices are read on demand. -/
def readSource (c : Ctx) (o : Opnd) (js : List Nat) : M (List SrcEl × Option Nat) := do
  readSourceWith c o js (← opndIndices c o js)

/-- A place of a destination: bit address (none where its index word is poisoned), whether the destination's mask keeps it, and the
poison of the mask's word. -/
structure DstEl where
  a : Option Nat
  keep : Bool
  p : Bool
  deriving DecidableEq, Repr

/-- The places of a destination in linear order, up to the first that halts, with that halt. -/
def readDest (c : Ctx) (o : Opnd) (js : List Nat) : M (List DstEl × Option Nat) := do
  let ms ← readMask c o js
  let idx ← opndIndices c o js
  let mut out : Array DstEl := #[]
  let mut stop : Option Nat := none
  for (ix, m) in (tuples o.shape).zip ms do
    if stop.isNone then
      match ← attempt (resolveAt o idx js ix) with
      | .error k => stop := some k
      | .ok a => out := out.push { a := a, keep := m.1, p := m.2 }
  pure (out.toList, stop)

/-- A value for a place: pattern, poison, and whether its source is present. -/
structure Val where
  v : Nat
  p : Bool
  keep : Bool
  deriving DecidableEq, Repr

/-- The writes of values at places: absent sources and masked places are not written. -/
def putsOf (ds : List DstEl) (vs : List Val) : List Put :=
  (ds.zip vs).filterMap fun x =>
    match x.1.a with
    | some a => if x.1.keep && x.2.keep then some { a := a, v := x.2.v, p := x.2.p || x.1.p } else none
    | none => none

/-- Write values at places of a destination (R153: in ascending linear order): POISON where poison is written or a place has no known
address (R362). -/
def storeVals (c : Ctx) (o : Opnd) (ds : List DstEl) (vs : List Val) : M Nat := do
  let st ← writeElems c o.d.space (fmtWidth o.d.fmt) (putsOf ds vs)
  pure (st ||| statusIf ((ds.zip vs).any fun x => x.1.a.isNone && x.2.keep) stPOISON)

/-! ## Descriptors at execution -/

/-- Read the words of a handle as the instruction sees them, counting what their codewords say (R133, R368). -/
def readDescWords (c : Ctx) (h : Nat) : M (List (Word × Bool)) :=
  act fun s =>
    let k := s.core c.g
    let cws := k.descView c.e c.q h
    cws.zipIdx.foldl (fun (acc : List (Word × Bool) × State) cw =>
      let o := decode cw.1
      let s := acc.2.coreEcc c.g (16 * h + cw.2) o
      (acc.1 ++ [(o.d, o.p)], match o.cls with
        | .corrected _ => if cws = k.descWords h then s.coreStore c.g 2 (16 * h + cw.2) (encode o.d o.p) else s
        | _ => s)) ([], s)

/-- The descriptor of a handle; H0 reads as zero bytes (R149). -/
def readDesc (c : Ctx) (h : Nat) : M Desc := do
  if h = 0 then pure (descOf [])
  else
    let ws ← readDescWords c h
    pure (descOf (ws.map fun w => w.1.toNat))

/-- The operand of a handle. -/
def readOpnd (c : Ctx) (h : Nat) : M Opnd := do
  let d ← readDesc c h
  let idx ← if d.indexh = 0 then pure none else some <$> readDesc c d.indexh
  let sc ← if d.scaleh = 0 then pure none else some <$> readDesc c d.scaleh
  let mk ← if d.maskh = 0 then pure none else some <$> readDesc c d.maskh
  pure { h := h, d := d, idx := idx, scale := sc, mask := mk }

/-- A handle an operand names is poisoned, as the instruction sees it (R133, R363). -/
def Opnd.poisoned (o : Opnd) (c : Ctx) (k : Core) : Bool := o.handles.any fun h => k.isPoisoned c.e c.q h

/-- The execution check (R118): ILLEGAL unless ok; in a step, a descriptor written through has a role other than input. -/
def execCheck (ok : Bool) (written : List Desc) : M Unit := do
  if !ok then throw 6
  if (← get).prog.inStep && written.any (fun d => d.role == 1) then throw 4

/-- Load operands; where one is poisoned the instruction does what bad says and reports POISON (R363). -/
def withOpndsOr (bad : List Opnd → M Unit) (c : Ctx) (hs : List Nat) (k : List Opnd → M Res) : M Res := do
  let os ← hs.mapM (readOpnd c)
  let s ← get
  if os.any (fun o => o.poisoned c (s.core c.g)) then do
    bad os
    pure .poison
  else k os

/-- Load operands; where one is poisoned the instruction does nothing and reports POISON (R363). -/
def withOpnds (c : Ctx) (hs : List Nat) (k : List Opnd → M Res) : M Res := withOpndsOr (fun _ => pure ()) c hs k

/-! ## Arithmetic checks (R374, R375) -/

/-- In place of a halt cause: the instruction met a core fault and never completes. -/
def coreFault : Nat := 0

/-- Count the recomputations or reruns that passed, in the counter at an offset of the core's block; answers how many partials or lane
groups pass before one fails for the second time (none: none does). -/
def arithEvents (c : Ctx) (off : Nat) : ArithCheck → M (Option Nat)
  | .clean => pure none
  | .recomputed n => do
    modify fun s => s.bumpN (coreOff c.g + off) n
    pure none
  | .failed passed n => do
    modify fun s => s.bumpN (coreOff c.g + off) n
    pure (some passed)

/-- After n partials or groups, of which left were still to pass: a core fault where one of them failed, else what is left. -/
def passUnits (left : Option Nat) (n : Nat) : M (Option Nat) :=
  match left with
  | some l => if l < n then throw coreFault else pure (some (l - n))
  | none => pure none

/-- An instruction of which some partial or group failed does not complete. -/
def passEnd : Option Nat → M Unit
  | some _ => throw coreFault
  | none => pure ()

/-! ## The engine's queue -/

/-- The first instruction of a queue that has not begun (R73). -/
def queuedEntry (q : List QEntry) : Option QEntry := q.find? fun x => x.phase == .queued

/-- Number k of the instructions of a queue that are executed and have still to complete, in queue order: more than one only where the
first are MDRAINs (R210). -/
def executedEntry (q : List QEntry) (k : Nat) : Option QEntry := (q.filter fun x => x.phase == .executed)[k]?

/-- Replace the entry with an ID. -/
def putEntry (q : List QEntry) (x : QEntry) : List QEntry := q.map fun y => if y.qid = x.qid then x else y

/-- Set an entry in a core's queue. -/
def State.setEntry (s : State) (g : Nat) (e : Eng) (x : QEntry) : State :=
  let c := s.core g
  s.setCore g { c with q := c.q.set e (putEntry (c.q.get e) x) }

/-- The head word of an entry, decoded from its codeword. -/
def QEntry.head (x : QEntry) : Head := headOf (decode (x.words.headD zeroCw)).d.toNat

/-- A core's engines take part in the program: the core is live (R381). -/
def State.engineOn (s : State) (g : Nat) : Bool :=
  s.isLive g

/-- What an instruction has when its engine starts it. -/
def QEntry.ctx (x : QEntry) (g : Nat) (e : Eng) (keep : Bool) : Ctx :=
  let h := x.head
  { g := g, e := e, q := x.slot, pc := x.pc, qid := x.qid, h := h,
    ext := (x.words.tail.map fun w => (decode w).d.toNat), lc := x.lc.take h.lc, keep := keep }

/-- The spans (space, first and last bit) of the iterations of operands and of the descriptors they link; of a DLOAD or DSTORE its 128
bytes. -/
def State.spansOf (s : State) (g : Nat) (c : Ctx) (hs : List Nat) : List (Nat × Int × Int) :=
  let k := s.core g
  let get := fun h => descOf (((k.descView c.e c.q h).map fun w => (decode w).d.toNat))
  if c.h.op = 0x21 ∨ c.h.op = 0x22 then
    let a : Int := 8 * Int.ofNat (c.ax s (bits c.h.md 8 4))
    [(bits c.h.md 14 13, a, a + 1023)]
  else
    let ds := (hs.filter (· != 0)).flatMap fun h =>
      let d := get h
      d :: (([d.scaleh, d.indexh, d.maskh].filter (· != 0)).map get)
    (ds.filter fun d => product' d.used != 0).flatMap fun d => c.its.map fun js => (d.space, d.span js)

/-- Two spans share a bit. -/
def spanMeets (x y : Nat × Int × Int) : Bool := x.1 == y.1 && decide (x.2.1 ≤ y.2.2 ∧ y.2.1 ≤ x.2.2)

/-- The spans of the core store an XE instruction reads or writes. -/
def State.csSpans (s : State) (g : Nat) (c : Ctx) : List (Int × Int) :=
  if c.h.op = 0x21 ∨ c.h.op = 0x22 ∨ 0x70 ≤ c.h.op then
    ((s.spansOf g c [c.h.hd, c.h.ha, c.h.hb]).filter fun x => x.1 == spCS).map fun x => x.2
  else []

/-- The XE does not start an instruction while tiles of a CMV are still to be dispatched, or one whose operands overlap the HD of an
incomplete CMV (R249), nor while a transfer waits for one of the core's 32 slots (R423). -/
def State.xeBlocked (s : State) (g : Nat) (c : Ctx) : Bool :=
  let k := s.core g
  k.undisp != [] || k.xfers.any (fun e => decide (32 ≤ e.1)) ||
    (k.cmvs != [] && (s.csSpans g c).any fun x => k.cmvs.any fun r => r.2.spans.any fun y => decide (x.1 ≤ y.2 ∧ y.1 ≤ x.2))

/-- An ME instruction names bank b. -/
def QEntry.namesBank (x : QEntry) (b : Nat) : Bool :=
  match x.head.op with
  | 0x40 | 0x41 | 0x43 => bits x.head.md 0 0 == b
  | 0x42 => bitOf x.head.md b
  | _ => false

/-- The ME may start x though y, before it, has still to complete: y is an MDRAIN whose drain proceeds, x does not name its bank, and no
source of x overlaps its destination (R210). -/
def State.drainPast (s : State) (g : Nat) (y x : QEntry) : Bool :=
  let c := x.ctx g .me false
  y.head.op == 0x43 && !(y.head.pv && decide (63 ≤ ((s.core g).lane y.head.plane).count)) && !x.namesBank (bits y.head.md 0 0)
    && (x.head.op == 0x22 || (s.spansOf g c [c.h.ha, c.h.hb]).all fun u =>
      (AMap.get [] (s.core g).drains y.qid).all fun v => !spanMeets u v)

/-- The instruction engine e of core g would start but for its token: the first that has not begun, where every one before it that is
executed has completed (R73, R166), and nothing else holds the engine. -/
def State.nextEntry (s : State) (g : Nat) (e : Eng) : Option QEntry :=
  let q := (s.core g).q.get e
  match queuedEntry q with
  | some x =>
    if q.all (fun y => y.phase != .executed || (e == .me && s.drainPast g y x))
      ∧ (e = .xe → s.xeBlocked g (x.ctx g e false) = false) then some x else none
  | none => none

/-- The lane and the instruction engine e waits with, if its next one has WV = 1. -/
def State.waitOf (s : State) (g : Nat) (e : Eng) : Option (Nat × Nat) :=
  match s.nextEntry g e with
  | some x => if x.head.wv then some (x.head.wlane, x.qid) else none
  | none => none

/-- The engines of core g that wait on a lane, each with its instruction: in the order they began to, and in the order ME, VE, FE, XE where
they began together (R165). -/
def State.waiters (s : State) (g : Nat) : List (Eng × Nat) :=
  let now := allEng.filterMap fun e => (s.waitOf g e).map fun w => (e, w.2)
  let old := (s.core g).waitq.filter now.contains
  old ++ now.filter fun w => !old.contains w

/-- Note which engines wait, before what lets further ones begin to. -/
def State.noteWaits (s : State) (g : Nat) : State :=
  let w := s.waiters g
  s.setCore g { s.core g with waitq := w }

/-- Engine e may take the last token of a lane: no other engine began to wait on the lane before it (R165). -/
def State.firstWaiter (s : State) (g : Nat) (e : Eng) (l : Nat) : Bool :=
  ((s.waiters g).find? fun w => (s.waitOf g w.1).any fun v => v.1 == l).all fun w => w.1 == e

/-- The entry engine e of core g would start now with opcode op: its token, if it waits for one, is on the lane and is its own (R113,
R165). It waits for the reset of a die cache (R312). -/
def State.readyEntry (s : State) (g : Nat) (e : Eng) (op : Nat) : Option QEntry :=
  if s.engineOn g && !s.cacheReset then
    match s.nextEntry g e with
    | some x =>
      if x.head.op = op ∧ (x.head.wv = true → 0 < ((s.core g).lane x.head.wlane).count
        ∧ (((s.core g).lane x.head.wlane).count = 1 → s.firstWaiter g e x.head.wlane = true)) then some x else none
    | none => none
  else none

/-- Read one word of a queue entry after those of acc: what it is found to be is counted, and a corrected one is rewritten (R368). -/
def readQueued (g : Nat) (e : Eng) (acc : List Codeword × State) (w : Codeword × Nat) : List Codeword × State :=
  let o := decode w.1
  let s := acc.2.coreEcc g 0 o
  match o.cls with
  | .corrected _ => let (cw, s) := s.sflip (coreOff g + 0x220) 4 (engNum e * 576 + w.2) false (encode o.d o.p); (acc.1 ++ [cw], s)
  | _ => (acc.1 ++ [w.1], s)

/-- An engine reads the words of an entry from its queue. -/
def State.readEntry (s : State) (g : Nat) (e : Eng) (x : QEntry) : QEntry × State :=
  let go := x.words.zipIdx.foldl (readQueued g e) ([], s)
  ({ x with words := go.1 }, go.2)

/-- Run the instruction with opcode op at the head of engine e of core g: consume its token, perform it, and leave it executed with
what it reports, or halt the program (R105, R113, R118). Nothing happens where the engine cannot start it. -/
def State.runEngine (s : State) (g : Nat) (e : Eng) (op : Nat) (f : Ctx → M Res) : State :=
  match s.readyEntry g e op with
  | none => s
  | some x =>
    let (recv, s) := if x.head.wv then s.consumeToken g x.head.wlane else (0, s)
    let c := x.ctx g e (bitOf x.head.md 0)
    let (x, s) := s.readEntry g e x
    match (f c).run s with
    | (.ok r, s) =>
      s.setEntry g e { x with phase := if r.running then .running else .executed, consumed := true, recv := recv,
                              status := recv ||| r.status, sat := r.sat, flush := r.flush }
    | (.error cause, s) =>
      if cause = coreFault then (s.setEntry g e { x with phase := .running, consumed := true }).fault 1 (0x1000 + g) 0
      else s.beginHalt cause (engNum e) x.pc 0

end Sys2Proof.Machine
end

