-- ==== Sys2Proof/Machine/AddressArith.lean ====
section
/-! DEFINITION. Address arithmetic (R128 to R130): AADD to ARANK. Each runs in its core's engine at the head of its queue. -/

namespace Sys2Proof.Machine

/-- Fields of Table 4.6. -/
def Head.ad (h : Head) : Nat := bits h.low 38 34
def Head.aa (h : Head) : Nat := bits h.low 33 29
def Head.ab (h : Head) : Nat := bits h.low 28 24
def Head.immS (h : Head) : Bool := bitOf h.low 23
/-- IMM sign-extended to 48 bits. -/
def Head.imm48 (h : Head) : Nat := wrapBits 48 (sext 23 (bits h.low 22 0))

/-- Operand B as IS selects it. -/
def addrB (c : Ctx) (s : State) : Nat := if c.h.immS then c.h.imm48 else c.ax s c.h.ab
/-- Operand A. -/
def addrA (c : Ctx) (s : State) : Nat := c.ax s c.h.aa

/-- Write AX[AD], modulo 2^48, visible three slots later (R86). -/
def writeAd (c : Ctx) (v : Nat) (s : State) : State := s.setCore c.g ((s.core c.g).axWrite c.e c.q c.h.ad (v % 2 ^ 48))

/-- An address-arithmetic instruction whose result f gives. -/
def addrOp (f : Ctx → State → Nat) (c : Ctx) : M Res := do
  modify fun s => writeAd c (f c s) s
  pure .nothing

/-- Results of Table 4.7. -/
def valAadd (c : Ctx) (s : State) : Nat := addrA c s + addrB c s
def valAsub (c : Ctx) (s : State) : Nat := addrA c s + (2 ^ 48 - addrB c s)
def valAmuli (c : Ctx) (s : State) : Nat := addrA c s * c.h.imm48
def valAshl (c : Ctx) (s : State) : Nat := let k := addrB c s % 64; if k ≥ 48 then 0 else addrA c s <<< k
def valAshr (c : Ctx) (s : State) : Nat := let k := addrB c s % 64; if k ≥ 48 then 0 else addrA c s >>> k
def valAand (c : Ctx) (s : State) : Nat := addrA c s &&& addrB c s
def valAmin (c : Ctx) (s : State) : Nat := min (addrA c s) (addrB c s)
def valAmax (c : Ctx) (s : State) : Nat := max (addrA c s) (addrB c s)
def valAsel (c : Ctx) (s : State) : Nat := if addrA c s ≠ 0 then c.ax s c.h.ab else c.h.imm48
def valAmovi (c : Ctx) (_s : State) : Nat := bits (c.ext.headD 0) 47 0
/-- AX[AA] × LIVE + rank (R130). -/
def tileOf (c : Ctx) (s : State) : Nat := (addrA c s * (s.core c.g).liveCopy + (s.core c.g).rank) % 2 ^ 48
def valArank (c : Ctx) (s : State) : Nat :=
  if bits c.h.low 22 0 = 0 then tileOf c s else b2n (decide (tileOf c s < c.ax s c.h.ab))

def execAadd (core : Nat) (eng : Eng) (s : State) : Out := .next (s.runEngine core eng 0x10 (addrOp valAadd))
def execAsub (core : Nat) (eng : Eng) (s : State) : Out := .next (s.runEngine core eng 0x11 (addrOp valAsub))
def execAmuli (core : Nat) (eng : Eng) (s : State) : Out := .next (s.runEngine core eng 0x12 (addrOp valAmuli))
def execAshl (core : Nat) (eng : Eng) (s : State) : Out := .next (s.runEngine core eng 0x13 (addrOp valAshl))
def execAshr (core : Nat) (eng : Eng) (s : State) : Out := .next (s.runEngine core eng 0x14 (addrOp valAshr))
def execAand (core : Nat) (eng : Eng) (s : State) : Out := .next (s.runEngine core eng 0x15 (addrOp valAand))
def execAmin (core : Nat) (eng : Eng) (s : State) : Out := .next (s.runEngine core eng 0x16 (addrOp valAmin))
def execAmax (core : Nat) (eng : Eng) (s : State) : Out := .next (s.runEngine core eng 0x17 (addrOp valAmax))
def execAsel (core : Nat) (eng : Eng) (s : State) : Out := .next (s.runEngine core eng 0x18 (addrOp valAsel))
def execAmovi (core : Nat) (eng : Eng) (s : State) : Out := .next (s.runEngine core eng 0x19 (addrOp valAmovi))
def execArank (core : Nat) (eng : Eng) (s : State) : Out := .next (s.runEngine core eng 0x1A (addrOp valArank))

end Sys2Proof.Machine
end

