-- ==== Sys2Proof/Machine/Ports.lean ====
section
/-! DEFINITION. Shared operations of the links: waking (R462, R463), what the module sends to the host, and the sending side of the peer
ports (R419, R420, R426): credits, the replay buffer, routes. -/

namespace Sys2Proof.Machine

/-! ## Waking (R462, R463) -/

/-- A waking event: it cancels an entry in progress, or begins the wake. -/
def State.wakeEvent (s : State) : State :=
  match s.dorm.st with
  | .entering => s.cancelEntry
  | .dormant => { s with dorm := { s.dorm with st := .waking } }
  | _ => s

/-- The module must wake before it serves a request (R463). -/
def State.asleep (s : State) : Bool := s.dorm.st == .dormant || s.dorm.st == .waking

/-- Hold a request until wake ends, in order. -/
def State.holdReq (s : State) (i : Instr) : State :=
  let s := s.wakeEvent
  { s with dorm := { s.dorm with held := s.dorm.held ++ [i] } }

/-- Serve a request: at once, or after wake. -/
def State.serve (s : State) (i : Instr) (f : State → State) : State :=
  if s.asleep then s.holdReq i else f s.wakeEvent

/-! ## To the host -/

/-- Send to the host. -/
def State.tell (s : State) (m : HostMsg) : State := { s with host := { s.host with out := s.host.out ++ [m] } }

/-- Send a posted write or an interrupt (R24): in L2 WAKE# asks for the link; from L1 the module itself takes it to L0. -/
def State.post (s : State) (m : HostMsg) : State :=
  let s := s.tell m
  match s.host.link with
  | .l2 => { s with host := { s.host with msgWaiting := true }, pins := { s.pins with wake := true } }
  | .l1 => { s with host := { s.host with link := .l0 } }
  | _ => s

/-- The module is at S7: its host port is in service. -/
def State.atS7 (s : State) : Bool := s.boot.st == .s7

/-- Events can be placed: base die 0's pending store is in service. -/
def State.eventsOn (s : State) : Bool := s.boot.st == .s6 || s.boot.st == .s7

/-- The host port is in service: at S7 with PERST# high and no reset of the port in progress (R21, R415). -/
def State.portUp (s : State) : Bool := s.atS7 && s.pins.perst && !s.flt.resetting.contains 0xA000

/-- The host port serves memory requests: it is in service and in D0 (R401). -/
def State.hostUp (s : State) : Bool := s.portUp && !s.host.cs.d3

/-- A request completes as Unsupported Request, which AER records. -/
def State.refuse (s : State) : State :=
  { s.tell .unsupported with host := { (s.tell .unsupported).host with cs := { s.host.cs with aerUnc := s.host.cs.aerUnc ||| (1 <<< 20) } } }

/-- A request to a BAR: served at once or after wake; in D3hot it is unsupported. -/
def State.barServe (s : State) (i : Instr) (f : State → State) : State :=
  if s.hostUp then s.serve i f else if s.portUp then s.refuse else s

/-! ## Link pattern generators (R432 to R434) -/

/-- The LPG_ERR registers a block has room for: those of lanes 248 to 255 of a 4 KiB block would lie past its end (see blockAt). -/
def lpgErrs (base : Nat) : Nat := match (blockAt base).1 with | .ctl _ => 248 | .d2d _ => 248 | _ => 256

/-- The results of a pattern run on the LPG at a block's base, with its number of lanes: LPG_STAT, and the error counts of the enabled
lanes, which are free where the run did not pass. -/
def State.lpgResult (s : State) (base lanes : Nat) (ok : Bool) : State :=
  let s := s.setReg (base + 0x838) (BitVec.ofNat 64 (1 + 2 * b2n ok))
  (List.range (lpgErrs base)).foldl (fun s i =>
    if ok || decide (lanes ≤ i) || !bitOf (s.reg (base + 0x818 + 8 * (i / 64))).toNat (i % 64) then s.setReg (base + 0x840 + 8 * i) 0
    else { s with freeCtr := s.freeCtr + 1 }.setReg (base + 0x840 + 8 * i) (Config.freeData s.freeCtr)) s

/-- A run during a per-function reset when ATRESET asks for it (R433): its result is the link's, free; ATRESET clears. -/
def State.lpgRun (s : State) (base lanes : Nat) : State :=
  let c := s.reg (base + 0x800)
  if bitOf c.toNat 3 then
    ({ s with freeCtr := s.freeCtr + 1 }.lpgResult base lanes (Config.freeBit s.freeCtr)).setReg (base + 0x800) (c &&& ~~~(8 : Word))
  else s

/-! ## Peer ports -/

/-- The VC of a flit; none for link control. -/
def Flit.vc : Flit → Option Nat
  | .req vc _ => some vc
  | .rsp _ => some 1
  | .data vc _ => some vc
  | _ => none

/-- The head a port gives its next flit (Table 14.9). -/
def Port.head (q : Port) (vc seq : Nat) : FlitHead :=
  { vc := vc, seq := seq, ack := (q.rxSeq + 4095) % 4096, cr0 := min 255 (q.owed.getD 0 0), cr1 := min 255 (q.owed.getD 1 0),
    cr2 := min 255 (q.owed.getD 2 0) }

/-- Credits returned by the flit just sent are owed no more. -/
def Port.paid (q : Port) : Port := { q with owed := q.owed.map fun n => n - min 255 n }

/-- Send a link-control flit: it takes no credit and is not replayed (R419). -/
def State.sendCtl (s : State) (p : Nat) (f : Flit) : State :=
  let q := s.port p
  s.setPort p { q.paid with sent := q.sent ++ [(q.head 3 0, f)] }

/-- Send a VC flit now, if its port is UP, has a credit and has room in its replay buffer (R419, R420). -/
def State.tryFlit (s : State) (p : Nat) (f : Flit) : Option State :=
  let q := s.port p
  match f.vc with
  | none => some (s.sendCtl p f)
  | some vc =>
    if q.st = .up ∧ 0 < q.credit.getD vc 0 ∧ q.replay.length < 2048 then
      let q' := { q.paid with
        credit := q.credit.set vc (q.credit.getD vc 0 - 1), txSeq := (q.txSeq + 1) % 4096,
        replay := q.replay ++ [(q.txSeq, f)], sent := q.sent ++ [(q.head vc q.txSeq, f)] }
      some (((s.setPort p q').bump (peerOff p + 0x10)).ledgOut 0 1)
    else none

/-- The real-time receive buffer of a base die holds n bytes more, or fewer (R344). -/
def State.rtAdd (s : State) (d n : Nat) : State := { s with swarm := { s.swarm with rtOcc := AMap.upd 0 s.swarm.rtOcc d (· + n) } }
def State.rtTake (s : State) (d n : Nat) : State := { s with swarm := { s.swarm with rtOcc := AMap.upd 0 s.swarm.rtOcc d (· - n) } }

/-- The buffer of base die d is at panic (R344). -/
def State.panic (s : State) (d : Nat) : Bool :=
  decide (s.cfg.timers.panicPct * 2 ^ 22 ≤ 100 * AMap.get 0 s.swarm.rtOcc d)

/-- A flit takes a place in the receive buffer of port p; one on VC 2 in its base die's real-time buffer (R344, R419). -/
def State.keepFlit (s : State) (p vc : Nat) : State :=
  let q := s.port p
  let s := s.setPort p { q with held := q.held.set vc (q.held.getD vc 0 + 1) }
  if vc = 2 then s.rtAdd (p / 2) 256 else s

/-- A flit leaves the receive buffer of port p: its credit is returned by an IDLE (R419). One received before the port last came up
is no longer counted there. -/
def State.creditBack (s : State) (p vc : Nat) : State :=
  let s := if vc = 2 then s.rtTake (p / 2) 256 else s
  let q := s.port p
  let n := q.held.getD vc 0
  if n = 0 then s
  else
    let s := s.setPort p { q with held := q.held.set vc (n - 1), owed := q.owed.set vc (q.owed.getD vc 0 + 1) }
    if q.st = .up then s.sendCtl p .idle else s

/-- A forwarded flit leaves the receive buffer that held it; from is its port plus 1, 0 for a flit of this module. -/
def State.leave (s : State) (f : Flit) (src : Nat) : State :=
  match f.vc with
  | some vc => if src = 0 then s else s.creditBack (src - 1) vc
  | none => s

/-- Send every waiting flit that may go, keeping the order within each VC. -/
def State.pump (s : State) (p : Nat) : State :=
  let q := s.port p
  let go := q.waitq.foldl (fun (acc : List (Flit × Nat) × State) f =>
    if acc.1.any (fun g => g.1.vc == f.1.vc) then (acc.1 ++ [f], acc.2)
    else match acc.2.tryFlit p f.1 with
      | some s => (acc.1, s.leave f.1 f.2)
      | none => (acc.1 ++ [f], acc.2)) ([], s.setPort p { q with waitq := [] })
  go.2.setPort p { go.2.port p with waitq := go.1 }

/-- Send a VC flit by a port, or let it wait there; src is the port, plus 1, whose receive buffer holds it. -/
def State.sendFlit (s : State) (p : Nat) (f : Flit) (src : Nat := 0) : State :=
  let q := s.port p
  (s.setPort p { q with waitq := q.waitq ++ [(f, src)] }).pump p

/-- Set a port's credits to absolute counts (R421): ledger 0 takes the receiver's word for what it granted. -/
def State.setCredits (s : State) (p : Nat) (cs : List Nat) : State :=
  let q := s.port p
  let old := q.credit.foldl (· + ·) 0
  let new := cs.foldl (· + ·) 0
  let s := s.setPort p { q with credit := cs }
  if old ≤ new then s.ledgIn 0 (new - old)
  else { s with ledg := AMap.upd 0 (AMap.upd 0 s.ledg 0 (· - (old - new))) 3 (· - (old - new)) }

/-! ## Routes (R426, R429) -/

/-- The least hop count of a peer's routes. -/
def Peer.least (r : Peer) : Nat := r.routes.foldl (fun a x => min a x.2) 255

/-- The ports that offer the least hop count, in ascending order. -/
def Peer.mask (r : Peer) : List Nat := (List.range 8).filter fun p => r.routes.any fun x => x.1 == p && x.2 == r.least

/-- The handle of a serial in the swarm table. -/
def State.handleOf (s : State) (serial : Nat) : Option Nat :=
  match s.swarm.peers.find? (fun e => e.2.valid && e.2.serial == serial) with
  | some e => some e.1
  | none => none

/-- The ports toward a serial. -/
def State.portsTo (s : State) (serial : Nat) : List Nat :=
  match s.swarm.peers.find? (fun e => e.2.valid && e.2.serial == serial) with
  | some e => e.2.mask
  | none => []

/-- Send the i-th flit of a run of flits toward a serial, in rotation over its ports (R423); none where no entry reaches it. -/
def State.sendTo (s : State) (serial i : Nat) (f : Flit) (src : Nat := 0) : Option State :=
  match s.portsTo serial with
  | [] => none
  | ps => some (s.sendFlit (ps.getD (i % ps.length) 0) f src)

/-- HOPS of a flit this module originates: the most the field holds. -/
def startHops : Nat := 7

/-- Answer a transfer with an RSP (R424). -/
def State.respond (s : State) (dst tag status : Nat) : State :=
  (s.sendTo dst 0 (.rsp { dst := dst, src := s.fuses.serial, tag := tag, status := status, hops := startHops })).getD s

/-! ## Transfers this module is the target of (R424) -/

/-- The transfer of a source and tag. -/
def isTarget (src tag : Nat) (t : Target) : Bool := t.src == src && t.tag == tag

/-- The flit a write is the last of, as a number: its port and VC; 0 for none. -/
def freeing (p vc : Nat) : Nat := 1 + p + 8 * vc

/-- A write of a PUT has been accepted (ok) or not performed: with the last write of a flit the flit leaves its receive buffer, and the
last one of a complete transfer sends the RSP (R344, R419, R424). -/
def State.putAccepted (s : State) (src tag free : Nat) (ok : Bool) : State :=
  let s := if free = 0 then s else s.creditBack ((free - 1) % 8) ((free - 1) / 8)
  match s.swarm.targets.find? (isTarget src tag) with
  | none => s
  | some t =>
    let t := { t with waiting := t.waiting - 1, poison := t.poison || !ok }
    let rest := s.swarm.targets.filter fun x => !isTarget src tag x
    if t.waiting = 0 ∧ t.got = [] then
      ({ s with swarm := { s.swarm with targets := rest } }).respond src tag (if t.poison then 1 else 0)
    else { s with swarm := { s.swarm with targets := rest ++ [t] } }

end Sys2Proof.Machine
end

