-- ==== Sys2Proof/Machine/Aon.lean ====
section
/-! DEFINITION. The AON domain: the NOR flash and its operations (R41 to R44), the fatal-event log (R456, R457), the removal of rails (R444),
the beginning of start-up (R35), HOLD, START_STATUS and MG_ALERT (R51 to R53, R437), and the management commands (R435, R436, R67). -/

namespace Sys2Proof.Machine

/-! ## Bytes -/

/-- The n bytes of a number, least significant first (R5). -/
def leBytes (n v : Nat) : List Byte := (List.range n).map fun i => BitVec.ofNat 8 (v >>> (8 * i))

/-- The number n bytes at an address spell, least significant first; d where nothing is listed. -/
def leAt (d : Byte) (m : AMap Byte) (a n : Nat) : Nat :=
  (List.range n).foldl (fun v i => v ||| ((AMap.get d m (a + i)).toNat <<< (8 * i))) 0

/-- n bytes at an address. -/
def bytesAt (d : Byte) (m : AMap Byte) (a n : Nat) : List Byte := (List.range n).map fun i => AMap.get d m (a + i)

/-- An erased NOR byte. -/
def erased : Byte := 0xFF

/-! ## The NOR flash (R41 to R44) -/

/-- Program bytes: a program clears bits. -/
def norProgram (m : AMap Byte) (addr : Nat) (data : List Byte) : AMap Byte :=
  data.zipIdx.foldl (fun m p => AMap.set erased m (addr + p.2) (AMap.get erased m (addr + p.2) &&& p.1)) m

/-- Erase a 4 KiB sector. -/
def norErase (m : AMap Byte) (addr : Nat) : AMap Byte := AMap.filterKeys (fun k => !decide (addr ≤ k ∧ k < addr + 4096)) m

/-- A free byte. -/
def freeByte (k : Nat) : Byte := (Config.freeData k).setWidth 8

/-- What an abandoned operation leaves: each bit it would have changed is free (R43 says only that it is abandoned). -/
def State.norPartial (s : State) (op : NorOp) : State :=
  match op with
  | .prog addr data _ =>
    { s with nor := { s.nor with mem := norProgram s.nor.mem addr (data.zipIdx.map fun p => p.1 ||| freeByte (s.freeCtr + p.2)) },
             freeCtr := s.freeCtr + data.length }
  | .erase addr _ =>
    let bs := (bytesAt erased s.nor.mem addr 4096).zipIdx.map fun p => p.1 ||| freeByte (s.freeCtr + p.2)
    { s with nor := { s.nor with mem := norProgram (norErase s.nor.mem addr) addr bs }, freeCtr := s.freeCtr + 4096 }

/-- An operation ends as asked. -/
def State.norApply (s : State) (op : NorOp) : State :=
  match op with
  | .prog addr data _ => { s with nor := { s.nor with mem := norProgram s.nor.mem addr data } }
  | .erase addr _ => { s with nor := { s.nor with mem := norErase s.nor.mem addr } }

/-- Request an operation: it starts when none is in progress, else in its turn. -/
def State.norRequest (s : State) (op : NorOp) : State :=
  match s.nor.busy with
  | none => { s with nor := { s.nor with busy := some op } }
  | some _ => { s with nor := { s.nor with queue := s.nor.queue ++ [op] } }

/-- The operation in progress has ended: the next one starts, unless the input is off (R29). -/
def State.norNext (s : State) (timedOut : Bool) : State :=
  match s.nor.queue with
  | op :: rest =>
    if s.pins.inputOn then { s with nor := { s.nor with busy := some op, queue := rest, timedOut := timedOut } }
    else { s with nor := { s.nor with busy := none, queue := [], timedOut := timedOut } }
  | [] => { s with nor := { s.nor with busy := none, timedOut := timedOut } }

/-! ## The fatal-event log (R456, R457) -/

/-- Base of the fatal-event log, and of the leaf journal (Table 2.4). -/
def fatalBase : Nat := 0x2100000
def journalBase : Nat := 0x2000000

/-- A fatal event: it waits to be written, and MG_ALERT bit 1 is set. -/
def State.fatal (s : State) (ty slot reading : Nat) : State :=
  let e : FatalEvent := { ty := ty, slot := slot, reading := reading, step := s.prog.step.toNat }
  ({ s with nor := { s.nor with fatalQ := s.nor.fatalQ ++ [e] }, mgmt := { s.mgmt with alert := s.mgmt.alert ||| 2 } }).ledgIn 7 1

/-- Pages of a 4,096-page log at a base that hold some byte. -/
def logPages (m : AMap Byte) (base : Nat) : List Nat :=
  ((m.filter fun e => decide (base ≤ e.1 ∧ e.1 < base + 0x100000)).map fun e => (e.1 - base) / 256).eraseDups

/-- The page with the highest SEQ that satisfies p: (page, SEQ). -/
def newest (m : AMap Byte) (base : Nat) (p : Nat → Bool) : Option (Nat × Nat) :=
  (logPages m base).foldl (fun best k =>
    let q := leAt erased m (base + 256 * k) 8
    if q = 2 ^ 64 - 1 ∨ p k = false then best
    else match best with | some b => if b.2 < q then some (k, q) else best | none => some (k, q)) none

/-- Scan the log's heads: writing continues after the highest SEQ. -/
def State.fatalScan (s : State) : State :=
  match newest s.nor.mem fatalBase (fun _ => true) with
  | some (k, q) => { s with nor := { s.nor with fatalSeq := q, fatalPos := (k + 1) % 4096 } }
  | none => { s with nor := { s.nor with fatalSeq := 0 } }

/-- Ledger 7 from the newest entry, with the entries still waiting. -/
def State.fatalLoad (s : State) : State :=
  let w := fun i => match newest s.nor.mem fatalBase (fun _ => true) with
    | some (k, _) => leAt erased s.nor.mem (fatalBase + 256 * k + 8 * i) 8 | none => 0
  let n := s.nor.fatalQ.length
  let set := fun (s : State) j v => { s with ledg := AMap.set 0 s.ledg (4 * 7 + j) v }
  set (set (set (set s 0 (w 4 + n)) 1 (w 5)) 2 (w 6)) 3 n

/-- The 256 bytes of an entry. -/
def State.fatalPage (s : State) (e : FatalEvent) : List Byte × State :=
  let (us, s) := s.freshTime 64
  let out := s.ledgGet 7 1 + 1
  let alt := s.ledgGet 7 2
  let ws := [s.nor.fatalSeq + 1, e.ty ||| (e.slot <<< 8) ||| ((e.reading % 2 ^ 32) <<< 16), us, e.step % 2 ^ 48, out + alt, out, alt]
  (ws.flatMap (leBytes 8) ++ List.replicate 200 0, s)

/-- Pages are written in ascending position; after the last of a sector the next sector is erased ahead. -/
def State.eraseAhead (s : State) (base pos : Nat) : State :=
  if pos % 16 = 15 then s.norRequest (.erase (base + 256 * ((pos + 1) % 4096)) .eraseAhead) else s

/-- FATAL_LOG_WRITE (R457): the oldest entry waiting is programmed into the next page. -/
def execFatalLogWrite (s : State) : Out :=
  .next (match s.nor.fatalQ with
    | [] => s
    | e :: _ =>
      if s.pins.aonOn ∧ s.pins.inputOn ∧ s.nor.busy.isNone then
        let s := if s.nor.fatalSeq = 0 then s.fatalScan else s
        let (bs, s) := s.fatalPage e
        s.norRequest (.prog (fatalBase + 256 * s.nor.fatalPos) bs .fatal)
      else s)

/-- The entry being written is done with: written (ok), or abandoned. -/
def State.fatalDone (s : State) (ok : Bool) : State :=
  let pos := s.nor.fatalPos
  let s := { s with nor := { s.nor with fatalQ := s.nor.fatalQ.tail, fatalPos := (pos + 1) % 4096,
                                        fatalSeq := s.nor.fatalSeq + b2n ok } }
  (if ok then s.ledgOut 7 1 else s.ledgAlt 7 1).eraseAhead fatalBase pos

/-- What follows the end of an operation. -/
def State.norAfter (s : State) (op : NorOp) (ok : Bool) : State :=
  match op with
  | .prog _ _ .fatal => s.fatalDone ok
  | _ => s

/-- The operation in progress and those requested after it end as asked, one at a time in order of request (R41): what is requested next
waits for them. n bounds their number. -/
def norSettle : Nat → State → State
  | 0, s => s
  | n + 1, s => match s.nor.busy with
    | none => s
    | some op => norSettle n (((s.norApply op).norAfter op true).norNext false)

/-- Wait for every operation requested so far: each may ask for one erase ahead. -/
def State.norWait (s : State) : State := norSettle (2 * s.nor.queue.length + 2) s

/-- NOR_OPERATION_DONE (R41). -/
def execNorOperationDone (s : State) : Out :=
  .next (match s.nor.busy with
    | none => s
    | some op => ((s.norApply op).norAfter op true).norNext false)

/-- NOR_TIMEOUT (R43): the operation is abandoned, and a fatal event records it. -/
def execNorTimeout (s : State) : Out :=
  .next (match s.nor.busy with
    | none => s
    | some op => (((s.norPartial op).norAfter op false).norNext true).fatal 4 0 0)

/-! ## Power removal and start-up -/

/-- Everything outside the AON domain is lost with its rails (R444). -/
def State.removeRails (s : State) : State :=
  { State.reset with
    pins := { s.pins with rails := 0, corePll := 0, wake := false }, boot := { s.boot with st := .off }, nor := s.nor, mgmt := s.mgmt,
    hk := s.hk, fuses := s.fuses, cfg := s.cfg, host := { HostPort.init with out := s.host.out },
    ledg := s.ledg.filter fun e => decide (28 ≤ e.1), freeCtr := s.freeCtr, pending := s.pending }

/-- Start-up begins at S0 (R35): all state outside the AON domain is discarded and the image buffer cleared. -/
def State.startUp (s : State) : State :=
  let t := s.removeRails
  { t with
    pins := { t.pins with thermtrip := false },
    boot := { Boot.init with st := .s0, thermRestart := s.boot.thermRestart },
    cfg := .init,
    hk := { Hk.init with thermSlot := s.hk.thermSlot, thermValid := s.hk.thermValid, thermReading := s.hk.thermReading,
                         thermCount := s.hk.thermCount } }

/-- Start-up may begin: the input is on, MRST# is high and no thermal shutdown holds. -/
def State.mayStart (s : State) : Bool := s.pins.inputOn && s.pins.mrst && !s.hk.shutdown

/-- Enter HOLD with a FAIL_MOD cause (0: the slots' causes say why). -/
def State.hold (s : State) (cause : Nat) : State :=
  let t := s.removeRails
  { t with boot := { t.boot with st := .hold, failMod := cause } }

/-! ## START_STATUS and MG_ALERT (R51 to R53, R437) -/

/-- STATE of START_STATUS. -/
def BootState.code : BootState → Nat
  | .off => 0 | .bscan => 0 | .s0 => 0 | .s1 => 1 | .s2 => 2 | .s3 => 3 | .s4 => 4 | .s5 => 5 | .s6 => 6 | .s7 => 7 | .hold => 8

/-- START_STATUS (Table 2.7). -/
def State.startStatus (s : State) : Nat :=
  let b := s.boot
  b.st.code ||| (b.slot <<< 4) ||| (b2n b.fallback <<< 5) ||| (b.failA <<< 8) ||| (b.failB <<< 16) ||| (b.failMod <<< 24)
    ||| ((b.startUs % 2 ^ 28) <<< 32)

/-- HOLD with a fault cause (R53). -/
def Boot.holdFault (b : Boot) : Bool :=
  b.st == .hold && (b.failA != 0 || b.failB != 0 || (b.failMod != 0 && b.failMod != 0x0B))

/-- MG_ALERT. -/
def State.mgAlert (s : State) : Nat := (s.mgmt.alert &&& 0xE) ||| b2n s.boot.holdFault

/-- ALERT# is held low (R437). -/
def State.alertLow (s : State) : Bool := s.mgAlert != 0

/-- Start-up states from S1 on, and HOLD. -/
def BootState.fromS1 : BootState → Bool
  | .s1 | .s2 | .s3 | .s4 | .s5 | .s6 | .s7 | .hold => true
  | .off | .s0 | .bscan => false

/-- Housekeeping rounds run (R449, R452): from S3 on, in HOLD and during a thermal shutdown. -/
def State.hkRuns (s : State) : Bool :=
  s.pins.aonOn && (s.hk.shutdown || (match s.boot.st with
    | .s3 | .s4 | .s5 | .s6 | .s7 | .hold => true
    | .off | .bscan | .s0 | .s1 | .s2 => false))

/-! ## Management commands (Table 14.15) -/

/-- Answer a management command with a status and data. -/
def State.mgAnswer (s : State) (status : Nat) (data : List Byte) : State :=
  { s with mgmt := { s.mgmt with status := status, resp := data } }

/-- Answer a command: nothing without AON power, PEC errors first, then states, then what the command gives. -/
def State.mgCommand (s : State) (pecOk inState : Bool) (f : State → State) : State :=
  if !s.pins.aonOn then s
  else if !pecOk then s.mgAnswer 4 []
  else if !inState then s.mgAnswer 2 []
  else f s

/-- GET_STATUS. -/
def execGetStatus (pecOk : Bool) (s : State) : Out :=
  .next (s.mgCommand pecOk s.boot.st.fromS1 fun s => s.mgAnswer 0 (leBytes 8 s.startStatus ++ leBytes 1 s.mgAlert))

/-- "PW-UX9600-LC" in ASCII. -/
def orderingCode : List Byte := [0x50, 0x57, 0x2D, 0x55, 0x58, 0x39, 0x36, 0x30, 0x30, 0x2D, 0x4C, 0x43]

/-- GET_IDENT. -/
def execGetIdent (pecOk : Bool) (s : State) : Out :=
  .next (s.mgCommand pecOk true fun s => s.mgAnswer 0 (leBytes 8 s.fuses.serial ++ leBytes 2 0xB0 ++ orderingCode))

/-- The last round's reading of a slot: INVALID before the first. -/
def Hk.reading (h : Hk) (k : Nat) : Nat := AMap.get 0x80000000 h.sensors k % 2 ^ 32

/-- GET_SENSOR: not ready before S3. -/
def execGetSensor (slot : Nat) (pecOk : Bool) (s : State) : Out :=
  .next (s.mgCommand pecOk true fun s =>
    if s.hkRuns then (if slot < 128 then s.mgAnswer 0 (leBytes 4 (s.hk.reading slot)) else s.mgAnswer 2 []) else s.mgAnswer 5 [])

/-- CLEAR_ALERT (R437): bit 0 is not cleared. -/
def execClearAlert (mask : Nat) (pecOk : Bool) (s : State) : Out :=
  .next (s.mgCommand pecOk true fun s =>
    ({ s with mgmt := { s.mgmt with alert := s.mgmt.alert &&& (0xE &&& (0xF ^^^ (mask % 16))) } }).mgAnswer 0 [])

/-- A NOR command other than NOR_STAT: BUSY while an operation is in progress. -/
def State.norCommand (s : State) (pecOk inState : Bool) (f : State → State) : State :=
  s.mgCommand pecOk inState fun s => if s.nor.busy.isSome then s.mgAnswer 1 [] else f s

/-- Bytes of the NOR flash (R15: 64 MiB). -/
def norSize : Nat := 0x4000000
/-- Bytes of the two slots. -/
def slotsEnd : Nat := 0x2000000

/-- NOR_READ. -/
def execNorRead (addr len : Nat) (pecOk : Bool) (s : State) : Out :=
  .next (s.norCommand pecOk s.boot.st.fromS1 fun s =>
    if 1 ≤ len ∧ len ≤ 31 ∧ addr + len ≤ norSize then s.mgAnswer 0 (bytesAt erased s.nor.mem addr len) else s.mgAnswer 2 [])

/-- NOR_BUF: 16 bytes of the page buffer. -/
def execNorBuf (offset : Nat) (data : List Byte) (pecOk : Bool) (s : State) : Out :=
  .next (s.norCommand pecOk (s.boot.st == .hold) fun s =>
    if offset % 16 = 0 ∧ offset < 256 ∧ data.length = 16 then
      let buf : AMap Byte := data.zipIdx.foldl (fun m (p : Byte × Nat) => AMap.set 0 m (offset + p.2) p.1) s.nor.buf
      ({ s with nor := { s.nor with buf := buf } }).mgAnswer 0 []
    else s.mgAnswer 2 [])

/-- NOR_PROG (R67): the page buffer into a page of the slots. -/
def execNorProg (addr : Nat) (pecOk : Bool) (s : State) : Out :=
  .next (s.norCommand pecOk (s.boot.st == .hold) fun s =>
    if addr % 256 = 0 ∧ addr < slotsEnd then (s.norRequest (.prog addr (bytesAt 0 s.nor.buf 0 256) .slot)).mgAnswer 0 []
    else s.mgAnswer 2 [])

/-- NOR_ERASE (R67). -/
def execNorErase (addr : Nat) (pecOk : Bool) (s : State) : Out :=
  .next (s.norCommand pecOk (s.boot.st == .hold) fun s =>
    if addr % 4096 = 0 ∧ addr < slotsEnd then (s.norRequest (.erase addr .slot)).mgAnswer 0 [] else s.mgAnswer 2 [])

/-- NOR_STAT is answered in every state. -/
def execNorStat (pecOk : Bool) (s : State) : Out :=
  .next (s.mgCommand pecOk true fun s => s.mgAnswer 0 (leBytes 1 (b2n s.nor.busy.isSome ||| (b2n s.nor.timedOut <<< 1))))

end Sys2Proof.Machine
end

