-- ==== Sys2Proof/Machine/Answers.lean ====
section
/-! DEFINITION. What a requester learns of a memory request once it is taken, performed or given up: the status of a late write (R164),
the answers to host reads and writes (R406, R408) and the progress of a peer's transfer (R424). -/

namespace Sys2Proof.Machine

/-- The status an engine's instruction gets from a write performed late: its entry is executed and waits for its token (R164). -/
def State.lateStatus (s : State) (src st : Nat) : State :=
  let g := src % 0x1000
  let k := src / 0x1000
  if 1 ≤ k ∧ k ≤ 4 then
    let e := if k = 1 then Eng.me else if k = 2 then Eng.ve else if k = 3 then Eng.fe else Eng.xe
    match ((s.core g).q.get e).find? fun x => x.phase == .executed && x.head.op != 0x43 with
    | some x => s.setEntry g e { x with status := x.status ||| st }
    | none => s
  else s

/-- Count a host read that returns poison (R408), and answer. -/
def State.hostData (s : State) (dpa : Nat) (ws : List Word) (p : Bool) : State :=
  (if p then s.bump (hostOff + 0x30) else s).tell (.memData dpa ws p)

/-- Free words for a host read that returns poison. -/
def State.hostPoison (s : State) (dpa : Nat) : State :=
  let go := (List.range 8).foldl (fun (acc : List Word × State) _ => let (d, s) := acc.2.freshData; (acc.1 ++ [d], s)) ([], s)
  go.2.hostData dpa go.1 true

/-- A host write that could not be performed (R408). -/
def State.hostDropped (s : State) (dpa : Nat) : State :=
  let n := match placeOf s.cfg dpa with | some p => p.ctl | none => 0
  (s.bump (hostOff + 0x28)).raise 0xF (ctlFid n) dpa 0

/-- What a write's requester learns when a controller takes it (ok) or completes it without performing it. -/
def State.writeTaken (s : State) (r : Req) (ok : Bool) : State :=
  match r.why with
  | .hostWrite => (if ok then s else s.hostDropped r.dpa).tell (.cmp (r.dpa / 64 * 64))
  | .peer src tag free => s.putAccepted src tag free ok
  | _ => if ok then s else s.lateStatus r.src stPOISON

/-- A write with this purpose and these words is still held by a home or for a copy. -/
def State.stillHeld (s : State) (why : ReqFor) (ws : List WUpd) : Bool :=
  let k := (ws.map (·.w)).headD 0
  s.homeOut.any (fun h => h.2.any fun r => r.why == why && (r.ws.map (·.w)).headD 0 == k)
    || s.heldWrites.any fun h => h.why == why && (h.ws.map (·.w)).headD 0 == k

end Sys2Proof.Machine
end

