-- ==== Sys2Proof/Machine/Forager.lean ====
section
/-! DEFINITION. The forager (R314 to R321, R141 to R143): GIDX and its run-ahead, GATHER, SCATTER and FCOMPAT. -/

namespace Sys2Proof.Machine

/-! ## Slots (R315) -/

/-- Lines an access sequence reads: consecutive accesses of one line are one read. -/
def linesOf (as : List Nat) : Nat :=
  (as.foldl (fun (r : Nat × Option Nat) a => if r.2 = some (a / 1024) then r else (r.1 + 1, some (a / 1024))) (0, none)).1

/-- Slots taken and returned within one instruction. -/
def slotUse (n : Nat) : M Unit := modify fun s => (s.ledgIn 2 n).ledgOut 2 n

/-! ## GIDX -/

/-- Descriptor words without poison, for a binding. -/
def readWords (c : Ctx) (h : Nat) : M (List Word) := do
  let ws ← readDescWords c h
  pure (ws.map (·.1))

/-- GIDX (R316, R141): the binding of stream q is replaced; prefetches on their way keep their slots until they arrive. A GIDX that a halt has
flushed binds nothing (R105, R320). -/
def opGidx (c : Ctx) : M Res :=
  withOpnds c [c.h.ha] fun os => do
    match os with
    | [a] =>
      execCheck (a.ok false none c.its && a.idx.isSome) []
      let dw ← readWords c c.h.ha
      let xw ← readWords c a.d.indexh
      let n := match a.idx with | some x => x.sizes.getD 0 0 | none => 0
      let here := (((← get).core c.g).q.get c.e).any fun x => x.qid == c.qid
      let st : IdxStream := { bound := true, handle := c.h.ha, desc := dw, idxDesc := xw, lc := c.lc, levels := c.h.lc,
                              total := c.its.length * n, ahead := 0, drawn := 0, sub := 0, vals := [], stopped := false }
      modify fun s =>
        let k := s.core c.g
        if here then s.setCore c.g { k with streams := AMap.set .init k.streams (bits c.h.md 1 0) st } else s
      pure .nothing
    | _ => pure .nothing

/-- The index descriptor of a stream. -/
def IdxStream.x (t : IdxStream) : Desc := descOf (t.idxDesc.map (·.toNat))
/-- The indexed descriptor of a stream. -/
def IdxStream.d (t : IdxStream) : Desc := descOf (t.desc.map (·.toNat))
/-- The iteration of a position and the element of the index descriptor there. -/
def IdxStream.place (t : IdxStream) (n : Nat) : List Nat × Nat :=
  let m := max 1 (t.x.sizes.getD 0 0)
  ((iterations t.lc).getD (n / m) [], n % m)
/-- The bit address of the index at a position. -/
def IdxStream.idxBit (t : IdxStream) (n : Nat) : Nat :=
  let p := t.place n
  (t.x.bitAt p.1 [p.2]).toNat

/-- Read one index of a stream through a slot (R315): its value and the poison of its word. -/
def readIndexAt (c : Ctx) (t : IdxStream) (n : Nat) : M (Int × Bool) := do
  let es ← readElems c t.x.space (fmtWidth t.x.fmt) [t.idxBit n]
  slotUse 1
  match es with
  | e :: _ => pure (intValue t.x.fmt e.1, e.2)
  | [] => pure (0, true)

/-- Change stream q of core g, while it is bound (R320). -/
def State.onStream (s : State) (g q : Nat) (f : IdxStream → IdxStream) : State :=
  let k := s.core g
  let t := AMap.get IdxStream.init k.streams q
  if t.bound then s.setCore g { k with streams := AMap.set .init k.streams q (f t) } else s

/-- Every line of TVA space (its word index) that the row of outer index v holds, in an iteration. -/
def rowLines (d : Desc) (js : List Nat) (v : Nat) : List Nat :=
  let ws := (tuples (d.used.take (d.rank - 1))).map fun ix => (d.bitAt js (ix ++ [v])).toNat / 1024
  (ws.foldl (fun (acc : List Nat) l => if acc.head? = some l || acc.contains l then acc else l :: acc) []).reverse

/-- Leave stream q of core g stopped, with the stop counted (R318). -/
def State.raStop (s : State) (g q : Nat) : State :=
  (s.onStream g q fun t => { t with stopped := true }).bump (frameOff + 0x140 + 8 * (g / 512))

/-- The word that a read of word w of a space would deliver is uncorrectable: in an SRAM, in the line of its home, or in memory. -/
def State.badWord (s : State) (c : Ctx) (space w : Nat) : Bool :=
  let bad := fun cw => (decode cw).cls == .uncorrectable
  let k := s.core c.g
  match space with
  | 0 => bad (AMap.get zeroCw (k.sram 0) w)
  | 1 => bad (AMap.get zeroCw (s.cluster (clusterOf c.g)).store w)
  | 3 => bad (AMap.get zeroCw (k.sram 1) w)
  | 4 => bad (AMap.get zeroCw (k.sram 3) w)
  | _ =>
    match (s.translate c.die (w / 2 ^ 14)).1 with
    | none => false
    | some f =>
      let w := f.word w
      let l := s.line? (homeOf s.cfg (8 * w)) (w / 16)
      let inLine := l.any fun l => bad (l.words.getD (w % 16) zeroCw)
      if l.any fun l => l.dirty || !bad (l.words.getD (w % 16) zeroCw) then inLine
      else match placeOf s.cfg (8 * w) with | some pl => s.serves pl && bad (s.metWord pl.ctl w) | none => false

/-- The DPA lines of TVA lines, none where a frame has no valid entry. -/
def translateLines (c : Ctx) : List Nat → M (List Nat)
  | [] => pure []
  | l :: ls => do
    match ← act (fun s => s.translate c.die (l / 1024)) with
    | none => throw 5
    | some f =>
      let rest ← translateLines c ls
      pure (f.word (16 * l) / 16 :: rest)

/-- Ask the homes of lines for a prefetch: each takes a slot (R315, R316). -/
def State.prefetch (s : State) (g q : Nat) (ls : List Nat) : State :=
  let s := overList ls (fun l s =>
    let d := homeOf s.cfg (128 * l)
    let b := s.die d
    s.setDie d { b with inbox := b.inbox ++ [{ src := 0x3000 + g, dpa := 128 * l, why := .prefetch g q }] }) s
  let c := s.core g
  (s.setCore g { c with slots := c.slots + ls.length }).ledgIn 2 ls.length

/-- One position of run-ahead (R316): read the index, check it, translate the row's frames, and prefetch its lines as slots allow. -/
def runAhead (c : Ctx) (q : Nat) (t : IdxStream) : M Unit := do
  let (js, _) := t.place t.ahead
  if !inExtent t.x.space (t.x.span js) || !inExtent t.d.space (t.d.span js) then throw 6
  let bad := (← get).badWord c t.x.space (t.idxBit t.ahead / 64)
  let es ← readIndexAt c t t.ahead
  if bad then throw 6
  if es.2 then modify fun s => s.onStream c.g q fun t => { t with ahead := t.ahead + 1, sub := 0 }
  else
    if es.1 < 0 ∨ es.1 ≥ Int.ofNat (t.d.used.getLastD 0) then throw 6
    let rows := if t.d.space = spTVA then rowLines t.d js es.1.toNat else []
    let dl ← translateLines c rows
    modify fun s =>
      if (AMap.get IdxStream.init (s.core c.g).streams q).bound then
        let go := (dl.drop t.sub).take (256 - (s.core c.g).slots)
        let done := t.sub + go.length ≥ dl.length
        (s.prefetch c.g q go).onStream c.g q fun t =>
          if done then { t with ahead := t.ahead + 1, sub := 0, vals := AMap.set 0 t.vals t.ahead (es.1 + 1) }
          else { t with sub := t.sub + go.length }
      else s

/-- Run-ahead of stream q of a core (R316, R318): nothing where it is stopped, has nothing left, is 4,096 positions ahead or holds its
256 slots, or while a die cache resets (R312). -/
def execRunAheadPrefetch (core q : Nat) (s : State) : Out :=
  .next (let t := AMap.get IdxStream.init (s.core core).streams q
    let c : Ctx := { g := core, e := .fe, q := 0, pc := 0, qid := 0, h := headOf 0, ext := [], lc := t.lc, keep := false }
    if s.engineOn core ∧ s.cacheReset = false ∧ t.bound ∧ t.stopped = false ∧ t.ahead < t.total ∧ t.ahead < t.drawn + 4096
        ∧ (s.core core).slots < 256 then
      match (runAhead c q t).run s with
      | (.ok _, s') => s'
      | (.error _, s') => s'.raStop core q
    else s)

/-! ## GATHER, SCATTER, FCOMPAT -/

/-- Shapes of R314: a indexed, d direct. -/
def gatherShapes (a d : Opnd) : Bool :=
  a.idx.isSome && d.idx.isNone && a.d.rank == d.d.rank && a.d.fmt == d.d.fmt && d.d.used == a.shape

/-- Draw the next index of stream q (R317), or none where it has none left. Demand that passes a stop lets run-ahead resume (R318). -/
def drawIndex (c : Ctx) (q : Nat) : M (Option (Int × Bool)) := do
  let t := AMap.get IdxStream.init ((← get).core c.g).streams q
  if t.drawn < t.total then
    let held := AMap.get 0 t.vals t.drawn
    let v ← if held ≠ 0 then pure (held - 1, false) else readIndexAt c t t.drawn
    modify fun s => s.onStream c.g q fun t =>
      let n := t.drawn + 1
      let t := { t with drawn := n, vals := AMap.erase t.vals t.drawn }
      if t.ahead < n then { t with ahead := n, sub := 0, stopped := false } else t
    pure (some v)
  else pure none

/-- The index values of an iteration of a GATHER: from its stream, then on demand, with the bit addresses read on demand. A halt leaves those
read before it. -/
def gatherIndices (c : Ctx) (useq : Bool) (q : Nat) (x : Desc) (js : List Nat) : M (List (Int × Bool) × List Nat × Option Nat) := do
  let mut out : Array (Int × Bool) := #[]
  let mut read : Array Nat := #[]
  let mut stop : Option Nat := none
  for p in List.range (x.sizes.getD 0 0) do
    if stop.isNone then
      let a := (x.bitAt js [p]).toNat
      let rd : M ((Int × Bool) × List Nat) := do
        let onDemand : M ((Int × Bool) × List Nat) := do
          let es ← readElems c x.space (fmtWidth x.fmt) [a]
          pure ((match es with | e :: _ => (intValue x.fmt e.1, e.2) | [] => (0, true)), [a])
        if useq then
          match ← drawIndex c q with
          | some v => pure (v, [])
          | none => onDemand
        else onDemand
      match ← attempt rd with
      | .ok v => out := out.push v.1; read := read ++ v.2
      | .error k => stop := some k
  pure (out.toList, read.toList, stop)

/-- Where index values stop, the positions before them. -/
def cutRows (row n : Nat) (es : List SrcEl) : List SrcEl := es.take (row * n)

/-- One iteration of a GATHER or FCOMPAT. -/
def gatherIter (c : Ctx) (useq : Bool) (q : Nat) (d a : Opnd) (js : List Nat) : M Nat := do
  match a.idx with
  | none => pure 0
  | some x =>
    let (idx, onDemand, si) ← gatherIndices c useq q x js
    let row := product' (a.shape.dropLast)
    let known := { a with idx := some { x with sizes := idx.length :: x.sizes.tail } }
    let (es, sa) ← readSourceWith c known js idx
    let source := fun (e : SrcEl) => idx.getD (e.ix.getLastD 0) (0, true)
    let rows := (es.filter fun e => e.keep && !(source e).2).map fun e => (a.d.bitAt js (e.ix.dropLast ++ [(source e).1.toNat])).toNat
    slotUse (linesOf rows + linesOf onDemand)
    let es := cutRows row idx.length es
    let (ds, sd) ← readDest c d js
    let st ← storeVals c d ds (es.map fun e => ⟨e.v, e.p, e.keep⟩)
    finish sa
    finish si
    finish sd
    pure st

/-- GATHER (R314, R317): useq draws from stream q. FCOMPAT is the same without a stream (R321). -/
def opGatherWith (spaces : Nat → Bool) (useq : Bool) (q : Nat) (c : Ctx) : M Res :=
  withOpnds c [c.h.hd, c.h.ha] fun os => do
    match os with
    | [d, a] =>
      let t := AMap.get IdxStream.init ((← get).core c.g).streams q
      execCheck (a.ok false none c.its && d.ok true none c.its && gatherShapes a d && (a.d.space == spCL || a.d.space == spTVA)
        && spaces d.d.space && (!useq || (t.bound && t.handle == c.h.ha))) [d.d]
      let mut st := 0
      for js in c.its do st := st ||| (← gatherIter c useq q d a js)
      pure (Res.nothing.flag st)
    | _ => pure .nothing

def opGather (c : Ctx) : M Res := opGatherWith (fun sp => sp != spTVA) (bitOf c.h.md 2) (bits c.h.md 1 0) c
def opFcompat (c : Ctx) : M Res := opGatherWith (fun sp => sp == spCS || sp == spCL) false 0 c

/-- Copy the elements of a source to the places of a destination in linear order (R136, R143, R159). -/
def copyIter (c : Ctx) (d a : Opnd) (js : List Nat) : M Nat := do
  let (es, sa) ← readSource c a js
  let (ds, sd) ← readDest c d js
  let st ← storeVals c d ds (es.map fun e => ⟨e.v, e.p, e.keep⟩)
  finish sa
  finish sd
  pure st

/-- SCATTER (R314, R143): positions in ascending order, the last write of an element remaining. -/
def opScatter (c : Ctx) : M Res :=
  withOpnds c [c.h.hd, c.h.ha] fun os => do
    match os with
    | [d, a] =>
      execCheck (a.ok false none c.its && d.ok true none c.its && gatherShapes d a && (d.d.space == spCL || d.d.space == spTVA)
        && a.d.space != spTVA) [d.d]
      let mut st := 0
      for js in c.its do st := st ||| (← copyIter c d a js)
      pure (Res.nothing.flag st)
    | _ => pure .nothing

def execGidx (core : Nat) (s : State) : Out := .next (s.runEngine core .fe 0x60 opGidx)
def execGather (core : Nat) (s : State) : Out := .next (s.runEngine core .fe 0x61 opGather)
def execScatter (core : Nat) (s : State) : Out := .next (s.runEngine core .fe 0x62 opScatter)
def execFcompat (core : Nat) (s : State) : Out := .next (s.runEngine core .fe 0x63 opFcompat)

end Sys2Proof.Machine
end

