-- ==== Sys2Proof/Machine/Matrix.lean ====
section
/-! DEFINITION. The matrix engine (chapter 7): accumulator banks, MMA, MMAS, MZERO, MDRAIN, and MV with the comb tiles it shares with CMV
(R190, R242 to R246). -/

namespace Sys2Proof.Machine

/-! ## Accumulators (R203) -/

/-- Bit address of element (m, n) of bank b within the accumulators. -/
def accBit (b m n : Nat) : Nat := 32 * (1024 * b + 32 * m + n)
/-- Bit address of element i of the MV accumulator set. -/
def mvBit (i : Nat) : Nat := 32 * (2048 + i)

def Core.kind (c : Core) (b : Nat) : BankKind := if b = 0 then c.kind0 else c.kind1
def Core.setKind (c : Core) (b : Nat) (k : BankKind) : Core := if b = 0 then { c with kind0 := k } else { c with kind1 := k }

/-- The whole bank to the pattern 0, kind NONE (R205, R208). -/
def clearBank (c : Ctx) (b : Nat) : M Unit := do
  let _ ← writeWords c spAcc ((List.range 512).map fun i => { w := 512 * b + i, mask := fullMask, d := 0, p := false })
  modify fun s => s.setCore c.g ((s.core c.g).setKind b .none)

/-! ## MMA and MMAS (R204 to R207) -/

/-- Eight- and four-bit integer formats. -/
def smallInt (f : Nat) : Bool := f ≤ 3

/-- Table 4.11 and Table 7.1 for MMA and MMAS. -/
def mmaOk (scaled : Bool) (its : List (List Nat)) (a b : Opnd) : Bool :=
  a.ok false (some 0) its && b.ok false (some 0) its
  && a.d.space == spBT && (b.d.space == spCS || b.d.space == spCL)
  && a.d.rank == 2 && b.d.rank == 2
  && (match a.shape, b.shape with
      | [k, m], [k', n] => k == k' && 1 ≤ m && m ≤ 32 && 1 ≤ n && n ≤ 32
      | _, _ => false)
  && a.d.scalemode == b.d.scalemode && (a.d.scalemode != 0) == scaled
  && (if scaled then (smallInt a.d.fmt && smallInt b.d.fmt) || (a.d.fmt == 4 && b.d.fmt == 4)
      else (smallInt a.d.fmt && smallInt b.d.fmt) || (a.d.fmt == 5 && b.d.fmt == 5))

/-- The accumulation kind (Table 4.11). -/
def mmaKind (scaled : Bool) (a : Opnd) : BankKind := if scaled || a.d.fmt == 5 then .fp32 else .int32

/-- The pair of operands at one input; where either is masked it is absent (R159), as a pair whose product adds nothing: 0, or −0.0 for
BF16. -/
def mmaPair (f : Nat) (a b : SrcEl) : Nat × Nat :=
  if a.keep && b.keep then (a.v, b.v) else if f = 4 then (0x40, 0x40) else if f = 5 then (0x8000, 0x3F80) else (0, 0)

/-- Accumulate a sequence of pairs from an accumulator pattern: scales give (ea, eb) of each block. -/
def accumulate (fa fb block : Nat) (acc : Nat) (ps : List (Nat × Nat)) (scales : List (Nat × Nat)) : Nat × Ev :=
  if block ≠ 0 then
    scaledAccum fa fb acc (((chunksOf block ps).zip scales).map fun x => (x.1.map (·.1), x.1.map (·.2), x.2.1, x.2.2))
  else if fa = 5 then bfAccum acc (ps.map (·.1)) (ps.map (·.2))
  else
    let (z, e) := intAccum fa fb (sext 32 acc) (ps.map (·.1)) (ps.map (·.2))
    (wrapBits 32 z, e)

/-- Scale codes of an operand in an iteration, in rows of its dimension 0; none without scales. -/
def readScales (c : Ctx) (o : Opnd) (js : List Nat) : M (List (List Elem)) := do
  match o.scale with
  | none => pure []
  | some x =>
    let es ← readElems c x.space 8 (x.addrs js (tuples x.used))
    pure (chunksOf (max 1 (x.sizes.getD 0 0)) es)

/-- Fail at the first halt a source read met. -/
def readAll (c : Ctx) (o : Opnd) (js : List Nat) : M (List SrcEl) := do
  let (es, stop) ← readSource c o js
  finish stop
  pure es

/-- The block length of an operand, 0 without scales. -/
def Opnd.block (o : Opnd) : Nat := if o.d.scalemode = 0 then 0 else blockLen o.d.scalemode

/-- Inputs of a partial: a block, or a chunk of 32 without scales (R185 to R187). -/
def partLen (block : Nat) : Nat := if block = 0 then 32 else block

/-- Of nb partials of element number i, those among the first left. -/
def passParts (left : Option Nat) (i nb : Nat) : Nat := match left with | some l => min nb (l - i * nb) | none => nb

/-- One iteration with elements of an MMA or MMAS into bank b; fresh takes the identity first (R206). Only the first left partials, in
order of the elements (m, n), are added (R374). Answers the events of the elements, in that order, and whether poison was written. -/
def mmaIter (c : Ctx) (b : Nat) (fresh : Bool) (left : Option Nat) (oa ob : Opnd) (js : List Nat) : M (List Ev × Bool) := do
  let k := oa.shape.getD 0 0
  let as := chunksOf k (← readAll c oa js)
  let bs := chunksOf k (← readAll c ob js)
  let sas ← readScales c oa js
  let sbs ← readScales c ob js
  let len := partLen oa.block
  let mut puts : Array Put := #[]
  let mut evs : Array Ev := #[]
  for (ra, m) in as.zipIdx do
    let old ← if fresh then pure (List.replicate bs.length (0, false))
      else readElems c spAcc 32 ((List.range bs.length).map fun n => accBit b m n)
    for ((rb, n), o) in bs.zipIdx.zip old do
      let j := passParts left (m * bs.length + n) ((k + len - 1) / len)
      let ra := ra.take (j * len)
      let rb := rb.take (j * len)
      let sa := (sas.getD m []).take j
      let sb := (sbs.getD n []).take j
      let (v, e) := accumulate oa.d.fmt ob.d.fmt oa.block o.1 ((ra.zip rb).map fun p => mmaPair oa.d.fmt p.1 p.2)
        ((sa.zip sb).map fun p => (p.1.1, p.2.1))
      let p := o.2 || ra.any (·.p) || rb.any (·.p) || sa.any (·.2) || sb.any (·.2)
      puts := puts.push { a := accBit b m n, v := v, p := p }
      evs := evs.push e
  let st ← writeElems c spAcc 32 puts.toList
  pure (evs.toList, st != 0)

/-- Sum the events of the elements over iterations: an element counts at most once (R202). -/
def orEvents (a b : List Ev) : List Ev := if a.isEmpty then b else (a.zip b).map fun p => p.1.or p.2

/-- What elements' events make of counts. -/
def countEvents (es : List Ev) : Nat × Nat := ((es.filter (·.sat)).length, (es.filter (·.flush)).length)

/-- MMA (scaled = false) and MMAS (scaled = true). -/
def opMma (scaled : Bool) (chk : ArithCheck) (c : Ctx) : M Res :=
  withOpnds c [c.h.ha, c.h.hb] fun os => do
    match os with
    | [a, b] =>
      execCheck (mmaOk scaled c.its a b) []
      let bank := bits c.h.md 0 0
      let acc := bitOf c.h.md 1
      let works := c.its != [] && a.count != 0 && b.count != 0
      let kind := mmaKind scaled a
      let old := ((← get).core c.g).kind bank
      if acc && old != .none && old != kind then throw 6
      if works then
        let mut left ← arithEvents c 0x210 chk
        let parts := (a.shape.getD 0 0 + partLen a.block - 1) / partLen a.block * (a.shape.getD 1 0 * b.shape.getD 1 0)
        modify fun s => s.setCore c.g ((s.core c.g).setKind bank kind)
        let mut evs : List Ev := []
        let mut pois := false
        let mut fresh := !acc
        for js in c.its do
          let (es, p) ← mmaIter c bank fresh left a b js
          left ← passUnits left parts
          evs := orEvents evs es
          pois := pois || p
          fresh := false
        passEnd left
        let (sat, fl) := countEvents evs
        pure ⟨statusIf pois stPOISON, sat, fl, false⟩
      else pure .nothing
    | _ => pure .nothing

/-- MZERO (R208). -/
def opMzero (c : Ctx) : M Res := do
  if c.its != [] then
    if bitOf c.h.md 0 then clearBank c 0
    if bitOf c.h.md 1 then clearBank c 1
  pure .nothing

/-- Table 7.1 and R209 for the HD of MDRAIN. -/
def mdrainOk (its : List (List Nat)) (o : Opnd) : Bool :=
  o.ok true none its && o.d.rank == 2 && o.d.space != spTVA && o.d.fmt ≤ 9
  && o.shape.all fun n => 1 ≤ n && n ≤ 32

/-- MDRAIN (R209): accumulator (m, n) goes to HD indices (n, m). Until it completes, its destination holds back what reads it (R210). -/
def opMdrain (c : Ctx) : M Res :=
  withOpnds c [c.h.hd] fun os => do
    match os with
    | [o] =>
      execCheck (mdrainOk c.its o) [o.d]
      modify fun s =>
        let s := s.noteWaits c.g
        let k := s.core c.g
        let sp := if product' o.d.used = 0 then [] else c.its.map fun js => (o.d.space, o.d.span js)
        s.setCore c.g { k with drains := AMap.set [] k.drains c.qid sp }
      let b := bits c.h.md 0 0
      let from' := if ((← get).core c.g).kind b = .fp32 then 7 else 8
      let mut r := Res.nothing
      for js in c.its do
        let (ds, stop) ← readDest c o js
        let es ← readElems c spAcc 32 ((tuples o.shape).map fun ix => accBit b (ix.getD 1 0) (ix.getD 0 0))
        let vs := es.map fun e => (convert true from' o.d.fmt e.1, e.2)
        let st ← storeVals c o ds (vs.map fun v => ⟨v.1.1, v.2, true⟩)
        finish stop
        r := (((ds.zip vs).filter fun x => x.1.keep && x.1.a.isSome).foldl (fun r x => r.count x.2.1.2) r).flag st
      if bitOf c.h.md 1 && c.its != [] then clearBank c b
      pure r
    | _ => pure .nothing

/-! ## Comb tiles (R190, R242 to R246) -/

/-- Inputs of a full tile by weight format (Table 8.2). -/
def tileInputs (fw : Nat) : Nat := if fw = 2 ∨ fw = 3 then 8192 else 4096

/-- The accumulators a tile uses: 128·h + i for output i of half h (R268). -/
def Tile.accs (t : Tile) : List Nat := List.range t.n0 ++ (List.range t.n1).map (128 + ·)
/-- The output of accumulator a. -/
def Tile.output (t : Tile) (a : Nat) : Nat :=
  if t.inMajor then t.grp * (2 * t.j + a / 128) + a % 128 else 256 * t.j + a
/-- Input k of the tile as an input of the tensor. -/
def Tile.input (t : Tile) (k : Nat) : Nat := tileInputs t.fmtW * t.t + k
/-- Indices along input place x (an input, or a block of inputs) of accumulator a (Table 8.3). -/
def Tile.index (t : Tile) (a xLocal xGlobal : Nat) : List Nat :=
  if t.inMajor then [a % 128, xGlobal, 2 * t.j + a / 128]
  else if t.wFull3 then [xLocal, t.output a, t.t]
  else [xGlobal, t.output a]
/-- Bit address of the weight of input k and accumulator a. -/
def Tile.wBit (t : Tile) (a k : Nat) : Nat :=
  (t.wBase + Int.ofNat (fmtWidth t.fmtW) * dotInt (t.index a k (t.input k)) t.wStr).toNat
/-- Byte address of the scale code of block b and accumulator a. -/
def Tile.sByte (t : Tile) (a b : Nat) : Nat :=
  (t.sBase + dotInt (t.index a b (t.input 0 / t.block + b)) t.sStr).toNat
/-- Blocks of the tile. -/
def Tile.blocks (t : Tile) : Nat := if t.block = 0 then 0 else t.nIn / t.block
/-- Bit address of the tile partial of accumulator a (R246). -/
def Tile.hdBit (t : Tile) (a : Nat) : Nat := (t.hdBase + 32 * dotInt [t.t, t.output a] t.hdStr).toNat

/-- The shape of a weight operand: inputs, outputs, input tiles, output tiles; none where it fits no row of Table 8.3. -/
def weightShape (inMajor : Bool) (d : Desc) : Option (Nat × Nat × Nat × Nat) :=
  let n := tileInputs d.fmt
  let z := fun i => d.sizes.getD i 0
  let up := fun a b => (a + b - 1) / b
  if inMajor then
    if d.rank = 3 ∧ 1 ≤ z 0 ∧ z 0 ≤ 128 then some (z 1, z 0 * z 2, up (z 1) n, up (z 2) 2) else none
  else if d.rank = 2 then some (z 0, z 1, up (z 0) n, up (z 1) 256)
  else if d.rank = 3 ∧ z 0 = n then some (n * z 2, z 1, z 2, up (z 1) 256)
  else none

/-- The operands of MV and CMV are valid (R137, R245, R246, Table 4.10). -/
def mvOk (cmv inMajor : Bool) (its : List (List Nat)) (a b d : Opnd) : Bool :=
  a.ok false (some (b2n inMajor)) its && b.ok false (some 0) its && d.ok true none its
  && (if cmv then a.d.space == spTVA && bitOf a.d.attr 0 else a.d.space != spBT)
  && (b.d.space == spCS || (!cmv && b.d.space == spBT)) && d.d.space == spCS
  && ((smallInt a.d.fmt && (b.d.fmt == 0 || b.d.fmt == 1)) || (a.d.fmt == 4 && b.d.fmt == 4 && a.d.scalemode != 0))
  && a.d.scalemode == b.d.scalemode && d.d.fmt == (if a.d.scalemode = 0 then 8 else 7)
  && a.idx.isNone && a.mask.isNone && b.idx.isNone && b.mask.isNone && d.idx.isNone && d.mask.isNone && d.scale.isNone
  && (match weightShape inMajor a.d with
      | some (i, o, t, _) => b.d.rank == 1 && b.d.used == [i] && d.d.rank == 2 && d.d.used == [t, o]
      | none => false)

/-- The activation operand as read: patterns with poison, and scale codes with poison. -/
structure Acts where
  vs : List Elem
  ss : List Elem
  deriving DecidableEq, Repr

/-- Read HB and its scales. -/
def readActs (c : Ctx) (b : Opnd) (js : List Nat) : M Acts := do
  let vs ← readElems c b.d.space (fmtWidth b.d.fmt) (b.d.addrs js (tuples b.d.used))
  let ss ← match b.scale with
    | none => pure []
    | some x => readElems c x.space 8 (x.addrs js (tuples x.used))
  pure ⟨vs, ss⟩

/-- Comb tile (t, j) of an iteration. -/
def mkTile (c : Ctx) (inMajor : Bool) (a b d : Opnd) (x : Acts) (js : List Nat) (inputs outputs t j : Nat) : Tile :=
  let n := tileInputs a.d.fmt
  let blk := a.block
  let nIn := min n (inputs - n * t)
  let grp := if inMajor then a.d.sizes.getD 0 0 else 0
  let as := (x.vs.drop (n * t)).take nIn
  let ss := if blk = 0 then [] else (x.ss.drop (n * t / blk)).take (nIn / blk)
  let groups := if inMajor then a.d.sizes.getD 2 0 else 0
  { core := c.g, qid := c.qid, inMajor := inMajor, fmtW := a.d.fmt, fmtA := b.d.fmt, block := blk, t := t, j := j,
    n0 := if inMajor then grp else min 128 (outputs - 256 * j),
    n1 := if inMajor then (if 2 * j + 1 < groups then grp else 0) else min 128 (outputs - 256 * j - 128),
    nIn := nIn, grp := grp, wBase := 8 * a.d.baseAt js, wStr := a.d.usedStr, wFull3 := !inMajor && a.d.rank == 3,
    sBase := (match a.scale with | some y => y.baseAt js | none => 0),
    sStr := (match a.scale with | some y => y.usedStr | none => []),
    space := a.d.space, sSpace := (match a.scale with | some y => y.space | none => 0),
    frames := [], act := as.map (·.1), actScale := ss.map (·.1), actPoison := as.any (·.2) || ss.any (·.2),
    hdBase := 8 * d.d.baseAt js, hdStr := d.d.usedStr, after := 0 }

/-- The comb tiles of an iteration, input tile fastest. -/
def tilesOf (c : Ctx) (inMajor : Bool) (a b d : Opnd) (x : Acts) (js : List Nat) : List Tile :=
  match weightShape inMajor a.d with
  | some (i, o, t, jt) =>
    if a.d.used.any (· == 0) then [] else
    (List.range jt).flatMap fun j => (List.range t).map fun tt => mkTile c inMajor a b d x js i o tt j
  | none => []

/-- The partial of one accumulator from its weights and weight scale codes (R244, R183 to R190). -/
def Tile.partial (t : Tile) (ws : List Nat) (ss : List Nat) : Nat × Ev :=
  accumulate t.fmtW t.fmtA t.block 0 (ws.zip t.act) (ss.zip t.actScale)

/-- The partials of one accumulator of a tile, and of the whole tile. -/
def Tile.parts (t : Tile) : Nat := (t.nIn + partLen t.block - 1) / partLen t.block
def Tile.allParts (t : Tile) : Nat := t.parts * t.accs.length

/-- Compute a tile in the MV accumulator set and write its partials to HD (R212). Where fewer than all its chunk or block partials are
left to pass, those are added and nothing is delivered (R374). -/
def mvTile (c : Ctx) (left : Option Nat) (t : Tile) : M Res := do
  let mut r := Res.nothing
  let mut ps : Array Put := #[]
  let len := partLen t.block
  for (a, i) in t.accs.zipIdx do
    let j := passParts left i t.parts
    let ws ← readElems c t.space (fmtWidth t.fmtW) ((List.range (min t.nIn (j * len))).map fun k => t.wBit a k)
    let ss ← readElems c t.sSpace 8 ((List.range (min t.blocks j)).map fun b => 8 * t.sByte a b)
    let (v, e) := t.partial (ws.map (·.1)) (ss.map (·.1))
    r := r.count e
    ps := ps.push { a := a, v := v, p := t.actPoison || ws.any (·.2) || ss.any (·.2) }
  let _ ← writeElems c spAcc 32 (ps.toList.map fun p => { p with a := mvBit p.a })
  if left.any fun l => decide (l < t.allParts) then pure r
  else
    let st ← writeElems c spCS 32 (ps.toList.map fun p => { p with a := t.hdBit p.a })
    pure (r.flag st)

/-- MV (R212). -/
def opMv (chk : ArithCheck) (c : Ctx) : M Res :=
  withOpnds c [c.h.ha, c.h.hb, c.h.hd] fun os => do
    match os with
    | [a, b, d] =>
      let im := bitOf c.h.md 0
      execCheck (mvOk false im c.its a b d) [d.d]
      let mut left ← arithEvents c 0x210 chk
      let mut r := Res.nothing
      for js in c.its do
        let x ← readActs c b js
        for t in tilesOf c im a b d x js do
          let q ← mvTile c left t
          left ← passUnits left t.allParts
          r := ⟨r.status ||| q.status, r.sat + q.sat, r.flush + q.flush, false⟩
      passEnd left
      pure r
    | _ => pure .nothing

def execMma (core : Nat) (chk : ArithCheck) (s : State) : Out := .next (s.runEngine core .me 0x40 (opMma false chk))
def execMmas (core : Nat) (chk : ArithCheck) (s : State) : Out := .next (s.runEngine core .me 0x41 (opMma true chk))
def execMzero (core : Nat) (s : State) : Out := .next (s.runEngine core .me 0x42 opMzero)
def execMdrain (core : Nat) (s : State) : Out := .next (s.runEngine core .me 0x43 opMdrain)
def execMv (core : Nat) (chk : ArithCheck) (s : State) : Out := .next (s.runEngine core .me 0x44 (opMv chk))

end Sys2Proof.Machine
end

