-- ==== Sys2Proof/Machine/Transfer.lean ====
section
/-! DEFINITION. The XE's transfers within the module (chapters 4, 8 and 10): MOVE, FILL, MIRRORSYNC, and CMV with its comb dispatch,
its MV fallback and its completion (R136, R145, R247 to R250). -/

namespace Sys2Proof.Machine

/-! ## MOVE and FILL -/

/-- MOVE (R136): equal format and number of elements. -/
def opMove (c : Ctx) : M Res :=
  withOpnds c [c.h.hd, c.h.ha] fun os => do
    match os with
    | [d, a] =>
      execCheck (a.ok false none c.its && d.ok true none c.its && a.d.fmt == d.d.fmt && a.count == d.count) [d.d]
      let mut st := 0
      for js in c.its do st := st ||| (← copyIter c d a js)
      pure (Res.nothing.flag st)
    | _ => pure .nothing

/-- FILL (R136): the low bits of the extension word in every element. -/
def opFill (c : Ctx) : M Res :=
  withOpnds c [c.h.hd] fun os => do
    match os with
    | [d] =>
      execCheck (d.ok true none c.its) [d.d]
      let mut st := 0
      for js in c.its do
        let (ds, sd) ← readDest c d js
        let q ← storeVals c d ds (ds.map fun _ => ⟨c.ext.headD 0 % 2 ^ fmtWidth d.d.fmt, false, true⟩)
        finish sd
        st := st ||| q
      pure (Res.nothing.flag st)
    | _ => pure .nothing

def execMove (core : Nat) (s : State) : Out := .next (s.runEngine core .xe 0x70 opMove)
def execFill (core : Nat) (s : State) : Out := .next (s.runEngine core .xe 0x71 opFill)

/-! ## MIRRORSYNC (R145) -/

/-- TVA frames a descriptor's spans touch. -/
def Desc.frames (d : Desc) (its : List (List Nat)) : List Nat :=
  if product' d.used = 0 then []
  else
    (its.flatMap fun js =>
      let sp := d.span js
      let a := sp.1.toNat / 2 ^ 20
      let b := sp.2.toNat / 2 ^ 20
      (List.range (b + 1 - a)).map (a + ·)).eraseDups

/-- A requester ID of core g (any engine). -/
def ofCore (src g : Nat) : Bool := src % 0x1000 == g && 1 ≤ src / 0x1000 && src / 0x1000 ≤ 5

/-- Some write of core g to TVA frame fr, which maps to DPA frame df, is not yet committed to both frames. -/
def State.mirrorBusy (s : State) (g fr df : Nat) : Bool :=
  s.dies.any (fun b => b.2.dups.any fun u => u.frame == fr && ofCore u.src g)
  || s.heldWrites.any (fun h => h.frame == fr && ofCore h.src g)
  || s.ctls.any (fun c => (c.2.q ++ c.2.inflight).any fun r => ofCore r.src g && r.ws.any fun u => u.w / 2 ^ 14 == df)
  || s.homeOut.any (fun h => h.2.any fun r => ofCore r.src g && r.ws.any fun u => u.w / 2 ^ 14 == df)

/-- MIRRORSYNC must still wait: a mirrored frame of its extent has a write outstanding. -/
def State.mirrorWait (s : State) (g : Nat) (c : Ctx) : Bool :=
  let d := descOf (((s.core g).descView c.e c.q c.h.ha).map fun w => (decode w).d.toNat)
  (d.frames c.its).any fun fr =>
    match (s.translate c.die fr).1 with
    | some f => f.mir && s.mirrorBusy g fr f.frame
    | none => false

/-- Translate frames in order; a frame without a valid entry halts with FRAME_MISS. Answers whether one is mirrored and stale. -/
def anyStale (c : Ctx) : List Nat → M Bool
  | [] => pure false
  | fr :: frs => do
    match ← act (fun s => s.translate c.die fr) with
    | none => throw 5
    | some f =>
      let rest ← anyStale c frs
      pure ((f.mir && f.mstale) || rest)

/-- MIRRORSYNC at its completion: POISON where a frame covered is stale (R311). -/
def opMirrorsync (c : Ctx) : M Res :=
  withOpnds c [c.h.ha] fun os => do
    match os with
    | [a] =>
      execCheck (a.ok false none c.its && a.d.space == spTVA && bitOf a.d.attr 1) []
      let bad ← anyStale c (a.d.frames c.its)
      pure (Res.nothing.flag (statusIf bad stPOISON))
    | _ => pure .nothing

/-- MIRRORSYNC waits until earlier writes are committed to both frames. -/
def execMirrorsync (core : Nat) (s : State) : Out :=
  .next (match s.readyEntry core .xe 0x75 with
    | some x => if s.mirrorWait core (x.ctx core .xe false) then s else s.runEngine core .xe 0x75 opMirrorsync
    | none => s)

/-! ## Comb dispatch (R247) -/

/-- The words of TVA space that half h of a tile and its weight scale codes occupy: one per run of accesses to a word. Scale codes of
another space lie in no bank. -/
def Tile.halfWords (t : Tile) (h : Nat) : List Nat :=
  let as := t.accs.filter fun a => a / 128 == h
  let dedup := fun (xs : List Nat) => (xs.foldl (fun (acc : List Nat) w => if acc.head? = some w then acc else w :: acc) []).reverse
  dedup (as.flatMap fun a => (List.range t.nIn).map fun k => t.wBit a k / 64)
    ++ (if t.block = 0 ∨ t.sSpace ≠ spTVA then [] else dedup (as.flatMap fun a => (List.range t.blocks).map fun b => t.sByte a b / 8))

/-- The TVA frames of words. -/
def framesOf (ws : List Nat) : List Nat :=
  (ws.foldl (fun (acc : List Nat) w => if acc.contains (w / 2 ^ 14) then acc else (w / 2 ^ 14) :: acc) []).reverse

/-- Translate the frames of a tile: its (TVA frame, DPA frame) pairs where each is comb-eligible, none otherwise; an invalid entry halts
with FRAME_MISS. -/
def tileFrames (c : Ctx) : List Nat → M (Option (List (Nat × Nat)))
  | [] => pure (some [])
  | fr :: frs => do
    match ← act (fun s => s.translate c.die fr) with
    | none => throw 5
    | some f =>
      let rest ← tileFrames c frs
      pure (if f.comb then rest.map ((fr, f.frame) :: ·) else none)

/-- The DPA frame a tile reads for a TVA frame. -/
def Tile.dpaFrame (t : Tile) (fr : Nat) : Nat :=
  match t.frames.find? (fun p => p.1 == fr) with | some p => p.2 | none => 0

/-- The banks (controller, bank) that half h of a tile lies in. -/
def State.halfBanks (s : State) (t : Tile) (h : Nat) : List (Nat × Nat) :=
  ((framesOf (t.halfWords h)).filterMap fun fr => (placeOf s.cfg (t.dpaFrame fr * 2 ^ 17)).map fun p => (p.ctl, p.bank)).eraseDups

/-- The comb unit of controller n and an even bank of it (R236). -/
def unitOf (n bank : Nat) : Nat := 48 * n + 16 * (bank / 32) + (bank % 32) / 2

/-- The unit whose pair holds a tile (Table 8.4, Pair), with the banks the tile uses. -/
def State.tilePair (s : State) (t : Tile) : Option (Nat × List (Nat × Nat)) :=
  let b0 := s.halfBanks t 0
  let b1 := s.halfBanks t 1
  match b0, b1 with
  | [(n, b)], [] => if b % 2 = 0 then some (unitOf n b, b0) else none
  | [(n, b)], [(m, b')] => if b % 2 = 0 ∧ n = m ∧ b' = b + 1 then some (unitOf n b, b0 ++ b1) else none
  | _, _ => none

/-- The Density condition of Table 8.4. -/
def Tile.dense (t : Tile) : Bool :=
  t.wStr.getD 0 0 == 1 && (!t.inMajor || t.wStr.getD 1 0 == Int.ofNat t.grp) && (t.block == 0 || t.sStr.getD 0 0 == 1)

/-- Leave a tile to the issuing core's ME. -/
def State.toMv (s : State) (t : Tile) : State := let c := s.core t.core; s.setCore t.core { c with mvq := c.mvq ++ [t] }

/-- Dispatch a tile (Table 8.4): to its comb unit, or to the ME. A tile whose weight scale codes lie outside TVA space fails Pair. -/
def State.dispatchTile (s : State) (t : Tile) : State :=
  match (if t.frames != [] && t.dense && (t.block == 0 || t.sSpace == spTVA) then s.tilePair t else none) with
  | none => s.toMv t
  | some (u, bs) =>
    if bs.any fun b => AMap.get 0 (s.ctl b.1).lost b.2 != 0 then s.toMv t
    else if (s.cunit u).st = .service then
      let x := s.cunit u
      s.setUnit u { x with waiting := x.waiting ++ [{ t with after := (s.ctl (u / 48)).seq }] }
    else (s.toMv t).bump (combOff (u / 48) + 0x10)

/-- Tiles of a core dispatched and not completed (R249). -/
def Core.tilesOut (c : Core) : Nat := AMap.sum (fun r => r.left) c.cmvs - c.undisp.length

/-- Dispatch the tiles that wait for a free place of the core's 512. -/
def State.dispatchMore (s : State) (g : Nat) : State :=
  let c := s.core g
  let n := 512 - c.tilesOut
  let go := c.undisp.take n
  go.foldl State.dispatchTile (s.setCore g { c with undisp := c.undisp.drop n })

/-- A tile's partials are all in HD: its CMV counts them (R250), and a waiting tile takes its place. -/
def State.tileDone (s : State) (g qid status sat flush : Nat) : State :=
  let c := s.core g
  let r := AMap.get CmvRec.init c.cmvs qid
  if r.left = 0 then s
  else
    let r := { r with left := r.left - 1, status := r.status ||| status, sat := r.sat + sat, flush := r.flush + flush }
    (s.setCore g { c with cmvs := AMap.put c.cmvs qid r }).dispatchMore g

/-- Read what every tile of an iteration needs and translate its frames. -/
def cmvTiles (c : Ctx) (im : Bool) (a b d : Opnd) (js : List Nat) : M (List Tile) := do
  let x ← readActs c b js
  let mut out : Array Tile := #[]
  for t in tilesOf c im a b d x js do
    let fs ← tileFrames c (framesOf (t.halfWords 0 ++ t.halfWords 1))
    out := out.push { t with frames := fs.getD [] }
  pure out.toList

/-- CMV (R249): read HB, translate and dispatch; the entry stays until every tile has completed. -/
def opCmv (c : Ctx) : M Res :=
  withOpnds c [c.h.ha, c.h.hb, c.h.hd] fun os => do
    match os with
    | [a, b, d] =>
      let im := bitOf c.h.md 0
      execCheck (mvOk true im c.its a b d) [d.d]
      let mut ts : List Tile := []
      for js in c.its do ts := ts ++ (← cmvTiles c im a b d js)
      if ts.isEmpty then pure .nothing
      else
        let sp := if product' d.d.used = 0 then [] else c.its.map d.d.span
        let all := ts
        modify fun s =>
          let s := s.noteWaits c.g
          let k := s.core c.g
          let r : CmvRec := { left := all.length, status := 0, sat := 0, flush := 0, spans := sp }
          (s.setCore c.g { k with cmvs := AMap.put k.cmvs c.qid r, undisp := k.undisp ++ all }).dispatchMore c.g
        pure { Res.nothing with running := true }
    | _ => pure .nothing

def execCmv (core : Nat) (s : State) : Out := .next (s.runEngine core .xe 0x72 opCmv)

/-- The ME computes the first tile left to it, between two of its own instructions (R247). -/
def execMvFallback (core : Nat) (chk : ArithCheck) (s : State) : Out :=
  .next (let k := s.core core
    match k.mvq with
    | [] => s
    | t :: rest =>
      if s.engineOn core ∧ s.cacheReset = false ∧ (executedEntry (k.q.get .me) 0).isNone then
        let c : Ctx := { g := core, e := .me, q := 0, pc := 0, qid := t.qid, h := headOf 0, ext := [], lc := [], keep := false }
        let pc := match (k.q.get .xe).find? (fun x => x.qid == t.qid) with | some x => x.pc | none => 0
        let s := s.setCore core { k with mvq := rest }
        match (do
            let left ← arithEvents c 0x210 chk
            let r ← mvTile c left t
            passEnd left
            pure r : M Res).run s with
        | (.ok r, s) => s.tileDone core t.qid r.status r.sat r.flush
        | (.error cause, s) => if cause = coreFault then s.fault 1 (0x1000 + core) 0 else s.beginHalt cause 3 pc 0
      else s)

/-- A CMV whose tiles have all completed is executed, with its status and counts (R250). -/
def execCmvCompletion (core : Nat) (s : State) : Out :=
  .next (let k := s.core core
    match (k.q.get .xe).find? fun x => x.phase == .running && k.cmvs.any fun r => r.1 == x.qid && r.2.left == 0 with
    | none => s
    | some x =>
      let r := AMap.get CmvRec.init k.cmvs x.qid
      (s.setCore core { k with cmvs := AMap.erase k.cmvs x.qid }).setEntry core .xe
        { x with phase := .executed, status := x.status ||| r.status, sat := r.sat, flush := r.flush })

end Sys2Proof.Machine
end

