-- ==== Sys2Proof/Machine/Comb.lean ====
section
/-! DEFINITION. The comb units (chapters 8 and 9): the command sequence of a tile (R269), the mode registers, latch and SE8 buffer (R265,
R266), runs with their checks (R238 to R244, R267), status and drain (R268), and unit faults (R286, Table 8.5). -/

namespace Sys2Proof.Machine

/-! ## Places -/

/-- The region of a stack and SID. -/
def regionIndex (cfg : Cfg) (stack sid : Nat) : Nat :=
  match cfg.regions.findIdx? (fun r => r.stack == stack && r.sid == sid) with | some i => i | none => 0

/-- The address of a place (R291, R327, R328): the inverse of placeOf. -/
def dpaOf (cfg : Cfg) (n bank row col : Nat) : Nat :=
  if n < 256 then
    let r := regionIndex cfg (n / 32) (bank / 32)
    if (regionAt cfg r).comb then
      r * 2 ^ 35 + (n % 32) * 2 ^ 30 + (bank % 32) * 2 ^ 25 + row * 2 ^ 10 + col * 2 ^ 7
    else
      let o := row * 2 ^ 20 + col * 2 ^ 12
      r * 2 ^ 35 + o + ((n % 32) ^^^ hashBits o cfg.cmask) * 2 ^ 7 + ((bank % 32) ^^^ hashBits o cfg.bmask) * 2 ^ 15
  else
    let p := row * 2 ^ 18 + col * 2 ^ 7
    2 ^ 40 + (n - 256) * 2 ^ 35 + p + ((bank % 16) ^^^ hashBits p cfg.fbmask) * 2 ^ 13
      + ((bank / 16) ^^^ b2n (parity 35 (p &&& cfg.frmask))) * 2 ^ 17

/-- DCH, SID, pair and first bank of a module unit (R236). -/
def unitDch (u : Nat) : Nat := u / 48
def unitSid (u : Nat) : Nat := u % 48 / 16
def unitPair (u : Nat) : Nat := u % 16
def unitBank (u : Nat) : Nat := 32 * unitSid u + 2 * unitPair u
/-- The 48 units of comb group n. -/
def groupUnits (n : Nat) : List Nat := (List.range 48).map (48 * n + ·)

/-! ## Reading order (R243) -/

/-- Outputs of half h. -/
def Tile.halfN (t : Tile) (h : Nat) : Nat := if h = 0 then t.n0 else t.n1
/-- Inputs of latch phase p. -/
def Tile.phaseInputs (t : Tile) (p : Nat) : Nat := min 4096 (t.nIn - 4096 * p)
/-- Scale blocks of latch phase p. -/
def Tile.phaseBlocks (t : Tile) (p : Nat) : Nat := if t.block = 0 then 0 else t.phaseInputs p / t.block
/-- Elements of half h in phase p. -/
def Tile.halfElems (t : Tile) (h p : Nat) : Nat := t.halfN h * t.phaseInputs p
/-- Scale codes of half h in phase p. -/
def Tile.halfCodes (t : Tile) (h p : Nat) : Nat := t.halfN h * t.phaseBlocks p

/-- Element x of half h in phase p: its accumulator and its input. -/
def Tile.elem (t : Tile) (h p x : Nat) : Nat × Nat :=
  if t.inMajor then (128 * h + x % t.halfN h, 4096 * p + x / t.halfN h)
  else (128 * h + x / t.phaseInputs p, 4096 * p + x % t.phaseInputs p)

/-- Scale code y of half h in phase p, in consumption order: its accumulator and its block. -/
def Tile.code (t : Tile) (h p y : Nat) : Nat × Nat :=
  if t.inMajor then (128 * h + y % t.halfN h, 4096 * p / t.block + y / t.halfN h)
  else (128 * h + y / t.phaseBlocks p, 4096 * p / t.block + y % t.phaseBlocks p)

/-- Scale codes consumed before element x. -/
def Tile.codesBefore (t : Tile) (h p x : Nat) : Nat :=
  if t.block = 0 then 0
  else if t.inMajor then x / t.halfN h / t.block * t.halfN h + x % t.halfN h
  else x / t.phaseInputs p * t.phaseBlocks p + x % t.phaseInputs p / t.block

/-- The DPA word a TVA word of the tile was dispatched with. -/
def Tile.dpaWord (t : Tile) (w : Nat) : Nat := t.dpaFrame (w / 2 ^ 14) * 2 ^ 14 + w % 2 ^ 14
/-- DPA byte of a weight. -/
def Tile.wByte (t : Tile) (a k : Nat) : Nat := let b := t.wBit a k / 8; 8 * t.dpaWord (b / 8) + b % 8
/-- DPA byte of a weight scale code. -/
def Tile.cByte (t : Tile) (a b : Nat) : Nat := let x := t.sByte a b; 8 * t.dpaWord (x / 8) + x % 8

/-- Cut a list into its runs of equal values, with their lengths. -/
def lengths (xs : List Nat) : List (Nat × Nat) :=
  (xs.foldl (fun (acc : List (Nat × Nat)) x => match acc with
    | (y, n) :: r => if y = x then (y, n + 1) :: r else (x, 1) :: (y, n) :: r
    | [] => [(x, 1)]) []).reverse

/-- The rows (DPA div 1,024) half h of phase p lies in, in reading order, with the elements each gives. -/
def Tile.rows (t : Tile) (h p : Nat) : List (Nat × Nat) :=
  lengths ((List.range (t.halfElems h p)).map fun x => let e := t.elem h p x; t.wByte e.1 e.2 / 1024)

/-- Every row of half h, in ascending output and then input. -/
def Tile.allRows (t : Tile) (h : Nat) : List Nat :=
  (lengths ((List.range (t.halfN h * t.nIn)).map fun x => t.wByte (128 * h + x / t.nIn) (x % t.nIn) / 1024)).map (·.1)

/-- Spread the rows a phase uses over every row of the half: a row it does not use gives no element. -/
def spread : List Nat → List (Nat × Nat) → List (Nat × Nat)
  | [], _ => []
  | r :: rs, [] => (r, 0) :: spread rs []
  | r :: rs, (q, n) :: qs => if r = q then (r, n) :: spread rs qs else (r, 0) :: spread rs ((q, n) :: qs)

/-- The 256 B pieces (DPA div 256) of the strip of half h in phase p, in consumption order. -/
def Tile.pieces (t : Tile) (h p : Nat) : List (Nat × Nat) :=
  lengths ((List.range (t.halfCodes h p)).map fun y => let e := t.code h p y; t.cByte e.1 e.2 / 256)

/-- A row is in the row set of a tile (R275). -/
def Tile.inRowSet (t : Tile) (row : Nat) : Bool :=
  [0, 1].any fun h => [0, 1].any fun p =>
    (List.range (t.halfElems h p)).any (fun x => let e := t.elem h p x; t.wByte e.1 e.2 / 1024 == row)
    || (List.range (t.halfCodes h p)).any fun y => let e := t.code h p y; t.cByte e.1 e.2 / 1024 == row

/-! ## The command sequence (R269, R270) -/

/-- RUNLEN and SKIP that lead a pointer through phase 0 of an OUT-major tile whose outputs lie whole rows apart, 0 where none do: RUNLEN
rows of an output's phase, then SKIP rows that are none of its own. -/
def Tile.runSkip (t : Tile) : Nat :=
  let per := t.wStr.getD 1 0 * Int.ofNat (fmtWidth t.fmtW)
  let k := t.phaseInputs 0 * fmtWidth t.fmtW / 8192
  let m := (per / 8192).toNat - k
  if !t.inMajor && t.phaseInputs 0 * fmtWidth t.fmtW % 8192 == 0 && decide (0 < per) && per % 8192 == 0
    && decide (0 < k ∧ k < 16 ∧ 0 < m ∧ m < 16 ∧ k < (per / 8192).toNat) then k ||| (m <<< 8) else 0

/-- A weight pointer after a segment (R267): the row advances by one, and by SKIP further after RUNLEN rows. -/
def advance (adv row cnt : Nat) : Nat × Nat :=
  if bits adv 3 0 ≠ 0 ∧ cnt + 1 = bits adv 3 0 then ((row + 1 + bits adv 11 8) % 2 ^ 15, 0) else ((row + 1) % 2 ^ 15, cnt + 1)

/-- Row r follows a row of which prev tells the frame: the pointer, at row `row` after `cnt` rows, stands at it, or is written because r lies
in another frame (R270). -/
def stepsOn (adv : Nat) : Nat → Nat → Nat → List (Nat × Nat) → Bool
  | _, _, _, [] => true
  | prev, row, cnt, (r, _) :: qs =>
    let moved := r / 128 != prev
    let nx := advance adv (r % 2 ^ 15) (if moved then 0 else cnt)
    (moved || r % 2 ^ 15 == row) && stepsOn adv (r / 128) nx.1 nx.2 qs

/-- A phase can be read as whole rows under an ADV: its bytes of each output fill whole rows that the pointers step through. -/
def Tile.wholeRows (t : Tile) (adv h p : Nat) : Bool :=
  t.phaseInputs p * fmtWidth t.fmtW % 8192 == 0 && (t.halfElems h p == 0 || t.wByte (128 * h) (4096 * p) % 1024 == 0)
    && (match t.rows h p with | [] => true | (r, n) :: qs => stepsOn adv (r / 128) (r % 2 ^ 15) 0 ((r, n) :: qs))

/-- ADV (Table 9.4), written once for the tile in step 1 of R269: rows are skipped where phase 0 is read as whole rows so. -/
def Tile.adv (t : Tile) : Nat :=
  let a := t.runSkip
  if a != 0 && [0, 1].all fun h => t.wholeRows a h 0 then a else 0

/-- Rows in between two rows of one frame are run as well, and give no element. -/
def fillGaps : List (Nat × Nat) → List (Nat × Nat)
  | (r, n) :: (q, m) :: rs =>
    (r, n) :: (if r / 128 = q / 128 then ((List.range (q - r - 1)).map fun i => (r + 1 + i, 0)) else []) ++ fillGaps ((q, m) :: rs)
  | rs => rs

/-- The rows the DCH runs for half h in phase p: every row of the half where the phase cannot be read as whole rows (R269 step 4). -/
def Tile.runRows (t : Tile) (adv h p : Nat) : List (Nat × Nat) :=
  if t.inMajor || t.wholeRows adv h p then t.rows h p else fillGaps (spread (t.allRows h) (t.rows h p))

/-- What planning a phase's runs keeps: where each pointer will stand (weights, then strips) and the frame it was last used in, rows since
each weight pointer was written, elements given, codes fetched, and pieces still to fetch. -/
structure Plan where
  wp : List Nat
  wf : List Nat
  cnt : List Nat
  sp : List Nat
  sf : List Nat
  done : List Nat
  got : List Nat
  left0 : List (Nat × Nat)
  left1 : List (Nat × Nat)
  out : List CombCmd

/-- Write a strip pointer where the piece lies in another frame, or where it does not stand at the piece. -/
def Plan.strip (pl : Plan) (h : Nat) (piece : Option (Nat × Nat)) : Plan :=
  match piece with
  | none => pl
  | some (q, n) =>
    let want := q % 2 ^ 17
    let out := if pl.sp.getD h 0 = want ∧ pl.sf.getD h 0 = q / 512 then pl.out
      else .cfg (7 + h) (want / 4 + (want % 4 * 256) * 2 ^ 16) :: pl.out
    { pl with out := out, sp := pl.sp.set h ((want + 1) % 2 ^ 17), sf := pl.sf.set h (q / 512), got := pl.got.set h (pl.got.getD h 0 + n) }

/-- Strip bursts while some half's fetched codes are less than 512 ahead of consumption. -/
def Plan.strips (t : Tile) (p : Nat) : Nat → Plan → Plan
  | 0, pl => pl
  | f + 1, pl =>
    let short := fun h (left : List (Nat × Nat)) =>
      left != [] && decide (pl.got.getD h 0 < t.codesBefore h p (pl.done.getD h 0) + 512)
    if short 0 pl.left0 || short 1 pl.left1 then
      let a := pl.left0.head?
      let b := pl.left1.head?
      let pl := (pl.strip 0 a).strip 1 b
      Plan.strips t p f { pl with left0 := pl.left0.tail, left1 := pl.left1.tail, out := .run 1 (b2n a.isSome + 2 * b2n b.isSome) :: pl.out }
    else pl

/-- Write a weight pointer where the row lies in another frame (R270), or where it does not stand at the row. -/
def Plan.row (adv : Nat) (pl : Plan) (h : Nat) (r : Option (Nat × Nat)) : Plan :=
  match r with
  | none => pl
  | some (q, n) =>
    let want := q % 2 ^ 15
    let here := pl.wp.getD h 0 == want && pl.wf.getD h 0 == q / 128
    let out := if here then pl.out else .cfg (4 + h) want :: pl.out
    let nx := advance adv want (if here then pl.cnt.getD h 0 else 0)
    { pl with out := out, wp := pl.wp.set h nx.1, wf := pl.wf.set h (q / 128), cnt := pl.cnt.set h nx.2, done := pl.done.set h (pl.done.getD h 0 + n) }

/-- One segment of a phase: the next row of half 0 and of half 1, with the strip bursts that come before it. -/
def Plan.segment (t : Tile) (adv p : Nat) (pl : Plan) (r : Option (Nat × Nat) × Option (Nat × Nat)) : Plan :=
  let pl := Plan.strips t p (pl.left0.length + pl.left1.length) pl
  let pl := (pl.row adv 0 r.1).row adv 1 r.2
  { pl with out := .run 0 (b2n r.1.isSome + 2 * b2n r.2.isSome) :: pl.out }

/-- The segments of two halves' rows. -/
def segments (as bs : List (Nat × Nat)) : List (Option (Nat × Nat) × Option (Nat × Nat)) :=
  (List.range (max as.length bs.length)).map fun i => (as[i]?, bs[i]?)

/-- A row pointer at the first byte a half of a phase uses (R265). -/
def Tile.firstPtr (t : Tile) (adv h p : Nat) : Nat :=
  match t.runRows adv h p with
  | [] => 0
  | (r, n) :: _ => r % 2 ^ 15 + (if n = 0 then 0 else let e := t.elem h p 0; t.wByte e.1 e.2 % 1024) * 2 ^ 16

/-- A strip pointer at the first code of a half. -/
def Tile.firstStrip (t : Tile) (h p : Nat) : Nat :=
  if t.halfCodes h p = 0 then 0 else let e := t.code h p 0; let b := t.cByte e.1 e.2; b / 1024 % 2 ^ 15 + (b % 1024) * 2 ^ 16

/-- The frame of the first code of a half. -/
def Tile.stripFrame (t : Tile) (h : Nat) : Nat := if t.halfCodes h 0 = 0 then 0 else let e := t.code h 0 0; t.cByte e.1 e.2 / 2 ^ 17

/-- The piece a strip pointer stands at. -/
def ptrPiece (d : Nat) : Nat := d % 2 ^ 15 * 4 + bits d 25 16 / 256

/-- The runs of phase p, from pointers just written. -/
def Tile.phaseRuns (t : Tile) (adv p : Nat) (sp : List Nat × List Nat) : List CombCmd × List Nat × List Nat :=
  let r0 := t.runRows adv 0 p
  let r1 := t.runRows adv 1 p
  let row := fun (rs : List (Nat × Nat)) => (rs.headD (0, 0)).1
  let pl : Plan := { wp := [row r0 % 2 ^ 15, row r1 % 2 ^ 15], wf := [row r0 / 128, row r1 / 128], cnt := [0, 0], sp := sp.1, sf := sp.2,
                     done := [0, 0], got := [0, 0], left0 := t.pieces 0 p, left1 := t.pieces 1 p, out := [] }
  let pl := (segments r0 r1).foldl (Plan.segment t adv p) pl
  (pl.out.reverse, pl.sp, pl.sf)

/-- The SELECT data of a unit alone. -/
def selectOf (u : Nat) : Nat := 1 <<< unitPair u

/-- The latch bursts of phase p. -/
def Tile.latches (t : Tile) (p : Nat) : List CombCmd := (List.range ((t.phaseInputs p + 127) / 128)).map fun b => .latch 0 b

/-- MODE, SHAPE and PHASE data (Table 9.4). -/
def Tile.mode (t : Tile) : Nat :=
  t.fmtW + t.fmtA * 16 + b2n t.inMajor * 256 + (if t.block = 0 then 0 else if t.block = 16 then 1 else 2) * 512
def Tile.shapeWord (t : Tile) : Nat := t.n0 + t.n1 * 256 + t.phaseInputs 0 * 2 ^ 16
def phaseWord (p : Nat) (first last : Bool) : Nat := p + b2n first * 2 + b2n last * 4

/-- Drain bursts that hold used accumulators. -/
def Tile.drains (t : Tile) : List CombCmd :=
  ((List.range 8).filter fun b => t.accs.any fun a => a / 32 == b).map .drain

/-- The command sequence of a tile on unit u (R269). -/
def Tile.sequence (t : Tile) (u : Nat) : List CombCmd :=
  let two := t.phaseInputs 1 != 0
  let scaled := t.block != 0
  let adv := t.adv
  let sp := ([ptrPiece (t.firstStrip 0 0), ptrPiece (t.firstStrip 1 0)], [t.stripFrame 0, t.stripFrame 1])
  let head := [.cfg 0 (selectOf u), .cfg 1 t.mode, .cfg 2 t.shapeWord, .cfg 3 (phaseWord 0 true (!two)), .cfg 4 (t.firstPtr adv 0 0),
               .cfg 5 (t.firstPtr adv 1 0), .cfg 6 adv]
    ++ (if scaled then [.cfg 7 (t.firstStrip 0 0), .cfg 8 (t.firstStrip 1 0)] else [])
    ++ t.latches 0 ++ (if scaled then (List.range ((t.actScale.length + 127) / 128)).map (CombCmd.latch 1) else [])
  let r0 := t.phaseRuns adv 0 sp
  let more := if two then
      [.cfg 0 (selectOf u), .cfg 3 (phaseWord 1 false true), .cfg 4 (t.firstPtr adv 0 1), .cfg 5 (t.firstPtr adv 1 1)]
        ++ t.latches 1 ++ (t.phaseRuns adv 1 r0.2).1
    else []
  head ++ r0.1 ++ more ++ [.stat] ++ t.drains

/-- The head word of a column comb command (Table 9.3), bits [47:0]. -/
def colWord (u : Nat) (c : CombCmd) : Nat :=
  match c with
  | .cfg mr d => 0b11101 ||| (unitSid u <<< 8) ||| (mr <<< 10) ||| (d <<< 16)
  | .latch t b => 0b11101 ||| (1 <<< 5) ||| ((1 <<< unitSid u) <<< 8) ||| (t <<< 11) ||| (b <<< 12)
  | .drain b => 0b11101 ||| (3 <<< 5) ||| (unitSid u <<< 8) ||| (unitPair u <<< 10) ||| (b <<< 14)
  | .stat => 0b11101 ||| (4 <<< 5) ||| (unitSid u <<< 8) ||| (unitPair u <<< 10)
  | .run _ _ => 0

/-- The DCH issues comb commands: it runs, and its group is in service (R287, R381). -/
def State.combOn (s : State) (n : Nat) : Bool := (s.ctl n).st == .run && !s.isFenced (0x5000 + n)

/-- TILE_SEQUENCE (R269): a unit without a tile in progress begins the first one accepted for it. -/
def execTileSequence (unit : Nat) (s : State) : Out :=
  .next (let x := s.cunit unit
    match x.cur, x.waiting with
    | none, t :: ts =>
      if x.st = .service ∧ s.combOn (unitDch unit) then
        s.setUnit unit { x with cur := some t, waiting := ts, seq := t.sequence unit, running := false, ran := false, mixNext := false }
      else s
    | _, _ => s)

/-! ## Mode registers, latch and SE8 buffer -/

/-- A CMB_CFG of MR 1 to 8 at a unit: PHASE with FIRST clears the partials, accumulators and tile status; a pointer starts a new run of
rows. -/
def CUnit.cfg (x : CUnit) (mr d : Nat) : CUnit :=
  let x := { x with mr := AMap.set 0 x.mr mr d }
  if mr = 3 then
    let x := { x with rowsSince := AMap.filterKeys (· < 2) x.rowsSince, inPhase := false }
    if bitOf d 1 then
      { x with part := [], acc := [], pois := 0, satm := 0, flushm := 0, ce := 0, ue := 0, res := 0, mixed := false }
    else x
  else if mr = 4 ∨ mr = 5 then { x with rowsSince := AMap.set 0 x.rowsSince (mr - 4) 0 }
  else x

/-- Bytes 128·b to 128·b + 127 of a list, with their numbers from base. -/
def burstBytes (bs : List Nat) (b base : Nat) : List (Nat × Nat) :=
  (((bs.drop (128 * b)).take 128).zipIdx).map fun p => (base + 128 * b + p.2, p.1)

/-- A CMB_LATCH at a unit: activation bytes of the phase, or activation scale codes. -/
def CUnit.loadLatch (x : CUnit) (t : Tile) (tgt b : Nat) : CUnit :=
  let p := bits (AMap.get 0 x.mr 3) 0 0
  if tgt = 0 then { x with latch := (burstBytes (t.act.drop (4096 * p)) b 0).foldl (fun m e => AMap.set 0 m e.1 e.2) x.latch }
  else { x with se8 := (burstBytes t.actScale b 0).foldl (fun m e => AMap.set 0 m e.1 e.2) x.se8 }

/-- SE8 buffer place of the weight scale code of block b and accumulator a. -/
def codeKey (a b : Nat) : Nat := 512 + 256 * b + a

/-! ## Runs (R238, R239, R244, R267) -/

/-- A word a comb unit reads (R239): corrected and counted, or poison with the DPA logged by the DCH. -/
def State.combWord (s : State) (u w : Nat) : (Word × Bool) × State :=
  let n := unitDch u
  let v := u % 48
  let o := decode (AMap.get zeroCw s.dram w)
  let s := match o.cls with
    | .clean => s
    | .corrected _ =>
      let x := s.cunit u
      (s.bump (combOff n + 0x408 + 0x20 * v)).setUnit u { x with ce := x.ce + 1 }
    | .uncorrectable =>
      let s := if s.reg (ctlOff n + 0x650) = 0 then s.setReg (ctlOff n + 0x650) (BitVec.ofNat 64 (8 * w + 2 ^ 63)) else s
      s.raise 4 (ctlFid n) (8 * w) (o.synd ||| (1 <<< 16))
  if o.p then
    let s := s.bump (combOff n + 0x410 + 0x20 * v)
    let x := s.cunit u
    ((o.d, true), s.setUnit u { x with ue := x.ue + 1 })
  else ((o.d, false), s)

/-- Words of a piece of a row. -/
def State.combWords (s : State) (u w n : Nat) : Array (Word × Bool) × State :=
  (List.range n).foldl (fun (acc : Array (Word × Bool) × State) i =>
    let (v, s) := acc.2.combWord u (w + i); (acc.1.push v, s)) (#[], s)

/-- Close the block or chunk of accumulator a that ends at input k. -/
def CUnit.closeBlock (x : CUnit) (t : Tile) (a k : Nat) : CUnit :=
  let p := AMap.get 0 x.part a
  let old := AMap.get 0 x.acc a
  let (v, e) : Nat × Ev :=
    if t.block = 0 then
      let (z, sat) := satAdd32 (sext 32 old.toNat) p
      (wrapBits 32 z, ⟨sat, false⟩)
    else
      let (sp, e1) := scaledPartial (t.fmtW == 4) p (AMap.get 0 x.se8 (codeKey a (k / t.block))) (AMap.get 0 x.se8 (k / t.block))
      let (r, e2) := accAdd old.toNat sp
      (r, e1.or e2)
  { x with part := AMap.set 0 x.part a 0, acc := AMap.set 0 x.acc a (BitVec.ofNat 32 v),
           satm := x.satm ||| (b2n e.sat <<< a), flushm := x.flushm ||| (b2n e.flush <<< a),
           se8 := if t.block = 0 then x.se8 else AMap.erase x.se8 (codeKey a (k / t.block)) }

/-- One weight at a unit: the product joins its output's partial; a poisoned word poisons the output. -/
def CUnit.mac (x : CUnit) (t : Tile) (a k v : Nat) (p : Bool) : CUnit :=
  let x := { x with part := AMap.set 0 x.part a (AMap.get 0 x.part a + product t.fmtW t.fmtA v (AMap.get 0 x.latch (k % 4096))),
                    pois := x.pois ||| (b2n p <<< a) }
  let len := if t.block = 0 then 32 else t.block
  if (k + 1) % len = 0 ∨ k + 1 = t.nIn then x.closeBlock t a k else x

/-- Consume the elements of half h that lie in the row just read, from its start byte on (R265), from element n on. -/
def CUnit.consume (t : Tile) (h p row start : Nat) (ws : Array (Word × Bool)) : Nat → Nat → CUnit → CUnit × Nat
  | 0, n, x => (x, n)
  | f + 1, n, x =>
    let e := t.elem h p n
    let b := t.wByte e.1 e.2
    if b / 1024 = row ∧ start ≤ b % 1024 then
      let w := ws.getD (b % 1024 / 8) (0, false)
      let lo := 8 * (b % 8) + t.wBit e.1 e.2 % 8
      CUnit.consume t h p row start ws f (n + 1) (x.mac t e.1 e.2 (bits w.1.toNat (lo + fmtWidth t.fmtW - 1) lo) w.2)
    else (x, n)

/-- Take the scale codes of half h that lie in the piece just read, from its start byte on, from code n on. -/
def CUnit.takeCodes (t : Tile) (h p piece start : Nat) (ws : Array (Word × Bool)) : Nat → Nat → CUnit → CUnit × Nat
  | 0, n, x => (x, n)
  | f + 1, n, x =>
    let e := t.code h p n
    let b := t.cByte e.1 e.2
    if b / 256 = piece ∧ start ≤ b % 1024 then
      let w := ws.getD (b % 256 / 8) (0, false)
      let c := bits w.1.toNat (8 * (b % 8) + 7) (8 * (b % 8))
      CUnit.takeCodes t h p piece start ws f (n + 1)
        { x with se8 := AMap.set 0 x.se8 (codeKey e.1 e.2) c, pois := x.pois ||| (b2n w.2 <<< e.1) }
    else (x, n)

/-- A weight segment's read of one bank. -/
def State.weightRun (s : State) (u : Nat) (t : Tile) (h : Nat) : State :=
  let x := s.cunit u
  let ptr := AMap.get 0 x.mr (4 + h)
  let p := bits (AMap.get 0 x.mr 3) 0 0
  let row := dpaOf s.cfg (unitDch u) (unitBank u + h) (ptr % 2 ^ 15) 0 / 1024
  let (ws, s) := s.combWords u (row * 128) 128
  let x := s.cunit u
  let pos := AMap.get 0 x.rowsSince (2 + h)
  let (x, pos) := CUnit.consume t h p row (bits ptr 25 16) ws (t.halfElems h p - pos) pos x
  let nx := advance (AMap.get 0 x.mr 6) (ptr % 2 ^ 15) (AMap.get 0 x.rowsSince h)
  s.setUnit u { x with rowsSince := AMap.set 0 (AMap.set 0 x.rowsSince h nx.2) (2 + h) pos, mr := AMap.set 0 x.mr (4 + h) nx.1 }

/-- A strip burst's read of one bank. -/
def State.stripRun (s : State) (u : Nat) (t : Tile) (h : Nat) : State :=
  let x := s.cunit u
  let q := ptrPiece (AMap.get 0 x.mr (7 + h))
  let p := bits (AMap.get 0 x.mr 3) 0 0
  let piece := dpaOf s.cfg (unitDch u) (unitBank u + h) (q / 4) 0 / 256 + q % 4
  let (ws, s) := s.combWords u (piece * 32) 32
  let x := s.cunit u
  let pos := AMap.get 0 x.rowsSince (4 + h)
  let (x, pos) := CUnit.takeCodes t h p piece (bits (AMap.get 0 x.mr (7 + h)) 25 16) ws (t.halfCodes h p - pos) pos x
  let q := (q + 1) % 2 ^ 17
  s.setUnit u { x with rowsSince := AMap.set 0 x.rowsSince (4 + h) pos, mr := AMap.set 0 x.mr (7 + h) (q / 4 + (q % 4 * 256) * 2 ^ 16) }

/-! ## Tile status (R268) -/

/-- Set bits of a 256-bit map. -/
def popMap (m : Nat) : Nat := ((List.range 256).filter (bitOf m)).length

/-- The 128 bytes a unit returns to a CMB_STAT (Table 9.5). -/
def CUnit.statBurst (x : CUnit) : List Byte :=
  leBytes 32 x.pois ++ leBytes 2 (popMap x.satm) ++ leBytes 2 (popMap x.flushm) ++ leBytes 2 x.ce ++ leBytes 2 x.ue ++ leBytes 1 x.res
    ++ leBytes 1 (b2n x.mixed + 2 * b2n (x.faultDue != 0)) ++ leBytes 1 x.cause ++ List.replicate 85 0

/-- Bytes a to a + n − 1 of the last CMB_STAT, as a number. -/
def CUnit.statField (x : CUnit) (a n : Nat) : Nat := ((x.stat.drop a).take n).foldr (fun b v => b.toNat + 256 * v) 0

/-- CMB_STAT at a unit: the DCH takes its status. -/
def State.readStat (s : State) (u : Nat) : State :=
  let x := s.cunit u
  (s.setUnit u { x with stat := x.statBurst }).logCmd (unitDch u) 1 (some (colWord u .stat))

/-! ## Unit faults (Table 8.5, R286) -/

/-- Leave a tile whose unit is no longer in SERVICE to the ME. -/
def State.tileToMv (s : State) (n : Nat) (t : Tile) : State := (s.toMv t).bump (combOff n + 0x10)

/-- A headroom frame of a bank that has not been taken (R295): the lowest. -/
def State.headroom (s : State) (n bank : Nat) : Option Nat :=
  let r := regionIndex s.cfg (n / 32) (bank / 32)
  let g := regionAt s.cfg r
  if g.comb then
    let base := r * 2 ^ 18 + (n % 32) * 2 ^ 13 + (bank % 32) * 2 ^ 8
    ((List.range g.hf).map fun i => base + (256 - g.hf + i)).find? fun f => !s.flt.taken.contains f
  else none

/-- A unit relays copies: its chain ports passed the chain test (R255). -/
def State.relays (s : State) (u : Nat) : Bool :=
  let x := s.cunit u
  !(x.st == .fenced && (x.cause == 1 || x.cause == 5))

/-- A route along the ring from pair i to pair j of one channel and SID, whose unit 0 is base (R255 step 3). -/
def State.route (s : State) (base i j : Nat) : Bool :=
  let up := (j + 16 - i) % 16
  (List.range (up - 1)).all (fun x => s.relays (base + (i + x + 1) % 16))
    || (List.range (16 - up - 1)).all fun x => s.relays (base + (i + 16 - (x + 1)) % 16)

/-- The target of a frame of the given bank parity (R255 step 2): the current pair first, then by ring distance. -/
def State.evacTarget (s : State) (u : Nat) (cur : Option Nat) (par : Nat) : Option (Nat × Nat) :=
  let n := unitDch u
  let i := unitPair u
  let base := 48 * n + 16 * unitSid u
  let ds := (List.range 8).flatMap fun d => [(i + d + 1) % 16, (i + 16 - (d + 1)) % 16]
  let order := ((match cur with | some p => [p] | none => []) ++ ds).eraseDups
  order.findSome? fun p =>
    if p ≠ i ∧ (s.cunit (base + p)).st = .service ∧ s.route base i p then
      match s.headroom n (32 * unitSid u + 2 * p + par) with | some f => some (p, f) | none => none
    else none

/-- Record a headroom frame as taken. -/
def State.takeFrame (s : State) (f : Nat) : State := { s with flt := { s.flt with taken := s.flt.taken ++ [f] } }

/-- The parity of the bank a DPA frame of a comb region lies in. -/
def frameParity (f : Nat) : Nat := bits f 8 8

/-- EVAC's fields of an evacuation (Table 8.9), ACTIVE and QUEUED apart. -/
def State.evacReg (s : State) (e : Evac) : State :=
  s.setReg (combOff (unitDch e.unit) + 8) (BitVec.ofNat 64 (e.unit % 48 ||| (e.moved <<< 16) ||| (e.left <<< 32)))

/-- The ring of a unit. -/
def ringOf (u : Nat) : Nat := 3 * unitDch u + unitSid u

/-- The evacuation of a unit is over: FENCED, with the event (R255). -/
def State.evacEnd (s : State) (e : Evac) : State :=
  let x := s.cunit e.unit
  let s := s.setUnit e.unit { x with st := .fenced }
  let r := s.ring (ringOf e.unit)
  ((s.setRing (ringOf e.unit) { r with cur := none }).evacReg e).raise 6 (0x5000 + unitDch e.unit) e.moved e.left

/-- Perform a write held for a copy of the DPA frame off, at the frame an FTE now names, and let its requester know (R256): a host's write
goes there by its address, any other as a write of the TVA frame. -/
def State.performHeld (s : State) (fte : Word) (h : HeldWrite) : State :=
  let f := fteOf fte
  let ws := h.ws.map fun u => { u with w := f.word u.w }
  match h.why with
  | .hostWrite =>
    let dpa := 8 * (h.ws.map (·.w)).headD 0
    let (ok, s) := s.homeWrite h.src false .hostWrite ws
    if ok && s.stillHeld h.why ws then s else (if ok then s else s.hostDropped dpa).tell (.cmp (dpa / 64 * 64))
  | .peer src tag free =>
    let (ok, s) := s.frameWrite h.src h.frame f false h.why ws
    if ok && s.stillHeld h.why ws then s else s.putAccepted src tag free ok
  | _ =>
    let (ok, s) := s.frameWrite h.src h.frame f false h.why ws
    if ok then s else s.lateStatus h.src stPOISON

/-- Perform the writes held for the DPA frame src, at the frame an FTE now names (R256). -/
def State.releaseHeld (s : State) (src : Nat) (fte : Word) : State :=
  let mine := s.heldWrites.filter fun h => h.off == src
  let s := { s with heldWrites := s.heldWrites.filter fun h => h.off != src }
  mine.foldl (fun s h => s.performHeld fte h) s

/-- Start the copy of the next frame that has a target, or end the evacuation. A frame without one stays in place, and what was held for a
copy of it is performed there (R256). -/
def State.evacNext (s : State) (e : Evac) : List (Nat × Word) → State
  | [] => s.evacEnd { e with todo := [], copy := none }
  | (fr, w) :: rest =>
    match s.evacTarget e.unit e.pair (frameParity (fteOf w).frame) with
    | none => (s.releaseHeld (fteOf w).frame w).evacNext { e with left := e.left + 1 } rest
    | some (p, f) =>
      let e := { e with todo := rest, copy := some (fr, w, f), rows := 0, pair := some p }
      let r := s.ring (ringOf e.unit)
      ((s.takeFrame f).setRing (ringOf e.unit) { r with cur := some e }).evacReg e

/-- A pair leaves SERVICE: a copy into it is made again to the next target (R257). -/
def State.retarget (s : State) (u : Nat) : State :=
  match (s.ring (ringOf u)).cur with
  | some e =>
    match e.copy with
    | some (fr, w, _) =>
      if e.pair = some (unitPair u) ∧ e.unit ≠ u then
        let e := { e with copy := none, pair := none }
        (s.setRing (ringOf u) { s.ring (ringOf u) with cur := some e }).evacNext e ((fr, w) :: e.todo)
      else s
    | none => s
  | none => s

/-- A unit fault (Table 8.5, R286): EVACUATING, its tile abandoned, the tiles not started left to the ME; CALERT# is asserted. -/
def State.unitFault (s : State) (u cause : Nat) : State :=
  let x := s.cunit u
  if x.st = .service then
    let n := unitDch u
    let r := s.ring (ringOf u)
    let s := s.setUnit u { x.dropTiles with st := .evacuating, cause := cause, faultDue := cause, limitDue := false }
    let s := s.setRing (ringOf u) { r with queue := r.queue ++ [u] }
    let s := x.waiting.foldl (fun s t => s.tileToMv n t) s
    (s.fault 4 (0x5000 + n) u).retarget u
  else s

/-- Count residue events of a run (R240, R241): each adds its round to the window. -/
def State.residue (s : State) (u k : Nat) : State :=
  let n := unitDch u
  let pol := (s.reg (combOff n + 0x18)).toNat
  let limit := bits pol 3 0
  let win := max 1 (bits pol 31 16)
  let x := s.cunit u
  let ws := x.window ++ List.replicate k s.hk.round
  let keep := if limit = 0 then 15 else limit
  let ws := ws.drop (ws.length - keep)
  let due := limit ≠ 0 ∧ ws.length = limit ∧ s.hk.round < ws.headD 0 + win
  (s.bumpN (combOff n + 0x418 + 0x20 * (u % 48)) k).setUnit u
    { x with window := ws, res := min 255 (x.res + k), limitDue := x.limitDue || (k != 0 && decide due) }

/-- What a CMB_RUN does at its unit (R267), with how its residue checks went (R240). -/
def State.combRun (s : State) (u kind banks : Nat) (chk : CombCheck) : State :=
  let x := s.cunit u
  match x.cur with
  | none => s
  | some t =>
    let x := { x with running := true, ran := true, inPhase := true, owed := 0, seq := x.seq.tail, mixed := x.mixed || x.mixNext, mixNext := false }
    let s := (s.setUnit u x).bump (ctlOff (unitDch u) + 0x710)
    let k := unitDch u / 32
    let s := s.setStack k { s.stack k with quarters := (s.stack k).quarters + (if kind = 0 then 4 else 1) }
    let one := fun h (s : State) => if bitOf banks h then (if kind = 0 then s.weightRun u t h else s.stripRun u t h) else s
    let s := one 1 (one 0 s)
    match chk with
    | .clean => s
    | .residue k => s.residue u k
    | .residueTwice => s.unitFault u 2

/-- RESIDUE_LIMIT (R241): the residue events of the window make a unit fault. -/
def execResidueLimit (unit : Nat) (s : State) : Out :=
  .next (if (s.cunit unit).limitDue then s.unitFault unit 3 else s)

/-- An uncorrectable word of a unit's SRAMs (R241, R377): counted, with its event, and a unit fault. -/
def State.unitSramUe (s : State) (u : Nat) : State :=
  if (s.cunit u).st = .service then
    let (d, s) := s.freshData
    let n := unitDch u
    ((s.bump (combOff n + 0x410 + 0x20 * (u % 48))).raise 4 (0x5000 + n) (u % 48) (d.toNat % 2 ^ 15 ||| (1 <<< 16))).unitFault u 4
  else s

/-- CALERT (R286): units that assert it, those whose SRAMs met an uncorrectable error now among them, are found among those with a tile in
progress by CMB_STAT; runs of the channel resume. -/
def execCalert (n : Nat) (sramUe : List Nat) (s : State) : Out :=
  .next (if s.combOn n then
      let s := overList (sramUe.map (48 * n + ·)) (fun u s => if u / 48 = n then s.unitSramUe u else s) s
      let us := (groupUnits n).filter fun u => (s.cunit u).faultDue != 0
      if us = [] then s
      else
        let s := overList ((groupUnits n).filter fun u => (s.cunit u).cur.isSome || us.contains u) (fun u s => s.readStat u) s
        (overList us (fun u s => s.setUnit u { s.cunit u with faultDue := 0 }) s).bump (ctlOff n + 0x738)
    else s)

/-! ## CMB_STAT and CMB_DRAIN (R268) -/

/-- A drain burst: partials with their poison in POISMAP go to HD in the core store; after the last one the tile is complete, with the counts
of its CMB_STAT (R250, R288). -/
def State.drain (s : State) (u b : Nat) : State :=
  let x := s.cunit u
  match x.cur with
  | none => s
  | some t =>
    let as := t.accs.filter fun a => a / 32 == b
    let s := as.foldl (fun s a =>
      let bit := t.hdBit a
      let p := t.actPoison || bitOf (x.statField 0 32) a
      let s := (s.coreWrite t.core 0 (bit / 64) (BitVec.ofNat 64 ((AMap.get 0 x.acc a).toNat <<< (bit % 64)))
        (BitVec.ofNat 64 ((2 ^ 32 - 1) <<< (bit % 64))) p).ledgIn 4 1
      if p then s.ledgAlt 4 1 else s.ledgOut 4 1) s
    let x : CUnit := { s.cunit u with seq := x.seq.tail }
    if x.seq = [] then
      let mixed := bitOf (x.statField 41 1) 0
      let st := statusIf (t.actPoison || x.statField 0 32 != 0) stPOISON ||| statusIf mixed stMIXED
      let n := unitDch u
      let s := (s.setUnit u { x with cur := none, ran := false }).bump (combOff n + 0x400 + 0x20 * (u % 48))
      let s := if mixed then s.bump (ctlOff n + 0x730) else s
      s.tileDone t.core t.qid st (x.statField 32 2) (x.statField 34 2)
    else s.setUnit u x

/-! ## Evacuation (R255 to R257) -/

/-- Keys of the words of the frame table that may hold an entry: those stored, cached or still queued. -/
def State.fteKeys (s : State) : List Nat :=
  let lo := s.cfg.frameBase / 8
  let inT := fun w => decide (lo ≤ w ∧ w < lo + 2 ^ 24)
  let ks := (s.dram.map (·.1)).filter inT
    ++ ((s.die 0).lines.flatMap fun l => ((List.range 16).map (16 * l.1 + ·)).filter inT)
    ++ (s.ctls.flatMap fun c => (c.2.q ++ c.2.inflight).flatMap fun r => (r.ws.map (·.w)).filter inT)
  (ks.mergeSort (· ≤ ·)).eraseDups

/-- Scan the frame table: the entries read without poison, by TVA frame (requester class 0xB of base die d). -/
def State.scanTable (s : State) (d : Nat) : List (Nat × Word) × State :=
  s.fteKeys.foldl (fun (acc : List (Nat × Word) × State) w =>
    let (v, s) := acc.2.homeRead (0xB000 + d) w
    if v.2 || !bitOf v.1.toNat 0 then (acc.1, s) else (acc.1 ++ [(w - s.cfg.frameBase / 8, v.1)], s)) ([], s)

/-- Compare-and-write of an FTE at the home of base die 0 (R305): answers whether it was made; it drops the entry from every FTC. -/
def State.fteSwap (s : State) (d fr : Nat) (old new : Word) : Bool × State :=
  let w := s.cfg.frameBase / 8 + fr
  let (v, s) := s.homeRead (0xB000 + d) w
  if v.1 = old ∧ v.2 = false then s.homeWrite (0xB000 + d) false .plain [{ w := w, mask := fullMask, d := new, p := false }]
  else (false, s)

/-- A frame's FTE with another frame number. -/
def fteMove (w : Word) (f : Nat) : Word := BitVec.ofNat 64 ((w.toNat &&& (allBits ^^^ maskOf 31 8)) ||| (f <<< 8))

/-- Drop the lines of a DPA frame from its homes. -/
def State.dropLines (s : State) (f : Nat) : State :=
  overList fourDies (fun d s =>
    let b := s.die d
    s.setDie d { b with lines := AMap.filterKeys (fun la => la / 1024 != f) b.lines }) s

/-- A word a chain mover reads for unit u (R255 step 3): decoded and counted as a comb read, with the writes its DCH took before; poison from
a lost bank. -/
def State.moverWord (s : State) (u w : Nat) : (Word × Bool) × State :=
  match placeOf s.cfg (8 * w) with
  | none => s.noWord
  | some pl =>
    if AMap.get 0 (s.ctl pl.ctl).lost pl.bank ≠ 0 then s.noWord
    else
      let (v, s) := s.combWord u w
      (applyUpds v (s.overlay pl.ctl w), s)

/-- The movers copy row r of a frame: poison kept, an uncorrectable word written with poison. -/
def State.moveRow (s : State) (u src dst r : Nat) : State :=
  (List.range 128).foldl (fun (s : State) i =>
    let (v, s) := s.moverWord u (src * 2 ^ 14 + 128 * r + i)
    { s with dram := AMap.set zeroCw s.dram (dst * 2 ^ 14 + 128 * r + i) (encode v.1 v.2) }) s

/-- The pair of a unit gives or takes the rows of a copy in progress (R278): those of the evacuating unit and of its target. -/
def State.moves (s : State) (u : Nat) : Bool :=
  match (s.ring (ringOf u)).cur with
  | some e => e.copy.isSome && decide (e.rows < 128) && (e.unit == u || e.pair == some (unitPair u))
  | none => false

/-- EVACUATION (R255, R257): the first unit waiting in its ring begins, once the ring is free: the frame table is scanned for the comb
frames in its pair, taken in ascending DPA. -/
def execEvacuation (unit : Nat) (s : State) : Out :=
  .next (let r := s.ring (ringOf unit)
    if s.cacheReset = false ∧ (s.cunit unit).st = .evacuating ∧ r.cur.isNone ∧ r.queue.head? = some unit then
      let n := unitDch unit
      let s := s.setRing (ringOf unit) { queue := r.queue.tail, cur := none }
      let (es, s) := s.scanTable (ctlDie n)
      let mine := es.filter fun e =>
        let f := fteOf e.2
        f.comb && (match placeOf s.cfg (f.frame * 2 ^ 17) with
          | some p => p.ctl == n && p.bank / 2 * 2 == unitBank unit && combAddr s.cfg (f.frame * 2 ^ 17)
          | none => false)
      let todo := mine.mergeSort fun a b => (fteOf a.2).frame ≤ (fteOf b.2).frame
      s.evacNext { unit := unit, todo := todo, copy := none, rows := 0, pair := none, moved := 0, left := 0 } todo
    else s)

/-- FRAME_COPY_DONE (R255 steps 3 to 5, R256): the rows not yet moved are moved, the FTE is rewritten if unchanged and held writes are performed; after a chain error
every remaining frame is left in place. -/
def execFrameCopyDone (unit : Nat) (chainOk : Bool) (s : State) : Out :=
  .next (match (s.ring (ringOf unit)).cur with
    | none => s
    | some e =>
      match e.copy with
      | none => s
      | some (fr, w, f) =>
        if e.unit ≠ unit ∨ s.cacheReset = true then s
        else
          let src := (fteOf w).frame
          let idle := fun (s : State) (e : Evac) => s.setRing (ringOf unit) { s.ring (ringOf unit) with cur := some { e with copy := none } }
          if chainOk then
            let s := (((List.range 128).drop e.rows).foldl (fun s r => s.moveRow unit src f r) s).dropLines f
            let s := idle s e
            let (ok, s) := s.fteSwap (ctlDie (unitDch unit)) fr w (fteMove w f)
            let s := s.releaseHeld src (if ok then fteMove w f else w)
            let e := { e with copy := none, moved := e.moved + b2n ok, left := e.left + b2n (!ok) }
            s.evacNext e e.todo
          else
            let s := (idle s e).releaseHeld src w
            s.evacEnd { e with todo := [], copy := none, left := e.left + 1 + e.todo.length })

end Sys2Proof.Machine
end

