-- ==== Sys2Proof/Machine/Dram.lean ====
section
/-! DEFINITION. The channel controllers (chapter 11) and the homes: the two command buses (R335 to R337), refresh and power-down (R339 to
R341), completed accesses (R359, R366, R370), freeze and reset (R349 to R351), and accesses at the home die caches (R307 to R311). -/

namespace Sys2Proof.Machine

/-! ## Banks and heads -/

/-- The debt index of a bank: the bank, or its rank (R339). -/
def debtIdx (n bank : Nat) : Nat := if isDch n then bank else bank / 16
/-- The banks a refresh of a debt index covers. -/
def debtBanks (n i : Nat) : List Nat := if isDch n then [i] else partBanks n i

/-- Bank and row of a request. -/
def reqBank (cfg : Cfg) (r : Req) : Nat := match placeOf cfg r.dpa with | some p => p.bank | none => 0
def reqRow (cfg : Cfg) (r : Req) : Nat := match placeOf cfg r.dpa with | some p => p.row | none => 0

/-- Word indices a request touches. -/
def Req.words (r : Req) : List Nat := if r.ws = [] then (List.range (r.len / 8)).map (r.dpa / 8 + ·) else r.ws.map (·.w)
/-- Two requests touch one word. -/
def Req.meets (a b : Req) : Bool := a.words.any fun w => b.words.contains w

/-- A write of whole words only. -/
def Req.whole (r : Req) : Bool := r.ws.all fun u => u.mask == fullMask

/-- The first column command of a request is a write: that of a partial write is the read of its old words (R366). -/
def Req.writes (r : Req) : Bool := r.ws != [] && r.whole

/-- The unit whose pair a bank belongs to (DCH only). -/
def pairUnit (n bank : Nat) : Nat := unitOf n (bank / 2 * 2)

/-- A bank's pair is held by a run in progress (R273). -/
def State.held (s : State) (n bank : Nat) : Bool := isDch n && (s.cunit (pairUnit n bank)).running

/-- The next command of a unit's sequence, pointer writes apart, is a run of the tile in progress. -/
def CUnit.runNext (x : CUnit) : Bool :=
  match x.seq.find? (fun c => match c with | .cfg mr _ => decide (mr < 4) || mr == 6 | _ => true) with
  | some (.run _ _) => true
  | _ => false

/-- A unit of the group of DCH n waits for the CMB_STAT of a CALERT# (R286). -/
def State.alerting (s : State) (n : Nat) : Bool := (groupUnits n).any fun v => (s.cunit v).faultDue != 0

/-- Between two runs of a phase or two rows of a mover, or during one: only a break's requests are served in the pair (R273, R278). The wait
of a CALERT# holds nothing of that back (R286). -/
def State.between (s : State) (n bank : Nat) : Bool :=
  isDch n && (let u := pairUnit n bank
    let x := s.cunit u
    x.running || s.moves u || (x.inPhase && x.runNext && !s.alerting n))

/-- A scrub write-back that waits for the last beat of a tile which has run and reads its row (R371). -/
def State.scrubWaits (s : State) (n : Nat) (r : Req) : Bool :=
  r.why == .scrubBack && isDch n && (let x := s.cunit (pairUnit n (reqBank s.cfg r))
    match x.cur with | some t => x.ran && t.inRowSet (r.dpa / 1024) | none => false)

/-- A partial write of a bank is between its read and its write. -/
def State.merging (s : State) (n bank : Nat) : Bool := (s.ctl n).inflight.any fun q => q.ws != [] && reqBank s.cfg q == bank

/-- A request may be served: no request in flight touches a word of it, no partial write of its bank is in progress, and no tile holds it
back (R333, R367, R371). -/
def State.mayServe (s : State) (n : Nat) (r : Req) : Bool :=
  !((s.ctl n).inflight.any fun q => q.meets r) && !s.merging n (reqBank s.cfg r) && !s.scrubWaits n r

/-- A write of a real-time port whose buffer is at panic (R345). -/
def State.panicWrite (s : State) (r : Req) : Bool := r.src / 0x1000 == 8 && r.ws != [] && s.panic (r.src % 0x1000)

/-- The panic write a bank serves next: the first that no older request of the bank touches. -/
def panicHead (s : State) : List Req → List Req → Option Req
  | _, [] => none
  | seen, r :: rs => if s.panicWrite r && !(seen.any fun q => q.meets r) then some r else panicHead s (r :: seen) rs

/-- The queue of a bank, in order of arrival. -/
def State.bankQ (s : State) (n bank : Nat) : List Req := (s.ctl n).q.filter fun r => reqBank s.cfg r == bank

/-- The requests of a bank's queue in order, without the scrub write-backs that wait for a tile, up to the first that meets such a one. -/
def State.servable (s : State) (n : Nat) : List Req → List Req → List Req
  | _, [] => []
  | seen, r :: rs =>
    if s.scrubWaits n r then s.servable n (r :: seen) rs
    else if seen.any fun q => q.meets r then [] else r :: s.servable n seen rs

/-- The request a bank serves next. -/
def State.bankHead (s : State) (n bank : Nat) : Option Req := (s.servable n [] (s.bankQ n bank)).head?

/-- A bank whose debt is 8 takes no command but its refresh (R340). -/
def State.full (s : State) (n bank : Nat) : Bool := AMap.get 0 (s.ctl n).debt (debtIdx n bank) == 8

/-- The pair of a bank owes refreshes at a boundary: 1 by preemption, 2 by insertion (R276, R280). -/
def State.owes (s : State) (n bank k : Nat) : Bool :=
  isDch n && (let b := bank / 2 * 2
    (s.cunit (pairUnit n bank)).owed == k && (AMap.get 0 (s.ctl n).debt b != 0 || AMap.get 0 (s.ctl n).debt (b + 1) != 0))

/-- A bank to which no panic write and no request of a break is served: a run reads it, or its refreshes come first. -/
def State.shut (s : State) (n bank : Nat) : Bool := s.held n bank || s.full n bank || s.owes n bank 1

/-- A request that may be served now. -/
def State.ready (s : State) (n : Nat) (r : Option Req) : Option Req := r.filter (s.mayServe n)

/-- Panic writes that may be served, one per bank. -/
def State.panicHeads (s : State) (n : Nat) : List Req :=
  (banksOf n).filterMap fun b => if s.shut n b then none else s.ready n (panicHead s [] (s.bankQ n b))

/-- Requests of breaks, oldest of each bank (R273, R276). -/
def State.breakHeads (s : State) (n : Nat) : List Req :=
  (banksOf n).filterMap fun b => if s.shut n b then none else s.ready n ((s.bankHead n b).filter fun r => (s.ctl n).brk.contains r.id)

/-- Bank-queue heads in rotating order after bank `rot` (R336). -/
def State.heads (s : State) (n rot : Nat) : List Req :=
  let bs := banksOf n
  ((bs.drop rot) ++ bs.take rot).filterMap fun b => if s.between n b || s.full n b then none else s.ready n (s.bankHead n b)

/-! ## Commands and their log -/

/-- A unit of debt of a bank or rank is discharged (R279, R339, Table 13.6). -/
def State.paid (s : State) (n i : Nat) : State :=
  let c := s.ctl n
  (s.setCtl n { c with debt := AMap.upd 0 c.debt i (· - 1) }).ledgOut 3 1

/-- REFpb to a bank, counted in REFS and, at debt 8, in FORCED. A stack bank's discharges one unit of its debt; a rank's unit is discharged
by those that cover every bank of the rank once (R339). -/
def State.refreshBank (s : State) (n bank : Nat) : State :=
  let s := (s.bump (ctlOff n + 0x228)).logCmd n 0 none
  let s := if s.full n bank then s.bump (ctlOff n + 0x230) else s
  if isDch n then s.paid n bank
  else
    let c := s.ctl n
    let rank := bank / 16
    let seen := AMap.get 0 c.perBank rank ||| (1 <<< (bank % 16))
    if seen = 0xFFFF then (s.setCtl n { c with perBank := AMap.set 0 c.perBank rank 0 }).paid n rank
    else s.setCtl n { c with perBank := AMap.set 0 c.perBank rank seen }

/-- The banks that the next unit of a debt index still needs refreshed. -/
def State.toRefresh (s : State) (n i : Nat) : List Nat :=
  (debtBanks n i).filter fun b => isDch n || !bitOf (AMap.get 0 (s.ctl n).perBank i) (b % 16)

/-- Discharge a bank or rank to debt 0. -/
def State.discharge (s : State) (n i : Nat) : State :=
  (List.range (AMap.get 0 (s.ctl n).debt i)).foldl (fun s _ => (s.toRefresh n i).foldl (fun s b => s.refreshBank n b) s) s

/-- Row-bus commands (Table 11.1, R326): a refresh names its bank, the others the bank, SID or rank they act on. -/
inductive RowCmd where
  | refresh (bank : Nat)
  | run (u : Nat)
  | act (bank row : Nat)
  | pre (bank : Nat)
  | pdx (part : Nat)
  | pde (part : Nat)
  | sre (part : Nat)
  | srx (part : Nat)
  deriving DecidableEq, Repr

/-- What a request needs of the row bus: an exit of its SID or rank, a PRE, an ACT, or nothing. -/
def State.rowFor (s : State) (n : Nat) (r : Req) : Option RowCmd :=
  let c := s.ctl n
  let b := reqBank s.cfg r
  let row := reqRow s.cfg r
  let p := partOf n b
  if bitOf c.sr p then some (.srx p) else if bitOf c.pd p then some (.pdx p)
  else
    let o := AMap.get 0 c.openRow b
    if o = row + 1 then none else if o ≠ 0 then some (.pre b) else some (.act b row)

/-- The next refresh of a debt index, or the exit or the PRE that must come first; none while a partial write of its bank is in progress. -/
def State.refreshCmd (s : State) (n i : Nat) : Option RowCmd :=
  let c := s.ctl n
  match s.toRefresh n i with
  | [] => none
  | b :: _ =>
    if s.merging n b then none
    else if bitOf c.sr (partOf n b) then some (.srx (partOf n b))
    else if bitOf c.pd (partOf n b) then some (.pdx (partOf n b))
    else some (if AMap.get 0 c.openRow b = 0 then .refresh b else .pre b)

/-- Debt indices of a controller whose banks are not lost. -/
def debtList (n : Nat) : List Nat := List.range (if isDch n then 96 else 2)

/-- A debt index is held by comb work. -/
def State.idxHeld (s : State) (n i : Nat) : Bool := (debtBanks n i).any (s.held n)

/-- A bank's part is powered down. -/
def Ctl.pdOf (c : Ctl) (n i : Nat) : Bool := bitOf c.pd (partOf n ((debtBanks n i).headD 0))

/-- Forced refreshes (R336 item 1). -/
def State.forcedRef (s : State) (n : Nat) : List RowCmd :=
  ((debtList n).filter fun i => AMap.get 0 (s.ctl n).debt i == 8 && !s.idxHeld n i).filterMap (s.refreshCmd n)

/-- Refreshes into idle banks (R336 item 6, R340): those whose queue is empty, outside held spans and powered-down parts. -/
def State.idleRef (s : State) (n : Nat) : List RowCmd :=
  let c := s.ctl n
  ((debtList n).filter fun i =>
    let k := AMap.get 0 c.debt i
    decide (1 ≤ k ∧ k < 8) && !s.idxHeld n i && !c.pdOf n i
      && (debtBanks n i).all fun b => s.bankQ n b == [] && !(c.inflight.any fun r => reqBank s.cfg r == b)).filterMap (s.refreshCmd n)

/-- A powered-down SID or rank with a bank at debt 4 is woken for its refreshes (R340). -/
def State.wakeRef (s : State) (n : Nat) : List RowCmd :=
  let c := s.ctl n
  ((partsOf n).filter fun p => bitOf c.pd p && (debtList n).any fun i => partOf n ((debtBanks n i).headD 0) == p
      && decide (4 ≤ AMap.get 0 c.debt i)).map .pdx

/-- A SID or rank has no queued request, no access in flight and no held span (R341). -/
def State.partIdle (s : State) (n p : Nat) : Bool :=
  (partBanks n p).all fun b => s.bankQ n b == [] && !((s.ctl n).inflight.any fun r => reqBank s.cfg r == b) && !s.held n b && !s.between n b

/-- Power-down of the parts whose timer has run out (R336 item 6, R341): an idle part's rows close, then it enters. -/
def State.pdeList (s : State) (n : Nat) : List RowCmd :=
  let c := s.ctl n
  ((partsOf n).filter fun p => bitOf c.pdDue p && !bitOf c.pd p && s.partIdle n p
      && (debtList n).all fun i => partOf n ((debtBanks n i).headD 0) != p || AMap.get 0 c.debt i == 0).flatMap fun p =>
    match (partBanks n p).filter fun b => AMap.get 0 c.openRow b != 0 with
    | [] => [.pde p]
    | bs => bs.map .pre

/-- Refreshes owed at a boundary, of bank 2i before bank 2i + 1 (R276, R280): by preemption (1) at once, by insertion (2) once the break has
served its requests. -/
def State.boundaryRef (s : State) (n k : Nat) : List RowCmd :=
  if isDch n then
    ((groupUnits n).filter fun u => s.owes n (unitBank u) k && !(s.cunit u).running).flatMap fun u =>
      let bs := [unitBank u, unitBank u + 1]
      if k = 2 ∧ bs.any (fun b => (s.bankQ n b).any fun r => (s.ctl n).brk.contains r.id) then []
      else (bs.filter fun b => AMap.get 0 (s.ctl n).debt b != 0).filterMap (s.refreshCmd n)
  else []

/-- A queued write to a row of a tile, accepted before the tile (R308). -/
def State.tileWaits (s : State) (n : Nat) (t : Tile) : Bool :=
  ((s.ctl n).q ++ (s.ctl n).inflight).any fun r =>
    r.ws != [] && r.why != .scrubBack && decide (r.id < t.after) && t.inRowSet (r.dpa / 1024)

/-- A unit's next CMB_RUN may issue (R269, R273, R286, R287). -/
def State.runReady (s : State) (u : Nat) : Bool :=
  let n := unitDch u
  let x := s.cunit u
  let c := s.ctl n
  match x.cur, x.seq with
  | some t, .run _ _ :: _ =>
    s.combOn n && x.st == .service && !x.running && !bitOf c.pd (unitSid u) && !bitOf c.sr (unitSid u)
      && !s.alerting n && !s.owes n (unitBank u) 1 && !s.owes n (unitBank u) 2
      && [unitBank u, unitBank u + 1].all (fun b => AMap.get 0 c.openRow b == 0 && !s.full n b
          && !(c.inflight.any fun r => reqBank s.cfg r == b) && !((s.bankQ n b).any fun r => c.brk.contains r.id))
      && (x.ran || !s.tileWaits n t)
  | _, _ => false

/-- Rows of a unit's pair that must close before its run. -/
def State.runPre (s : State) (u : Nat) : List RowCmd :=
  let n := unitDch u
  let x := s.cunit u
  match x.cur, x.seq with
  | some _, .run _ _ :: _ =>
    if x.running then [] else
      (if bitOf (s.ctl n).pd (unitSid u) then [.pdx (unitSid u)] else [])
        ++ ([unitBank u, unitBank u + 1].filter fun b => AMap.get 0 (s.ctl n).openRow b != 0 && !s.merging n b
            && !((s.bankQ n b).any fun r => (s.ctl n).brk.contains r.id)).map .pre
  | _, _ => []

/-- Rows kept open without a command for OPEN_MAX CK may close: those the head of their bank does not use (R335). -/
def State.openMax (s : State) (n : Nat) : List RowCmd :=
  let c := s.ctl n
  ((banksOf n).filter fun b => AMap.get 0 c.idleRow b != 0
    && (match s.bankHead n b with | some r => AMap.get 0 c.openRow b != reqRow s.cfg r + 1 | none => true)).map .pre

/-- The SIDs or ranks that a controller which has left self-refresh entry still has to wake (R343). -/
def State.exits (s : State) (n : Nat) : List RowCmd := ((partsOf n).filter fun p => bitOf (s.ctl n).sr p).map .srx

/-- The row bus's commands in the order of R336. -/
def State.rowList (s : State) (n : Nat) : List RowCmd :=
  let c := s.ctl n
  match c.st with
  | .run =>
    let us := if isDch n then groupUnits n else []
    s.exits n ++ s.forcedRef n ++ (us.filter s.runReady).map .run ++ (s.panicHeads n).filterMap (s.rowFor n)
      ++ s.boundaryRef n 1 ++ us.flatMap s.runPre ++ (s.breakHeads n).filterMap (s.rowFor n) ++ s.boundaryRef n 2
      ++ s.wakeRef n ++ (s.heads n c.rot).filterMap (s.rowFor n) ++ s.idleRef n ++ s.openMax n ++ s.pdeList n
  | .frozen => s.exits n ++ s.forcedRef n ++ s.wakeRef n ++ s.idleRef n ++ s.pdeList n
  | .entering =>
    if c.q = [] ∧ c.inflight = [] ∧ AMap.get [] s.homeOut n = [] then
      let pres := ((banksOf n).filter fun b => AMap.get 0 c.openRow b != 0).map RowCmd.pre
      let owed := ((debtList n).filter fun i => AMap.get 0 c.debt i != 0).filterMap (s.refreshCmd n)
      if pres ≠ [] then pres else if owed ≠ [] then owed else ((partsOf n).filter fun p => !bitOf c.sr p).map .sre
    else s.forcedRef n ++ (s.panicHeads n).filterMap (s.rowFor n) ++ (s.breakHeads n).filterMap (s.rowFor n)
      ++ s.wakeRef n ++ (s.heads n c.rot).filterMap (s.rowFor n) ++ s.idleRef n
  | _ => []

/-- The word of a CMB_RUN (Table 9.2). -/
def runWord (u kind banks : Nat) (mix : Bool) : Nat :=
  0b1011 ||| (unitSid u <<< 4) ||| (unitPair u <<< 6) ||| (kind <<< 10) ||| (b2n mix <<< 11) ||| (banks <<< 12)

/-- Flip stored bits of the words of an access (R355). -/
def State.strike (s : State) (ws : List Nat) (ups : Upsets) : State :=
  ups.foldl (fun s e => match ws[e.1]? with
    | some w => { s with dram := AMap.set zeroCw s.dram w (AMap.get zeroCw s.dram w ^^^ e.2) }
    | none => s) s

/-- The words a run reads, bank 2i first. -/
def State.runWords (s : State) (u kind banks : Nat) : List Nat :=
  let x := s.cunit u
  ([0, 1].filter (bitOf banks)).flatMap fun h =>
    if kind = 0 then
      let row := dpaOf s.cfg (unitDch u) (unitBank u + h) (AMap.get 0 x.mr (4 + h) % 2 ^ 15) 0 / 8
      (List.range 128).map (row + ·)
    else
      let q := ptrPiece (AMap.get 0 x.mr (7 + h))
      let p := dpaOf s.cfg (unitDch u) (unitBank u + h) (q / 4) 0 / 8 + 32 * (q % 4)
      (List.range 32).map (p + ·)

/-- What a row command does. -/
def State.rowDo (s : State) (n : Nat) (c : RowCmd) (chk : CombCheck) (ups : Upsets) : State :=
  let k := s.ctl n
  match c with
  | .refresh b => s.refreshBank n b
  | .run u =>
    let x := s.cunit u
    match x.seq with
    | .run kind banks :: _ =>
      let s := s.setCtl n { k with pdDue := clearBit k.pdDue (unitSid u) }
      ((s.strike (s.runWords u kind banks) ups).logCmd n 0 (some (runWord u kind banks x.mixNext))).combRun u kind banks chk
    | _ => s
  | .act b row => (s.setCtl n { k with rot := (b + 1) % (banksOf n).length }).openRowOf n b row
  | .pre b => (if (s.bankHead n b).isSome then s.setCtl n { k with rot := (b + 1) % (banksOf n).length } else s).closeRow n b
  | .pdx p =>
    (if s.partIdle n p then s.setCtl n { k with pdDue := k.pdDue ||| (1 <<< p) } else s).wakePart n p
  | .pde p =>
    ((s.setCtl n { k with pd := k.pd ||| (1 <<< p), pdDue := clearBit k.pdDue p, wck := clearBit k.wck p }).bump
      (ctlOff n + 0x238)).logCmd n 0 none
  | .sre p =>
    let sr := k.sr ||| (1 <<< p)
    let all := (partsOf n).all fun q => bitOf sr q
    (s.setCtl n { k with sr := sr, pd := clearBit k.pd p, pdDue := clearBit k.pdDue p, wck := clearBit k.wck p,
                         st := if all then .selfRefresh else k.st }).logCmd n 0 none
  | .srx p => s.exitPart n p

/-- ROW_COMMAND_ISSUE (R336): the first eligible command that timing and the activation limit do not block; blocked counts those passed
over. -/
def execRowCommandIssue (n blocked : Nat) (chk : CombCheck) (ups : Upsets) (s : State) : Out :=
  .next (match (s.rowList n)[blocked]? with
    | some c => s.rowDo n c chk ups
    | none => s)

/-! ## The column bus -/

/-- Column-bus commands. -/
inductive ColCmd where
  | comb (u : Nat)
  | serve (r : Req)
  deriving DecidableEq, Repr

/-- A unit's next column command may issue: status, drains, latches and the words of a new phase wait for the run in progress. -/
def State.colReady (s : State) (u : Nat) : Bool :=
  let x := s.cunit u
  match x.cur, x.seq with
  | some _, .cfg mr _ :: _ => s.combOn (unitDch u) && (!x.running || mr == 4 || mr == 5 || mr == 7 || mr == 8)
  | some _, .latch _ _ :: _ => s.combOn (unitDch u) && !x.running
  | some _, .stat :: _ => s.combOn (unitDch u) && !x.running
  | some _, .drain _ :: _ => s.combOn (unitDch u) && !x.running
  | _, _ => false

/-- The row of a request is open in a part that is awake. -/
def State.rowOpen (s : State) (n : Nat) (r : Req) : Bool := (s.rowFor n r).isNone

/-- The direction the column bus takes next (R337): it changes where no head of the current direction is ready, or after WBATCH commands while
one of the other is. With no head of either ready, it turns to writes at WHI entries. -/
def State.direction (s : State) (n : Nat) (rd wr : Bool) : Bool :=
  let c := s.ctl n
  let sched := (s.reg (ctlOff n + 8)).toNat
  let wbatch := max 1 (bits sched 4 0)
  let whi := min 112 (max 1 (bits sched 15 8))
  let cur := if c.wrDir then wr else rd
  let other := if c.wrDir then rd else wr
  if other && (!cur || decide (wbatch ≤ c.batch)) then !c.wrDir else if !cur && decide (whi ≤ c.writes.length) then true else c.wrDir

/-- The column bus's commands in the order of R337. -/
def State.colList (s : State) (n : Nat) : List ColCmd :=
  let c := s.ctl n
  let us := if isDch n then groupUnits n else []
  let hs := (s.heads n c.colRot).filter (s.rowOpen n)
  let dir := s.direction n (hs.any fun r => !r.writes) (hs.any Req.writes)
  let ordinary := ((s.panicHeads n).filter (s.rowOpen n)).map ColCmd.serve ++ ((s.breakHeads n).filter (s.rowOpen n)).map .serve
    ++ (hs.filter fun r => r.writes == dir).map .serve
  match c.st with
  | .run => (us.filter s.colReady).map .comb ++ ordinary
  | .entering => ordinary
  | _ => []

/-- Apply a CMB_CFG or CMB_LATCH at every unit of the SID that SELECT names (R266). -/
def State.atSelected (s : State) (u : Nat) (f : CUnit → CUnit) : State :=
  let n := unitDch u
  let sel := AMap.get 0 (s.ctl n).select (unitSid u)
  overList ((List.range 16).filter (bitOf sel)) (fun i s =>
    let v := 48 * n + 16 * unitSid u + i
    s.setUnit v (f (s.cunit v))) s

/-- A comb column command: where SELECT names another unit, it is written first. -/
def State.combCol (s : State) (u : Nat) : State :=
  let n := unitDch u
  let x := s.cunit u
  match x.cur, x.seq with
  | some t, c :: rest =>
    let k := s.ctl n
    let sid := unitSid u
    let mine := AMap.get 0 k.select sid == selectOf u
    let step := fun (s : State) => s.setUnit u { s.cunit u with seq := rest }
    match c with
    | .cfg 0 d => (step (s.setCtl n { k with select := AMap.set 0 k.select sid d })).logCmd n 1 (some (colWord u c))
    | .cfg mr d =>
      if mine then (step (s.atSelected u fun y => y.cfg mr d)).logCmd n 1 (some (colWord u c))
      else (s.setCtl n { k with select := AMap.set 0 k.select sid (selectOf u) }).logCmd n 1 (some (colWord u (.cfg 0 (selectOf u))))
    | .latch tgt b =>
      if mine then (step (s.atSelected u fun y => y.loadLatch t tgt b)).logCmd n 1 (some (colWord u c))
      else (s.setCtl n { k with select := AMap.set 0 k.select sid (selectOf u) }).logCmd n 1 (some (colWord u (.cfg 0 (selectOf u))))
    | .stat => step (s.readStat u)
    | .drain b => (s.drain u b).logCmd n 1 (some (colWord u c))
    | .run _ _ => s
  | _, _ => s

/-- A write performed to a row of a tile in progress, between its first and its last run, marks the next run MIX (R275). -/
def State.markMix (s : State) (n : Nat) (r : Req) : State :=
  if isDch n && r.why != .scrubBack then
    let u := pairUnit n (reqBank s.cfg r)
    let x := s.cunit u
    match x.cur with
    | some t =>
      if x.ran && x.seq.any (fun c => match c with | .run _ _ => true | _ => false) && t.inRowSet (r.dpa / 1024) then
        s.setUnit u { x with mixNext := true }
      else s
    | none => s
  else s

/-- A write has been performed: WRS, and PANICWR for a panic write. -/
def State.wrote (s : State) (n : Nat) (r : Req) : State :=
  (if s.panicWrite r then s.bump (ctlOff n + 0x240) else s).bump (ctlOff n + 0x208)

/-- Perform a write's words. -/
def State.commitWrite (s : State) (n : Nat) (r : Req) : State := ((r.ws.foldl (fun s u => s.commitUpd n u) s).wrote n r).markMix n r

/-- A column command for a request ends one of its direction in the batch (R337) and moves the rotation past its bank. -/
def Ctl.turn (c : Ctl) (n bank : Nat) (wr : Bool) : Ctl :=
  { c with colRot := (bank + 1) % (banksOf n).length, wrDir := wr, batch := if wr = c.wrDir then c.batch + 1 else 1 }

/-- Serve a request on the column bus: a read leaves for its data, a whole write is performed, a partial write's read leaves and its row
stays open for the write (R366). -/
def State.serveCol (s : State) (n : Nat) (r : Req) : State :=
  let c := s.ctl n
  let b := reqBank s.cfg r
  let c := c.turn n b r.writes
  let c := { c with q := c.q.filter fun q => q.id != r.id, brk := c.brk.filter (· != r.id) }
  if r.ws ≠ [] ∧ r.writes = false then
    let s := (s.setCtl n { c with inflight := c.inflight ++ [r] }).startWck n (partOf n b)
    let s := if AMap.get 0 c.idleRow b != 0 then s.bump (ctlOff n + 0x220) else s
    let c := s.ctl n
    (s.setCtl n { c with idleRow := AMap.set 0 c.idleRow b 0 }).logCmd n 1 none
  else
    let s := (s.setCtl n c).column n b r.keep
    if r.ws = [] then let c := s.ctl n; s.setCtl n { c with inflight := c.inflight ++ [r] } else s.commitWrite n r

/-- The merged write of a partial write (R366): a column command of its own to the row its read left open. -/
def State.mergeWrite (s : State) (n : Nat) (r : Req) : State :=
  let b := reqBank s.cfg r
  ((s.setCtl n ((s.ctl n).turn n b true)).column n b r.keep).commitWrite n r

/-- COLUMN_COMMAND_ISSUE (R337). -/
def execColumnCommandIssue (n blocked : Nat) (s : State) : Out :=
  .next (match (s.colList n)[blocked]? with
    | some (.comb u) => s.combCol u
    | some (.serve r) => s.serveCol n r
    | none => s)

/-! ## Boundaries (R273 to R280) -/

/-- A boundary of the pair of a unit (R273, R276, R280): at debt 8 it owes refreshes by preemption, from POST by insertion, and the requests
queued for it make up a break. The row and column buses then serve these in the order of R276. -/
def State.boundary (s : State) (u : Nat) : State :=
  let n := unitDch u
  let b := unitBank u
  let c := s.ctl n
  let d := max (AMap.get 0 c.debt b) (AMap.get 0 c.debt (b + 1))
  let p := bits (s.reg (ctlOff n + 0x700)).toNat 3 0
  let post := if p = 0 ∨ 8 < p then 8 else p
  let s := if d = 8 then (s.setUnit u { s.cunit u with owed := 1 }).bump (ctlOff n + 0x728)
    else if post ≤ d then (s.setUnit u { s.cunit u with owed := 2 }).bump (ctlOff n + 0x720)
    else s
  let ids := (s.servable n [] (s.bankQ n b) ++ s.servable n [] (s.bankQ n (b + 1))).map (·.id)
  if ids = [] then s
  else
    let c := s.ctl n
    (s.setCtl n { c with brk := c.brk ++ ids }).bump (ctlOff n + 0x718)

/-- Nothing of a boundary of a unit's pair is still to be served. -/
def State.atRest (s : State) (u : Nat) : Bool :=
  let n := unitDch u
  !s.owes n (unitBank u) 1 && !s.owes n (unitBank u) 2
    && [unitBank u, unitBank u + 1].all fun b => !((s.bankQ n b).any fun r => (s.ctl n).brk.contains r.id)

/-- The evacuation that copies from a unit's pair moves its next row, and both pairs come to a boundary (R278). -/
def State.moverBoundary (s : State) (u : Nat) : State :=
  match (s.ring (ringOf u)).cur with
  | none => s
  | some e =>
    match e.copy, e.pair with
    | some (_, w, f), some p =>
      let v := u / 16 * 16 + p
      if e.unit = u ∧ e.rows < 128 ∧ s.atRest u ∧ s.atRest v then
        let s := s.moveRow u (fteOf w).frame f e.rows
        let s := s.setRing (ringOf u) { s.ring (ringOf u) with cur := some { e with rows := e.rows + 1 } }
        (s.boundary u).boundary v
      else s
    | _, _ => s

/-- RUN_BOUNDARY (R273, R276, R278): the run's reads end, and before another run of the phase its pair comes to a boundary; or a row of a copy
is moved. A controller that does not run issues nothing more. -/
def execRunBoundary (unit : Nat) (s : State) : Out :=
  .next (let x := s.cunit unit
    if x.running then
      let s := s.setUnit unit { x with running := false }
      if x.runNext ∧ (s.ctl (unitDch unit)).st = .run then s.boundary unit else s
    else if s.combOn (unitDch unit) then s.moverBoundary unit
    else s)

/-! ## Refresh and power-down -/

/-- A controller's memory is refreshed by it: it is in service and not in self-refresh. -/
def Ctl.refreshes (c : Ctl) : Bool := c.st == .run || c.st == .frozen || c.st == .entering

/-- Refresh falls due while the controllers refresh: in service, and from the fill of S5 on (R58). -/
def State.refreshing (s : State) : Bool := match s.boot.st with | .s5 | .s6 | .s7 => true | _ => false

/-- REFRESH_DUE (R279, R339): one more unit of debt, at most 8. Nothing falls due in a lost bank or in self-refresh (R342, R386). -/
def execRefreshDue (n i : Nat) (s : State) : Out :=
  .next (let c := s.ctl n
    let d := AMap.get 0 c.debt i
    let lost := (debtBanks n i).all fun b => AMap.get 0 c.lost b != 0
    if s.refreshing ∧ (debtList n).contains i ∧ c.refreshes ∧ bitOf c.sr (partOf n ((debtBanks n i).headD 0)) = false ∧ d < 8 ∧ lost = false then
      (s.setCtl n { c with debt := AMap.set 0 c.debt i (d + 1), debtMax := max c.debtMax (d + 1) }).ledgIn 3 1
    else s)

/-- POWER_DOWN_TIMER (R341): a SID or rank has been idle for PD_TIMER: the row bus closes its rows and powers it down. A timer of 0 never
does. -/
def execPowerDownTimer (n part : Nat) (s : State) : Out :=
  .next (let c := s.ctl n
    if s.atS7 ∧ s.cfg.timers.pd ≠ 0 ∧ c.st = .run ∧ (partsOf n).contains part ∧ bitOf c.pd part = false ∧ s.partIdle n part then
      s.setCtl n { c with pdDue := c.pdDue ||| (1 <<< part) }
    else s)

/-! ## Completed accesses (R359, R366, R370) -/

/-- The line of a completed host read enters its home, with later writes still queued applied (R308). -/
def State.fillFrom (s : State) (n : Nat) (r : Req) (vs : List (Word × Bool)) : State :=
  let d := homeOf s.cfg r.dpa
  let la := r.dpa / 128
  match s.line? d la with
  | some _ => s
  | none =>
    s.storeLine d la (vs.zipIdx.map fun p => applyUpds p.1 (s.overlay n (16 * la + p.2)))

/-- Read the words of a request as an ordinary read: their values, and whether one froze the controller. -/
def State.readWords (s : State) (n : Nat) (r : Req) : List (Word × Bool) × State :=
  match placeOf s.cfg r.dpa with
  | none => ([], s)
  | some pl =>
    r.words.foldl (fun (acc : List (Word × Bool) × State) w =>
      let cw := AMap.get zeroCw acc.2.dram w
      let o := decode cw
      (acc.1 ++ [(o.d, o.p)], acc.2.dramEcc { pl with ctl := n } w r.src cw o)) ([], s)

/-- Answer a host read from the words of its line. -/
def State.answerHost (s : State) (half : Nat) (r : Req) (vs : List (Word × Bool)) : State :=
  let xs := (vs.drop (8 * half)).take 8
  s.hostData (r.dpa + 64 * half) (xs.map (·.1)) (xs.any (·.2))

/-- Count scrub's findings in one word (Table 12.5): what it writes back. -/
def State.scrubWord (s : State) (n : Nat) (pl : Place) (w : Nat) : Option WUpd × State :=
  let b := ctlOff n
  let o := decode (AMap.get zeroCw s.dram w)
  match o.cls with
  | .clean => (none, s)
  | .corrected _ =>
    let s := ((s.bump (b + 0x630)).setReg (b + 0x640) (BitVec.ofNat 64 (8 * w))).setReg (b + 0x648) (BitVec.ofNat 64 o.synd)
    (some { w := w, mask := fullMask, d := o.d, p := o.p }, s)
  | .uncorrectable =>
    let s := s.bump (b + 0x638)
    let s := if s.reg (b + 0x650) = 0 then s.setReg (b + 0x650) (BitVec.ofNat 64 (8 * w + 2 ^ 63)) else s
    let s := s.setCtl n ((s.ctl n).noteUe pl.bank pl.row s.hk.round)
    (some { w := w, mask := fullMask, d := o.d, p := true }, s.raise 4 (ctlFid n) (8 * w) (o.synd ||| (3 <<< 16)))

/-- A scrub's read returns: the line is counted, and what needs it is written back (R370), but for the words that writes accepted since
touch (R371). A write-back that finds no entry waits for one like any write (R332). -/
def State.scrubDone (s : State) (n : Nat) (r : Req) : State :=
  match placeOf s.cfg r.dpa with
  | none => s
  | some pl =>
    let go := r.words.foldl (fun (acc : List WUpd × State) w =>
      let (u, s) := acc.2.scrubWord n pl w
      (acc.1 ++ u.toList, s)) ([], s)
    let s := go.2.bump (ctlOff n + 0x628)
    match go.1.filter fun u => s.overlay n u.w == [] with
    | [] => s
    | ws => (s.ctlSubmit n { id := 0, src := r.src, dpa := r.dpa, len := r.len, ws := ws, keep := false, why := .scrubBack }).2

/-- DRAM_ACCESS_COMPLETE: the oldest access in flight returns its data; an uncorrectable ordinary read freezes the controller and stays
held (R350). -/
def execDramAccessComplete (n : Nat) (ups : Upsets) (s : State) : Out :=
  .next (let c := s.ctl n
    match c.inflight with
    | [] => s
    | r :: rest =>
      if c.st = .run ∨ c.st = .entering then
        let s := s.strike r.words ups
        let s := s.setCtl n { c with inflight := rest }
        if r.ws ≠ [] then s.mergeWrite n r
        else
          let s := s.bump (ctlOff n + 0x200)
          match r.why with
          | .scrub => s.scrubDone n r
          | .hostRead half =>
            let (vs, s) := s.readWords n r
            if (s.ctl n).st = .frozen then
              let c := s.ctl n
              s.setCtl n { c with q := r :: c.q }
            else (s.fillFrom n r vs).answerHost half r vs
          | _ => (s.readWords n r).2
      else s)

/-- MEMORY_REQUEST (R331, R332): the first request held at the home that finds an entry is taken. -/
def execMemoryRequest (n : Nat) (s : State) : Out :=
  .next (let held := AMap.get [] s.homeOut n
    let free := fun (r : Req) => match placeOf s.cfg r.dpa with
      | some pl => !s.serves pl || (s.forwardable n r).isSome || s.hasRoom pl r
      | none => true
    let first := fun (r : Req) => !((held.takeWhile fun q => q != r).any fun q => q.src == r.src)
    match held.find? (fun r => first r && free r) with
    | none => s
    | some r =>
      match { s with homeOut := AMap.set [] s.homeOut n (held.erase r) }.ctlOffer n r with
      | (.accepted, s) => if r.ws = [] then s else s.writeTaken r true
      | (.forwarded vs, s) => (match r.why with | .hostRead half => s.answerHost half r vs | _ => s)
      | (.poisoned, s) =>
        if r.ws = [] then (match r.why with | .hostRead half => s.hostPoison (r.dpa + 64 * half) | _ => s) else s.writeTaken r false
      | (.refused, s) => { s with homeOut := AMap.set [] s.homeOut n held })

/-- The line scrub position i names: (SID or rank, bank, row, column) in ascending order (R369). -/
def scrubLine (cfg : Cfg) (n i : Nat) : Nat :=
  if isDch n then dpaOf cfg n (i / (8 * 2 ^ 15)) (i / 8 % 2 ^ 15) (i % 8)
  else dpaOf cfg n (i / (64 * 2 ^ 17)) (i / 64 % 2 ^ 17) (i % 64)

/-- Lines of a controller. -/
def scrubLines (n : Nat) : Nat := if isDch n then 25165824 else 268435456

/-- PATROL_SCRUB (R369, R372): the next line's scrub read is queued. -/
def execPatrolScrub (n : Nat) (s : State) : Out :=
  .next (let c := s.ctl n
    if bitOf s.cfg.scrub.enable (if isDch n then 0 else 1) ∧ s.dorm.scrubStopped = false ∧ c.st = .run ∧ s.atS7 then
      let la := scrubLine s.cfg n c.scrubPos
      let next := (c.scrubPos + 1) % scrubLines n
      let r : Req := { id := 0, src := 0xA000 + n, dpa := la, len := 128, ws := [], keep := false, why := .scrub }
      match s.ctlOffer n r with
      | (.refused, s) => s
      | (.forwarded _, s) => (s.setCtl n { s.ctl n with scrubPos := next }).bump (ctlOff n + 0x628)
      | (_, s) => s.setCtl n { s.ctl n with scrubPos := next }
    else s)

/-! ## Freeze and reset (R349 to R351) -/

/-- CAPERR (R349): a stack's command parity error freezes its DCH. -/
def execCaperr (n : Nat) (s : State) : Out :=
  .next (let c := s.ctl n
    if s.atS7 ∧ s.asleep = false ∧ (c.st = .run ∨ c.st = .frozen ∨ c.st = .entering ∨ c.st = .selfRefresh) then
      s.freeze n 2 0 0 0 0
    else s)

/-- The reset of a comb group (R259): SRAMs cleared, tiles abandoned with void markers, the residue windows and RES_POLICY as after start; the
frame in copy is copied again. -/
def State.resetGroup (s : State) (n : Nat) : State :=
  let ts := (groupUnits n).flatMap fun u => let x := s.cunit u; x.cur.toList ++ x.waiting
  let s := overList (groupUnits n) (fun u s =>
    let x := s.cunit u
    s.setUnit u { x.dropTiles with mr := [], latch := [], se8 := [], part := [], acc := [], pois := 0, satm := 0, flushm := 0, ce := 0,
                                   ue := 0, res := 0, mixed := false, stat := [], window := [], limitDue := false, faultDue := 0 }) s
  let c := s.ctl n
  let s := s.setCtl n { c with select := [] }
  let s := overList [3 * n, 3 * n + 1, 3 * n + 2] (fun r s => match (s.ring r).cur with
    | some e => s.setRing r { s.ring r with cur := some { e with rows := 0 } }
    | none => s) s
  ts.foldl (fun s t => s.tileDone t.core t.qid stVOID 0 0) ((s.revertExp (0x5000 + n)).closeUnlock (0x5000 + n))

/-- The stage delay words take effect, and the stage returns to the image's (R346). -/
def State.delayReset (s : State) (n : Nat) : State :=
  let b := ctlOff n
  let s := (List.range 32).foldl (fun s i => s.setReg (b + 0x400 + 8 * i) (s.reg (b + 0x500 + 8 * i))) s
  s.revertExp (ctlFid n)

/-- Perform the writes a controller held with poison on every word, and complete its held reads with poison (R351 step 5); the lines whose
scrub read it held are the next to scrub (R372). -/
def State.releaseQueue (s : State) (n : Nat) : State :=
  let c := s.ctl n
  let rs := c.inflight ++ c.q
  let unread := (rs.filter fun r => r.why == .scrub).length
  let s := s.setCtl n { c with q := [], inflight := [], brk := [], scrubPos := (c.scrubPos + scrubLines n - unread) % scrubLines n }
  rs.foldl (fun s r =>
    if r.ws ≠ [] then
      let s := (r.ws.foldl (fun s u => s.commitUpd n { u with p := true }) s).wrote n r
      let s := s.lateStatus r.src (stPOISON ||| stVOID)
      match r.why with
      | .peer src tag _ =>
        { s with swarm := { s.swarm with targets := s.swarm.targets.map fun t => if isTarget src tag t then { t with poison := true } else t } }
      | _ => s
    else match r.why with
      | .hostRead half => s.hostPoison (r.dpa + 64 * half)
      | _ => s) s

/-- The reset of a controller (R351): where the pattern exchange fails, the channel is lost. -/
def State.resetCtl (s : State) (n : Nat) (ok : Bool) : State :=
  let s := if isDch n then s.resetGroup n else s
  let s := (((s.closeUnlock (ctlFid n)).delayReset n).modeRegs n).lpgRun (ctlOff n) 80
  let s := (debtList n).foldl (fun s i => s.discharge n i) s
  let s := s.releaseQueue n
  let c := s.ctl n
  let s := s.setCtl n { c with st := if ok then .run else .fenced, openRow := [], idleRow := [], pd := 0, pdDue := 0, sr := 0,
                               wck := 0, perBank := [], batch := 0, wrDir := false }
  if ok then s else s.fault (if isDch n then 7 else 9) (ctlFid n) 0

/-! ## At the homes (R307 to R311) -/

/-- A set without a free way gives a line up: it is written back when dirty. -/
def State.evict (s : State) (d la : Nat) : State := (s.writeBack d la).putLine d la Line.init

/-- An upset met when a line is read from its home. -/
def State.strikeLine (s : State) (d la : Nat) (ups : Upsets) : State :=
  match s.line? d la with
  | none => s
  | some l => s.putLine d la { l with words := ups.foldl (fun ws e => match ws[e.1]? with | some w => ws.set e.1 (w ^^^ e.2) | none => ws) l.words }

/-- HOME_ACCESS (R307): the access at the front of a home's queue takes effect: a prefetch fills its line and returns its slot (R315).
Every other access takes effect in the command that brings it, and so in order of arrival. -/
def execHomeAccess (d : Nat) (env : HomeEnv) (s : State) : Out :=
  .next (let b := s.die d
    match if s.asleep || s.flt.resetting.contains (0x9000 + d) then [] else b.inbox with
    | [] => s
    | r :: rest =>
      let la := r.dpa / 128
      let s := s.setDie d { b with inbox := rest }
      let s := match env.victim with | some v => if v = la then s else s.evict d v | none => s
      let s := s.strikeLine d la env.upsets
      match r.why with
      | .prefetch g _ =>
        let s := match s.line? d la, placeOf s.cfg r.dpa with
          | none, some pl => if s.serves pl then (s.fillLine pl d la (0x9000 + d) false).2 else s
          | _, _ => s
        let c := s.core g
        (s.setCore g { c with slots := c.slots - 1 }).ledgOut 2 1)

/-- Set MSTALE of a frame's FTE by compare-and-write, with the event (R305, R311): answers whether it was set. From then on no duplicate of
the frame is sent. -/
def State.setStale (s : State) (d fr : Nat) : Bool × State :=
  let (v, s) := s.homeRead (0xB000 + d) (s.cfg.frameBase / 8 + fr)
  let f := fteOf v.1
  if v.2 || !f.v || !f.mir || f.mstale then (false, s)
  else
    let (ok, s) := s.fteSwap d fr v.1 (v.1 ||| 0x40)
    (ok, if ok then (overList fourDies (fun b s => let x := s.die b; s.setDie b { x with dups := x.dups.filter fun u => u.frame != fr }) s).raise 5
      (0x9000 + d) fr 0 else s)

/-- The words of a clean write that their home now holds with poison: an earlier value's (Table 12.3). -/
def State.tainted (s : State) (ws : List WUpd) : Bool :=
  ws.any fun u => !u.p && (match s.line? (homeOf s.cfg (8 * u.w)) (u.w / 16) with
    | some l => (decode (l.words.getD (u.w % 16) zeroCw)).p
    | none => false)

/-- The memory of a duplicate is out of service: its die cache or its DCF is fenced or under reset (R311). -/
def State.mirrorOut (s : State) (u : Dup) : Bool :=
  s.isFenced (0x9000 + u.home) || s.flt.resetting.contains (0x9000 + u.home)
    || (match placeOf s.cfg (8 * (u.ws.map (·.w)).headD 0) with
      | some pl => s.isFenced (ctlFid pl.ctl) || (s.ctl pl.ctl).st == .reset
      | none => true)

/-- The oldest duplicate of die d is performed at the mirror's home; where it cannot be committed as written it is dropped, and the mirror
marked stale (R310, R311). -/
def State.dupNext (s : State) (d : Nat) : State :=
  let b := s.die d
  match b.dups with
  | [] => s
  | u :: rest =>
    let s := s.setDie d { b with dups := rest }
    let (ok, s) := if s.mirrorOut u then (false, s) else
      let (ok, s) := s.homeWrite u.src false .plain u.ws
      (ok && !s.tainted u.ws, s)
    if ok then s else ((s.setStale d u.frame).2).bump (frameOff + 0x10)

/-- MIRROR_DUPLICATE. -/
def execMirrorDuplicate (d : Nat) (s : State) : Out := .next (if s.asleep then s else s.dupNext d)

end Sys2Proof.Machine
end

