-- ==== Sys2Proof/Machine/Housekeeping.lean ====
section
/-! DEFINITION. The housekeeping round (R449 to R451) and what it drives: thermal shutdown and restart (R452 to R454), the smoker (R458, R459,
R64), the refresh multiplier (R282 to R284, R339), and their events (R466). -/

namespace Sys2Proof.Machine

/-! ## Slots -/

/-- The temperature slots: those thermal shutdown looks at (R452). -/
def tempSlots : List Nat := List.range 96 ++ [112]

/-- A reading is INVALID (Table 15.4). -/
def invalid (v : Nat) : Bool := bitOf v 31

/-- The signed temperature of a reading, in 1/16 °C. -/
def tempOf (v : Nat) : Int := (BitVec.ofNat 16 v).toInt

/-- The slots of the unit a temperature slot belongs to (Table 15.3); none for the coolant inlet. -/
def unitSlots (k : Nat) : List Nat :=
  if k < 64 then (List.range 16).map (k / 16 * 16 + ·)
  else if k < 80 then (List.range 4).map (k / 4 * 4 + ·)
  else if k < 96 then (List.range 2).map (k / 2 * 2 + ·)
  else []

/-- What slot k reads: none given, or rails off where they feed the slot, reads INVALID; tier-F slots keep their reading in dormant. -/
def State.slotReading (s : State) (rs : List (Nat × Nat)) (k : Nat) : Nat :=
  let v := match rs.find? (fun r => r.1 == k) with | some r => r.2 | none => 0x80000000
  if 96 ≤ k ∧ k < 112 ∧ s.dorm.st = .dormant then s.hk.reading k
  else if 96 ≤ k ∧ k ≠ 112 ∧ k < 127 ∧ s.pins.rails = 0 then 0x80000000
  else v

/-! ## The smoker (R458) -/

/-- Fields of SMK_TABLE. -/
def smkField (w hi lo : Nat) : Nat := bits w hi lo

/-- The rule of R458 after first use, without FORCE: it answers level and down count, and whether a step down falls due. -/
def smokerRule (budget tbl p level down : Nat) : Nat × Nat × Bool :=
  if p > budget + smkField tbl 32 22 then (min 15 (level + 8), 0, false)
  else if p > budget + smkField tbl 21 11 then (min 15 (level + 4), 0, false)
  else if p > budget + smkField tbl 10 0 then (min 15 (level + 2), 0, false)
  else if p > budget then (min 15 (level + 1), 0, false)
  else if p + smkField tbl 42 33 ≤ budget then
    (level, down + 1, down + 1 == smkField tbl 49 43)
  else (level, 0, false)

/-- Apply the rule to the power of the round. -/
def State.smokerApply (s : State) : State :=
  let (l, d, due) := smokerRule s.cfg.smoker.budget (s.reg (hkOff + 0x18)).toNat s.hk.power s.hk.level s.hk.down
  { s with hk := { s.hk with level := l, down := d, stepDownDue := due } }

/-- The pause level falls by one. -/
def State.smokerDown (s : State) : State :=
  if s.hk.stepDownDue then { s with hk := { s.hk with level := s.hk.level - 1, down := 0, stepDownDue := false } } else s

/-- First use ends: the rule acts on the round that ended it. -/
def State.firstUseDone (s : State) : State :=
  if s.hk.firstUseDue then ({ s with hk := { s.hk with firstUseDue := false } }).smokerApply else s

/-- The input power of a round in watts. -/
def powerOf (v : Nat) : Nat := bits v 15 0 * bits v 30 16 / 10000

/-- The event for level 15 with e above 0 over 16 rounds, at most once per 1,024 (Table 15.10). -/
def State.smokerEvent (s : State) : State :=
  let h := s.hk
  let run := if h.level = 15 ∧ h.power > s.cfg.smoker.budget then h.maxRun + 1 else 0
  let s := { s with hk := { h with maxRun := run } }
  if 16 ≤ run ∧ (h.maxEvt = 0 ∨ h.maxEvt + 1024 ≤ h.round + 1) then
    ({ s with hk := { s.hk with maxEvt := h.round + 1 } }).raise 0x21 0 h.power h.round
  else s

/-- The smoker at the end of a round in S7. In DORMANT it measures and changes nothing (R459, R465). -/
def State.smokerRound (s : State) : State :=
  let v := s.hk.reading 113
  let (p, s) := if invalid v then ((Config.freeData s.freeCtr).toNat % 2 ^ 16, { s with freeCtr := s.freeCtr + 1 }) else (powerOf v, s)
  let n := s.hk.sinceS7 + 1
  let f := (s.reg (hkOff + 0x20)).toNat
  let s := { s with hk := { s.hk with power := p, sinceS7 := n } }
  if s.dorm.st = .dormant then s else
  let s :=
    if bitOf f 4 then { s with hk := { s.hk with level := bits f 3 0 } }
    else if n < 16 then { s with hk := { s.hk with level := 15 } }
    else if n = 16 then { s with hk := { s.hk with level := 15, firstUseDue := true } }
    else s.smokerApply
  s.smokerEvent

def execSmokerStepDown (s : State) : Out := .next s.smokerDown
def execFirstUseEnd (s : State) : Out := .next s.firstUseDone

/-! ## The refresh multiplier (R282, R283) -/

/-- TEMP of a stack: the higher of its valid readings in whole degrees; free where neither sensor has a reading. -/
def State.stackTemp (s : State) (k : Nat) : Int × State :=
  let vs := [s.hk.reading (80 + 2 * k), s.hk.reading (81 + 2 * k)].filter fun v => !invalid v
  match vs with
  | [] => ((Config.freeData s.freeCtr).toInt, { s with freeCtr := s.freeCtr + 1 })
  | [a] => (tempOf a / 16, s)
  | a :: b :: _ => (max (tempOf a) (tempOf b) / 16, s)

/-- A step of the multiplier by two thresholds. -/
def multOf (four two : Bool) : Nat := if four then 4 else if two then 2 else 1

/-- The target multiplier (R282). -/
def targetMult (r : RefreshCfg) (act : Nat) (temp : Int) : Nat :=
  let mt := multOf (decide ((r.t4 : Int) ≤ temp)) (decide ((r.t2 : Int) ≤ temp))
  max mt (if r.fixedMode then r.fixed else multOf (decide (r.a4 ≤ act)) (decide (r.a2 ≤ act)))

/-- A stack at the end of a round in S7: an increase, and the first target after S7, take effect now. -/
def State.stackRound (s : State) (k : Nat) : State :=
  let (t, s) := s.stackTemp k
  let x := s.stack k
  let act := x.quarters * 256 / 9830400
  let m := targetMult s.cfg.refresh act t
  let x := { x with act := act, temp := t, quarters := 0, first := false }
  s.setStack k
    (if (s.stack k).first ∨ x.mult < m then { x with mult := m, below := 0, stepDue := false }
     else if m < x.mult then { x with below := x.below + 1, stepDue := x.stepDue || decide (s.cfg.refresh.hold ≤ x.below + 1) }
     else { x with below := 0, stepDue := false })

/-- The multiplier falls by one step. -/
def State.multDown (s : State) (k : Nat) : State :=
  let x := s.stack k
  if x.stepDue then s.setStack k { x with mult := max 1 (x.mult / 2), below := 0, stepDue := false } else s

def execMultiplierStepDown (stack : Nat) (s : State) : Out := .next (s.multDown stack)

/-! ## Failed slots, shutdown and restart -/

/-- A slot is marked failed (R451): when it is the last of its unit, the module acts as for a shutdown reading of it. -/
def State.failSlot (s : State) (k : Nat) : State :=
  if bitOf s.hk.failDue k then
    let f := s.hk.failed ||| (1 <<< k)
    let s := { s with hk := { s.hk with failed := f, failDue := s.hk.failDue &&& (2 ^ 128 - 1 - (1 <<< k)) } }
    let s := if s.eventsOn then s.raise 0x22 0 k 0 else s
    if unitSlots k ≠ [] ∧ (unitSlots k).all (bitOf f) ∧ s.hk.shutdown = false ∧ s.hk.shutDue.isNone then
      { s with hk := { s.hk with shutDue := some (k, s.hk.reading k) } }
    else s
  else s

def execSlotFailed (slot : Nat) (s : State) : Out := .next (s.failSlot slot)

/-- THERMAL_SHUTDOWN (R453): the rails go, THERMTRIP# is asserted, a fatal event is logged. -/
def State.thermalShutdown (s : State) : State :=
  match s.hk.shutDue with
  | none => s
  | some (k, v) =>
    let s := (s.fatal 1 k v).removeRails
    { s with
      pins := { s.pins with thermtrip := true },
      mgmt := { s.mgmt with alert := s.mgmt.alert ||| 4 },
      hk := { s.hk with shutDue := none, shutdown := true, coolRounds := 0, hot := 0, thermSlot := k, thermValid := true,
                        thermReading := bits v 15 0, thermCount := s.hk.thermCount + 1 } }

def execThermalShutdown (s : State) : Out := .next s.thermalShutdown

/-- THERMAL_RESTART (R454): the shutdown no longer holds, and start-up begins; with MRST# low it waits for MRST# to go high (R22). -/
def execThermalRestart (s : State) : Out :=
  .next (if s.hk.shutdown ∧ 16 ≤ s.hk.coolRounds ∧ s.pins.inputOn then
      let s := { s with hk := { s.hk with shutdown := false }, boot := { s.boot with thermRestart := true },
                        pins := { s.pins with thermtrip := false } }
      if s.mayStart then s.startUp else s
    else s)

/-! ## The round -/

/-- Temperature slots: INVALID runs, shutdown readings in two rounds, and cool rounds during a shutdown. -/
def State.tempRound (s : State) : State :=
  let h := s.hk
  let rd := fun k => h.reading k
  let run := tempSlots.foldl (fun m k => AMap.set 0 m k (if invalid (rd k) then AMap.get 0 h.invalidRun k + 1 else 0)) h.invalidRun
  let due := tempSlots.filter fun k => AMap.get 0 run k == 4 && !bitOf h.failed k
  let live := tempSlots.filter fun k => !bitOf h.failed k
  let hot := live.filter fun k => !invalid (rd k) && decide (1760 ≤ tempOf (rd k))
  let twice := hot.filter fun k => bitOf h.hot k
  let cool := live.all fun k => !invalid (rd k) && decide (tempOf (rd k) ≤ 1360)
  let mask := fun (ks : List Nat) => ks.foldl (fun m k => m ||| (1 <<< k)) 0
  { s with hk := { h with
      invalidRun := run, failDue := h.failDue ||| mask due, hot := mask hot, coolRounds := if h.shutdown ∧ cool then h.coolRounds + 1 else 0,
      shutDue := match h.shutDue, twice with
        | some x, _ => some x
        | none, k :: _ => if h.shutdown then none else some (k, rd k)
        | none, [] => none } }

/-- The event of a temperature slot at 100.0 °C, re-armed when every slot is at 95.0 °C or below (Table 15.10). -/
def State.hiTempRound (s : State) : State :=
  let ks := tempSlots.filter fun k => !invalid (s.hk.reading k)
  if s.hk.hiArmed then
    match ks.find? (fun k => decide (1600 ≤ tempOf (s.hk.reading k))) with
    | some k => if s.eventsOn then ({ s with hk := { s.hk with hiArmed := false } }).raise 0x23 0 k (s.hk.reading k) else s
    | none => s
  else if ks.all fun k => decide (tempOf (s.hk.reading k) ≤ 1520) then { s with hk := { s.hk with hiArmed := true } }
  else s

/-- The refresh multiplier f of a tier-F rank (R339): slower than nominal gives 1, and above 4 gives 4. -/
def rankRate (code : Nat) : Nat := let r := Config.mr4Rate code; if r ≤ 1 then 1 else if r ≤ 2 then 2 else 4

/-- The refresh rates of the tier-F packages follow their MR4 (R339), which an MRR of each rank has read (R326). -/
def State.mr4Round (s : State) : State :=
  overList (List.range 16) (fun i s =>
    let n := 256 + i
    let v := s.hk.reading (96 + i)
    let s := if (s.ctl n).st = .run then (partsOf n).foldl (fun s _ => s.logCmd n 1 none) s else s
    if invalid v then s else s.setCtl n { s.ctl n with mr4 := rankRate (bits v 2 0) }) s

/-- What earlier rounds have made due acts before another round ends. -/
def State.overdue (s : State) : State :=
  let s := overList tempSlots (fun k s => s.failSlot k) s
  let s := (s.smokerDown).firstUseDone
  (overList (List.range 8) (fun k s => s.multDown k) s).thermalShutdown

/-- HOUSEKEEPING_ROUND (R449): all slots are read, and the rules of a round act. -/
def execHousekeepingRound (readings : List (Nat × Nat)) (s : State) : Out :=
  .next (if s.hkRuns then
      let s := s.overdue
      let n := s.hk.round + 1
      let vs := (List.range 128).map fun k => (k, s.slotReading readings k)
      let sensors : AMap Nat := vs.foldl (fun (m : AMap Nat) (e : Nat × Nat) =>
        if 96 ≤ e.1 ∧ e.1 < 112 ∧ s.dorm.st = .dormant then m else AMap.set 0x80000000 m e.1 (e.2 + (n % 2 ^ 32) * 2 ^ 32)) s.hk.sensors
      let s := ({ s with hk := { s.hk with round := n, sensors := sensors } }).tempRound.hiTempRound
      if s.atS7 then
        let s := s.mr4Round.smokerRound
        let s := overList (List.range 8) (fun k s => s.stackRound k) s
        overList (List.range 8) (fun p s => s.setPort p { s.port p with fecRun := 0 }) s
      else s
    else s)

end Sys2Proof.Machine
end

