-- ==== Sys2Proof/Machine/Boot.lean ====
section
/-! DEFINITION. Start-up (chapter 2): straps, slot selection (R45, R50), the image's signatures and sections (R46 to R49, R470 and each
section's own rule), rails (R443), link bring-up (R54, R55), the capping fill with the journal's recovery (R57 to R60, R477), the self-test
(R61, R62, R254) and S7 entry (R63, R504). -/

namespace Sys2Proof.Machine

/-! ## Straps and slots -/

/-- Power of the VIO rail alone, and of every rail. -/
def vioRail : Nat := 0x1000
def allRails : Nat := 0x3FFF

/-- STRAP_SAMPLE (R19, R36). -/
def execStrapSample (mhold bscan : Bool) (s : State) : Out :=
  .next (if s.boot.st = .s0 then
      let s := { s with pins := { s.pins with mhold := mhold, bscan := bscan } }
      if bscan then { s with boot := { s.boot with st := .bscan }, pins := { s.pins with rails := vioRail } }
      else if mhold then { s with boot := { s.boot with st := .s1 } }
      else s.hold 0x0B
    else s)

/-- Base of a slot. -/
def slotBase (k : Nat) : Nat := k * 0x1000000

/-- A little-endian field of a slot's header. -/
def State.hdr (s : State) (k off n : Nat) : Nat := leAt erased s.nor.mem (slotBase k + off) n

/-- The cause that excludes a slot (R50, Table 2.8); 0 for a candidate. -/
def State.slotCause (s : State) (k : Nat) : Nat :=
  let flags := s.hdr k 0x0E 2
  let signed := s.hdr k 0x08 4
  let sigLen := s.hdr k 0x34 4
  let zero := fun off n => (bytesAt erased s.nor.mem (slotBase k + off) n).all (· == 0)
  if !(s.hdr k 0 4 == 0x58495750 && s.hdr k 4 2 == 1 && s.hdr k 6 2 == 0x100 && signed % 8 == 0 && decide (0x100 ≤ signed)
      && decide (1 ≤ s.hdr k 0x0C 2) && decide (s.hdr k 0x0C 2 ≤ 64) && decide (flags < 2) && zero 0x22 6 && s.hdr k 0x30 4 == signed
      && sigLen == (if flags = 1 then 5448 else 2724) && zero 0x38 200 && decide (signed + sigLen ≤ 0x400000)) then 3
  else if s.hdr k 0x28 8 ≠ s.fuses.serial ∨ s.hdr k 0x20 2 ≠ 0xB0 then 7
  else if s.hdr k 0x10 8 < s.fuses.sv then 6
  else 0

/-- Record a cause for a slot. -/
def Boot.failSlot (b : Boot) (k cause : Nat) : Boot := if k = 0 then { b with failA := cause } else { b with failB := cause }

/-- The candidates in rank order: SECVER, then SEQ, then slot A first. -/
def State.rankSlots (s : State) : List Nat :=
  let a := s.slotCause 0 == 0
  let b := s.slotCause 1 == 0
  let va := (s.hdr 0 0x10 8, s.hdr 0 0x18 8)
  let vb := (s.hdr 1 0x10 8, s.hdr 1 0x18 8)
  if a && b then (if va.1 < vb.1 ∨ (va.1 = vb.1 ∧ va.2 < vb.2) then [1, 0] else [0, 1])
  else if a then [0] else if b then [1] else []

/-- SLOT_HEADERS_READ (R42, R50): what the JEDEC ID, the SFDP signature and the tables gave comes with the command. -/
def execSlotHeadersRead (jedec sfdp : Nat) (quad : QuadForm) (s : State) : Out :=
  .next (if s.boot.st = .s1 ∧ s.boot.headersRead = false then
      if jedec = 0 ∨ jedec = 0xFFFFFF then s.hold 1
      else if sfdp ≠ 0x50444653 ∨ quad = .absent then s.hold 2
      else
        let b := ({ s.boot with headersRead := true, cands := s.rankSlots }.failSlot 0 (s.slotCause 0)).failSlot 1 (s.slotCause 1)
        let s := { s with boot := b }
        if b.cands = [] then s.hold 0 else s
    else s)

/-- The n bytes at a NOR address as the image buffer stores them: words under the DEC-TED codeword (R66). -/
def imageWords (m : AMap Byte) (base n : Nat) : AMap Codeword :=
  (List.range ((n + 7) / 8)).filterMap fun i =>
    let cw := encode (BitVec.ofNat 64 (leAt erased m (base + 8 * i) (min 8 (n - 8 * i)))) false
    if cw = zeroCw then none else some (i, cw)

/-- IMAGE_READ: the first candidate's header, sections and signature block are in the image buffer, with its measurement. -/
def execImageRead (s : State) : Out :=
  .next (match s.boot.cands with
    | [] => s
    | k :: _ =>
      if s.boot.st = .s1 ∧ s.boot.headersRead then
        let base := slotBase k
        let signed := s.hdr k 0x08 4
        let n := signed + s.hdr k 0x34 4
        { s with boot := { s.boot with st := .s2, imgBuf := imageWords s.nor.mem base n, imgLen := n, imgValid := false,
                                       imgMeas := Config.sha256 (bytesAt erased s.nor.mem base signed) } }
      else s)

/-! ## Signatures (R46, R470) -/

/-- A byte of the image, as its word of the buffer decodes. -/
def Boot.imgByte (b : Boot) (a : Nat) : Byte := ((decode (AMap.get zeroCw b.imgBuf (a / 8))).d >>> (8 * (a % 8))).setWidth 8
/-- Bytes of the image. -/
def Boot.imgBytes (b : Boot) (off n : Nat) : List Byte := (List.range n).map fun i => b.imgByte (off + i)
/-- A little-endian field of the image. -/
def Boot.img (b : Boot) (off n : Nat) : Nat :=
  (List.range n).foldl (fun v i => v ||| ((b.imgByte (off + i)).toNat <<< (8 * i))) 0

/-- A public key carries the type codes of Table 16.1, most significant byte first as RFC 8554 writes them. -/
def keyTypes (k : List Byte) : Bool := k.take 8 == [0, 0, 0, 7, 0, 0, 0, 3]

/-- The cause of a failed signature check; 0 where the signatures are valid. -/
def State.sigCause (s : State) : Nat :=
  let b := s.boot
  let p := b.img 0x30 4
  let vk := b.imgBytes p 56
  let ok := b.imgBytes (p + 2724) 56
  let owner := b.img 0x0E 2 == 1
  let verify := fun key off => Config.lmsVerify key b.imgMeas (b.imgBytes off 2668)
  if !(keyTypes vk && Config.sha256 vk == s.fuses.vendorKh) then 4
  else if !verify vk (p + 56) then 4
  else if s.fuses.ownerKh ≠ 0 then
    (if owner && keyTypes ok && Config.sha256 ok == s.fuses.ownerKh && verify ok (p + 2780) then 0 else 5)
  else if owner && !verify ok (p + 2780) then 5
  else 0

/-! ## Sections (R47 to R49) -/

/-- A section: type, flags, offset and length of its value. -/
structure Section where
  ty : Nat
  flags : Nat
  off : Nat
  len : Nat
  deriving DecidableEq, Repr

/-- A length padded to a multiple of 8. -/
def pad8 (n : Nat) : Nat := (n + 7) / 8 * 8

/-- Sections from an offset to the end of the signed part: none where one breaks R47. -/
def sectionsFrom (b : Boot) (fin : Nat) : Nat → Nat → Option (List Section)
  | 0, off => if off = fin then some [] else none
  | f + 1, off =>
    if off = fin then some []
    else if off + 8 > fin then none
    else
      let x : Section := { ty := b.img off 2, flags := b.img (off + 2) 2, off := off + 8, len := b.img (off + 4) 4 }
      let nx := off + 8 + pad8 x.len
      if nx > fin ∨ 2 ≤ x.flags ∨ (b.imgBytes (off + 8 + x.len) (pad8 x.len - x.len)).any (· != 0) then none
      else match sectionsFrom b fin f nx with
        | none => none
        | some xs => match xs with
          | y :: _ => if x.ty < y.ty then some (x :: xs) else none
          | [] => some [x]

/-- Bits of a value that must be 0. -/
def zeroBits (v hi lo : Nat) : Bool := bits v hi lo == 0

/-- A value within a range. -/
def within (v lo hi : Nat) : Bool := decide (lo ≤ v) && decide (v ≤ hi)

/-- The setpoint range of rail j in mV (Table 15.1). -/
def railRange (j : Nat) : Nat × Nat :=
  if j < 4 then (600, 850) else if j < 8 then (650, 850) else if j < 10 then (1000, 1150) else if j = 10 then (1000, 1100)
  else if j = 11 then (850, 950) else if j = 12 then (1700, 1900) else (750, 850)

/-- RAILS (R442). -/
def parseRails (b : Boot) (o len : Nat) (c : Cfg) : Option Cfg :=
  let rec' := fun j => b.img (o + 8 * j) 8
  let pll := b.img (o + 112) 8
  let ok := fun j =>
    let w := rec' j
    let r := railRange j
    within (bits w 15 0) r.1 r.2 && within (bits w 23 16) 1 20 && bits w 39 24 != 0 && zeroBits w 63 40
  if len = 120 ∧ (List.range 14).all ok ∧ within (bits pll 7 0) 3 100 ∧ zeroBits pll 63 8 then
    some { c with rails := (List.range 14).map fun j => { set := bits (rec' j) 15 0, tol := bits (rec' j) 23 16, ocp := bits (rec' j) 39 24 },
                  pllLock := bits pll 7 0 }
  else none

/-- Words and greatest index of a DELAY record's KIND (R348, Table 14.13). -/
def delayShape (kind : Nat) : Option (Nat × Nat) :=
  match kind with | 1 => some (256, 27) | 2 => some (16, 32) | 3 => some (4, 36) | 4 => some (4, 16) | 5 => some (8, 8) | _ => none

/-- The assigned bits of word i of a DELAY record. -/
def delayBits (kind i : Nat) : Nat :=
  let seven := 0x7F7F7F7F7F7F7F7F
  match kind with
  | 1 => delayMask false (8 * i)
  | 2 => delayMask true (8 * i)
  | 3 => if i < 32 then seven else 0xFF7F7F7F
  | 4 => seven
  | _ => 2 ^ 56 - 1

/-- Put a record's words where the links find them. -/
def putDelay (b : Boot) (kind idx off words : Nat) (c : Cfg) : Cfg :=
  (List.range words).foldl (fun c i =>
    let w : Word := BitVec.ofNat 64 (b.img (off + 8 * i) 8)
    if kind = 1 then { c with delay := AMap.set 0 c.delay (ctlOff idx + 0x400 + 8 * i) w }
    else if kind = 2 then { c with delay := AMap.set 0 c.delay (ctlOff (256 + idx) + 0x400 + 8 * i) w }
    else { c with linkDelay := AMap.set 0 c.linkDelay (kind * 2 ^ 16 + idx * 64 + i) w }) c

/-- The records of DELAY from an offset, ascending above a (KIND, INDEX) key; counts those of DCHs and DCFs. -/
def parseDelays (b : Boot) (fin : Nat) : Nat → Nat → Nat → Nat → Cfg → Option Cfg
  | 0, _, _, _, _ => none
  | f + 1, off, key, cnt, c =>
    if off = fin then (if cnt = 272 then some c else none)
    else if off + 8 > fin then none
    else
      let h := b.img off 8
      let kind := bits h 7 0
      let idx := bits h 31 16
      let words := bits h 47 32
      let k := kind * 65536 + idx + 1
      match delayShape kind with
      | none => none
      | some (n, w) =>
        if key < k ∧ idx < n ∧ words = w ∧ zeroBits h 15 8 ∧ zeroBits h 63 48 ∧ off + 8 + 8 * w ≤ fin
            ∧ (List.range w).all (fun i => b.img (off + 8 + 8 * i) 8 &&& (allBits ^^^ delayBits kind i) == 0) then
          parseDelays b fin f (off + 8 + 8 * w) k (cnt + b2n (decide (kind ≤ 2))) (putDelay b kind idx (off + 8) w c)
        else none

/-- ADDRMAP (R290, R294, R329, R330). -/
def parseAddrmap (b : Boot) (o len : Nat) (c : Cfg) : Option Cfg :=
  let e := fun r => b.img (o + 8 * r) 8
  let reg : Nat → Region := fun r => { stack := bits (e r) 2 0, sid := bits (e r) 4 3, comb := bitOf (e r) 5, hf := bits (e r) 15 8 }
  let rs := (List.range 24).map reg
  let okE := fun r => decide (bits (e r) 4 3 ≤ 2) && zeroBits (e r) 7 6 && decide (bits (e r) 15 8 ≤ 128)
    && (bitOf (e r) 5 || bits (e r) 15 8 == 0) && zeroBits (e r) 63 16
  let pairs := rs.map fun g => g.stack * 3 + g.sid
  let mask := fun off => b.img (o + off) 8
  let okM := fun (homes own m : Nat) => m &&& homes == 1 <<< own && decide (m < 2 ^ 35)
  let spread := 0xF8F80
  let tierF := 0x3E000
  if len = 0x138 ∧ (List.range 24).all okE ∧ pairs.eraseDups.length = 24
      ∧ (List.range 5).all (fun j => okM spread (7 + j) (mask (0xC0 + 8 * j)) && okM spread (15 + j) (mask (0xE8 + 8 * j)))
      ∧ (List.range 4).all (fun j => okM tierF (13 + j) (mask (0x110 + 8 * j))) ∧ okM tierF 17 (mask 0x130) then
    some { c with regions := rs, cmask := (List.range 5).map fun j => mask (0xC0 + 8 * j),
                  bmask := (List.range 5).map fun j => mask (0xE8 + 8 * j), fbmask := (List.range 4).map fun j => mask (0x110 + 8 * j),
                  frmask := mask 0x130 }
  else none

/-- FRAMEBASE (R297). -/
def parseFramebase (b : Boot) (o len : Nat) (c : Cfg) : Option Cfg :=
  let v := b.img o 8
  if len = 8 ∧ v % 2 ^ 27 = 0 ∧ within v 0x10000000000 0x11FF8000000 then some { c with frameBase := v } else none

/-- REFRESH (R285). -/
def parseRefresh (b : Boot) (o len : Nat) (c : Cfg) : Option Cfg :=
  let mode := b.img o 1
  let fixed := b.img (o + 1) 1
  let t2 := b.img (o + 2) 1
  let t4 := b.img (o + 3) 1
  let a2 := b.img (o + 4) 2
  let a4 := b.img (o + 6) 2
  let hold := b.img (o + 8) 1
  let post := b.img (o + 9) 1
  let thr := fun a => within a 1 1024 || a == 0xFFFF
  if len = 16 ∧ mode ≤ 1 ∧ (fixed = 1 ∨ fixed = 2 ∨ fixed = 4) ∧ t2 ≤ 85 ∧ t2 ≤ t4 ∧ t4 ≤ 95 ∧ thr a2 ∧ thr a4 ∧ (a4 = 0xFFFF ∨ a2 ≤ a4)
      ∧ 1 ≤ hold ∧ within post 1 8 ∧ b.img (o + 10) 6 = 0 then
    some { c with refresh := { fixedMode := mode == 1, fixed := fixed, t2 := t2, t4 := t4, a2 := a2, a4 := a4, hold := hold, post := post } }
  else none

/-- SMOKER's ranges (Table 15.7), without BUDGET. -/
def smokerOk (b1 b2 b3 hyst down : Nat) : Bool :=
  within b1 1 2000 && decide (b1 < b2) && decide (b2 < b3) && decide (b3 ≤ 2000) && decide (hyst ≤ 1000) && within down 1 64

/-- SMOKER (R460). -/
def parseSmoker (b : Boot) (o len : Nat) (c : Cfg) : Option Cfg :=
  let v : SmokerCfg := { budget := b.img o 2, band1 := b.img (o + 2) 2, band2 := b.img (o + 4) 2, band3 := b.img (o + 6) 2,
                         hyst := b.img (o + 8) 2, down := b.img (o + 10) 1 }
  if len = 16 ∧ within v.budget 500 2600 ∧ smokerOk v.band1 v.band2 v.band3 v.hyst v.down ∧ b.img (o + 11) 5 = 0 then
    some { c with smoker := v }
  else none

/-- PEER (R430). -/
def parsePeer (b : Boot) (o len : Nat) (c : Cfg) : Option Cfg :=
  let v : PeerCfg := { enable := b.img o 1, maxHops := b.img (o + 1) 1, helloMs := b.img (o + 2) 2, swarmId := b.img (o + 4) 4,
                       xferTo := b.img (o + 8) 2 }
  if len = 16 ∧ within v.maxHops 1 7 ∧ within v.helloMs 1 100 ∧ within v.xferTo 1 1000 ∧ b.img (o + 10) 6 = 0 then some { c with peer := v }
  else none

/-- HOSTID (R403). -/
def parseHostid (b : Boot) (o len : Nat) (c : Cfg) : Option Cfg :=
  let v : HostIdCfg := { vid := b.img o 2, did := b.img (o + 2) 2, ssvid := b.img (o + 4) 2, ssid := b.img (o + 6) 2, revid := b.img (o + 8) 1,
                         cls := b.img (o + 9) 3, maxW := b.img (o + 12) 1, maxS := b.img (o + 13) 1 }
  if len = 16 ∧ v.vid ≠ 0 ∧ v.vid ≠ 0xFFFF ∧ (v.maxW = 4 ∨ v.maxW = 8 ∨ v.maxW = 16) ∧ within v.maxS 4 6 ∧ b.img (o + 14) 2 = 0 then
    some { c with hostId := v }
  else none

/-- LIMITS (R502). -/
def parseLimits (b : Boot) (o len : Nat) (c : Cfg) : Option Cfg :=
  let m := b.img o 256
  let n := b.img (o + 0x100) 2
  if len = 264 ∧ m ≠ 0 ∧ n ≤ 2048 ∧ b.img (o + 0x102) 6 = 0 then some { c with liveMask := BitVec.ofNat 2048 m, maxCores := n } else none

/-- EXPERT (R495). -/
def parseExpert (b : Boot) (o len : Nat) (c : Cfg) : Option Cfg :=
  let v := b.img o 8
  if len = 8 ∧ v < 2048 then some { c with allow := v } else none

/-- SCRUB (R373). -/
def parseScrub (b : Boot) (o len : Nat) (c : Cfg) : Option Cfg :=
  let n := b.img o 2
  let f := b.img (o + 2) 2
  let e := b.img (o + 4) 1
  if len = 8 ∧ within n 1 8760 ∧ within f 1 8760 ∧ e < 4 ∧ b.img (o + 5) 3 = 0 then
    some { c with scrub := { periodN := n, periodF := f, enable := e } }
  else none

/-- TIMERS (R353). -/
def parseTimers (b : Boot) (o len : Nat) (c : Cfg) : Option Cfg :=
  let v : TimersCfg := { dormant := b.img o 4, pd := b.img (o + 4) 2, diag := b.img (o + 6) 2, panicPct := b.img (o + 8) 1 }
  if len = 16 ∧ within v.dormant 100 1000000 ∧ within v.diag 1 10000 ∧ within v.panicPct 50 95 ∧ b.img (o + 9) 7 = 0 then
    some { c with timers := v }
  else none

/-- The value of one section: unknown types are skipped unless CRITICAL (R48). -/
def parseSection (b : Boot) (x : Section) (c : Cfg) : Option Cfg :=
  match x.ty with
  | 1 => parseRails b x.off x.len c
  | 2 => parseDelays b (x.off + x.len) 289 x.off 0 0 c
  | 3 => parseAddrmap b x.off x.len c
  | 4 => parseFramebase b x.off x.len c
  | 5 => parseRefresh b x.off x.len c
  | 6 => parseSmoker b x.off x.len c
  | 7 => parsePeer b x.off x.len c
  | 8 => parseHostid b x.off x.len c
  | 9 => parseLimits b x.off x.len c
  | 10 => parseExpert b x.off x.len c
  | 11 => parseScrub b x.off x.len c
  | 12 => parseTimers b x.off x.len c
  | _ => if x.flags = 1 then none else some c

/-- The configuration the image's sections give: none for an invalid image (R49). -/
def Boot.parse (b : Boot) : Option Cfg :=
  match sectionsFrom b (b.img 0x08 4) 64 0x100 with
  | none => none
  | some xs =>
    if xs.length = b.img 0x0C 2 ∧ [1, 2, 3, 4, 8].all (fun t => xs.any fun x => x.ty == t) then
      xs.foldl (fun c x => match c with | some c => parseSection b x c | none => none)
        (some { Cfg.init with
          secver := b.img 0x10 8, seq := b.img 0x18 8, owner := b.img 0x0E 2 == 1,
          ownerKey := if b.img 0x0E 2 = 1 then b.imgBytes (b.img 0x30 4 + 2724) 56 else [] })
    else none

/-- IMAGE_VERIFY (R470, R49, R36): the image is taken, or its cause is recorded and the other candidate, if any, is read. -/
def execImageVerify (s : State) : Out :=
  .next (match s.boot.cands with
    | [] => s
    | k :: rest =>
      if s.boot.st = .s2 then
        let cause := s.sigCause
        match (if cause = 0 then s.boot.parse else none) with
        | some c => { s with cfg := c, boot := { s.boot with st := .s3, slot := k, imgValid := true }, hk := { s.hk with round := 0 } }
        | none =>
          let s := { s with boot := { s.boot.failSlot k (if cause = 0 then 0x0A else cause) with cands := rest } }
          if rest = [] then s.hold 0 else { s with boot := { s.boot with st := .s1, fallback := true } }
      else s)

/-- RAIL_SEQUENCE (R443): the rails rise and the PLLs lock, or start-up goes to HOLD. -/
def execRailSequence (ok : Bool) (s : State) : Out :=
  .next (if s.boot.st = .s3 then
      if ok then { s with boot := { s.boot with st := .s4 }, pins := { s.pins with rails := allRails } } else s.hold 8
    else s)

/-! ## Fences of start-up (R55, R56, R59, R63) -/

/-- Record a fence of start-up for its event at S7. -/
def State.noteFence (s : State) (fid st dpa : Nat) : State :=
  s.onBoot fun b => { b with fences := b.fences ++ [StartFence.mk fid st dpa] }

/-- Fence a function during start-up, with the state and the first affected DPA its event gives. -/
def State.fenceStart (s : State) (fid st dpa : Nat) : State :=
  if s.isFenced fid then s
  else
    (s.onFlt fun f => { f with fenced := f.fenced ++ [fid] }).noteFence fid st dpa |>.bump (ledgOff + 0x28)

/-- A comb unit is fenced by itself at start-up with a cause: reported under its group (R63). DESIGN CHOICE: one event for each such unit. -/
def State.fenceUnit (s : State) (u cause st : Nat) : State :=
  let x := s.cunit u
  if x.st = .fenced then s
  else
    (s.setUnit u { x with st := .fenced, cause := cause }).noteFence (0x5000 + unitDch u) st 0

/-- The lowest DPA a channel of a stack serves in any region of the stack (R56), looked for line by line within each region's first
span that reaches every channel. -/
def firstDpa (cfg : Cfg) (n : Nat) : Nat :=
  if n < 256 then
    match (List.range 24).find? fun r => (regionAt cfg r).stack == n / 32 with
    | none => 0
    | some r =>
      if (regionAt cfg r).comb then r * 2 ^ 35 + (n % 32) * 2 ^ 30
      else
        match (List.range 32).find? fun i => hashBits (128 * i) cfg.cmask == n % 32 with
        | some i => r * 2 ^ 35 + 128 * i
        | none => r * 2 ^ 35
  else 2 ^ 40 + (n - 256) * 2 ^ 35

/-- A comb unit goes with its channel: FENCED with cause 5, reported with its group (Table 8.5, R63). -/
def State.takeUnit (s : State) (u : Nat) : State :=
  let x := s.cunit u
  if x.st = .fenced then s else s.setUnit u { x with st := .fenced, cause := 5 }

/-- A controller's channel failed: it is fenced, and so is its comb group, whose units are FENCED with cause 5 (Table 13.2, Table 8.5). -/
def State.channelFailed (s : State) (n st : Nat) : State :=
  let s := (s.setCtl n { s.ctl n with st := .fenced }).fenceStart (ctlFid n) st (firstDpa s.cfg n)
  if n < 256 then overList (groupUnits n) (fun u s => s.takeUnit u) (s.fenceStart (0x5000 + n) st 0) else s

/-- Functions of a class (Table 13.1); class 0 holds the module function alone. -/
def classSize (cls : Nat) : Nat :=
  match cls with
  | 0 => 1 | 1 => 2048 | 2 => 64 | 3 => 4 | 4 => 256 | 5 => 256 | 6 => 16 | 7 => 8 | 8 => 4 | 9 => 4 | 10 => 1 | _ => 0

/-- A function ID of Table 13.1. -/
def validFid (fid : Nat) : Bool := decide (fid / 0x1000 ≠ 0) && decide (fid % 0x1000 < classSize (fid / 0x1000))

/-- A base die is lost at start-up with what it holds (R55, Table 13.2). -/
def State.baseFailed (s : State) (d st : Nat) : State :=
  let s := (s.fenceStart (0x9000 + d) st 0).fenceStart (0x3000 + d) st 0
  let s := overList ((List.range 64).map (64 * d + ·)) (fun n s => s.channelFailed n st) s
  let s := overList ((List.range 4).map (256 + 4 * d + ·)) (fun n s => s.channelFailed n st) s
  (s.fenceStart (0x7000 + 2 * d) st 0).fenceStart (0x7001 + 2 * d) st 0

/-- Every channel and package of a base die is fenced. -/
def State.baseEmpty (s : State) (b : Nat) : Bool :=
  (List.range 64).all (fun i => s.isFenced (0x4000 + 64 * b + i)) && (List.range 4).all fun i => s.isFenced (0x6000 + 4 * b + i)

/-- The dies that a ring with these links in service joins to base die 0; link l joins dies l and (l + 1) mod 4. -/
def joined (up : Nat → Bool) : List Nat :=
  (List.range 4).filter fun d => (List.range d).all (fun l => up l) || (List.range (4 - d)).all fun i => up (d + i)

/-- The base dies that the failures of start-up leave without memory, or cut off from base die 0, are lost as well (R55, R385). -/
def State.startLosses (s : State) (st : Nat) : State :=
  let ok := joined fun i => !s.isFenced (0x8000 + i)
  overList fourDies (fun d s => if s.isFenced (0x9000 + d) = false ∧ (s.baseEmpty d ∨ ok.contains d = false) then s.baseFailed d st else s) s

/-- A cluster is fenced at start-up with its 32 cores (Table 13.2). -/
def State.clusterFailed (s : State) (k st : Nat) : State :=
  overList ((List.range 32).map (32 * k + ·)) (fun g s => s.fenceStart (0x1000 + g) st 0) (s.fenceStart (0x2000 + k) st 0)

/-- A core is fenced at start-up; in a cluster with 4 fenced cores the cluster is (Table 13.2). -/
def State.coreFailed (s : State) (g st : Nat) : State :=
  let fenced := ((List.range 32).filter fun i => s.isFenced (0x1000 + g / 32 * 32 + i)).length
  if 4 ≤ fenced then s.clusterFailed (g / 32) st else s.fenceStart (0x1000 + g) st 0

/-- An SRAM did not read back (R59): the function that owns it is fenced, with what Table 13.2 charges to it. The SRAMs of R57 are those of
cores, clusters, sequencers, peer ports and base dies. -/
def State.sramFailed (s : State) (fid : Nat) : State :=
  match fid / 0x1000 with
  | 1 => s.coreFailed (fid % 0x1000) 5
  | 2 => s.clusterFailed (fid % 0x1000) 5
  | 3 => s.fenceStart fid 5 0
  | 7 => s.fenceStart fid 5 0
  | 9 => s.baseFailed (fid % 0x1000) 5
  | _ => s

/-- Correctable read-backs are counted where the function has a counter of them (R59, Table 12.8): a core, a cluster, a die cache. -/
def State.sramCorrected (s : State) (fid n : Nat) : State :=
  match fid / 0x1000 with
  | 1 => s.bumpN (coreOff (fid % 0x1000) + 0x200) n
  | 2 => s.bumpN (cluOff (fid % 0x1000) + 0x800) n
  | 9 => s.bumpN (frameOff + 0x200 + 8 * (fid % 0x1000)) n
  | _ => s

/-- A link failed its bring-up or its pattern test (R55, Table 2.9): a lane of a peer port is removed, and a port that has lost all four at
bring-up is fenced. -/
def State.linkFailed (s : State) (st : Nat) (l : LinkId) : State :=
  match l with
  | .dch n => if n < 256 then s.channelFailed n st else s
  | .dcf n => if n < 16 then s.channelFailed (256 + n) st else s
  | .d2d k => if k < 4 then (s.setLink k { s.link k with st := 2 }).fenceStart (0x8000 + k) st 0 else s
  | .faceBond d => if d < 4 then s.fenceStart (0x3000 + d) st 0 else s
  | .peerLane p lane =>
    if p < 8 ∧ lane < 4 then
      let s := s.setPort p { s.port p with badLanes := (s.port p).badLanes ||| (1 <<< lane) }
      if st = 4 ∧ (s.port p).badLanes = 15 then (s.setPort p { s.port p with st := .down }).fenceStart (0x7000 + p) st 0 else s
    else s

/-- LINK_BRINGUP (R54, R55): delays are loaded; enabled peer ports with a cable begin bring-up; a link that failed is fenced. -/
def execLinkBringup (failed : List LinkId) (s : State) : Out :=
  .next (if s.boot.st = .s4 then
      let s := overList (List.range 8) (fun p s =>
        let st := if !bitOf s.cfg.peer.enable p then PortState.disabled else if bitOf s.pins.pprsnt p then .down else .training
        s.setPort p { s.port p with st := st }) s
      let s := (failed.foldl (fun s l => s.linkFailed 4 l) s).startLosses 4
      let s := overList ((List.range 272).filter fun n => (s.ctl n).st == .run) (fun n s => s.modeRegs n) s
      { s with boot := { s.boot with st := .s5 } }
    else s)

/-! ## The journal (R476, R477) -/

/-- One bit of the CRC-32 of IEEE 802.3. -/
def crcBit (c : BitVec 32) : BitVec 32 := if c.getLsbD 0 then (c >>> 1) ^^^ 0xEDB88320 else c >>> 1

/-- CRC-32 of bytes. -/
def crc32 (bs : List Byte) : BitVec 32 :=
  bs.foldl (fun c b => (List.range 8).foldl (fun c _ => crcBit c) (c ^^^ b.setWidth 32)) 0xFFFFFFFF ^^^ 0xFFFFFFFF

/-- The 256 bytes of a journal record (Table 16.4). -/
def journalPage (seq kind epoch leaf lin lout lalt : Nat) : List Byte :=
  let body := ([seq, kind ||| (epoch <<< 8) ||| (leaf <<< 18), lin, lout, lalt].flatMap (leBytes 8)) ++ List.replicate 208 0
  body ++ leBytes 8 (crc32 body).toNat

/-- The page holds a record that is valid. -/
def journalValid (m : AMap Byte) (k : Nat) : Bool :=
  let a := journalBase + 256 * k
  leAt erased m (a + 248) 8 == (crc32 (bytesAt erased m a 248)).toNat

/-- Program a record after every operation requested before it, and read it back (R41, R476). What a program that did not hold leaves is
free, and its page is past; one that times out is a fatal event (R43). -/
def State.journal (s : State) (kind epoch leaf : Nat) (r : PageEnd) : State :=
  let s := s.norWait
  let a := journalBase + 256 * s.sec.jpos
  let page := journalPage (s.sec.jseq + 1) kind epoch leaf (s.ledgGet 6 0) (s.ledgGet 6 1) (s.ledgGet 6 2)
  let s := if r = .kept then s.norApply (.prog a page .journal) else s.norPartial (.prog a page .journal)
  let s := s.onNor fun n => { n with timedOut := r == .timedOut }
  let s := if r = .timedOut then s.fatal 4 0 0 else s
  let pos := s.sec.jpos
  let s := { s with sec := { s.sec with jseq := s.sec.jseq + 1, jpos := (pos + 1) % 4096 } }
  s.eraseAhead journalBase pos

/-- Blow one EPOCH_FUSE: the next leaf is leaf 0 of the new epoch. -/
def State.newEpoch (s : State) (why : Nat) : State :=
  ({ s with fuses := { s.fuses with epoch := s.fuses.epoch + 1 }, sec := { s.sec with next := 0 } }).raise 0x30 0 (s.fuses.epoch + 1) why

/-- Set a count of ledger 6. -/
def State.setLedg6 (s : State) (j v : Nat) : State := { s with ledg := AMap.set 0 s.ledg (24 + j) v }

/-- Journal recovery (R477): the start is clean, or costs an epoch; an OPEN record follows, whose read-back comes with the command. -/
def State.journalRecover (s : State) (openEnd : PageEnd) : State :=
  let m := s.nor.mem
  let e := s.fuses.epoch
  let found := newest m journalBase (journalValid m)
  let (seq, pos, w1, li, lo, la) := match found with
    | some (k, q) =>
      let a := journalBase + 256 * k
      (q, (k + 1) % 4096, leAt erased m (a + 8) 8, leAt erased m (a + 16) 8, leAt erased m (a + 24) 8, leAt erased m (a + 32) 8)
    | none => (0, 0, 0, 0, 0, 0)
  let kind := bits w1 7 0
  let clean := decide (1 ≤ e) && found.isSome && (kind == 1 || kind == 3) && bits w1 17 8 == e - 1 && decide (bits w1 28 18 ≤ 1023)
  let s := { s with sec := { s.sec with jseq := seq, jpos := pos, closed := false, jfail := false } }
  let la := if kind = 2 ∧ found.isSome then la + 1 else la
  let s := ((((s.setLedg6 0 li).setLedg6 1 lo).setLedg6 2 la).setLedg6 3 0)
  let s := if clean then { s with sec := { s.sec with next := bits w1 28 18 } }
    else if e < 1024 then s.newEpoch 2
    else { s with sec := { s.sec with next := 1024 } }
  (s.journal 1 (s.fuses.epoch - 1) s.sec.next openEnd).onSec fun x => { x with jfail := openEnd != .kept }

/-! ## Capping fill (R57 to R60) -/

/-- CAPPING_FILL: every DRAM and SRAM word holds the zero codeword; every refresh owed is issued (R58); read-back failures fence; the journal
and the fatal-event log are recovered, and their ledgers read so (R400); core clocks are released. -/
def execCappingFill (o : FillOutcome) (s : State) : Out :=
  .next (if s.boot.st = .s5 then
      let s := { s with dram := [], cores := [], clusters := [], seqs := [], dies := [], homeOut := [], heldWrites := [] }
      let s := { s with host := { s.host with pend := [], merged := none } }
      let s := s.ctls.foldl (fun s e => (e.2.debt.map (·.1)).foldl (fun s i => s.discharge e.1 i) s) s
      let s := { s with ledg := s.ledg.filter fun e => decide (24 ≤ e.1) }
      let s := (o.corrected.filter fun e => validFid e.1).foldl (fun s e => s.sramCorrected e.1 e.2) s
      let s := (o.functions.filter validFid).foldl (fun s f => s.sramFailed f) s
      let s := o.units.foldl (fun s u => if u < 12288 then s.fenceUnit u 4 5 else s) s
      let s := (s.fatalScan.fatalLoad).journalRecover o.openEnd
      { s with boot := { s.boot with st := .s6 }, pins := { s.pins with corePll := 0xF }, ledgAudit := s.ledg.filter fun e => decide (24 ≤ e.1) }
    else s)

/-! ## Self-test (R61, R62, R254) -/

/-- The weight of input k and output o of the test tile, an INT8 byte, and the activation byte of input k (R254). -/
def testWeight (o k : Nat) : Nat := (37 * o + 11 * k + 5) % 256
def testAct (k : Nat) : Nat := wrapBits 8 (2 * Int.ofNat k - 7)

/-- The partial of output o of the test tile: 8 unscaled INT8 inputs in one chunk (R183, R186). -/
def testPartial (o : Nat) : Nat :=
  wrapBits 32 (satAdd32 0 (partialSum 0 0 ((List.range 8).map (testWeight o)) ((List.range 8).map testAct))).1

/-- The 256 partials that unit u computed from the test tile its mover wrote into row 32,767 of both banks; the rows then hold the zero
codeword again, so nothing of the tile stays in memory. -/
def testResult (o : TestOutcome) (u : Nat) : List Nat :=
  let wrong := match o.results.find? (fun r => r.1 == u) with | some r => r.2 | none => []
  (List.range 256).map fun a => match wrong.find? (fun e => e.1 == a) with | some e => e.2 % 2 ^ 32 | none => testPartial a

/-- A unit fails the chain test: its results differ from those of every neighbour that takes part, or its residue check failed twice. -/
def chainFails (o : TestOutcome) (takes : Nat → Bool) (u : Nat) : Bool :=
  let base := u / 16 * 16
  let i := u % 16
  let nbs := [base + (i + 1) % 16, base + (i + 15) % 16].filter takes
  o.residue.contains u || (nbs != [] && nbs.all fun v => testResult o v != testResult o u)

/-- The units a test outcome speaks of, and their neighbours: every other unit agrees with its neighbours. -/
def testSuspects (o : TestOutcome) : List Nat :=
  ((o.results.map (·.1) ++ o.residue).filter (· < 12288)).flatMap fun u => [u, u / 16 * 16 + (u % 16 + 1) % 16, u / 16 * 16 + (u % 16 + 15) % 16]

/-- The cores of the initial live mask (R62, R502). -/
def State.initialLive (s : State) : List Nat :=
  let cs := (List.range 2048).filter fun g =>
    s.cfg.liveMask.getLsbD g && !s.isFenced (0x1000 + g) && !s.isFenced (0x2000 + g / 32) && !s.isFenced (0x3000 + g / 512)
  if s.cfg.maxCores = 0 then cs else cs.take s.cfg.maxCores

/-- A mask of a list of cores. -/
def maskCores (gs : List Nat) : BitVec 2048 := gs.foldl (fun m g => m ||| BitVec.ofNat 2048 (1 <<< g)) 0

/-- A base die works: its die cache is in service, and base die 0's packages are too (R62, R394). -/
def State.baseWorks (s : State) (d : Nat) : Bool :=
  !s.isFenced (0x9000 + d) && (d != 0 || (List.range 4).all fun i => !s.isFenced (0x6000 + i))

/-- Record the S6 pattern results of every tested link (Table 2.9). -/
def State.lpgStart (s : State) (failed : List LinkId) : State :=
  let s := overList (List.range 256) (fun n s => s.lpgResult (ctlOff n) 80 (!failed.contains (.dch n))) s
  let s := overList (List.range 16) (fun n s => s.lpgResult (ctlOff (256 + n)) 80 (!failed.contains (.dcf n))) s
  let s := overList (List.range 4) (fun l s => s.lpgResult (d2dOff l) 256 (!failed.contains (.d2d l))) s
  let s := overList fourDies (fun d s => s.lpgResult (seqOff d + 0x8000) 128 (!failed.contains (.faceBond d))) s
  overList (List.range 8) (fun p s =>
    if bitOf s.pins.pprsnt p then s
    else s.lpgResult (peerOff p) 4 (!((List.range 4).any fun l => failed.contains (.peerLane p l)))) s

/-- SELF_TEST: links, the chain test, the initial live mask, and the minimal service set. -/
def execSelfTest (o : TestOutcome) (s : State) : Out :=
  .next (if s.boot.st = .s6 ∧ s.boot.s6Done = false then
      let takes := fun u => (s.cunit u).st == .service
      let bad := ((testSuspects o).eraseDups).filter fun u => takes u && chainFails o takes u
      let s := bad.foldl (fun s u => s.fenceUnit u 1 6) s
      let s := ((o.links.foldl (fun s l => s.linkFailed 6 l) s).startLosses 6).lpgStart o.links
      let gs := s.initialLive
      let s := (s.onProg fun p => { p with admitted := maskCores gs, live := maskCores gs }).applyLive
      if s.baseWorks 0 ∧ fourDies.any (fun d => s.unparked d && s.baseWorks d) then s.onBoot fun b => { b with s6Done := true }
      else s.hold 9
    else s)

/-! ## S7 -/

/-- S7_ENTRY (R504, R63, R454): once the tests are done and PERST# is high. -/
def execS7Entry (s : State) : Out :=
  .next (if s.boot.st = .s6 ∧ s.boot.s6Done ∧ s.pins.perst then
      let (us, s) := s.freshTime 28
      let s := { s with boot := { s.boot with st := .s7, startUs := us },
                        hk := { s.hk with sinceS7 := 0, level := 15, down := 0, stepDownDue := false, firstUseDue := false },
                        stk := [] }
      let s := s.boot.fences.foldl (fun s f => s.raise 1 f.fid f.state f.dpa) s
      let s := { s with boot := { s.boot with fences := [] } }
      if s.boot.thermRestart then
        ({ s with boot := { s.boot with thermRestart := false } }).raise 0x20 0 s.hk.thermSlot s.hk.thermReading
      else s
    else s)

end Sys2Proof.Machine
end

