-- ==== Sys2Proof/Machine/Descriptors.lean ====
section
/-! DEFINITION. The descriptor instructions DSET, DLOAD, DSTORE and DADV (R131 to R134, R363), and FTE_READ. -/

namespace Sys2Proof.Machine

/-- Bits of each descriptor word that fields of Table 5.1 occupy. -/
def descMask (i : Nat) : Nat :=
  if i = 0 then maskOf 47 0 else if i = 1 then maskOf 15 0 ||| maskOf 47 24
  else if i = 2 ∨ i = 3 then maskOf 23 0 ||| maskOf 55 32 else if i = 4 then maskOf 23 0
  else if i ≤ 9 then maskOf 39 0 else if i ≤ 11 then allBits else 0

/-- Mark of a poisoned handle: bit 24, with a bit per DSET field written since. -/
def poisonMark : Nat := 1 <<< 24

/-- Write one field of a handle (R132): the low bits of the source. The DSET that completes the 24 fields of a poisoned handle stores
every word whole with P = 0 (R363). -/
def State.dset (s : State) (c : Ctx) (hd fld v : Nat) : State :=
  let (i, lo, w) := fieldPlace fld
  let s := s.setCore c.g ((s.core c.g).descMark c.e c.q hd)
  let m : Word := BitVec.ofNat 64 ((2 ^ w - 1) <<< lo)
  let s := s.coreWrite c.g 2 (16 * hd + i) (BitVec.ofNat 64 ((v % 2 ^ w) <<< lo)) m false
  let k := s.core c.g
  let mark := AMap.get 0 k.poisoned hd
  if mark = 0 then s
  else
    let mark := mark ||| (1 <<< fld)
    if mark = 2 ^ 25 - 1 then
      let s := s.setCore c.g { k with poisoned := AMap.set 0 k.poisoned hd 0 }
      overList (List.range 16) (fun i s =>
        let o := decode (AMap.get zeroCw (s.core c.g).desc (16 * hd + i))
        s.coreWrite c.g 2 (16 * hd + i) (o.d &&& BitVec.ofNat 64 (descMask i)) fullMask false) s
    else s.setCore c.g { k with poisoned := AMap.set 0 k.poisoned hd mark }

/-- DSET's meaning in its engine: the source is AX[MOD[8:4]] or the extension word (Table 4.8). -/
def opDset (c : Ctx) : M Res := do
  modify fun s =>
    let v := if bits c.h.md 3 3 = 1 then c.ext.headD 0 else c.ax s (bits c.h.md 8 4)
    s.dset c c.h.hd (bits c.h.md 14 9) v
  pure .nothing

/-- The address of a DLOAD or DSTORE is a multiple of 128 and its 128 bytes lie within the space (R131, Table 5.4). -/
def dAddrOk (space a : Nat) : Bool := a % 128 == 0 && inExtent space (8 * Int.ofNat a, 8 * Int.ofNat a + 1023)

/-- DLOAD: all 128 bytes; a load with poison marks the handle, one without clears the mark (R363). -/
def opDload (c : Ctx) : M Res := do
  let sp := bits c.h.md 14 13
  let a := c.ax (← get) (bits c.h.md 8 4)
  if !dAddrOk sp a then throw 6
  let mut vs : Array (Word × Bool) := #[]
  for i in List.range 16 do vs := vs.push (← readWord c sp (a / 8 + i))
  let bad := vs.toList.any fun v => v.2
  modify fun s =>
    let s := s.setCore c.g ((s.core c.g).descMark c.e c.q c.h.hd)
    let s := overList (List.range 16) (fun i s =>
      let v := vs.toList.getD i (0, false)
      s.coreWrite c.g 2 (16 * c.h.hd + i) v.1 fullMask v.2) s
    let k := s.core c.g
    s.setCore c.g { k with poisoned := AMap.set 0 k.poisoned c.h.hd (if bad then poisonMark else 0) }
  pure { Res.nothing with status := statusIf bad stPOISON }

/-- DSTORE: all 128 bytes, each word with its own stored poison (R363). -/
def opDstore (c : Ctx) : M Res := do
  let sp := bits c.h.md 14 13
  let a := c.ax (← get) (bits c.h.md 8 4)
  if !dAddrOk sp a then throw 6
  let marked := ((← get).core c.g).isPoisoned c.e c.q c.h.hd
  let vs ← readDescWords c c.h.hd
  let st ← writeWords c sp ((vs.zipIdx).map fun p => { w := a / 8 + p.2, mask := fullMask, d := p.1.1, p := p.1.2 })
  pure { Res.nothing with status := st ||| statusIf marked stPOISON }

/-- DADV: base ← base + inc[l] × n, modulo 2^48; a poisoned handle is left and POISON reported. -/
def opDadv (c : Ctx) : M Res := do
  if ((← get).core c.g).isPoisoned c.e c.q c.h.hd then pure .poison
  else
    let d ← readDesc c c.h.hd
    let n : Int ← if bits c.h.md 12 12 = 1 then pure (sext 12 (bits c.h.md 11 0))
      else do pure (sext 48 (c.ax (← get) (bits c.h.md 8 4)))
    let b := wrapBits 48 (Int.ofNat d.base + d.incs.getD (bits c.h.md 14 13) 0 * n)
    modify fun s =>
      let s := s.setCore c.g ((s.core c.g).descMark c.e c.q c.h.hd)
      s.coreWrite c.g 2 (16 * c.h.hd) (BitVec.ofNat 64 b) (BitVec.ofNat 64 (maskOf 47 0)) false
    pure .nothing

def execDset (core : Nat) (eng : Eng) (s : State) : Out := .next (s.runEngine core eng 0x20 opDset)
def execDload (core : Nat) (eng : Eng) (s : State) : Out := .next (s.runEngine core eng 0x21 opDload)
def execDstore (core : Nat) (eng : Eng) (s : State) : Out := .next (s.runEngine core eng 0x22 opDstore)
def execDadv (core : Nat) (eng : Eng) (s : State) : Out := .next (s.runEngine core eng 0x23 opDadv)

/-- FTC d reads the FTE of a frame it does not hold (R302, R303): a valid, consistent one is placed in it. -/
def execFteRead (d frame : Nat) (s : State) : Out :=
  .next (match (s.ftcLook d frame).1 with
    | some _ => s
    | none => (s.translate d frame).2)

end Sys2Proof.Machine
end

