-- ==== Sys2Proof/Machine/HostMem.lean ====
section
/-! DEFINITION. A host's read or write of a line at its home (R406 to R408), and what a die cache's reset holds of them (R312). -/

namespace Sys2Proof.Machine

/-- The requester ID of the host port (Table 11.5). -/
def hostId : Nat := 0x6000

/-- Read the 64-byte line at a DPA: from its home's line, or as a request to the controller. -/
def State.hostRead (s : State) (dpa : Nat) : State :=
  let d := homeOf s.cfg dpa
  let la := dpa / 128
  let half := dpa / 64 % 2
  match s.line? d la with
  | some _ =>
    let go := (List.range 8).foldl (fun (acc : List (Word × Bool) × State) i =>
      let (v, s) := acc.2.lineRead d la (8 * half + i) hostId
      (acc.1 ++ [v], s)) ([], s)
    go.2.hostData dpa (go.1.map (·.1)) (go.1.any (·.2))
  | none =>
    match placeOf s.cfg dpa with
    | none => s
    | some pl =>
      let r : Req := { id := 0, src := hostId, dpa := 128 * la, len := 128, ws := [], keep := false, why := .hostRead half }
      match s.ctlSubmit pl.ctl r with
      | (.forwarded vs, s) => s.answerHost half r vs
      | (.poisoned, s) => s.hostPoison dpa
      | (_, s) => s

/-- The TVA frame whose copy moves a DPA frame, if one does. -/
def State.copyOf (s : State) (f : Nat) : Option Nat :=
  s.rings.findSome? fun r => match r.2.cur with
    | some e => match e.copy with | some (fr, w, _) => if (fteOf w).frame = f then some fr else none | none => none
    | none => none

/-- Write words of a host line: held while its frame is copied (R256), and complete once its home has accepted it. -/
def State.hostWrite (s : State) (dpa : Nat) (ws : List WUpd) : State :=
  if ws = [] then s.tell (.cmp dpa)
  else
    match s.copyOf (dpa / 2 ^ 17) with
    | some fr => { s with heldWrites := s.heldWrites ++ [{ ws := ws, src := hostId, frame := fr, off := dpa / 2 ^ 17, why := .hostWrite }] }
    | none =>
      let (ok, s) := s.homeWrite hostId false .hostWrite ws
      if ok && s.stillHeld .hostWrite ws then s else (if ok then s else s.hostDropped dpa).tell (.cmp dpa)

/-- The bit mask of byte enables. -/
def beMask (be : Nat) : Word := BitVec.ofNat 64 ((List.range 8).foldl (fun a i => a + (if bitOf be i then 0xFF <<< (8 * i) else 0)) 0)

/-- The home of an address is under per-function reset. -/
def State.homeReset (s : State) (dpa : Nat) : Bool := s.flt.resetting.contains (0x9000 + homeOf s.cfg dpa)

/-- Hold a request until the die cache's reset is done (R312). -/
def State.holdHome (s : State) (h : HomeHeld) : State := s.onFlt fun f => { f with homeHeld := f.homeHeld ++ [h] }

/-- Perform a host's request at its home; a peer's flit is not one. -/
def State.hostDo (s : State) : HomeHeld → State
  | .read dpa => s.hostRead dpa
  | .write dpa ws => s.hostWrite dpa ws
  | .flit _ _ => s

/-- A host's request for a line: performed, or held while its home is under reset. -/
def State.hostMem (s : State) (h : HomeHeld) (dpa : Nat) : State := if s.homeReset dpa then s.holdHome h else s.hostDo h

end Sys2Proof.Machine
end

