-- ==== Sys2Proof/Machine/Links.lean ====
section
/-! DEFINITION. The peer ports (R416 to R430): transfers as requester (R423 to R425) and as target (R424), forwarding (R426), discovery
(R427 to R429), retry and retrain (R420 to R422), and the die-to-die links' retrain (R440). -/

namespace Sys2Proof.Machine

/-! ## The swarm table (R429) -/

/-- Set a swarm-table entry. -/
def State.setPeer (s : State) (h : Nat) (e : Peer) : State :=
  { s with swarm := { s.swarm with peers := AMap.set .init s.swarm.peers h e } }

/-- Hop counts a route may have. -/
def State.hopLimit (s : State) : Nat := min 7 s.cfg.peer.maxHops

/-- The core and the slot of a TAG (R423). -/
def tagCore (tag : Nat) : Nat := tag / 32
def tagSlot (tag : Nat) : Nat := tag % 32

/-- The context the XE of a core has for a transfer, whose data came through the real-time port of a base die or not (R344). -/
def xferCtx (g qid : Nat) (rt : Option Nat) : Ctx :=
  { g := g, e := .xe, q := 0, pc := 0, qid := qid, h := headOf 0, ext := [], lc := [], keep := false, rt := rt }

/-- Status bits for the queue entry of a transfer. -/
def State.xferFlag (s : State) (g qid st : Nat) : State :=
  match ((s.core g).q.get .xe).find? (fun x => x.qid == qid) with
  | some x => s.setEntry g .xe { x with status := x.status ||| st }
  | none => s

/-- Write the elements of packed word k of a GET to their local places (R423): words are those of the packed data. -/
def State.placeWord (s : State) (g : Nat) (x : Xfer) (rt : Option Nat) (k : Nat) (v : Word) (p : Bool) : State :=
  let per := 64 / x.width
  let puts := ((x.places.drop (k * per)).take per).zipIdx.filterMap fun e =>
    if e.1 = 0 then none else some { a := e.1 - 1, v := bits v.toNat (x.width * (e.2 + 1) - 1) (x.width * e.2), p := p : Put }
  match (writeElems (xferCtx g x.qid rt) x.space x.width puts).run s with
  | (.ok st, s) => s.xferFlag g x.qid st
  | (.error cause, s) =>
    let pc := match ((s.core g).q.get .xe).find? (fun e => e.qid == x.qid) with | some e => e.pc | none => 0
    s.beginHalt cause 3 pc 0

/-- Words of a REQ's data. -/
def wordsOf (len : Nat) : Nat := (len + 7) / 8

/-- Send the REQ of a transfer, and a PUT's DATA (R423): in rotation over the ports toward the peer. -/
def State.sendXfer (s : State) (g slot : Nat) (x : Xfer) : State :=
  let tag := 32 * g + slot
  let me := s.fuses.serial
  let s := (s.sendTo x.peer 0 (.req (if x.op = 1 then x.vc else 0)
    { dst := x.peer, src := me, tag := tag, op := x.op, hops := startHops, len := x.len, desc := x.desc })).getD s
  ((chunksOf 27 x.data).zipIdx).foldl (fun s c =>
    (s.sendTo x.peer (c.2 + 1) (.data x.vc
      { dst := x.peer, src := me, tag := tag, offset := 27 * c.2, hops := startHops, words := c.1 })).getD s) s

/-- Start the transfers that wait for one of the core's 32 slots (R423). -/
def State.startXfers (s : State) (g : Nat) : State :=
  let c := s.core g
  let waiting := c.xfers.filter fun e => decide (32 ≤ e.1)
  let freeSlots := (List.range 32).filter fun k => !(AMap.get Xfer.init c.xfers k).active
  (waiting.zip freeSlots).foldl (fun s p =>
    let x := p.1.2
    let c := s.core g
    let y := { x with active := true, data := [] }
    (s.setCore g { c with xfers := AMap.set .init (AMap.erase c.xfers p.1.1) p.2 y }).sendXfer g p.2 x) s

/-- A transfer is over: its instruction is executed when it was the last of it (R424). -/
def State.endXfer (s : State) (g slot st : Nat) : State :=
  let c := s.core g
  let x := AMap.get Xfer.init c.xfers slot
  let xs := AMap.erase c.xfers slot
  let s := (s.setCore g { c with xfers := xs }).xferFlag g x.qid st
  let s := if xs.any (fun e => e.2.qid == x.qid) then s
    else match ((s.core g).q.get .xe).find? (fun e => e.qid == x.qid && e.phase == .running) with
      | some e => s.setEntry g .xe { e with phase := .executed }
      | none => s
  s.startXfers g

/-- A transfer, under way or still waiting for a slot, ends as for an absent peer (R144): a GET's words still to arrive are written with
poison. -/
def State.absentXfer (s : State) (g slot : Nat) : State :=
  if (s.core g).xfers.any (fun e => e.1 == slot) then
    let x := AMap.get Xfer.init (s.core g).xfers slot
    let s := x.got.foldl (fun s k => let (v, s) := s.freshData; s.placeWord g x none k v true) s
    s.endXfer g slot stPOISON
  else s

/-- A peer leaves: its handle is freed, and transfers with it end as for an absent peer (R429, R144), those that wait for a slot first. -/
def State.depart (s : State) (p h : Nat) : State :=
  let e := AMap.get Peer.init s.swarm.peers h
  let s := s.setPeer h { e with valid := false, routes := [], freed := true }
  let s := s.raise 0xB (0x7000 + p) e.serial h
  s.cores.foldl (fun s c => ((c.2.xfers.filter fun x => x.2.peer == e.serial).reverse).foldl (fun s x => s.absentXfer c.1 x.1) s) s

/-- Remove the routes of port p that q selects by serial. -/
def State.dropRoutes (s : State) (p : Nat) (q : Nat → Bool) : State :=
  s.swarm.peers.foldl (fun s e =>
    if e.2.valid && q e.2.serial && e.2.routes.any (fun r => r.1 == p) then
      let rs := e.2.routes.filter fun r => r.1 != p
      if rs = [] then s.depart p e.1
      else s.setPeer e.1 { e.2 with routes := rs }
    else s) s

/-- A route of h hops to a serial through port p (R428): a new peer takes a handle, or is turned away by a full table. -/
def State.addRoute (s : State) (p serial h : Nat) : State :=
  if h > s.hopLimit ∨ serial = s.fuses.serial then s
  else
    match s.handleOf serial with
    | some k =>
      let e := AMap.get Peer.init s.swarm.peers k
      s.setPeer k { e with routes := (e.routes.filter fun r => r.1 != p) ++ [(p, h)] }
    | none =>
      let free := (List.range 64).filter fun k => !(AMap.get Peer.init s.swarm.peers k).valid
      match free.find? (fun k => !(AMap.get Peer.init s.swarm.peers k).freed) <|> free.head? with
      | some k =>
        let s := s.setPeer k { serial := serial, valid := true, routes := [(p, h)], freed := false }
        s.raise 0xA (0x7000 + p) serial k
      | none =>
        let s := s.bump (peerOff 0 + 0x50)
        if s.swarm.fullSeen then s
        else ({ s with swarm := { s.swarm with fullSeen := true } }).raise 0xD (0x7000 + p) serial 1

/-! ## Port states (R421, R422, R26) -/

/-- The state code of PP_STAT. -/
def PortState.code : PortState → Nat
  | .disabled => 0 | .down => 1 | .training => 2 | .up => 3 | .loop => 4

/-- Lanes in a mask. -/
def laneCount (m : Nat) : Nat := ((List.range 4).filter (bitOf m)).length

/-- A port changes state, with its event; the cause has no encoding in the spec and is free. -/
def State.portEvent (s : State) (p : Nat) : State :=
  if s.eventsOn then
    let q := s.port p
    let (c, s) := s.freshData
    s.raise 0xC (0x7000 + p) (q.st.code ||| (laneCount q.lanes <<< 3)) c.toNat
  else s

/-- A port without lanes enters a state: where it was in another, its event follows (Table 14.8). -/
def State.portMove (s : State) (p : Nat) (st : PortState) : State :=
  let q := s.port p
  let s := s.setPort p { q with st := st, lanes := 0 }
  if q.st = st then s else s.portEvent p

/-- A port goes DOWN (R422): its routes go, and flits that wait take another route or are discarded. -/
def State.portDown (s : State) (p : Nat) (st : PortState) : State :=
  let q := s.port p
  let s := s.setPort p { q with st := st, lanes := 0, far := 0, held := [0, 0, 0], waitq := [], replay := [], retryRun := 0, fecRun := 0,
                                retrainDue := false }
  let s := (s.portEvent p).dropRoutes p fun _ => true
  q.waitq.foldl (fun s f =>
    let dst := match f.1 with | .req _ b => b.dst | .rsp b => b.dst | .data _ b => b.dst | _ => 0
    (s.sendTo dst 0 f.1 f.2).getD (s.leave f.1 f.2)) s

/-- Bring-up has begun (R54): S4 is over. -/
def State.portsBegun (s : State) : Bool := s.boot.st == .s5 || s.eventsOn

/-- Port p takes part: it is enabled by the image and not fenced, and bring-up has begun. -/
def State.portOn (s : State) (p : Nat) : Bool := bitOf s.cfg.peer.enable p && !s.isFenced (0x7000 + p) && s.portsBegun

/-- PPRSNT_CHANGE (R26): a cable's arrival starts bring-up; any change while the port is up is the loss of its link. -/
def execPprsntChange (p : Nat) (level : Bool) (s : State) : Out :=
  .next (let old := bitOf s.pins.pprsnt p
    let s := { s with pins := { s.pins with pprsnt := if level then s.pins.pprsnt ||| (1 <<< p) else s.pins.pprsnt &&& (0xFF ^^^ (1 <<< p)) } }
    if old = level ∨ s.portOn p = false then s
    else
      let s := if (s.port p).st = .up ∨ (s.port p).st = .loop then s.portDown p .down else s
      s.portMove p (if level then .down else .training))

/-- The widest lane set within a mask (R421): 0–3, else 0–1 or 2–3, else the lowest lane. -/
def laneSet (m : Nat) : Nat :=
  if m % 16 = 15 then 15 else if m % 4 = 3 then 3 else if m / 4 % 4 = 3 then 12
  else match (List.range 4).find? (bitOf m) with | some l => 1 <<< l | none => 0

/-- PEER_PORT_UP (R26, R419): bring-up has finished on the lanes given: both ends begin at SEQ 0 with full credits. -/
def execPeerPortUp (p lanes : Nat) (s : State) : Out :=
  .next (let q := s.port p
    if q.st = .training ∧ s.portOn p ∧ s.atS7 then
      let lanes := laneSet (lanes &&& (15 ^^^ q.badLanes))
      if lanes = 0 then s.portDown p .down
      else
        let s := s.setPort p { q with st := .up, lanes := lanes, txSeq := 0, rxSeq := 0, owed := [0, 0, 0], held := [0, 0, 0], replay := [],
                                      retrySeq := 0, retryRun := 0, recent := [], fecRun := 0, retrainDue := false, page := 0 }
        ((s.setCredits p [512, 512, 8192]).portEvent p).pump p
    else s)

/-- The next narrower set within a mask. -/
def narrower (m : Nat) : Nat :=
  let w := laneSet m
  if w = 15 then 3 else if w = 3 ∨ w = 12 then
    (match (List.range 4).find? (bitOf m) with | some l => 1 <<< l | none => 0) else 0

/-- Send again everything from a SEQ on; resends count in FLITS_TX (R420), and their heads return what credits are owed. -/
def State.resend (s : State) (p seq : Nat) : State :=
  let q := s.port p
  let fs := q.replay.dropWhile fun e => e.1 != seq
  let s := s.setPort p (fs.foldl (fun q e => { q.paid with sent := q.sent ++ [(q.head (e.2.vc.getD 3) e.1, e.2)] }) q)
  s.bumpN (peerOff p + 0x10) fs.length

/-- The credits each VC has free at a receiver, absolutely (R419, R421): its grant less the flits its buffer holds. -/
def Port.room (q : Port) (vc : Nat) : Nat := (if vc = 2 then 8192 else 512) - q.held.getD vc 0

/-- PORT_RETRAIN (R421, R422): the lanes good at both ends carry on, one width less after three retrains within a second. -/
def execPortRetrain (p good far : Nat) (s : State) : Out :=
  .next (let q := s.port p
    if q.st = .up ∧ (q.retrainDue ∨ q.replay ≠ []) then
      let recent := q.recent.filter fun r => decide (s.hk.round < r + 977)
      let m := good &&& far &&& (15 ^^^ q.badLanes)
      let lanes := if 3 ≤ recent.length then narrower m else laneSet m
      let s := s.bump (peerOff p + 0x30)
      if lanes = 0 then s.portDown p .down
      else
        let s := s.setPort p { q with lanes := lanes, recent := recent ++ [s.hk.round], retryRun := 0, fecRun := 0, retrainDue := false,
                                      owed := [0, 0, 0] }
        let s := if lanes = q.lanes then s else s.portEvent p
        s.sendCtl p (.resync { seq := q.rxSeq, cr0 := q.room 0, cr1 := q.room 1, cr2 := q.room 2, lanes := good % 16 &&& (15 ^^^ q.badLanes) })
    else s)

/-! ## Receiving -/

/-- Take ACK and returned credits from a flit's head. -/
def State.rxTake (s : State) (p : Nat) (h : FlitHead) : State :=
  let q := s.port p
  let keep := if q.replay.any (fun e => e.1 == h.ack) then (q.replay.dropWhile fun e => e.1 != h.ack).tail else q.replay
  let c := [q.credit.getD 0 0 + h.cr0, q.credit.getD 1 0 + h.cr1, q.credit.getD 2 0 + h.cr2]
  (s.setPort p { q with replay := keep, credit := c }).ledgIn 0 (h.cr0 + h.cr1 + h.cr2)

/-- Take ACK and returned credits from a flit's head, and send what they allow. -/
def State.rxHead (s : State) (p : Nat) (h : FlitHead) : State := (s.rxTake p h).pump p

/-- The port receives. -/
def State.hears (s : State) (p : Nat) : Bool := (s.port p).st == .up && !s.isFenced (0x7000 + p)

/-- Accept a VC flit in SEQ order into its receive buffer, or ask for the one expected (R420); f is what it does. -/
def State.rxFlit (s : State) (p : Nat) (h : FlitHead) (i : Instr) (f : State → State) : State :=
  if s.hears p then
    s.serve i fun s =>
      let s := s.rxHead p h
      let q := s.port p
      if h.seq = q.rxSeq then
        f (((s.setPort p { q with rxSeq := (q.rxSeq + 1) % 4096 }).bump (peerOff p + 0x18)).keepFlit p h.vc)
      else s.sendCtl p (.retry q.rxSeq)
  else s

/-- Forward a flit for another module, or discard it and count it (R426): it leaves its receive buffer as it is sent on or discarded. -/
def State.forward (s : State) (p dst hops i : Nat) (f : Flit) (refuse : State → State) : State :=
  match (if hops = 0 then none else s.sendTo dst i f (p + 1)) with
  | some s => s
  | none => refuse ((s.leave f (p + 1)).bump (peerOff p + 0x40))

/-- IDLE (R418). -/
def execIdle (p : Nat) (h : FlitHead) (s : State) : Out := .next (if s.hears p then s.rxHead p h else s)

/-! ## As a target (R424) -/

/-- Read a word of this module's TVA space for a peer. -/
def State.peerRead (s : State) (p w : Nat) : (Word × Bool) × State :=
  match s.translate (p / 2) (w / 2 ^ 14) with
  | (some f, s) => s.homeRead (0x7000 + p) (f.word w)
  | (none, s) => let (d, s) := s.freshData; ((d, true), s)

/-- Check the frames of a remote descriptor (R424, R301): a STATUS of Table 14.11, 0 where nothing refuses. -/
def State.checkFrames (s : State) (p : Nat) (write : Bool) : List Nat → Nat × State
  | [] => (0, s)
  | fr :: frs =>
    match s.translate (p / 2) fr with
    | (none, s) => (2, s)
    | (some f, s) =>
      if write && f.rdo then (4, s)
      else if write && f.sin && s.prog.inStep then (3, s)
      else s.checkFrames p write frs

/-- The descriptor of a REQ. -/
def reqDesc (b : ReqBody) : Desc := descOf (b.desc.map (·.toNat))

/-- Bytes of a descriptor's elements, packed. -/
def Desc.packed (d : Desc) : Nat := (product' d.used * fmtWidth d.fmt + 7) / 8

/-- STATUS of the checks of a REQ (R424): descriptor, role, frames. -/
def State.checkReq (s : State) (p : Nat) (b : ReqBody) : Nat × State :=
  let d := reqDesc b
  let write := b.op = 1
  if !d.ok write [[]] || d.space != spTVA || d.scalemode != 0 || !d.plain || d.packed != b.len || b.len > 2 ^ 27
      || !(b.op == 1 || b.op == 2 || b.op == 3) then (4, s)
  else if write && s.prog.inStep && d.role == 1 then (3, s)
  else s.checkFrames p write (d.frames [[]])

/-- A write of a PUT at its home, in the words of TVA space: it is accepted, held, or not performed (R307, R424). -/
def State.putWrite (s : State) (p vc src tag free : Nat) (ws : List WUpd) : State :=
  let fr := ((ws.map (·.w)).headD 0) / 2 ^ 14
  let why := ReqFor.peer src tag free
  match s.translate (p / 2) fr with
  | (none, s) => s.putAccepted src tag free false
  | (some f, s) =>
    let ws := ws.map fun u => { u with w := f.word u.w }
    let (ok, s) := s.frameWrite (if vc = 2 then 0x8000 + p / 2 else 0x7000 + p) fr f false why ws
    if ok && s.stillHeld why ws then s else s.putAccepted src tag free ok

/-- Place a DATA flit of a PUT (R423): it leaves its receive buffer with its last write. -/
def State.putData (s : State) (p vc : Nat) (t : Target) (b : DataBody) : State :=
  let d := descOf (t.desc.map (·.toNat))
  let w := fmtWidth d.fmt
  let per := 64 / w
  let addrs := d.addrs [] (tuples d.used)
  let puts := b.words.zipIdx.flatMap fun x =>
    let k := b.offset + x.2
    if t.got.contains k then
      ((addrs.drop (k * per)).take per).zipIdx.map fun e =>
        { a := e.1, v := bits x.1.1.toNat (w * (e.2 + 1) - 1) (w * e.2), p := x.1.2 : Put }
    else []
  let groups := groupLines (putsToUpds w puts)
  let got := t.got.filter fun k => !(decide (b.offset ≤ k ∧ k < b.offset + b.words.length))
  let rest := s.swarm.targets.filter fun x => !isTarget t.src t.tag x
  let t : Target := { t with got := got, waiting := t.waiting + groups.length, poison := t.poison || b.words.any (·.2) }
  let s := { s with swarm := { s.swarm with targets := rest ++ [t] } }
  if groups = [] then
    let s := s.creditBack p vc
    if t.waiting = 0 ∧ got = [] then
      ({ s with swarm := { s.swarm with targets := rest } }).respond t.src t.tag (if t.poison then 1 else 0)
    else s
  else
    groups.zipIdx.foldl (fun s g => s.putWrite p vc t.src t.tag (if g.2 + 1 = groups.length then freeing p vc else 0) g.1) s

/-- A DATA flit of a PUT: placed, discarded when the PUT was refused, or kept until its REQ arrives. -/
def State.putFlit (s : State) (p vc : Nat) (b : DataBody) : State :=
  match s.swarm.targets.find? (isTarget b.src b.tag) with
  | some t =>
    if t.refused = 0 then s.putData p vc t b
    else
      let got := t.got.filter fun k => !(decide (b.offset ≤ k ∧ k < b.offset + b.words.length))
      let rest := s.swarm.targets.filter fun x => !isTarget b.src b.tag x
      ({ s with swarm := { s.swarm with targets := if got = [] then rest else rest ++ [{ t with got := got }] } }).creditBack p vc
  | none => { s with swarm := { s.swarm with early := s.swarm.early ++ [{ port := p, vc := vc, body := b }] } }

/-- Perform a REQ for this module (R424). -/
def State.takeReq (s : State) (p : Nat) (b : ReqBody) : State :=
  let (st, s) := s.checkReq p b
  if b.op = 1 ∨ (b.op ≠ 2 ∧ b.op ≠ 3) then
    let got := List.range (wordsOf b.len)
    let s := if st ≠ 0 ∨ got = [] then s.respond b.src b.tag st else s
    if got = [] then s
    else
      let t : Target := { src := b.src, tag := b.tag, desc := b.desc, port := p, got := got, waiting := 0, poison := false, refused := st }
      let mine := s.swarm.early.filter fun e => e.body.src == b.src && e.body.tag == b.tag
      let s := { s with swarm := { s.swarm with targets := s.swarm.targets ++ [t],
                                                early := s.swarm.early.filter fun e => !(e.body.src == b.src && e.body.tag == b.tag) } }
      mine.foldl (fun s e => s.putFlit e.port e.vc e.body) s
  else if st ≠ 0 then s.respond b.src b.tag st
  else
    let d := reqDesc b
    let w := fmtWidth d.fmt
    let per := 64 / w
    let go := (d.addrs [] (tuples d.used)).foldl (fun (acc : List (Nat × Bool) × State) a =>
      let (v, s) := acc.2.peerRead p (a / 64)
      (acc.1 ++ [(bits v.1.toNat (a % 64 + w - 1) (a % 64), v.2)], s)) ([], s)
    let ws := (chunksOf per go.1).map fun es =>
      (BitVec.ofNat 64 (es.zipIdx.foldl (fun n e => n ||| (e.1.1 <<< (w * e.2))) 0), es.any (·.2))
    let s := ((chunksOf 27 ws).zipIdx).foldl (fun s c =>
      (s.sendTo b.src (c.2 + 1) (.data (if b.op = 3 then 2 else 1)
        { dst := b.src, src := s.fuses.serial, tag := b.tag, offset := 27 * c.2, hops := startHops, words := c.1 })).getD s) go.2
    s.respond b.src b.tag (if ws.any (·.2) then 1 else 0)

/-! ## As a requester (R423 to R425) -/

/-- The transfer in a slot that a TAG names, if it is active. -/
def State.xferAt (s : State) (tag : Nat) : Option Xfer :=
  let x := AMap.get Xfer.init (s.core (tagCore tag)).xfers (tagSlot tag)
  if x.active then some x else none

/-- A response ends a transfer as Table 14.11 states; a GET still waits for its words. -/
def State.takeRsp (s : State) (b : RspBody) : State :=
  match s.xferAt b.tag with
  | none => s
  | some x =>
    let g := tagCore b.tag
    let k := tagSlot b.tag
    let halt := fun cause => let pc := match ((s.core g).q.get .xe).find? (fun e => e.qid == x.qid) with | some e => e.pc | none => 0
      s.beginHalt cause 3 pc 0
    match b.status with
    | 2 => halt 5
    | 3 => halt 4
    | 4 => halt 6
    | 5 => s.absentXfer g k
    | st =>
      let st := if st = 0 then 0 else stPOISON
      if x.got = [] then s.endXfer g k st
      else let c := s.core g; s.setCore g { c with xfers := AMap.set .init c.xfers k { x with rsp := st + 1 } }

/-- RSP (R424). -/
def execRsp (p : Nat) (h : FlitHead) (b : RspBody) (s : State) : Out :=
  .next (s.rxFlit p h (.rsp p h b) fun s =>
    if b.dst = s.fuses.serial then (s.creditBack p h.vc).takeRsp b
    else s.forward p b.dst b.hops 0 (.rsp { b with hops := b.hops - 1 }) id)

/-- Words of a GET arrive: each is written where its elements go, through the real-time port where they came on VC 2 (R344), and the last
one after the RSP completes the transfer. -/
def State.getData (s : State) (g k : Nat) (x : Xfer) (rt : Option Nat) (b : DataBody) : State :=
  let new := b.words.zipIdx.filter fun e => x.got.contains (b.offset + e.2)
  let s := new.foldl (fun s e => s.placeWord g x rt (b.offset + e.2) e.1.1 e.1.2) s
  let got := x.got.filter fun j => !(decide (b.offset ≤ j ∧ j < b.offset + b.words.length))
  let c := s.core g
  let s := if (AMap.get Xfer.init c.xfers k).active then s.setCore g { c with xfers := AMap.set .init c.xfers k { x with got := got } } else s
  if got = [] ∧ x.rsp ≠ 0 then s.endXfer g k (x.rsp - 1) else s

/-- A REQ or DATA flit for this module takes effect and leaves its receive buffer, or stays there until it can be placed. -/
def State.takeFlit (s : State) (p : Nat) : Instr → State
  | .req _ h b => (s.creditBack p h.vc).takeReq p b
  | .data _ h b =>
    match s.xferAt b.tag with
    | some x =>
      if x.op ≠ 1 ∧ x.peer = b.src ∧ h.vc ≠ 0 then
        (s.getData (tagCore b.tag) (tagSlot b.tag) x (if h.vc = 2 then some (p / 2) else none) b).creditBack p h.vc
      else if h.vc = 1 then s.creditBack p 1 else s.putFlit p h.vc b
    | none => if h.vc = 1 then s.creditBack p 1 else s.putFlit p h.vc b
  | _ => s

/-- A REQ or DATA flit for this module: it waits while a die cache is under reset (R312). -/
def State.hear (s : State) (p : Nat) (i : Instr) : State := if s.cacheReset then s.holdHome (.flit p i) else s.takeFlit p i

/-- REQ (R424, R426). -/
def execReq (p : Nat) (h : FlitHead) (b : ReqBody) (s : State) : Out :=
  .next (s.rxFlit p h (.req p h b) fun s =>
    if b.dst = s.fuses.serial then s.hear p (.req p h b)
    else s.forward p b.dst b.hops 0 (.req h.vc { b with hops := b.hops - 1 }) fun s => s.respond b.src b.tag 5)

/-- DATA (R423, R426). -/
def execData (p : Nat) (h : FlitHead) (b : DataBody) (s : State) : Out :=
  .next (s.rxFlit p h (.data p h b) fun s =>
    if b.dst = s.fuses.serial then s.hear p (.data p h b)
    else s.forward p b.dst b.hops (b.offset / 27 + 1) (.data h.vc { b with hops := b.hops - 1 }) id)

/-- The remote descriptor's words with the BASE of an iteration. -/
def atIteration (ws : List Word) (base : Nat) : List Word :=
  match ws with
  | w :: rest => BitVec.ofNat 64 ((w.toNat &&& (maskOf 63 48)) ||| base % 2 ^ 48) :: rest
  | [] => []

/-- Pack the elements of a source densely (R423); a masked one is absent, and what its place carries is free. -/
def packWords (w : Nat) (es : List (Nat × Bool)) : List (Word × Bool) :=
  (chunksOf (64 / w) es).map fun c =>
    (BitVec.ofNat 64 (c.zipIdx.foldl (fun n e => n ||| ((e.1.1 % 2 ^ w) <<< (w * e.2))) 0), c.any (·.2))

/-- Values for the packed places of source elements. -/
def fillAbsent : List SrcEl → M (List (Nat × Bool))
  | [] => pure []
  | e :: es => do
    let v ← if e.keep then pure (e.v, e.p) else do
      let d ← act State.freshData
      pure (d.toNat, e.p)
    let rest ← fillAbsent es
    pure (v :: rest)

/-- The peer an instruction names: its serial, if the swarm table has one (R423, R144). -/
def peerOfIns (c : Ctx) (s : State) : Option Nat :=
  let h := if bitOf c.h.md 6 then c.ax s (bits c.h.md 11 7) else bits c.h.md 5 0
  let e := AMap.get Peer.init s.swarm.peers h
  if h < 64 ∧ e.valid then some e.serial else none

/-- The remote operand is valid as far as it is self-contained (R423). -/
def remoteOk (its : List (List Nat)) (r : Desc) : Bool := r.ok false its && r.space == spTVA && r.scalemode == 0 && r.plain

/-- Put a transfer among those waiting for a slot. -/
def State.queueXfer (s : State) (g : Nat) (x : Xfer) : State :=
  let c := s.core g
  let k := c.xfers.foldl (fun a e => max a (e.1 + 1)) 32
  s.setCore g { c with xfers := AMap.put c.xfers k x }

/-- One iteration of a PEERPUT. -/
def putIter (c : Ctx) (peer : Option Nat) (r a : Opnd) (ws : List Word) (js : List Nat) : M Nat := do
  let (es, stop) ← readSource c a js
  finish stop
  let st := statusIf (es.any (·.p)) stPOISON
  match peer with
  | none => pure (st ||| stPOISON)
  | some serial =>
    let vs ← fillAbsent es
    modify fun s => s.queueXfer c.g { Xfer.init with
      qid := c.qid, op := 1, vc := if bits c.h.md 13 12 = 0 then 0 else 2, peer := serial, desc := atIteration ws (r.d.baseAt js).toNat,
      len := r.d.packed, data := packWords (fmtWidth a.d.fmt) vs }
    pure st

/-- One iteration of a PEERGET. -/
def getIter (c : Ctx) (peer : Option Nat) (d r : Opnd) (ws : List Word) (js : List Nat) : M Nat := do
  let (ds, stop) ← readDest c d js
  finish stop
  match peer with
  | none =>
    let vs ← fillAbsent (ds.map fun _ => ⟨[], 0, true, false⟩)
    let st ← storeVals c d ds (vs.map fun v => ⟨v.1, true, true⟩)
    pure (st ||| stPOISON)
  | some serial =>
    modify fun s => s.queueXfer c.g { Xfer.init with
      qid := c.qid, op := if bits c.h.md 13 12 = 0 then 2 else 3, vc := 0, peer := serial, desc := atIteration ws (r.d.baseAt js).toNat,
      len := r.d.packed, places := ds.map fun x => match x.a with | some a => if x.keep then a + 1 else 0 | none => 0,
      space := d.d.space, width := fmtWidth d.d.fmt, got := List.range (wordsOf r.d.packed) }
    pure (statusIf (ds.any fun x => x.a.isNone) stPOISON)

/-- The descriptor words of a handle, as they travel with a REQ. -/
def remoteWords (c : Ctx) (h : Nat) : M (List Word) := do
  let ws ← readDescWords c h
  pure (ws.map (·.1))

/-- PEERPUT (put) and PEERGET (R423, R144). -/
def opPeer (put : Bool) (c : Ctx) : M Res :=
  withOpnds c [c.h.hd, c.h.ha] fun os => do
    match os with
    | [d, a] =>
      let r := if put then d else a
      let l := if put then a else d
      execCheck (remoteOk c.its r.d && l.ok (!put) none c.its && l.d.fmt == r.d.fmt && l.count == r.count && decide (r.d.packed ≤ 2 ^ 27))
        (if put then [] else [d.d])
      let ws ← remoteWords c r.h
      let peer := peerOfIns c (← get)
      let mut st := 0
      for js in c.its do
        let q ← if put then putIter c peer r a ws js else getIter c peer d r ws js
        st := st ||| q
      if peer.isSome && c.its != [] then
        modify fun s => (s.noteWaits c.g).startXfers c.g
        pure { Res.nothing with status := st, running := true }
      else pure (Res.nothing.flag st)
    | _ => pure .nothing

def execPeerput (core : Nat) (s : State) : Out := .next (s.runEngine core .xe 0x73 (opPeer true))
def execPeerget (core : Nat) (s : State) : Out := .next (s.runEngine core .xe 0x74 (opPeer false))

/-- PEER_TRANSFER_TIMEOUT (R425): a transfer that has no RSP ends, counted at the first port toward the peer. -/
def execPeerTransferTimeout (core slot : Nat) (s : State) : Out :=
  .next (let x := AMap.get Xfer.init (s.core core).xfers slot
    if x.active ∧ x.rsp = 0 ∧ slot < 32 then
      (s.bump (peerOff ((s.portsTo x.peer).headD 0) + 0x48)).absentXfer core slot
    else s)

/-! ## Link control -/

/-- HELLO (R427, R428). -/
def execHello (p : Nat) (b : HelloBody) (s : State) (h : FlitHead := .zero) : Out :=
  .next (let s := if s.hears p then s.rxHead p h else s
    if s.hears p ∧ b.swarmId = s.cfg.peer.swarmId then
      if b.src = s.fuses.serial then
        let s := s.portDown p .loop
        s.raise 0xD (0x7000 + p) b.src 2
      else
        let s := s.setPort p { s.port p with far := b.src }
        let s := s.addRoute p b.src 1
        ((b.hops.zip b.serials).take 24).foldl (fun s e => if e.1 = 0 then s else s.addRoute p e.2 (e.1 + 1)) s
    else s)

/-- Page g of the swarm table as a HELLO carries it. -/
def State.helloBody (s : State) (p : Nat) : HelloBody :=
  let q := s.port p
  let es := (List.range 24).map fun k => AMap.get Peer.init s.swarm.peers (24 * q.page + k)
  { src := s.fuses.serial, port := p, lanes := laneCount q.lanes, valid := (s.swarm.peers.filter fun e => e.2.valid).length, page := q.page,
    version := 1, swarmId := s.cfg.peer.swarmId, hops := es.map fun e => if e.valid then e.least else 0,
    serials := es.map fun e => if e.valid then e.serial else 0 }

/-- HELLO_SEND (R427): the next page of the swarm table. -/
def execHelloSend (p : Nat) (s : State) : Out :=
  .next (if (s.port p).st = .up then
      let s := s.sendCtl p (.hello (s.helloBody p))
      s.setPort p { s.port p with page := ((s.port p).page + 1) % 3 }
    else s)

/-- ROUTE_EXPIRY (R429): the route of a serial through port p was not renewed. -/
def execRouteExpiry (p serial : Nat) (s : State) : Out := .next (s.dropRoutes p (· == serial))

/-- RETRY (R420, R421): resend from the SEQ expected; 16 for one SEQ make a retrain due. -/
def execRetry (p : Nat) (seq : Nat) (s : State) (h : FlitHead := .zero) : Out :=
  .next (if s.hears p then
      let s := s.rxTake p h
      let q := s.port p
      let run := if q.retrySeq = seq then q.retryRun + 1 else 1
      let s := s.setPort p { q with retrySeq := seq, retryRun := run, retrainDue := q.retrainDue || decide (16 ≤ run) }
      ((s.bump (peerOff p + 0x28)).resend p seq).pump p
    else s)

/-- RESYNC (R421): the receiver's absolute credits, of which the flits sent again from its expected SEQ take theirs. -/
def execResync (p : Nat) (b : ResyncBody) (s : State) (h : FlitHead := .zero) : Out :=
  .next (if s.hears p then
      let s := s.rxTake p h
      let q := s.port p
      let s := s.setPort p { q with replay := if q.replay.any (fun e => e.1 == b.seq) then q.replay.dropWhile (fun e => e.1 != b.seq)
        else if q.txSeq = b.seq then [] else q.replay }
      let again := fun vc => ((s.port p).replay.filter fun e => e.2.vc == some vc).length
      ((s.setCredits p [b.cr0 - again 0, b.cr1 - again 1, b.cr2 - again 2]).resend p b.seq).pump p
    else s)

/-- FLIT_CRC_FAIL (R417, R420, R421): the flit is discarded and counted, and RETRY asks for it again. -/
def execFlitCrcFail (p : Nat) (fec : Bool) (s : State) : Out :=
  .next (if s.hears p then
      let s := s.bump (peerOff p + 0x20)
      let s := if fec then
          let s := s.bump (peerOff p + 0x38)
          let q := s.port p
          s.setPort p { q with fecRun := q.fecRun + 1, retrainDue := q.retrainDue || decide (8 < q.fecRun + 1) }
        else s
      s.sendCtl p (.retry (s.port p).rxSeq)
    else s)

/-- D2D_RETRAIN (R440). -/
def execD2dRetrain (l : Nat) (s : State) : Out :=
  .next (if (s.link l).st = 2 then s else s.bump (d2dOff l + 0x10))

end Sys2Proof.Machine
end

