-- ==== Sys2Proof/Machine/Power.lean ====
section
/-! DEFINITION. Pins and power (R18 to R29): the 54 V input, MRST#, PERST#, the host link's power state with WAKE#, the hold-up, rail
faults (R445) and the reset of the host port (R21, R415). -/

namespace Sys2Proof.Machine

/-- CLKREQ# is held low: whenever the module is powered (R17, Table 1.2). -/
def State.clkreqLow (s : State) : Bool := s.pins.aonOn

/-- PRSNT# is low: it is tied to ground (R17, Table 1.2). -/
def State.prsntLow (_s : State) : Bool := true

/-- INPUT_ON (R28, R35): the input is on; start-up begins at S0 unless MRST# is held low. -/
def execInputOn (s : State) : Out :=
  .next (if s.pins.inputOn then s
    else
      let s := { s with pins := { s.pins with inputOn := true, aonOn := true, holdUp := false, thermtrip := false },
                        hk := { s.hk with shutdown := false, shutDue := none, coolRounds := 0 } }
      if s.mayStart then s.startUp else s)

/-- The input has met an off condition (R29): rails go, no NOR operation starts, and the loss is unclean. -/
def State.inputOff (s : State) : State :=
  if s.pins.inputOn then
    let s := (s.fatal 3 0 0).removeRails
    { s with pins := { s.pins with inputOn := false, holdUp := true, unclean := true },
             nor := { s.nor with queue := [] } }
  else s

def execUndervoltageOff (s : State) : Out := .next s.inputOff
def execOvervoltageOff (s : State) : Out := .next s.inputOff

/-- HOLD_UP_EXPIRY (R29): a page program already started has completed; the AON domain and the NOR lose power. -/
def execHoldUpExpiry (s : State) : Out :=
  .next (if s.pins.holdUp ∧ s.pins.inputOn = false then
      let s := match s.nor.busy with
        | some (.prog a d w) => s.norApply (.prog a d w)
        | some op => s.norPartial op
        | none => s
      { State.reset with
        pins := { s.pins with aonOn := false, holdUp := false, thermtrip := false }, nor := { Nor.init with mem := s.nor.mem },
        fuses := s.fuses, host := { HostPort.init with out := s.host.out }, freeCtr := s.freeCtr, pending := s.pending }
    else s)

/-- MRST_LOW (R22): the level is seen; unless a thermal shutdown holds, the rails go. -/
def execMrstLow (s : State) : Out :=
  .next (let s := { s with pins := { s.pins with mrst := false } }
    if s.pins.aonOn ∧ s.pins.inputOn ∧ s.hk.shutdown = false then s.removeRails else s)

/-- MRST_HIGH (R22, R35). -/
def execMrstHigh (s : State) : Out :=
  .next (let low := !s.pins.mrst
    let s := { s with pins := { s.pins with mrst := true } }
    if low ∧ s.pins.aonOn ∧ s.mayStart then s.startUp else s)

/-- A request of the host port that no home has accepted as a write. -/
def Req.hostInFlight (r : Req) : Bool := match r.why with | .hostRead _ => true | _ => false

/-- A CXL.mem request held until wake. -/
def isMemReq (i : Instr) : Bool :=
  match i with | .memRd _ | .memRdData _ | .memWr _ _ _ | .memWrPtl _ _ _ _ | .memSpecRd _ => true | _ => false

/-- CXL.mem requests in flight, but for writes a home has accepted, are discarded (R415); a clean line such a write had reached is dropped. -/
def State.dropHostReqs (s : State) : State :=
  let lost := (s.homeOut.flatMap (·.2)).filter fun r => r.src == 0x6000 && r.ws != []
  let s := lost.foldl (fun s r => s.putLine (homeOf s.cfg r.dpa) (r.dpa / 128) Line.init) s
  { s with
    ctls := AMap.mapVals .init (fun (c : Ctl) =>
      let gone := (c.q ++ c.inflight).filter Req.hostInFlight
      { c with q := c.q.filter fun r => !r.hostInFlight, inflight := c.inflight.filter fun r => !r.hostInFlight,
               brk := c.brk.filter fun i => !(gone.any fun r => r.id == i) }) s.ctls,
    homeOut := AMap.mapVals [] (fun (rs : List Req) => rs.filter fun r => r.src != 0x6000) s.homeOut,
    heldWrites := s.heldWrites.filter fun h => h.src != 0x6000,
    dorm := { s.dorm with held := s.dorm.held.filter fun i => !isMemReq i } }

/-- The reset of the host port (R415): configuration space with the BAR assignments, decoders, the MSI-X table and EQ_CTRL.EN are as after start; pending events stay pending;
its unlock closes (R496); the LPG runs if asked to (R433). -/
def State.resetHost (s : State) : State :=
  let s := ((s.lpgRun hostOff 16).dropHostReqs).closeUnlock 0xA000
  let ctl := hostOff + 0x10
  let s := (s.setReg ctl (s.reg ctl &&& ~~~(1 : Word))).revertExp 0xA000
  { s with host := { s.host with hdm0 := .init, hdm1 := .init, cs := .init, eqGroup := false, msix := [], pba := [] } }

/-- PERST_LOW (R21): after S7 the host port is reset and does not answer; the rest keeps running. -/
def execPerstLow (s : State) : Out :=
  .next (let was := s.pins.perst
    let s := { s with pins := { s.pins with perst := false } }
    if was then
      let s := if s.atS7 then s.resetHost else s
      { s with host := { s.host with link := .down, width := 0, rate := 0, degraded := false } }
    else s)

/-- PERST_HIGH (R20, R504). -/
def execPerstHigh (s : State) : Out := .next { s with pins := { s.pins with perst := true } }

/-- HOST_LINK_STATE_CHANGE (R24, R402): in L2 a message for the host asserts WAKE#, in L0 it is released. -/
def execHostLinkStateChange (st : LinkState) (width rate : Nat) (s : State) : Out :=
  .next (if s.pins.perst ∧ (s.boot.st = .s4 ∨ s.boot.st = .s5 ∨ s.boot.st = .s6 ∨ s.boot.st = .s7) then
      let up := st != .down
      let h := { s.host with link := st, width := if up then width else 0, rate := if up then rate else 0,
                             degraded := up && (decide (width < 4) || decide (rate < 4)),
                             msgWaiting := if st = .l0 then false else s.host.msgWaiting }
      { s with host := h, pins := { s.pins with wake := if st = .l0 then false else if st = .l2 then h.msgWaiting else s.pins.wake } }
    else s)

/-- RAIL_FAULT (R445): after S3, dormant included. -/
def execRailFault (slot : Nat) (s : State) : Out :=
  .next (if 114 ≤ slot ∧ slot < 128 ∧ (s.boot.st = .s4 ∨ s.boot.st = .s5 ∨ s.boot.st = .s6 ∨ s.boot.st = .s7) then
      let r := s.cfg.rails.getD (slot - 114) { set := 0, tol := 0, ocp := 0 }
      (s.fatal 2 slot (r.set ||| (r.ocp <<< 16))).hold 8
    else s)

end Sys2Proof.Machine
end

