-- ==== Sys2Proof/Machine/Fences.lean ====
section
/-! DEFINITION. Fencing functions in service (R381), what the loss of each function takes with it (R384 to R386), the first phase of
rehydration (R392), the minimal service set (R394) and the ledger audit (R398). -/

namespace Sys2Proof.Machine

/-! ## Fences (R381) -/

/-- Fence a function in service: its unlock closes, FENCES counts it, and one event gives the row of Table 13.2 (0 where no fault is
behind it). -/
def State.fence (s : State) (fid row : Nat) : State :=
  if s.isFenced fid then s
  else
    (((s.onFlt fun f => { f with fenced := f.fenced ++ [fid] }).closeUnlock fid).bump (ledgOff + 0x28)).raise 2 fid row s.prog.step.toNat

/-- FLT_STAT of a fault being handled (Table 13.9). -/
def State.record (s : State) (row fid : Nat) : State :=
  s.onFlt fun f => { f with fltFid := fid, fltClass := row, fltStep := s.prog.step.toNat % 2 ^ 32 }

/-- A fault handled without a fence of its own: recorded, with its event. -/
def State.handled (s : State) (row fid : Nat) : State := (s.record row fid).raise 2 fid row s.prog.step.toNat

/-! ## Cores, clusters, dies -/

/-- A comb unit gives up the tiles of a core. -/
def CUnit.dropCore (g : Nat) (x : CUnit) : CUnit :=
  let w := x.waiting.filter fun t => t.core != g
  match x.cur with
  | some t => if t.core = g then { x.dropTiles with waiting := w } else { x with waiting := w }
  | none => { x with waiting := w }

/-- The reset of a core (R162, R170, R215, R320): lanes retired, streams unbound, queues and SRAMs at zero. -/
def State.resetCore (s : State) (g : Nat) : State :=
  let s := (s.retireLanes g).unbindStreams g
  let c := s.core g
  let s := s.setCore g { Core.init with lanes := c.lanes, rank := c.rank, liveCopy := c.liveCopy }
  let s := { s with units := AMap.mapVals .init (CUnit.dropCore g) s.units,
                    prog := { s.prog with contribs := s.prog.contribs.filter fun k => k.core != g } }
  s.revertExp (0x1000 + g)

/-- The cores of a cluster, and of a die. -/
def clusterCores (k : Nat) : List Nat := (List.range 32).map (32 * k + ·)
def dieCores (d : Nat) : List Nat := (List.range 512).map (512 * d + ·)

/-- Cores leave the mask that the next application of the live mask takes. -/
def State.dropCores (s : State) (gs : List Nat) : State :=
  s.onProg fun p => { p with admitted := p.admitted &&& ~~~(maskCores gs) }

/-- The reset of a cluster: its cores and its store. -/
def State.resetCluster (s : State) (k : Nat) : State :=
  ((overList (clusterCores k) (fun g s => s.resetCore g) s).setCluster k .init).revertExp (0x2000 + k)

/-- A core leaves service: it is reset, but TOKSTAT keeps its value of the last step in which the core was live (R172). -/
def State.retireCore (s : State) (g : Nat) : State :=
  let t := (s.core g).tokstat
  let s := s.resetCore g
  s.setCore g { s.core g with tokstat := t }

def State.fenceCore (s : State) (g row : Nat) : State := ((s.retireCore g).fence (0x1000 + g) row).dropCores [g]

/-- A cluster is fenced with its 32 cores (Table 13.2). -/
def State.fenceCluster (s : State) (k row : Nat) : State :=
  let s := overList (clusterCores k) (fun g s => s.retireCore g) s
  let s := ((s.setCluster k .init).revertExp (0x2000 + k)).fence (0x2000 + k) row
  (overList (clusterCores k) (fun g s => s.fence (0x1000 + g) row) s).dropCores (clusterCores k)

/-- A compute die is fenced: it has no core left, and its sequencer parks (Table 3.6, Table 13.2). -/
def State.fenceDie (s : State) (d row : Nat) : State :=
  let s := (overList (dieCores d) (fun g s => s.retireCore g) s).fence (0x3000 + d) row
  let s := s.setSeq d { s.seq d with st := .parked }
  ((s.dropCores (dieCores d)).onPins fun p => { p with corePll := p.corePll &&& (15 ^^^ (1 <<< d)) }).revertExp (0x3000 + d)

/-- Some core of a list is admitted. -/
def State.anyAdmitted (s : State) (gs : List Nat) : Bool := gs.any s.prog.admitted.getLsbD

/-- A cluster fault; the last cluster of a die makes it a compute-die fault (R385). -/
def State.clusterFault (s : State) (k : Nat) : State :=
  let d := k / 16
  if s.anyAdmitted ((dieCores d).filter fun g => g / 32 != k) then (s.record 2 (0x2000 + k)).fenceCluster k 2
  else (s.record 3 (0x3000 + d)).fenceDie d 3

/-- A core fault; in a cluster with 4 fenced cores, or as its last core, it is a cluster fault (Table 13.2, R385). -/
def State.coreFaulted (s : State) (g : Nat) : State :=
  let k := g / 32
  let fenced := ((clusterCores k).filter fun h => s.isFenced (0x1000 + h)).length
  if 4 ≤ fenced ∨ s.anyAdmitted ((clusterCores k).filter (· != g)) = false then s.clusterFault k
  else (s.record 1 (0x1000 + g)).fenceCore g 1

/-! ## Comb groups and controllers -/

/-- A unit whose channel is lost is FENCED with cause 5 (Table 8.5). -/
def State.loseUnit (s : State) (u : Nat) : State :=
  let x := s.cunit u
  if x.st = .fenced then s else s.setUnit u { x.dropTiles with st := .fenced, cause := 5, faultDue := 0, limitDue := false }

/-- An evacuation of a lost channel ends without moving further frames; those waiting never start. -/
def State.stopRing (s : State) (r : Nat) : State :=
  let s := match (s.ring r).cur with
    | some e =>
      let held := match e.copy with | some (_, w, _) => some w | none => none
      let s := s.setRing r { s.ring r with cur := some { e with copy := none } }
      let s := match held with | some w => s.releaseHeld (fteOf w).frame w | none => s
      s.evacEnd { e with todo := [], copy := none, left := e.left + e.todo.length + b2n held.isSome }
    | none => s
  s.setRing r { queue := [], cur := none }

/-- The comb group of a lost channel: its tiles are abandoned, its units FENCED. -/
def State.loseGroup (s : State) (n row : Nat) : State :=
  let s := (s.resetGroup n).fence (0x5000 + n) row
  let s := overList (groupUnits n) (fun u s => s.loseUnit u) s
  overList [3 * n, 3 * n + 1, 3 * n + 2] (fun r s => s.stopRing r) s

/-- A comb group fenced by request: every unit in SERVICE enters EVACUATING (Table 13.1). -/
def State.fenceGroup (s : State) (n : Nat) : State :=
  let s := (s.resetGroup n).fence (0x5000 + n) 0
  overList (groupUnits n) (fun u s =>
    let x := s.cunit u
    if x.st = .service then
      let r := s.ring (ringOf u)
      ((s.setUnit u { x with st := .evacuating }).setRing (ringOf u) { r with queue := r.queue ++ [u] }).retarget u
    else s) s

/-- A request a controller had accepted and can no longer perform: a write completes with poison, unperformed; a read gets poison (R381,
R386). -/
def State.dropReq (s : State) (r : Req) : State :=
  if r.ws ≠ [] then
    let s := s.ledgAlt 4 r.ws.length
    match r.why with
    | .hostWrite => s.hostDropped r.dpa
    | .peer src tag _ =>
      s.onSwarm fun w => { w with targets := w.targets.map fun t => if isTarget src tag t then { t with poison := true } else t }
    | .scrubBack => s
    | _ => s.lateStatus r.src stPOISON
  else match r.why with
    | .hostRead half => s.hostPoison (r.dpa + 64 * half)
    | _ => s

/-- Drop the accepted requests of a controller that satisfy p. -/
def State.dropReqs (s : State) (n : Nat) (p : Req → Bool) : State :=
  let c := s.ctl n
  let gone := (c.inflight ++ c.q).filter p
  let s := s.setCtl n { c with q := c.q.filter fun r => !p r, inflight := c.inflight.filter fun r => !p r,
                               brk := c.brk.filter fun i => !(gone.any fun r => r.id == i) }
  gone.foldl (fun s r => s.dropReq r) s

/-- Fence a controller: what it holds is given up, its owed refreshes leave the ledger, its channel is out of service. -/
def State.fenceCtl (s : State) (n row : Nat) : State :=
  let s := s.dropReqs n fun _ => true
  let c := s.ctl n
  let s := (s.setCtl n { c with st := .fenced, debt := [], openRow := [], idleRow := [], pd := 0, pdDue := 0, sr := 0, wck := 0,
                                perBank := [] }).ledgAlt 3 (AMap.sum id c.debt)
  let s := (s.fence (ctlFid n) row).revertExp (ctlFid n)
  if isDch n then s.loseGroup n row else s

/-! ## Rehydration, phase 1 (R392) -/

/-- Some line of a DPA frame decodes into the lost memory. -/
def frameLost (cfg : Cfg) (lost : Place → Bool) (f : Nat) : Bool :=
  (List.range 1024).any fun i => match placeOf cfg (f * 2 ^ 17 + 128 * i) with | some p => lost p | none => false

/-- Table 13.4: the FTE of a frame repointed to its mirror. -/
def repoint (w : Word) : Word :=
  BitVec.ofNat 64 ((w.toNat &&& (allBits ^^^ (0xE ||| maskOf 31 8 ||| maskOf 55 32))) ||| 2 ||| ((fteOf w).mframe <<< 8))

/-- Add to the rehydration list, in ascending TVA. -/
def addRehyd (e : Rehyd) : List Rehyd → List Rehyd
  | [] => [e]
  | x :: xs => if e.frame < x.frame then e :: x :: xs else x :: addRehyd e xs

/-- Phase 1 over one entry of the frame table. -/
def State.rehydrateFte (s : State) (lost : Place → Bool) (fr : Nat) (w : Word) : State :=
  let f := fteOf w
  if frameLost s.cfg lost f.frame then
    if f.mir && !f.mstale then
      let (ok, s) := s.fteSwap 0 fr w (repoint w)
      if ok then s.onFlt fun q => { q with rehyd := addRehyd { frame := fr, old := w, now := repoint w } q.rehyd } else s
    else s.raise 0x11 0 fr f.frame
  else if f.mir && !f.mstale && frameLost s.cfg lost f.mframe then (s.setStale 0 fr).2
  else s

/-- Phase 1: the frame table is scanned by the recovery sequencer of base die 0. -/
def State.rehydrate (s : State) (lost : Place → Bool) : State :=
  let (es, s) := s.scanTable 0
  es.foldl (fun s e => s.rehydrateFte lost e.1 e.2) s

/-! ## Losses (Table 13.2) -/

/-- A base die is lost: its compute die, stacks, packages, die cache and peer ports are fenced, and its frames rehydrated. -/
def State.loseBase (s : State) (b row : Nat) : State :=
  let s := s.fenceDie b row
  let s := overList ((List.range 64).map (64 * b + ·)) (fun n s => s.fenceCtl n row) s
  let s := overList ((List.range 4).map (256 + 4 * b + ·)) (fun n s => s.fenceCtl n row) s
  let s := (s.setDie b .init).fence (0x9000 + b) row
  let s := overList [2 * b, 2 * b + 1] (fun p s =>
    (if (s.port p).st = .up then s.portDown p .down else s).fence (0x7000 + p) row) s
  s.rehydrate fun pl => ctlDie pl.ctl == b

/-- Service ends (R394): one event names the condition, with the alert, a fatal event, and a halt of the program. -/
def State.endService (s : State) (c : Nat) : State :=
  if s.flt.ended then s
  else
    let s := ((s.onFlt fun f => { f with ended := true }).raise 9 0 c 0).fatal 5 0 0
    let s := { s with mgmt := { s.mgmt with alert := s.mgmt.alert ||| 8 } }
    if s.busy then s.beginHalt 8 0 0 0 else s

/-- A base die is lost (rows 10 and 11 of Table 13.2; row 0 where no fault is behind it): for base die 0 service ends and nothing is done. -/
def State.baseLost (s : State) (b row : Nat) : State :=
  if b = 0 then (if row = 0 then s else s.record 11 0x9000).endService 1
  else (if row = 0 then s else s.record 10 (0x9000 + b)).loseBase b (if row = 0 then 0 else 10)

/-- The class that governs the loss of channels and packages (R385): that of the base die left without memory, of the stack left without
a channel, or the one given. -/
def State.lossRow (s : State) (ns : List Nat) (row : Nat) : Nat :=
  let gone := s.onFlt fun f => { f with fenced := f.fenced ++ ns.map ctlFid }
  let n := ns.headD 0
  if row = 0 then 0
  else if gone.baseEmpty (ctlDie n) then (if ctlDie n = 0 then 11 else 10)
  else if isDch n && (List.range 32).all (fun i => gone.isFenced (0x4000 + n / 32 * 32 + i)) then 8
  else row

/-- Channels or packages of one base die are lost: they are fenced with the governing class, and the base die with them when they were its
last memory (R385); else their frames are rehydrated. -/
def State.loseChannels (s : State) (ns : List Nat) (row : Nat) : State :=
  let r := s.lossRow ns row
  let b := ctlDie (ns.headD 0)
  let s := if row = 0 ∨ 10 ≤ r then s else s.record r (ctlFid (ns.headD 0))
  let s := overList ns (fun n s => s.fenceCtl n r) s
  if s.baseEmpty b then s.baseLost b row
  else s.rehydrate fun pl => ns.contains pl.ctl

/-- A channel or package is lost. -/
def State.loseChannel (s : State) (n row : Nat) : State := s.loseChannels [n] row

/-- The channels of a stack that are still in service. -/
def State.stackCtls (s : State) (k : Nat) : List Nat := ((List.range 32).map (32 * k + ·)).filter fun n => !s.isFenced (ctlFid n)

/-- A die-to-die link is lost: fenced; where the ring splits, the dies cut off from base die 0 are lost (R384). -/
def State.loseLink (s : State) (l row : Nat) : State :=
  let s := if row = 0 then s else s.record row (0x8000 + l)
  let s := ((s.setLink l { s.link l with st := 2 }).fence (0x8000 + l) row).revertExp (0x8000 + l)
  let ok := joined fun i => !s.isFenced (0x8000 + i)
  overList fourDies (fun d s =>
    if ok.contains d || s.isFenced (0x9000 + d) then s else s.baseLost d row) s

/-- The tiles a comb unit has accepted that use a lost bank are left to the ME (R386, Table 8.4). -/
def State.dropBankTiles (s : State) (u n bank : Nat) : State :=
  let x := s.cunit u
  let uses := fun t => (s.halfBanks t 0 ++ s.halfBanks t 1).contains (n, bank)
  let mine := ((match x.cur with | some t => [t] | none => []) ++ x.waiting).filter uses
  let keep := x.waiting.filter fun t => !uses t
  let x := match x.cur with
    | some t => if uses t then { x.dropTiles with waiting := keep } else { x with waiting := keep }
    | none => { x with waiting := keep }
  mine.foldl (fun s t => s.toMv t) (s.setUnit u x)

/-- Declare a bank lost (R386): its refresh debt is discharged; what its queue holds is given up, and it serves no comb work. -/
def State.loseBank (s : State) (n bank : Nat) : State :=
  let s := s.dropReqs n fun r => reqBank s.cfg r == bank
  let s := if isDch n then s.dropBankTiles (unitOf n (bank / 2 * 2)) n bank else s
  let c := s.ctl n
  let c := { c.close bank with lost := AMap.set 0 c.lost bank 1 }
  let i := debtIdx n bank
  if (debtBanks n i).all fun b => AMap.get 0 c.lost b != 0 then
    (s.setCtl n { c with debt := AMap.set 0 c.debt i 0 }).ledgAlt 3 (AMap.get 0 c.debt i)
  else s.setCtl n c

/-! ## Word repair (R391) -/

/-- The controller a function ID names. -/
def ctlOfFid (fid : Nat) : Nat := if fid / 0x1000 = 4 then fid % 0x1000 else 256 + fid % 0x1000

/-- Write a full word to DRAM for the recovery sequencer. -/
def State.repairWord (s : State) (n w : Nat) (d : Word) (p : Bool) : State :=
  (s.ledgIn 4 1).commitUpd n { w := w, mask := fullMask, d := d, p := p }

/-- Some sequencer waits for replay. -/
def State.inReplay (s : State) : Bool := fourDies.any fun d => (s.seq d).st == .replay

/-- Read the word that froze a controller again, before phase 4 of a replay: from the mirror's line when it is uncorrectable and mirrored, else with poison. -/
def State.repair (s : State) (n dpa : Nat) : State :=
  let c := s.ctl n
  if c.frz.cause = 1 ∧ c.st = .run ∧ (decode (AMap.get zeroCw s.dram (dpa / 8))).cls = .uncorrectable then
    let (es, s) := s.scanTable 0
    let la := dpa / 128
    let s := match es.find? (fun e => let f := fteOf e.2; f.frame == dpa / 2 ^ 17 && f.mir && !f.mstale) with
      | some e =>
        (List.range 16).foldl (fun (s : State) i =>
          let (v, s) := s.homeRead 0xB000 ((fteOf e.2).mframe * 2 ^ 14 + (16 * la + i) % 2 ^ 14)
          s.repairWord n (16 * la + i) v.1 v.2) s
      | none => s.repairWord n (dpa / 8) (decode (AMap.get zeroCw s.dram (dpa / 8))).d true
    let s := match s.line? (homeOf s.cfg dpa) la with
      | some l => if l.dirty then s else s.putLine (homeOf s.cfg dpa) la .init
      | none => s
    s.setCtl n { s.ctl n with frz := { (s.ctl n).frz with repaired := true } }
  else s

/-! ## The minimal service set (R394) -/

/-- The first condition of R394 that does not hold, from 1; 0 when all hold. -/
def State.serviceRow (s : State) : Nat :=
  let table := match placeOf s.cfg s.cfg.frameBase with | some p => s.isFenced (ctlFid p.ctl) | none => false
  if s.baseWorks 0 = false then 1
  else if table then 2
  else if fourDies.any fun d => !s.isFenced (0x3000 + d) && s.baseWorks d && s.anyAdmitted (dieCores d) then 0
  else 3

/-- Service ends when a condition breaks. -/
def State.checkService (s : State) : State := if s.serviceRow = 0 then s else s.endService s.serviceRow

/-! ## Handling a fault (R384) -/

/-- Handle one detected fault by its row. -/
def State.handle (s : State) (x : Flt) : State :=
  let i := x.fid % 0x1000
  match x.row with
  | 1 => if s.coreDown i then s else s.coreFaulted i
  | 2 => if s.isFenced x.fid || s.isFenced (0x3000 + i / 16) then s else s.clusterFault i
  | 3 => if s.isFenced x.fid then s else (s.record 3 x.fid).fenceDie i 3
  | 4 => s.handled 4 x.fid
  | 5 => let s := s.handled 5 x.fid; if s.inReplay then s.repair (ctlOfFid x.fid) x.arg else s
  | 6 => let n := ctlOfFid x.fid; (s.handled 6 x.fid).rehydrate fun pl => pl.ctl == n && pl.bank == x.arg
  | 7 => if s.isFenced x.fid then s else s.loseChannel i 7
  | 8 => if s.stackCtls (i / 32) = [] then s else s.loseChannels (s.stackCtls (i / 32)) 8
  | 9 => if s.isFenced x.fid then s else s.loseChannel (256 + i) 9
  | 10 => if s.isFenced (0x9000 + i) then s else s.baseLost i 10
  | 12 => if s.isFenced x.fid then s else s.loseLink i 12
  | _ => s

/-- A freeze fault whose controller is still frozen, or being reset, waits for its reset (R351). -/
def State.stillFrozen (s : State) (x : Flt) : Bool :=
  x.row == 5 && (let c := s.ctl (ctlOfFid x.fid); c.st == .frozen || c.st == .reset)

/-- Handle the faults detected so far; those that wait stay. -/
def State.handleAll (s : State) : State :=
  let todo := s.flt.pend.filter fun x => !s.stillFrozen x
  let s := s.onFlt fun f => { f with pend := f.pend.filter s.stillFrozen }
  (todo.foldl (fun s x => s.handle x) s).checkService

/-! ## The audit (R398) -/

/-- Ledger k balances. -/
def State.balanced (s : State) (k : Nat) : Bool := s.ledgGet k 0 == s.ledgGet k 1 + s.ledgGet k 2 + s.ledgGet k 3

/-- A register of ledger k reads uncorrectable (R398): upsets strike the codewords the registers are stored under, numbered 4k + 0 IN to
4k + 3 HELD. -/
def State.ledgUpset (s : State) (us : Upsets) (k : Nat) : Bool :=
  us.any fun u => u.1 / 4 == k && (decode (encode (BitVec.ofNat 64 (AMap.get 0 s.ledg u.1)) false ^^^ u.2)).cls == .uncorrectable

/-- Audit every ledger: the LEDG registers latch their counts; one that fails to balance, or whose registers do not read, halts the program,
and service ends until a restart (Table 13.2). -/
def State.audit (s : State) (us : Upsets) : State :=
  let s := { s with ledgAudit := s.ledg, auditStep := s.prog.step.toNat % 2 ^ 48 }
  let bad := (List.range 8).filter fun k => !s.balanced k || s.ledgUpset us k
  if bad = [] then s
  else
    let s := overList bad (fun k s => (s.onFlt fun f => { f with broken := f.broken ||| (1 <<< k) }).raise 8 0 k s.prog.step.toNat) s
    ((s.record 14 0).onFlt fun f => { f with ended := true }).beginHalt 8 0 0 0

/-- Faults found while no sequencer runs, drains or replays are handled at once (R390). -/
def State.settleFaults (s : State) : State := if s.flt.pend = [] ∨ s.busy then s else s.handleAll

end Sys2Proof.Machine
end

