-- ==== Sys2Proof/Machine/Sequencer.lean ====
section
/-! DEFINITION. The waggle sequencers (chapter 3): fetch and checks (R117), broadcast (R72, R99), the control instructions (R122 to
R127), waggle tokens (R87 to R90), the step barrier (R92), pacing (R97, R98), segment swaps (R102) and the placing of tokens (R164
to R167, R489). -/

namespace Sys2Proof.Machine

/-! ## Program memory -/

/-- A segment is live (R101): some stream PC or byte of its fetch window lies inside. -/
def Seq.segLive (x : Seq) (g : Nat) : Bool :=
  allEng.any fun e => let pc := x.pc.get e; decide (pc / 65536 = g ∨ (pc + 255) / 65536 = g)

/-- The words of a segment. -/
def segKeys (g k : Nat) : Bool := decide (g * 8192 ≤ k ∧ k < (g + 1) * 8192)

/-- Swap in the shadow of a segment: whole, clearing PENDING; the contents changed, so DIRTY is set (R102, R475). -/
def Seq.swapSeg (x : Seq) (g : Nat) : Seq :=
  let keep := AMap.filterKeys (fun k => !segKeys g k) x.pm
  let new := AMap.filterKeys (segKeys g) x.shadow
  { x with pm := new.foldl (fun m e => AMap.set zeroCw m e.1 e.2) keep,
           shadow := AMap.filterKeys (fun k => !segKeys g k) x.shadow,
           pmPending := x.pmPending &&& (allBits ^^^ (1 <<< g)), dirty := x.dirty ||| (1 <<< g) }

/-- Swap every pending segment that is not live; of a sequencer that does not run, every pending one. -/
def Seq.swapAll (x : Seq) : Seq :=
  (List.range 64).foldl (fun x g =>
    if bitOf x.pmPending g && (x.st != .run || !x.segLive g) then x.swapSeg g else x) x

/-! ## Fetch -/

/-- What fetching an instruction gives. -/
inductive Fetched where
  | bad
  | broken (w : Nat)
  | ok (words : List Nat)
  deriving DecidableEq, Repr

/-- The instruction at the PC of a stream, checked (Table 4.2); its words lie wholly within program memory. -/
def Seq.fetch (x : Seq) (e : Eng) : Fetched :=
  let w := x.pc.get e / 8
  let rd := fun k => decode (AMap.get zeroCw x.pm k)
  if x.pc.get e % 8 ≠ 0 ∨ w ≥ 2 ^ 19 then .bad
  else
    let o := rd w
    if o.cls = .uncorrectable then .broken w
    else
      let n := 1 + extWords (headOf o.d.toNat)
      if w + n > 2 ^ 19 then .bad
      else
        match ((List.range n).map (w + ·)).find? fun k => (rd k).cls == .uncorrectable with
        | some k => .broken k
        | none =>
          let ws := (List.range n).map fun i => (rd (w + i)).d.toNat
          if fetchOk e ws then .ok ws else .bad

/-- A stream may fetch: its sequencer runs and it waits for nothing. -/
def Seq.fetching (x : Seq) (e : Eng) : Bool := x.st == .run && x.wait.get e == .none

/-- Move a stream past an instruction of n words: one slot (R86, R110). -/
def Seq.advance (x : Seq) (e : Eng) (n : Nat) : Seq :=
  { x with pc := x.pc.set e (x.pc.get e + 8 * n), slot := x.slot.set e (x.slot.get e + 1) }

/-- Rewrite the corrected codewords of the words fetched (R368). -/
def Seq.rewrite (x : Seq) (w n : Nat) : Seq :=
  { x with pm := (List.range n).foldl (fun m i =>
      let o := decode (AMap.get zeroCw m (w + i))
      match o.cls with | .corrected _ => AMap.set zeroCw m (w + i) (encode o.d o.p) | _ => m) x.pm }

/-! ## Broadcast (R72, R97, R99) -/

/-- The highest occupancy of a stream's queues over the live cores of die d (R97). -/
def State.qocc (s : State) (d : Nat) (e : Eng) : Nat :=
  (s.liveOf d).foldl (fun a g => max a ((s.core g).q.get e).length) 0

/-- The entry an instruction makes in the queues (R85). -/
def mkEntry (qid pc slot : Nat) (ws : List Nat) (lc : List Nat) : QEntry :=
  { qid := qid, words := ws.map fun w => encode (BitVec.ofNat 64 w) false, pc := pc, slot := slot, lc := lc, phase := .queued,
    consumed := false, recv := 0, status := 0, sat := 0, flush := 0, counted := false }

/-- Put an entry in engine e's queue of core g; an SFLIP mask on the queue SRAM may strike one of its codewords (R380). The arrival
starts a gated cluster's clocks (R448). -/
def State.enqueue (s : State) (g : Nat) (e : Eng) (x : QEntry) : State :=
  let s := s.noteWaits g
  let n := ((s.core g).q.get e).length
  let go := x.words.zipIdx.foldl (fun (acc : List Codeword × State) p =>
    let (cw, s) := acc.2.sflip (coreOff g + 0x220) 4 ((engNum e * 64 + n) * 9 + p.2) false p.1
    (acc.1 ++ [cw], s)) ([], s)
  let s := go.2
  let c := s.core g
  let k := clusterOf g
  (s.setCore g { c with q := c.q.set e (c.q.get e ++ [{ x with words := go.1 }]) }).setCluster k { s.cluster k with gated := false }

/-- Deliver an instruction to every live core of die d; a full queue halts with QUEUE_OVERRUN (R99). -/
def State.deliver (s : State) (d : Nat) (e : Eng) (x : QEntry) : State :=
  let s := overList (s.liveOf d) (fun g s => if ((s.core g).q.get e).length < 64 then s.enqueue g e x else s) { s with
    prog := { s.prog with nextQid := s.prog.nextQid + 1 } }
  s

/-- Some queue of the stream is full in a live core of the die. -/
def State.queueFull (s : State) (d : Nat) (e : Eng) : Bool := (s.liveOf d).any fun g => decide (64 ≤ ((s.core g).q.get e).length)

/-- Broadcast the words of stream e of die d, and move past them. -/
def State.broadcastWords (s : State) (d : Nat) (e : Eng) (ws : List Nat) : State :=
  let x := s.seq d
  let pc := x.pc.get e
  let q := x.slot.get e
  let ent := mkEntry s.prog.nextQid pc q ws ((List.range 4).map (x.lcntView e q))
  let full := s.queueFull d e
  let s := (s.deliver d e ent).setSeq d ((x.rewrite (pc / 8) ws.length).advance e ws.length)
  if full then s.beginHalt 3 (engNum e) pc 0 else s

/-- The program halts for a program-memory word it cannot read (Table 12.4): one event names the segment. -/
def State.brokenWord (s : State) (d w : Nat) : State :=
  (s.raise 0x10 (0x3000 + d) (w / 8192) (w % 8192)).beginHalt 8 0 0 0

/-- Fetch and check stream e of die d and broadcast what it holds (R72, R117); a control instruction that passes its checks waits for
its own step. -/
def State.fetchStream (s : State) (d : Nat) (e : Eng) : State :=
  let x := s.seq d
  if x.fetching e then
    match x.fetch e with
    | .bad => s.beginHalt 6 (engNum e) (x.pc.get e) 0
    | .broken w => s.brokenWord d w
    | .ok ws => if opGroup (headOf (ws.headD 0)).op = .control then s else s.broadcastWords d e ws
  else s

/-- BROADCAST: one bundle, an instruction from each of the streams named (R71, R72). -/
def execBroadcast (d : Nat) (streams : List Eng) (s : State) : Out :=
  .next ((allEng.filter fun e => streams.contains e).foldl (fun s e => s.fetchStream d e) s)

/-! ## Control instructions (R122 to R127) -/

/-- The words of a control instruction with opcode op that stream e of die d may execute now. -/
def State.controlAt (s : State) (d : Nat) (e : Eng) (op : Nat) : Option (List Nat) :=
  let x := s.seq d
  if x.fetching e then
    match x.fetch e with
    | .ok ws => if (headOf (ws.headD 0)).op = op then some ws else none
    | _ => none
  else none

/-- Execute a control instruction: f changes the state after the stream has moved past it. -/
def State.control (s : State) (d : Nat) (e : Eng) (op : Nat) (f : Head → Nat → State → State) : State :=
  match s.controlAt d e op with
  | none => s
  | some ws => f (headOf (ws.headD 0)) (ws.tail.headD 0) (s.setSeq d (((s.seq d).rewrite ((s.seq d).pc.get e / 8) ws.length).advance e ws.length))

/-- NOP takes one slot and has no other effect. -/
def execNop (d : Nat) (st : Eng) (s : State) : Out := .next (s.control d st 0x01 fun _ _ s => s)

/-- A signed 64-bit reading. -/
def sInt (w : Word) : Int := w.toInt

/-- A branch condition (Table 4.5). -/
def condHolds (cond : Nat) (a b : Word) : Bool :=
  match cond with
  | 0 => a == b
  | 1 => a != b
  | 2 => decide (sInt a < sInt b)
  | 3 => decide (sInt b ≤ sInt a)
  | 4 => decide (a.toNat < b.toNat)
  | 5 => decide (b.toNat ≤ a.toNat)
  | _ => true

/-- BR (R123): operands as the BR's own slot sees them; a pending segment that was not live is swapped in before the target's first
fetch (R102). -/
def branch (d : Nat) (e : Eng) (x : Seq) (h : Head) (ext : Nat) (s : State) : State :=
  let q := x.slot.get e
  let a := if bitOf h.low 35 then AMap.get 0 x.mb (bits h.low 34 31) else x.sxView s.prog e q (bits h.low 34 31)
  let b : Word := if bitOf h.low 30 then x.sxView s.prog e q (bits h.low 29 26) else BitVec.ofNat 64 ext
  if condHolds (bits h.low 38 36) a b then
    let t := bits h.low 18 0 * 8
    let y := s.seq d
    let y := if bitOf y.pmPending (t / 65536) && !x.segLive (t / 65536) then y.swapSeg (t / 65536) else y
    s.setSeq d { y with pc := y.pc.set e t }
  else s

def execBr (d : Nat) (st : Eng) (s : State) : Out := .next (s.control d st 0x02 fun h ext t => branch d st (s.seq d) h ext t)

/-- LSET (R124): source + ADDEND modulo 2^64 into an SX or LCNT register; a loop count out of range halts with ILLEGAL. -/
def lset (d : Nat) (e : Eng) (x : Seq) (h : Head) (ext : Nat) (s : State) : State :=
  let q := x.slot.get e
  let k := bits h.low 36 33
  let src : Word := match bits h.low 32 31 with
    | 1 => x.sxView s.prog e q (bits h.low 30 27)
    | 2 => AMap.get 0 x.mb (bits h.low 30 27)
    | _ => 0
  let v := src + BitVec.ofNat 64 ext
  let y := s.seq d
  if bits h.low 38 37 = 0 then
    s.setSeq d { y with sx := AMap.set 0 y.sx k v,
                        sxUndo := y.sxUndo.set e (undoPush (y.sxUndo.get e) 4 q k (AMap.get 0 y.sx k)) }
  else if v.toNat < 2 ^ 24 then
    s.setSeq d { y with lcnt := y.lcnt.set e (AMap.set 0 (y.lcnt.get e) k v.toNat),
                        lcntUndo := y.lcntUndo.set e (undoPush (y.lcntUndo.get e) 4 q k (AMap.get 0 (y.lcnt.get e) k)) }
  else s.beginHalt 6 (engNum e) (x.pc.get e) 0

def execLset (d : Nat) (st : Eng) (s : State) : Out := .next (s.control d st 0x03 fun h ext t => lset d st (s.seq d) h ext t)

/-- Set what a stream waits for. -/
def State.setWait (s : State) (d : Nat) (e : Eng) (w : StreamWait) : State :=
  let x := s.seq d
  s.setSeq d { x with wait := x.wait.set e w }

/-- STEP_BEGIN: the stream waits for the barrier; inside a step it halts with ILLEGAL (R91, R92). -/
def execStepBegin (d : Nat) (st : Eng) (s : State) : Out :=
  .next (s.control d st 0x04 fun _ _ t =>
    if s.prog.inStep then t.beginHalt 6 (engNum st) ((s.seq d).pc.get st) 0 else t.setWait d st .stepBegin)

/-- STEP_END: the stream waits for the step's end; outside a step it halts with ILLEGAL (R91, R93). -/
def execStepEnd (d : Nat) (st : Eng) (s : State) : Out :=
  .next (s.control d st 0x05 fun h _ t =>
    if s.prog.inStep then t.setWait d st (.stepEnd (bitOf h.low 38) (bits h.low 37 34))
    else t.beginHalt 6 (engNum st) ((s.seq d).pc.get st) 0)

/-- Every stream of every live sequencer satisfies p. -/
def State.allStreams (s : State) (p : StreamWait → Bool) : Bool :=
  s.activeSeqs != [] && s.activeSeqs.all fun d => (s.seq d).st == .run && allEng.all fun e => p ((s.seq d).wait.get e)

/-- The snapshot of a sequencer at a step's beginning (R92). -/
def Seq.takeSnap (x : Seq) : Seq :=
  { x with snap := { pc := x.pc, sx := x.sx, mb := x.mb, lcnt := x.lcnt, wcnt := x.wcnt } }

/-- The barrier of STEP_BEGIN: SX14 rises, each sequencer takes its snapshot, the step's totals and TOKSTAT start at 0, and the
streams resume (R92, R167, R490). -/
def execStepBeginBarrier (s : State) : Out :=
  .next (if s.allStreams (· == .stepBegin) then
    let s := overList s.activeSeqs (fun d s => s.setSeq d { (s.seq d).takeSnap with wait := .all .none }) s
    let s := overList s.liveCores (fun g s => s.setCore g { s.core g with tokstat := 0, stepSat := 0, stepFlush := 0 }) s
    { s with prog := { s.prog with step := s.prog.step + 1, inStep := true, attempts := 0 } }
  else s)

/-- WTOK (R87, R126): its post is broadcast, its wait stops the stream. -/
def execWtok (d : Nat) (st : Eng) (s : State) : Out :=
  .next (match s.controlAt d st 0x06 with
    | none => s
    | some ws =>
      let h := headOf (ws.headD 0)
      let t := if bitOf h.low 37 then s.broadcastWords d st ws
        else s.setSeq d (((s.seq d).rewrite ((s.seq d).pc.get st / 8) 1).advance st 1)
      if bitOf h.low 38 then t.setWait d st (.waggle (bits h.low 36 31)) else t)

/-- The completion count of Wn. -/
def Seq.waggle (x : Seq) (n : Nat) : Nat := AMap.get 0 x.wcnt n

/-- An engine whose queue head is a WTOK post posts it, once every sequencer not parked holds a count below 15 (R87, R89); the VE's waits
for the mailbox reductions its core has contributed to (R78). -/
def execWagglePost (core : Nat) (eng : Eng) (s : State) : Out :=
  .next (let c := s.core core
    match c.q.get eng with
    | x :: rest =>
      let n := bits x.head.low 36 31
      if s.engineOn core ∧ x.head.op = 0x06 ∧ x.phase = .queued
          ∧ (eng = .ve → s.prog.contribs.all (fun k => k.core != core)) ∧ s.activeSeqs.all (fun d => decide ((s.seq d).waggle n < 15)) then
        let w := s.waiters core
        s.setCore core { c with q := c.q.set eng rest, waitq := w, posted := AMap.upd 0 c.posted n (· + 1) }
      else s
    | [] => s)

/-- Wn completes when every live core has posted it once: the count rises in all four sequencers (R88, R89). Posts held from before
the counts reached 15 count once there is room. -/
def execWaggleCompletion (n : Nat) (s : State) : Out :=
  .next (if s.liveCores != [] ∧ s.activeSeqs.all (fun d => decide ((s.seq d).waggle n < 15)) ∧ s.liveCores.all (fun g => decide (0 < AMap.get 0 (s.core g).posted n)) then
    let s := overList s.liveCores (fun g s =>
      let c := s.core g
      s.setCore g { c with posted := AMap.upd 0 c.posted n (· - 1) }) s
    overList fourDies (fun d s =>
      let x := s.seq d
      s.setSeq d { x with wcnt := AMap.set 0 x.wcnt n (min 15 (x.waggle n + 1)) }) s
  else s)

/-- A wait on Wn whose count is above 0 consumes one completion, and the stream resumes (R87, R90). -/
def execWaggleWaitRelease (d : Nat) (st : Eng) (s : State) : Out :=
  .next (let x := s.seq d
    match x.wait.get st with
    | .waggle n =>
      if x.st = .run ∧ 0 < x.waggle n then
        s.setSeq d { x with wcnt := AMap.set 0 x.wcnt n (x.waggle n - 1), wait := x.wait.set st .none }
      else s
    | _ => s)

/-- PACE (R98, R127): the stream waits for the occupancy of another to fall. -/
def execPace (d : Nat) (st : Eng) (s : State) : Out :=
  .next (s.control d st 0x07 fun h _ t => t.setWait d st (.pace (engOf (bits h.low 38 37)) (bits h.low 36 31)))

/-- The paced stream's queues have drained to N (R98). -/
def execPaceRelease (d : Nat) (st : Eng) (s : State) : Out :=
  .next (match (s.seq d).wait.get st with
    | .pace e n => if (s.seq d).st = .run ∧ s.qocc d e ≤ n then s.setWait d st .none else s
    | _ => s)

/-- HALT stops fetch in every stream of every sequencer (R104). -/
def execHalt (d : Nat) (st : Eng) (s : State) : Out :=
  .next (s.control d st 0x08 fun h _ t => t.beginHalt 2 (engNum st) ((s.seq d).pc.get st) (bits h.low 14 0))

/-- A pending segment that is not live, or whose sequencer does not run, is swapped in (R102). -/
def execSegmentSwap (d g : Nat) (s : State) : Out :=
  .next (let x := s.seq d
    if bitOf x.pmPending g ∧ (x.st ≠ .run ∨ x.segLive g = false) then s.setSeq d (x.swapSeg g) else s)

/-! ## Completion (R163 to R167, R489) -/

/-- A write of a requester is still held by a home or for a copy: its marker has not arrived (R164, R256, R332). -/
def State.writesHeld (s : State) (src : Nat) : Bool :=
  s.homeOut.any (fun h => h.2.any fun r => r.src == src && r.ws != []) || s.heldWrites.any fun h => h.src == src

/-- An engine places the token of its completed instruction, if it posts one and the lane has room, and the entry leaves the queue; its
counts are recorded (R166, R167, R489). k says which: 0, or past MDRAINs in progress the ME's next ones, whose tokens go in completion
order (R210). -/
def execTokenPlace (core : Nat) (eng : Eng) (s : State) (k : Nat := 0) : Out :=
  .next (match executedEntry ((s.core core).q.get eng) k with
    | none => s
    | some x =>
      let h := x.head
      if (h.pv && decide (63 ≤ ((s.core core).lane h.plane).count)) || s.writesHeld ((engNum eng + 1) * 0x1000 + core) then s
      else
        let s := s.noteWaits core
        let s := if h.pv then s.placeToken core h.plane x.status else s
        let c := s.core core
        (s.setCore core { c with q := c.q.set eng ((c.q.get eng).filter fun y => y.qid != x.qid),
                                 drains := AMap.set [] c.drains x.qid [],
                                 lastVe := if eng = .ve then x.qid + 1 else c.lastVe }).recordOp core eng x.sat x.flush)

end Sys2Proof.Machine
end

