-- ==== Sys2Proof/Machine/Recovery.lean ====
section
/-! DEFINITION. Recovery (chapter 13): quiescing, step replay (R387 to R391), the second phase of rehydration (R392), the watchdog (R393),
losses that arrive as commands, and per-function resets and fences requested through FRST (R382, R383, R399). -/

namespace Sys2Proof.Machine

/-! ## Quiescing (Table 13.3, phase 2) -/

/-- Perform the writes a controller has accepted and those its home holds for it; reads stay. -/
def State.settle (s : State) (n : Nat) : State :=
  let c := s.ctl n
  let ws := (c.inflight ++ c.q).filter fun r => r.ws != []
  let s := s.setCtl n { c with q := c.q.filter fun r => r.ws == [], inflight := c.inflight.filter fun r => r.ws == [],
                               brk := c.brk.filter fun i => !(ws.any fun r => r.id == i) }
  let s := ws.foldl (fun s r => s.commitWrite n r) s
  let held := AMap.get [] s.homeOut n
  let s := { s with homeOut := AMap.set [] s.homeOut n (held.filter fun r => r.ws == []) }
  (held.filter fun r => r.ws != []).foldl (fun s r =>
    match placeOf s.cfg r.dpa with
    | some pl =>
      if s.serves pl then ((s.ledgIn 4 r.ws.length).commitWrite n r).writeTaken r true
      else ((s.ledgIn 4 r.ws.length).ledgAlt 4 r.ws.length).writeTaken r false
    | none => s) s

/-- Every controller with work, in ascending order. -/
def State.workCtls (s : State) : List Nat := ((s.ctls.map (·.1) ++ s.homeOut.map (·.1)).mergeSort (· ≤ ·)).eraseDups

/-- Perform every duplicate that waits. -/
def State.performDups (s : State) : State :=
  overList fourDies (fun d s => (s.die d).dups.foldl (fun s _ => s.dupNext d) s) s

/-- Every accepted write is committed or completed with poison, duplicates included. -/
def State.quiesce (s : State) : State :=
  let s := overList s.workCtls (fun n s => s.settle n) s
  let s := s.performDups
  overList s.workCtls (fun n s => s.settle n) s

/-! ## Replay (R387 to R390) -/

/-- A sequencer resumes from its snapshot (R107). -/
def Seq.restore (x : Seq) : Seq :=
  if x.st = .replay then
    { x with st := .run, wait := .all .none, pc := x.snap.pc, sx := x.snap.sx, sxUndo := .all [], mb := x.snap.mb,
             lcnt := x.snap.lcnt, lcntUndo := .all [], wcnt := x.snap.wcnt }
  else x

/-- What a launch and the start of a replay clear of a live core: its lanes are retired, its streams unbound, its posts given up, and what
its registers hold is seen by every later slot (R170, R320). -/
def State.freshCore (s : State) (g : Nat) : State :=
  let s := (s.retireLanes g).unbindStreams g
  s.setCore g { s.core g with axUndo := .all [], descUndo := .all [], posted := [] }

/-- The counts of an abandoned attempt are discarded (R388). -/
def State.freshCounts (s : State) (g : Nat) : State := s.setCore g { s.core g with tokstat := 0, stepSat := 0, stepFlush := 0 }

/-- The cores admitted to service become the live mask; ranks, LIVE, SX12, SX13 and SX15 follow. -/
def State.takeMask (s : State) : State := (s.onProg fun p => { p with live := p.admitted }).applyLive.presetCounts

/-- Phase 5: the new live mask, the snapshot, fresh lanes and streams. -/
def State.restoreStep (s : State) : State :=
  let s := s.takeMask
  let s := overList s.liveCores (fun g s => (s.freshCore g).freshCounts g) s
  let s := { s with seqs := AMap.mapVals .init Seq.restore s.seqs }
  (s.onProg fun p => { p with attempts := p.attempts + 1, contribs := [] }).bump (ledgOff + 0x20)

/-- A step that needs its fifth replay is not replayed: its units are fenced and the program halts (R390). -/
def State.replayLimit (s : State) : State := (s.handleAll.onFlt fun f => { f with replayMax := true }).beginHalt 8 0 0 0

/-- The replay of the step in progress; upsets strike the ledger registers that the audit reads. -/
def State.replay (s : State) (us : Upsets) : State :=
  if s.ctls.any fun c => c.2.st == .frozen then s
  else if 4 ≤ s.prog.attempts then s.replayLimit
  else
    let s := s.flushAll.quiesce.handleAll
    if s.flt.pend ≠ [] ∨ s.inReplay = false then s
    else
      let s := s.audit us
      if s.inReplay then s.restoreStep else s

/-- A fault that the command reports is detected. -/
def State.found (s : State) : FoundFault → State
  | .faceBond d => s.fault 3 (0x3000 + d) 0
  | .seqState d => s.fault 3 (0x3000 + d) 0
  | .stackBuses k => s.fault 8 (0x4000 + 32 * k) 0
  | .dieTags b => s.fault 10 (0x9000 + b) 0

/-- FAULT_REPLAY (R387, R390, R395): the faults it reports are detected; a step that waits for replay runs its phases; outside replay the
faults detected are fenced at once. It waits for a per-function reset under way and for the reset of a frozen controller. -/
def execFaultReplay (s : State) (found : List FoundFault := []) (ledgers : Upsets := []) : Out :=
  .next (let s := found.foldl (fun s x => s.found x) s
    if (s.flt.pend = [] ∧ s.inReplay = false) ∨ s.flt.resetting ≠ [] then s
    else
      if s.inReplay then s.replay ledgers else s.handleAll)

/-! ## Rehydration, phase 2 (R392) -/

/-- A target pair, numbered by region, channel and pair, has a headroom frame of a parity for a frame whose mirror is behind base die
m. -/
def State.pairRoom (s : State) (m par id : Nat) : Option Nat :=
  let g := regionAt s.cfg (id / 512)
  let n := 32 * g.stack + id / 16 % 32
  let bank := 32 * g.sid + 2 * (id % 16) + par
  if g.comb && g.stack / 2 != m && s.serves { ctl := n, bank := bank, row := 0, col := 0 } then s.headroom n bank else none

/-- The target of a frame that was in tier N: the pair its source pair already uses, the next unused pair, or any with room. -/
def State.rehydTarget (s : State) (old : Fte) : Option (Nat × Nat) :=
  let m := homeOf s.cfg (old.mframe * 2 ^ 17)
  let room := fun id => match s.pairRoom m (frameParity old.frame) id with | some f => some (id, f) | none => none
  let mine := match s.flt.pairOf.find? (fun p => p.1 == old.frame / 512) with | some p => [p.2] | none => []
  let all := List.range 12288
  let used := s.flt.pairOf.map (·.2)
  match mine.findSome? room with
  | some t => some t
  | none =>
    match (all.filter fun id => !used.contains id).findSome? room with
    | some t => some t
    | none => all.findSome? room

/-- Count a frame of the list, and report once the list is empty. -/
def State.rehydCount (s : State) (ok : Bool) : State :=
  let s := s.onFlt fun f => { f with rehydMoved := f.rehydMoved + b2n ok, rehydLeft := f.rehydLeft + b2n (!ok) }
  if s.flt.rehyd = [] then
    (s.raise 7 0 s.flt.rehydMoved s.flt.rehydLeft).onFlt fun f => { f with rehydMoved := 0, rehydLeft := 0 }
  else s

/-- The FTE of a repointed frame that was in tier F, with its lost copy as its stale mirror (R392). -/
def staleMirror (w : Word) (f : Nat) : Word := BitVec.ofNat 64 ((w.toNat &&& (allBits ^^^ maskOf 55 32)) ||| 0x48 ||| (f <<< 32))

/-- A word a recovery sequencer reads: from its home's line, else as an ordinary read of its controller, without a line for it. -/
def State.recoveryWord (s : State) (w : Nat) : (Word × Bool) × State :=
  let d := homeOf s.cfg (8 * w)
  match s.line? d (w / 16), placeOf s.cfg (8 * w) with
  | some _, _ => s.lineRead d (w / 16) (w % 16) 0xB000
  | none, some pl => if s.serves pl then s.readWord pl 0xB000 w else s.noWord
  | none, none => s.noWord

/-- Copy a frame back word by word, poison kept (R392 phase 2). -/
def State.copyBack (s : State) (src dst : Nat) : State :=
  (List.range (2 ^ 14)).foldl (fun (s : State) i =>
    let (v, s) := s.recoveryWord (src * 2 ^ 14 + i)
    { s with dram := AMap.set zeroCw s.dram (dst * 2 ^ 14 + i) (encode v.1 v.2) }) s

/-- REHYDRATION_COPY: the next frame of the list is copied back and its FTE restored; a frame of tier F stays repointed, with its lost mirror
recorded as stale, and one without a target stays repointed. -/
def execRehydrationCopy (s : State) : Out :=
  .next (match s.flt.rehyd with
    | [] => s
    | e :: rest =>
      if s.inReplay || s.cacheReset then s
      else
        let s := s.onFlt fun f => { f with rehyd := rest }
        let old := fteOf e.old
        if old.tier = 1 then
          let (ok, s) := s.fteSwap 0 e.frame e.now (staleMirror e.now old.frame)
          (if ok then s.raise 5 0x9000 e.frame 0 else s).rehydCount false
        else
          match s.rehydTarget old with
          | none => s.rehydCount false
          | some (id, f) =>
            let s := s.onFlt fun q => { q with pairOf := (q.pairOf.filter fun p => p.1 != old.frame / 512) ++ [(old.frame / 512, id)] }
            let s := ((s.takeFrame f).copyBack (fteOf e.now).frame f).dropLines f
            let (ok, s) := s.fteSwap 0 e.frame e.now (fteMove e.old f)
            s.rehydCount ok)

/-! ## The watchdog and losses -/

/-- The instruction at the head of an engine's queue may have stalled (R393): it has started, and waits neither for its token, nor for a
place on its lane, nor for a waggle token's limit, nor for a peer. -/
def State.mayStall (s : State) (g : Nat) (e : Eng) : Bool :=
  let c := s.core g
  match c.q.get e with
  | [] => false
  | x :: _ =>
    match x.phase with
    | .queued =>
      !(x.head.wv && (c.lane x.head.wlane).count == 0) && !(e == .xe && c.xfers.any fun y => decide (32 ≤ y.1))
        && !(x.head.op == 0x06 && s.activeSeqs.any fun d => decide (15 ≤ (s.seq d).waggle (bits x.head.low 36 31)))
    | .running => !(c.xfers.any fun y => y.2.qid == x.qid)
    | .executed => !(x.head.pv && (c.lane x.head.plane).count == 63)

/-- STEP_WATCHDOG (R393): the step has run for STEP_WD; of the cores given, those with an engine that may have stalled fault, and without
one the program halts. -/
def execStepWatchdog (stalled : List Nat) (s : State) : Out :=
  .next (if s.running ∧ s.prog.inStep ∧ s.reg (ledgOff + 0x18) ≠ 0 then
      let gs := (stalled.filter fun g => s.isLive g && [Eng.me, .ve, .fe, .xe].any (s.mayStall g)).eraseDups
      if gs = [] then (s.onFlt fun f => { f with watchdog := true }).beginHalt 8 0 0 0
      else gs.foldl (fun s g => s.fault 1 (0x1000 + g) 0) s
    else s)

/-- Rows of a bank that met an uncorrectable read within 1,024 rounds. -/
def State.badRows (s : State) (n bank : Nat) : Nat :=
  ((AMap.get [] (s.ctl n).ueRows bank).filter fun r => decide (s.hk.round < r.2 + 1024)).length

/-- BANK_LOSS (R386): four such rows declare the bank lost. -/
def execBankLoss (ctl bank : Nat) (s : State) : Out :=
  .next (if s.atS7 ∧ ctl < 272 ∧ (banksOf ctl).contains bank ∧ AMap.get 0 (s.ctl ctl).lost bank = 0 ∧ 4 ≤ s.badRows ctl bank then
      ((s.loseBank ctl bank).fault 6 (ctlFid ctl) bank).settleFaults
    else s)

/-- D2D_LINK_LOSS (R440): 64 retries of one flit lose the link. -/
def execD2dLinkLoss (l : Nat) (s : State) : Out :=
  .next (if s.atS7 ∧ l < 4 ∧ s.isFenced (0x8000 + l) = false then
      ((s.bumpN (d2dOff l + 8) 64).fault 12 (0x8000 + l) 0).settleFaults
    else s)

/-- CORE_PLL_LOCK_LOSS (R447): a compute-die fault. -/
def execCorePllLockLoss (d : Nat) (s : State) : Out :=
  .next (if s.atS7 ∧ d < 4 ∧ bitOf s.pins.corePll d then
      ((s.onPins fun p => { p with corePll := p.corePll &&& (15 ^^^ (1 <<< d)) }).fault 3 (0x3000 + d) 0).settleFaults
    else s)

/-- The requests that a die cache's reset held are released in order (R312). -/
def State.releaseHomes (s : State) : State :=
  s.flt.homeHeld.foldl (fun s h => match h with | .flit p i => s.takeFlit p i | h => s.hostDo h) (s.onFlt fun f => { f with homeHeld := [] })

/-! ## The end of the diagnosis window (R351) -/

/-- DIAG_WINDOW ends: the frozen controller is reset (R351). -/
def execDiagWindowExpiry (n : Nat) (exchangeOk : Bool) (s : State) : Out :=
  .next (if (s.ctl n).st = .frozen then (s.resetCtl n exchangeOk).settleFaults else s)

/-- FREEZE_CTRL.RELEASE ends the window at once; it is ignored when not frozen. -/
def execRelease (n : Nat) (exchangeOk : Bool) (s : State) : Out :=
  .next (s.barServe (.release n exchangeOk) fun s => if (s.ctl n).st = .frozen then (s.resetCtl n exchangeOk).settleFaults else s)

/-! ## FRST (R382, R383, R399) -/

/-- A function is out of service: fenced itself, or with what holds it. -/
def State.fnDown (s : State) (fid : Nat) : Bool :=
  let i := fid % 0x1000
  s.isFenced fid || (match fid / 0x1000 with
    | 1 => s.coreDown i
    | 2 => s.isFenced (0x3000 + i / 16)
    | 4 => (s.ctl i).st == .fenced
    | 6 => (s.ctl (256 + i)).st == .fenced
    | _ => false)

/-- A fence of this class may be requested (Table 13.1). -/
def State.fencePermitted (s : State) (fid : Nat) : Bool :=
  match fid / 0x1000 with
  | 6 => (match placeOf s.cfg s.cfg.frameBase with | some p => p.ctl != 256 + fid % 0x1000 | none => true)
  | 9 => false
  | 10 => false
  | _ => true

/-- The function is one the running program uses: a live core, a cluster or sequencer with one, or a part of the memory system. -/
def State.usedFn (s : State) (fid : Nat) : Bool :=
  let i := fid % 0x1000
  match fid / 0x1000 with
  | 1 => s.isLive i
  | 2 => (clusterCores i).any s.isLive
  | 3 => s.unparked i
  | 7 => false
  | 10 => false
  | _ => true

/-- The reset of a sequencer (R107): IDLE; all others halt with cause 7. -/
def State.resetSeq (s : State) (d : Nat) : State :=
  let x := s.seq d
  let st := if s.liveOf d = [] then SeqState.parked else .idle
  let s := s.setSeq d { x with st := st, cause := 0, infoStream := 0, infoCode := 0, infoPc := 0, pc := .all 0, slot := .all 0,
                               wait := .all .none, sx := [], sxUndo := .all [], mb := [], mbEmpty := 0, lcnt := .all [],
                               lcntUndo := .all [], wcnt := [], snap := .init }
  let s := s.onPins fun p => { p with corePll := p.corePll &&& s.pllMask }
  if s.busy then s.beginHalt 7 0 0 0 else s

/-- The reset of a peer port (R422, R428): bring-up starts again where a cable is present. -/
def State.resetPort (s : State) (p : Nat) : State :=
  let s := s.lpgRun (peerOff p) 4
  let s := if (s.port p).st = .up then s.portDown p .down else s.dropRoutes p fun _ => true
  let st := if !bitOf s.cfg.peer.enable p then PortState.disabled else if bitOf s.pins.pprsnt p then .down else .training
  (s.portMove p st).revertExp (0x7000 + p)

/-- The reset of a die cache (R312): dirty lines are written back, cache and FTC emptied, the streams of its die's cores unbound. -/
def State.resetDieCache (s : State) (d : Nat) : State :=
  let s := ((s.die d).lines.map (·.1)).foldl (fun s la => s.writeBack d la) s
  let s := s.setDie d { s.die d with lines := [], ftc := [] }
  (overList ((dieCores d).filter fun g => (s.core g).streams != [] || (s.core g).slots != 0) (fun g s => s.unbindStreams g) s).revertExp
    (0x9000 + d)

/-- What the reset of a function does (Table 13.1); the reset of a sequencer was made when it was requested. -/
def State.resetFn (s : State) (fid : Nat) (linkOk : Bool) : State :=
  let i := fid % 0x1000
  match fid / 0x1000 with
  | 1 => s.resetCore i
  | 2 => s.resetCluster i
  | 3 => let s := (s.lpgRun (seqOff i + 0x8000) 128).revertExp fid; if linkOk then s else s.fault 3 fid 0
  | 4 => s.resetCtl i linkOk
  | 5 => s.resetGroup i
  | 6 => s.resetCtl (256 + i) linkOk
  | 7 => s.resetPort i
  | 8 => let s := (s.lpgRun (d2dOff i) 256).revertExp fid; if linkOk then s else s.fault 12 fid 0
  | 9 => s.resetDieCache i
  | _ => s.resetHost

/-- The fence that follows the reset. -/
def State.fenceFn (s : State) (fid : Nat) : State :=
  let i := fid % 0x1000
  match fid / 0x1000 with
  | 1 => s.fenceCore i 0
  | 2 => s.fenceCluster i 0
  | 3 => s.fenceDie i 0
  | 4 => s.loseChannel i 0
  | 5 => s.fenceGroup i
  | 6 => s.loseChannel (256 + i) 0
  | 7 => (if (s.port i).st = .up then s.portDown i .down else s).fence fid 0
  | 8 => s.loseLink i 0
  | _ => s.fence fid 0

/-- RESULT of a request that is refused; 0 where it is accepted (R383, Table 13.7). -/
def State.frstResult (s : State) (fid : Nat) (fence : Bool) : Nat :=
  if s.flt.busy.isSome then 2
  else if !validFid fid then 1
  else if s.fnDown fid then 5
  else if fence && !s.fencePermitted fid then 3
  else if fence && (s.fenceFn fid).serviceRow != 0 then 4
  else 0

/-- The reset begins: the unlock closes, and a controller takes no request until it is done. -/
def State.startReset (s : State) (fid : Nat) : State :=
  let s := (s.closeUnlock fid).onFlt fun f => { f with held := none, resetting := [fid] }
  let i := fid % 0x1000
  match fid / 0x1000 with
  | 4 => s.setCtl i { s.ctl i with st := .reset }
  | 6 => s.setCtl (256 + i) { s.ctl (256 + i) with st := .reset }
  | _ => s

/-- A reset that a halt of the program or a step end was to wait for begins. -/
def State.startHeld (s : State) : State :=
  match s.flt.held with
  | some (fid, _) => s.startReset fid
  | none => s

/-- A write of FRST (R383): refused with its result, or accepted. A step in progress is abandoned for replay when the program uses the
function; outside a step the request is held for the next step end or halt. -/
def State.frst (s : State) (fid : Nat) (fence : Bool) : State :=
  let r := s.frstResult fid fence
  if r ≠ 0 then s.onFlt fun f => { f with result := r }
  else
    let s := s.onFlt fun f => { f with busy := some (fid, fence), result := 0, last := fid }
    if fid / 0x1000 = 3 ∧ fence = false then (s.resetSeq (fid % 0x1000)).startReset fid
    else if s.usedFn fid ∧ s.running ∧ s.prog.inStep then ({ s with seqs := AMap.mapVals .init Seq.toReplay s.seqs }).startReset fid
    else if s.usedFn fid ∧ s.busy ∧ s.inReplay = false then s.onFlt fun f => { f with held := some (fid, fence) }
    else s.startReset fid

def execFrstReset (fid : Nat) (s : State) : Out :=
  .next (s.barServe (.frstReset fid) fun s => s.frst fid false)
def execFrstFence (fid : Nat) (s : State) : Out :=
  .next (s.barServe (.frstFence fid) fun s => s.frst fid true)

/-- The streams that wait at a step end for the reset of a function resume over the new live mask (R383). -/
def State.resumeStepEnd (s : State) : State :=
  if s.running ∧ s.prog.inStep = false ∧ s.allStreams (fun w => match w with | .stepEnd _ _ => true | _ => false) then
    let s := s.takeMask
    overList s.activeSeqs (fun d s => s.setSeq d { s.seq d with wait := .all .none }) s
  else s

/-- The words of the image buffer that the reload of a function's fields finds upset (R66, R368): a correctable one is rewritten; answers
whether every one of them reads. -/
def State.imageReload (s : State) (us : Upsets) : Bool × State :=
  us.foldl (fun acc u =>
    let cw := AMap.get zeroCw acc.2.boot.imgBuf u.1 ^^^ u.2
    let o := decode cw
    let put := fun cw => acc.2.onBoot fun b => { b with imgBuf := AMap.set zeroCw b.imgBuf u.1 cw }
    match o.cls with
    | .clean => (acc.1, put cw)
    | .corrected _ => (acc.1, put (encode o.d o.p))
    | .uncorrectable => (false, put cw)) (true, s)

/-- PER_FUNCTION_RESET_DONE (R382): the function is as after start-up, its IMG and EXP fields reloaded; a word of the image buffer that
does not read fences it (Table 12.4), a fence that was asked for follows, and BUSY clears. -/
def execPerFunctionResetDone (linkOk : Bool) (image : Upsets) (s : State) : Out :=
  .next (match s.flt.busy, s.flt.resetting with
    | some (fid, fence), _ :: _ =>
      let s := if s.inReplay then s.flushAll.quiesce else s
      let s := s.resetFn fid linkOk
      let (imageOk, s) := s.imageReload image
      let failed := !linkOk && (fid / 0x1000 == 4 || fid / 0x1000 == 6)
      let s := if (fence || !imageOk) && !failed then s.fenceFn fid else s
      let s := (s.onFlt fun f => { f with busy := none, resetting := [], result := 0 }).checkService
      s.releaseHomes.resumeStepEnd.settleFaults
    | _, _ => s)

end Sys2Proof.Machine
end

