-- ==== Sys2Proof/Machine/Program.lean ====
section
/-! DEFINITION. The program as the host runs it: step end (R93, R103, R125), the completion of a halt (R107, R411), launch and resume (R409,
R410, R103), program memory (R100 to R102) and its measurements (R475). -/

namespace Sys2Proof.Machine

/-! ## Step end -/

/-- Every queue of every live core is empty. -/
def State.enginesIdle (s : State) : Bool := s.liveCores.all fun g => allEng.all fun e => ((s.core g).q.get e) == []

/-- The step's totals over the live cores (R490), added to the launch's. -/
def State.stepTotals (s : State) : State :=
  let go := s.liveCores.foldl (fun (acc : (Nat × Bool) × (Nat × Bool)) g =>
    let c := s.core g
    let a := satTotal acc.1.1 c.stepSat
    let b := satTotal acc.2.1 c.stepFlush
    ((a.1, acc.1.2 || a.2), (b.1, acc.2.2 || b.2))) ((0, false), (0, false))
  let s := (s.onProg fun p => { p with stepSat := go.1.1, stepFlush := go.2.1 }).totalsFlag (go.1.2 || go.2.2)
  s.addLaunch go.1.1 go.2.1

/-- STEP_END of the XE stream with RQ writes the step's totals to MBn and MBn+1 in all four sequencers (R125). -/
def State.reportTotals (s : State) : State :=
  match s.activeSeqs.findSome? fun d => match (s.seq d).wait.get .xe with | .stepEnd true n => some n | _ => none with
  | some n =>
    overList fourDies (fun d s =>
      let x := s.seq d
      s.setSeq d { x with mb := AMap.set 0 (AMap.set 0 x.mb n (BitVec.ofNat 64 s.prog.stepSat)) (n + 1) (BitVec.ofNat 64 s.prog.stepFlush) }) s
  | none => s

/-- STEP_LIMIT: a step that ends at or beyond LIMIT halts the program (R103). -/
def State.limitReached (s : State) : Bool :=
  let l := bits (s.reg 0x180).toNat 47 0
  l != 0 && decide (l ≤ s.prog.step.toNat)

/-- END_OF_STEP (R93): once every stream has executed STEP_END and every engine has completed, mailbox reductions
included. The audit runs, the step limit is checked,
a reset that was held begins, or the streams resume. -/
def execEndOfStep (s : State) (ledgers : Upsets := []) : Out :=
  .next (if s.prog.inStep ∧ s.allStreams (fun w => match w with | .stepEnd _ _ => true | _ => false) ∧ s.enginesIdle
        ∧ s.prog.contribs = [] then
      let s := (s.onProg fun p => { p with inStep := false }).stepTotals.reportTotals.audit ledgers
      if s.prog.halt.isSome then s
      else if s.limitReached then s.beginHalt 1 0 0 0
      else if s.flt.held.isSome then s.startHeld
      else overList s.activeSeqs (fun d s => s.setSeq d { s.seq d with wait := .all .none }) s
    else s)

/-! ## Halts -/

/-- A vector's message may be sent: MSI-X is enabled, and neither the function nor the vector is masked (R401). -/
def HostPort.vectorOn (h : HostPort) (vec : Nat) : Bool :=
  h.cs.msixOn && !h.cs.msixMask && !bitOf (AMap.get 0 h.msix (2 * vec + 1)).toNat 32

/-- Send an MSI-X message; a vector that is off only becomes pending. -/
def State.sendMsix (s : State) (vec : Nat) : State :=
  if s.host.vectorOn vec then s.post (.msix vec) else s.onHost fun h => { h with pba := AMap.set 0 h.pba vec 1 }

/-- Send what is pending of the vectors that are on. -/
def State.sendPending (s : State) : State :=
  s.host.pba.foldl (fun s e => if s.host.vectorOn e.1 then (s.onHost fun h => { h with pba := AMap.set 0 h.pba e.1 0 }).sendMsix e.1 else s) s

/-- The completion record (Table 14.6) and the state after its time is read. -/
def State.complRecord (s : State) (h : HaltReq) : List Word × State :=
  let (us, s) := s.freshTime 48
  let p := s.prog
  let tok := s.liveCores.foldl (fun a g => a ||| (s.core g).tokstat) 0
  (([h.cause ||| ((h.code % 2 ^ 15) <<< 16) ||| (p.launchNo <<< 32), p.step.toNat % 2 ^ 48, p.launchSat, p.launchFlush,
     tok % 16 ||| (b2n p.mbEmptySeen <<< 4), p.sx15 ||| (p.sx13 <<< 16) ||| (p.sx12 <<< 32), h.pc % 2 ^ 22 ||| (h.stream <<< 22), us].map
      (BitVec.ofNat 64)), s)

/-- The record goes to COMPL0–7 and, as the launch asked, to host memory and to a vector; a port in reset loses it (R411, R415). -/
def State.complete (s : State) (h : HaltReq) : State :=
  let (ws, s) := s.complRecord h
  let s := s.onHost fun p => { p with compl := ws }
  if s.portUp = false then s.onHost fun p => { p with complLost := true }
  else
    let s := if s.prog.norec then s else s.post (.write s.prog.caddr ws)
    if s.prog.nomsi then s else s.sendMsix s.prog.vec

/-- A draining sequencer is HALTED, with the cause and the offending instruction. -/
def Seq.halted (h : HaltReq) (x : Seq) : Seq :=
  if x.st = .drain then { x with st := .halted, cause := h.cause, infoStream := h.stream, infoCode := h.code, infoPc := h.pc } else x

/-- HALT_COMPLETE (R107): every live engine is idle with outputs visible. -/
def execHaltComplete (s : State) : Out :=
  .next (match s.prog.halt with
    | some h =>
      if s.enginesIdle then
        let s := ({ s with seqs := AMap.mapVals .init (Seq.halted h) s.seqs }).onProg fun p => { p with halt := none, inStep := false }
        (s.complete h).startHeld.settleFaults
      else s
    | none => s)

/-! ## Launch and resume -/

/-- A word of the launch descriptor. -/
def State.launchWord (s : State) (i : Nat) : Nat := (s.reg (0x300 + 8 * i)).toNat

/-- The stream start offsets of the launch descriptor. -/
def State.launchPc (s : State) (e : Eng) : Nat :=
  match e with
  | .me => bits (s.launchWord 2) 21 0
  | .ve => bits (s.launchWord 2) 53 32
  | .fe => bits (s.launchWord 3) 21 0
  | .xe => bits (s.launchWord 3) 53 32

/-- The launch descriptor breaks Table 14.5's last row. -/
def State.launchBad (s : State) : Bool :=
  let w0 := s.launchWord 0
  let pcBits := maskOf 21 0 ||| maskOf 53 32
  (w0 &&& (allBits ^^^ (3 ||| maskOf 26 16))) != 0 || bits (s.launchWord 1) 5 0 != 0
    || [2, 3].any (fun i => (s.launchWord i &&& (allBits ^^^ pcBits)) != 0)
    || allEng.any (fun e => s.launchPc e % 8 != 0) || (bits w0 26 16 == 0 && !bitOf w0 1)

/-- A sequencer starts (R107). -/
def Seq.start (pc : Four Nat) (sx : AMap Word) (x : Seq) : Seq :=
  { x with st := .run, cause := 0, infoStream := 0, infoCode := 0, infoPc := 0, pc := pc, wait := .all .none, sx := sx,
           sxUndo := .all [], mb := [], mbEmpty := 0, lcnt := .all [], lcntUndo := .all [], wcnt := [] }

/-- An accepted launch. -/
def State.launch (s : State) : State :=
  let w0 := s.launchWord 0
  let no := (s.prog.launchNo + 1) % 2 ^ 32
  let s := (s.onHost fun h => { h with launchStat := no <<< 32, complLost := false }).onFlt fun f =>
    { f with watchdog := false, replayMax := false }
  let s := (s.onProg fun p => { p with
    step := 0, inStep := false, attempts := 0, launchNo := no, norec := bitOf w0 0, nomsi := bitOf w0 1, vec := bits w0 26 16,
    caddr := bits (s.launchWord 1) 63 6 <<< 6, halt := none, launchSat := 0, launchFlush := 0, mbEmptySeen := false, contribs := [] }).takeMask
  let s := overList fourDies (fun d s => s.setSeq d (s.seq d).swapAll) s
  let pc : Four Nat := { me := s.launchPc .me, ve := s.launchPc .ve, fe := s.launchPc .fe, xe := s.launchPc .xe }
  let sx := (List.range 12).foldl (fun (m : AMap Word) i => AMap.set 0 m i (s.reg (0x320 + 8 * i))) []
  let s := overList s.activeSeqs (fun d s => s.setSeq d ((s.seq d).start pc sx)) s
  let s := overList s.liveCores (fun g s => s.freshCore g) s
  s.onSwarm fun w => { w with peers := AMap.mapVals .init (fun e => { e with freed := false }) w.peers }

/-- The doorbell (R410): the first refusal that applies, or the launch. -/
def State.doorbell (s : State) : State :=
  let s := if s.busy then s else s.handleAll
  let r := if s.flt.ended then 2 else if s.busy then 1 else if s.launchBad then 3 else 0
  if r = 0 then s.launch
  else s.onHost fun h => { h with launchStat := h.launchStat / 2 ^ 32 * 2 ^ 32 + r }

def execLaunchDb (value : Nat) (s : State) : Out :=
  .next (s.barServe (.launchDb value) fun s => if bitOf value 0 then s.doorbell else s)

/-- RESUME (R103): after a halt at the step limit every sequencer fetches on after its STEP_END; otherwise ignored. -/
def State.resume (s : State) : State :=
  let s := s.settleFaults
  if s.activeSeqs ≠ [] ∧ s.flt.ended = false ∧ s.activeSeqs.all (fun d => (s.seq d).st == .halted && (s.seq d).cause == 1) then
    let s := overList s.activeSeqs (fun d s => s.setSeq d { s.seq d with st := .run, cause := 0, wait := .all .none }) s
    s.onFlt fun f => { f with watchdog := false, replayMax := false }
  else s

def execResume (s : State) : Out := .next (s.barServe .resume State.resume)

/-! ## Program memory -/

/-- The word updates that bytes at an offset make: index, data, mask. -/
def byteUpds (off : Nat) (data : List Byte) : List (Nat × Word × Word) :=
  let lo := off / 8
  let hi := (off + data.length + 7) / 8
  let bs := data.toArray
  (List.range (hi - lo)).map fun i =>
    let k := lo + i
    let go := (List.range 8).foldl (fun (acc : Nat × Nat) j =>
      let a := 8 * k + j
      if off ≤ a ∧ a < off + data.length then
        (acc.1 + ((bs.getD (a - off) 0).toNat <<< (8 * j)), acc.2 + (0xFF <<< (8 * j)))
      else acc) (0, 0)
    (k, BitVec.ofNat 64 go.1, BitVec.ofNat 64 go.2)

/-- The active words of a segment become its shadow. -/
def Seq.openShadow (x : Seq) (g : Nat) : Seq :=
  if bitOf x.pmPending g then x
  else
    let rest := AMap.filterKeys (fun k => !segKeys g k) x.shadow
    { x with shadow := (AMap.filterKeys (segKeys g) x.pm).foldl (fun (m : AMap Codeword) (e : Nat × Codeword) => AMap.set zeroCw m e.1 e.2) rest,
             pmPending := x.pmPending ||| (1 <<< g) }

/-- Write part of a word of program memory: to the active segment, or to its shadow (Table 3.3); a sequencer that does not run swaps at
once. -/
def State.pmWrite (s : State) (d k : Nat) (v mask : Word) : State :=
  let x := s.seq d
  let g := k / 8192
  let toShadow := bitOf x.pmPending g || x.segLive g
  let x := if toShadow then x.openShadow g else { x with dirty := x.dirty ||| (1 <<< g) }
  let old := AMap.get zeroCw (if toShadow then x.shadow else x.pm) k
  let (cw, o) := rmw old v mask false
  let x := if toShadow then { x with shadow := AMap.set zeroCw x.shadow k cw } else { x with pm := AMap.set zeroCw x.pm k cw }
  let s := s.setSeq d x
  match o with
  | some o => if o.cls = .uncorrectable then s.raise 4 (0x3000 + d) k (o.synd ||| (2 <<< 16)) else s
  | none => s

/-- A BAR 2 write of any size (R404); one that crosses two sequencers' memories is an Unsupported Request. -/
def State.bar2Write (s : State) (off : Nat) (data : List Byte) : State :=
  let d := off / 0x400000
  if data = [] then s
  else if 4 ≤ d ∨ (off + data.length - 1) / 0x400000 ≠ d then s.refuse
  else
    let s := (byteUpds (off % 0x400000) data).foldl (fun s u => s.pmWrite d u.1 u.2.1 u.2.2) s
    let x := s.seq d
    if x.st = .run then s else s.setSeq d x.swapAll

/-- Read a word of the active program memory of sequencer d for the host: a correctable codeword is rewritten (R368). -/
def State.pmRead (s : State) (d k : Nat) : Word × State :=
  let x := s.seq d
  let o := decode (AMap.get zeroCw x.pm k)
  match o.cls with
  | .clean => (o.d, s)
  | .corrected _ => (o.d, s.setSeq d { x with pm := AMap.set zeroCw x.pm k (encode o.d o.p) })
  | .uncorrectable => (o.d, s.raise 0x10 (0x3000 + d) (k / 8192) (k % 8192))

/-- A BAR 2 read of any size (R101, R404): the active contents; one that crosses two sequencers' memories is an Unsupported Request. -/
def State.bar2Read (s : State) (off size : Nat) : State :=
  let d := off / 0x400000
  if size = 0 then s.tell (.barData 2 off [])
  else if 4 ≤ d ∨ (off + size - 1) / 0x400000 ≠ d then s.refuse
  else
    let lo := off % 0x400000 / 8
    let go := (List.range ((off % 0x400000 + size + 7) / 8 - lo)).foldl (fun (acc : List Byte × State) i =>
      let (v, s) := acc.2.pmRead d (lo + i)
      (acc.1 ++ leBytes 8 v.toNat, s)) ([], s)
    go.2.tell (.barData 2 off ((go.1.drop (off % 8)).take size))

def execProgramMemoryWrite (offset : Nat) (data : List Byte) (s : State) : Out :=
  .next (s.barServe (.programMemoryWrite offset data) fun s => s.bar2Write offset data)

/-! ## Measurements (R475) -/

/-- The 64 KiB of active contents of a segment. -/
def Seq.segBytes (x : Seq) (g : Nat) : List Byte :=
  (List.range 8192).flatMap fun i => leBytes 8 (decode (AMap.get zeroCw x.pm (g * 8192 + i))).d.toNat

/-- The 32 bytes of a digest. -/
def digestBytes (h : BitVec 256) : List Byte := leBytes 32 h.toNat

/-- Measure a segment and extend LOG_d. -/
def State.measure (s : State) (d g : Nat) : State :=
  let x := s.seq d
  let m := Config.sha256 (x.segBytes g)
  s.setSeq d { x with meas := AMap.set 0 x.meas g m, dirty := x.dirty &&& (allBits ^^^ (1 <<< g)),
                      log := Config.sha256 (digestBytes x.log ++ leBytes 1 g ++ digestBytes m) }

/-- SEGMENT_MEASUREMENT: a segment whose contents changed is measured. -/
def execSegmentMeasurement (d g : Nat) (s : State) : Out :=
  .next (if d < 4 ∧ bitOf (s.seq d).dirty g ∧ s.atS7 then s.measure d g else s)

end Sys2Proof.Machine
end

