-- ==== Sys2Proof/Machine/Security.lean ====
section
/-! DEFINITION. Security and attestation (chapter 16): the fuse commands (R471 to R473) and the DOE requests (R474, R478 to R481). -/

namespace Sys2Proof.Machine

/-! ## Fuse commands -/

/-- The count SV_COMMIT raises SV_MIN to (R471). -/
def State.svTarget (s : State) : Nat := min s.cfg.secver 64

/-- A write of SEC_CMD (R471 to R473): refused, with no effect but its result, or begun. -/
def State.secCmd (s : State) (cmd serialLow : Nat) : State :=
  let ok := match cmd with
    | 1 => decide (s.fuses.sv < s.svTarget)
    | 2 => s.fuses.ownerKh == 0 && s.cfg.owner
    | _ => false
  if s.sec.busy ≠ 0 then s.onSec fun x => { x with result := 2 }
  else if ok && serialLow == s.fuses.serial % 2 ^ 32 then s.onSec fun x => { x with busy := cmd, svOld := s.fuses.sv, result := 0 }
  else s.onSec fun x => { x with result := 1 }

def execSvCommit (serialLow : Nat) (s : State) : Out :=
  .next (s.barServe (.svCommit serialLow) fun s => s.secCmd 1 serialLow)
def execOwnerEnrol (serialLow : Nat) (s : State) : Out :=
  .next (s.barServe (.ownerEnrol serialLow) fun s => s.secCmd 2 serialLow)

/-- SEC_CMD_DONE: so many more fuses of an SV_COMMIT are blown, one at a time, and the command ends at its target; an OWNER_ENROL has
blown the hash of the running image's owner key. -/
def execSecCmdDone (blown : Nat) (s : State) : Out :=
  .next (match s.sec.busy with
    | 1 =>
      let new := min s.svTarget (s.fuses.sv + blown)
      let s := { s with fuses := { s.fuses with sv := new } }
      if new = s.svTarget then (s.onSec fun x => { x with busy := 0, result := 0 }).raise 0x33 0 new s.sec.svOld else s
    | 2 =>
      let s := { s with fuses := { s.fuses with ownerKh := Config.sha256 s.cfg.ownerKey } }
      (s.onSec fun x => { x with busy := 0, result := 0 }).raise 0x34 0 0 0
    | _ => s)

/-! ## DOE requests -/

/-- A DOE response: one DW with the status, then the data (R480). -/
def State.doe (s : State) (status : Nat) (data : List Byte) : State := s.tell (.doe (leBytes 4 status ++ data))

/-- Serve a DOE request: NOT_READY before S7 entry; with PERST# low the port does not answer. -/
def State.doeServe (s : State) (f : State → State) : State :=
  if s.portUp then f s else if s.pins.perst && s.host.link != .down then s.doe 5 [] else s

/-- GET_IDENTITY (R474). -/
def execGetIdentity (s : State) : Out := .next (s.doeServe fun s => s.doe 0 (bytesAt 0 s.fuses.identity 0 2764))

/-- The measurement of a segment: of the zero contents S5 left until the first one is taken (R475). -/
def Seq.segMeas (x : Seq) (g : Nat) : BitVec 256 :=
  match x.meas.find? (fun e => e.1 == g) with
  | some e => e.2
  | none => Config.sha256 (List.replicate 65536 0)

/-- Measure every dirty segment of sequencer d: a request waits for them. -/
def State.measureAll (s : State) (d : Nat) : State :=
  overList (List.range 64) (fun g s => if bitOf (s.seq d).dirty g then s.measure d g else s) s

/-- A report body (Table 16.6). -/
def State.reportBody (s : State) (d : Nat) (segs : Bool) (leaf : Nat) (nonce : List Byte) : List Byte :=
  let n := if segs then 2304 else 256
  leBytes 4 0x52415750 ++ leBytes 2 1 ++ leBytes 2 n ++ leBytes 8 s.fuses.serial ++ leBytes 8 s.startStatus ++ leBytes 8 s.cfg.secver
    ++ leBytes 8 s.cfg.seq
    ++ leBytes 8 (s.fuses.sv ||| (b2n (s.fuses.ownerKh != 0) <<< 7) ||| (s.fuses.epoch <<< 8) ||| (leaf <<< 19))
    ++ leBytes 8 (s.prog.launchNo ||| (d <<< 32) ||| (b2n segs <<< 34)) ++ leBytes 8 0 ++ nonce ++ digestBytes s.boot.imgMeas
    ++ (fourDies.flatMap fun k => digestBytes (s.seq k).log)
    ++ (if segs then (List.range 64).flatMap fun g => digestBytes ((s.seq d).segMeas g) else [])

/-- GET_MEAS (R480): an unsigned report. -/
def execGetMeas (d : Nat) (segs : Bool) (s : State) : Out :=
  .next (s.doeServe fun s =>
    if 4 ≤ d then s.doe 4 []
    else
      let s := s.measureAll d
      s.doe 0 (s.reportBody d segs 0 (List.replicate 32 0)))

/-- A leaf is journaled: IN rises before its record is written (R478). -/
def State.journalLeaf (s : State) (r : PageEnd) : State :=
  ((s.ledgIn 6 1).journal 2 (s.fuses.epoch - 1) s.sec.next r).onSec fun x => { x with closed := false }

/-- GET_REPORT with the next leaf: journal it, and sign or burn it. -/
def State.report (s : State) (d : Nat) (segs : Bool) (nonce : List Byte) (leafEnd : PageEnd) : State :=
  let leaf := s.sec.next
  let e := s.fuses.epoch - 1
  let s := s.journalLeaf leafEnd
  if leafEnd = .kept then
    let body := s.reportBody d segs leaf nonce
    let s := (s.ledgOut 6 1).onSec fun x => { x with next := leaf + 1 }
    s.doe 0 (body ++ Config.hssSign s.fuses.devSecret e leaf body)
  else
    let s := (s.ledgAlt 6 1).onSec fun x => { x with next := leaf + 1 }
    (s.raise 0x32 0 e leaf).doe 3 []

/-- GET_REPORT (R478): a used-up epoch is followed by the next, with its OPEN record; how the page programs end comes with the command. -/
def execGetReport (d : Nat) (segs : Bool) (nonce : List Byte) (leafEnd openEnd : PageEnd) (s : State) : Out :=
  .next (s.doeServe fun s =>
    if 4 ≤ d ∨ nonce.length ≠ 32 then s.doe 4 []
    else if s.sec.jfail then s.doe 3 []
    else if s.sec.next < 1024 then (s.measureAll d).report d segs nonce leafEnd
    else if 1024 ≤ s.fuses.epoch then (s.raise 0x31 0 0 0).doe 2 []
    else
      let s := ((s.newEpoch 1).journal 1 s.fuses.epoch 0 openEnd).onSec fun x => { x with closed := false, jfail := openEnd != .kept }
      if openEnd = .kept then (s.measureAll d).report d segs nonce leafEnd else s.doe 3 [])

/-- CLOSE (R479): a CLOSE record names the next leaf. -/
def execClose (pageEnd : PageEnd) (s : State) : Out :=
  .next (s.doeServe fun s =>
    if s.sec.jfail then s.doe 3 []
    else
      let s := (s.journal 3 (s.fuses.epoch - 1) s.sec.next pageEnd).onSec fun x => { x with closed := pageEnd == .kept }
      s.doe (if pageEnd = .kept then 0 else 3) [])

end Sys2Proof.Machine
end

