-- ==== Sys2Proof/Machine/RegMap.lean ====
section
/-! DEFINITION. What the registers of BAR 0 and BAR 4 read as (R493 and the block tables of each chapter): stored registers, event
counters, and views of the state. -/

namespace Sys2Proof.Machine

/-- Fields (value, width, lowest bit) put together. -/
def fields (fs : List (Nat × Nat × Nat)) : Nat := fs.foldl (fun a f => a ||| ((f.1 % 2 ^ f.2.1) <<< f.2.2)) 0

/-- A word of a digest: words of a 32-byte value, little-endian (Table 16.8). -/
def digestWord (h : BitVec 256) (i : Nat) : Nat := h.toNat >>> (64 * i) % 2 ^ 64

/-- Word i of a memory of bytes. -/
def wordAt (m : AMap Byte) (a : Nat) : Nat := leAt 0 m a 8

/-- FRST_STAT (Table 13.7). -/
def State.frstStat (s : State) : Nat := fields [(b2n s.flt.busy.isSome, 1, 0), (s.flt.result, 8, 8), (s.flt.last, 16, 16)]

/-- EXP_STAT (Table 17.8). -/
def State.expStat (s : State) : Nat := fields [(s.expResult, 8, 0), (s.expLast, 16, 16), (s.unlocked.length, 12, 32)]

/-- CNT_OVF (Table 17.2). -/
def State.cntOvf (s : State) : Nat := fields [((s.reg 0x700).toNat, 2, 0), (s.novf, 16, 16), (s.firstOvf, 26, 32)]

/-- FEAT_LIVE (Table 17.4) follows the live mask and comb service at once. -/
def State.featLive (s : State) : Nat :=
  let (n, k, d) := liveCounts s.prog.live
  fields [(n, 16, 0), (s.serviceUnits, 16, 16), (k, 16, 32), (d, 3, 48)]

/-- The GLB block (Table 17.6). -/
def State.glbValue (s : State) (r : Nat) : Nat :=
  if r = 0 then 0xB0960050
  else if r = 8 then s.fuses.serial
  else if r = 0x100 then s.startStatus
  else if r = 0x208 then s.frstStat
  else if r = 0x380 then s.host.launchStat
  else if r = 0x400 then fields [(4, 4, 0), (16, 6, 4), (32, 6, 10), (2048, 16, 16), (64, 16, 32)]
  else if r = 0x408 then fields [(8, 4, 0), (32, 6, 4), (3, 2, 10), (32, 6, 12), (48, 8, 18), (12288, 16, 26)]
  else if r = 0x410 then fields [(768, 16, 0), (512, 16, 16), (32, 16, 32), (32 * (s.cfg.regions.filter (·.comb)).length, 16, 48)]
  else if r = 0x418 then fields [(0xFFF, 12, 0), (64, 8, 12), (32, 6, 20), (256, 9, 26), (64, 7, 35), (512, 10, 42), (64, 7, 52)]
  else if r = 0x420 then fields [(41, 6, 0), (41, 6, 6), (17, 5, 12), (16, 5, 17), (20, 5, 22), (24, 5, 27), (16, 5, 32), (4, 3, 37)]
  else if r = 0x428 then s.featLive
  else if r = 0x500 then s.prog.stepSat
  else if r = 0x508 then s.prog.stepFlush
  else if r = 0x510 then s.prog.launchSat
  else if r = 0x518 then s.prog.launchFlush
  else if r = 0x608 then s.expStat
  else if r = 0x700 then s.cntOvf
  else if r = 0x180 ∨ (0x300 ≤ r ∧ r ≤ 0x378) then (s.reg r).toNat
  else 0

/-- STATE of DORM_STAT. -/
def DormState.code : DormState → Nat
  | .active => 0 | .entering => 1 | .dormant => 2 | .waking => 3

/-- The HK block (Table 15.11). -/
def State.hkValue (s : State) (r : Nat) : Nat :=
  let h := s.hk
  if r = 0 then h.round
  else if r = 8 then
    fields [(h.level, 4, 0), (b2n (decide (h.sinceS7 < 16)), 1, 4), (b2n (bitOf (s.reg (hkOff + 0x20)).toNat 4), 1, 5), (h.down, 8, 8),
      (h.power, 16, 16)]
  else if r = 0x10 then s.cfg.smoker.budget
  else if r = 0x18 ∨ r = 0x20 then (s.reg (hkOff + r)).toNat
  else if r = 0x28 then fields [(s.dorm.st.code, 3, 0), (s.dorm.lastWake, 16, 8)]
  else if r = 0x30 then s.cfg.timers.dormant
  else if r = 0x48 then fields [(h.thermSlot, 7, 0), (b2n h.thermValid, 1, 7), (h.thermReading, 16, 8), (h.thermCount, 32, 32)]
  else if r = 0x50 then h.failed % 2 ^ 64
  else if r = 0x58 then h.failed >>> 64 % 2 ^ 64
  else if r = 0x60 then s.nor.fatalSeq
  else if 0x1000 ≤ r ∧ r < 0x1400 then AMap.get 0x80000000 h.sensors ((r - 0x1000) / 8)
  else 0

/-- ATT_STAT (Table 16.9). -/
def State.attStat (s : State) : Nat :=
  let x := s.sec
  fields [(s.fuses.epoch - 1, 10, 0), (x.next, 11, 10), (b2n (s.fuses.epoch == 1024 && x.next == 1024), 1, 21), (b2n x.jfail, 1, 22),
    (b2n x.closed, 1, 23)]

/-- The SEC block (Table 16.8). -/
def State.secValue (s : State) (r : Nat) : Nat :=
  if r = 0 then fields [(s.fuses.sv, 7, 0), (b2n (s.fuses.ownerKh != 0), 1, 7), (s.fuses.epoch, 11, 8)]
  else if r = 8 then s.attStat
  else if r = 0x18 then fields [(b2n (s.sec.busy != 0), 1, 0), (s.sec.result, 8, 8)]
  else if 0x40 ≤ r ∧ r < 0x60 then digestWord s.fuses.vendorKh ((r - 0x40) / 8)
  else if 0x60 ≤ r ∧ r < 0x80 then digestWord s.fuses.ownerKh ((r - 0x60) / 8)
  else if 0x80 ≤ r ∧ r < 0xA0 then digestWord s.boot.imgMeas ((r - 0x80) / 8)
  else if 0xA0 ≤ r ∧ r < 0x120 then digestWord (s.seq ((r - 0xA0) / 32)).log ((r - 0xA0) / 8 % 4)
  else if 0x1000 ≤ r ∧ r < 0x3000 then digestWord ((s.seq ((r - 0x1000) / 0x800)).segMeas ((r - 0x1000) / 32 % 64)) ((r - 0x1000) / 8 % 4)
  else if 0x3000 ≤ r ∧ r < 0x3020 then (s.seq ((r - 0x3000) / 8)).dirty
  else if 0x4000 ≤ r ∧ r < 0x5000 then wordAt s.fuses.identity (r - 0x4000)
  else 0

/-- FLT_STAT (Table 13.9). -/
def State.fltStat (s : State) : Nat :=
  let f := s.flt
  fields [(f.fltFid, 16, 0), (f.fltClass, 8, 16), (b2n f.watchdog, 1, 24), (b2n f.replayMax, 1, 25), (f.fltStep, 32, 32)]

/-- The LEDG block (Table 13.8): ledgers as the last audit latched them. -/
def State.ledgValue (s : State) (r : Nat) : Nat :=
  if r = 0 then s.flt.broken
  else if r = 8 then s.auditStep
  else if r = 0x10 then s.fltStat
  else if r = 0x18 then (s.reg (ledgOff + r)).toNat
  else if 0x100 ≤ r ∧ r < 0x200 then AMap.get 0 s.ledgAudit ((r - 0x100) / 8)
  else 0

/-- STATE of SEQ_STATUS (Table 3.8). -/
def SeqState.code : SeqState → Nat
  | .idle => 0 | .run => 1 | .drain => 2 | .halted => 3 | .parked => 4 | .replay => 5

/-- The SEQ block (Table 3.7). -/
def State.seqValue (s : State) (d r : Nat) : Nat :=
  let x := s.seq d
  if r = 0 then fields [(x.st.code, 3, 0), (x.cause, 8, 8), (s.prog.step.toNat, 48, 16)]
  else if r = 8 then fields [(x.infoStream, 2, 0), (x.infoCode, 15, 16), (x.infoPc, 22, 32)]
  else if 0x10 ≤ r ∧ r < 0x30 then x.pc.get (engOf ((r - 0x10) / 8)) % 2 ^ 22
  else if r = 0x40 then fields (allEng.map fun e => (s.qocc d e, 7, 8 * engNum e))
  else if 0x80 ≤ r ∧ r < 0x100 then
    let k := (r - 0x80) / 8
    (if 12 ≤ k then s.prog.preset k else AMap.get 0 x.sx k).toNat
  else if 0x100 ≤ r ∧ r < 0x180 then (AMap.get 0 x.mb ((r - 0x100) / 8)).toNat
  else if r = 0x180 then x.mbEmpty
  else if 0x200 ≤ r ∧ r < 0x240 then s.prog.live.toNat >>> (512 * d + 64 * ((r - 0x200) / 8)) % 2 ^ 64
  else if r = 0x300 then x.pmPending
  else if 0x400 ≤ r ∧ r < 0x420 then fields ((List.range 16).map fun j => (x.waggle (16 * ((r - 0x400) / 8) + j), 4, 4 * j))
  else if 0x500 ≤ r ∧ r < 0x520 then x.snap.pc.get (engOf ((r - 0x500) / 8)) % 2 ^ 22
  else 0

/-- The CORE block (Tables 5.6, 12.8, 12.10, 17.3): of a core that is not live, occupancies and lanes read 0 (R172). -/
def State.coreValue (s : State) (g r : Nat) : Nat :=
  let c := s.core g
  let live := s.isLive g
  let lane := fun t => c.lane t
  if r = 0 then (if live then fields (allEng.map fun e => ((c.q.get e).length, 7, 8 * engNum e)) else 0)
  else if r = 8 then c.tokstat % 16
  else if r = 0x10 then (if live then fields ((List.range 32).map fun t => (b2n (decide (0 < (lane t).count)), 1, t)) else 0)
  else if 0x40 ≤ r ∧ r < 0x60 then
    (if live then fields ((List.range 8).map fun j => ((lane (8 * ((r - 0x40) / 8) + j)).count, 6, 8 * j)) else 0)
  else if 0x80 ≤ r ∧ r < 0xA0 then
    (if live then fields ((List.range 8).map fun j => ((lane (8 * ((r - 0x80) / 8) + j)).status, 4, 8 * j)) else 0)
  else if 0x220 ≤ r ∧ r ≤ 0x230 then (s.reg (coreOff g + r)).toNat
  else if 0x300 ≤ r ∧ r < 0x340 then
    let e := engOf ((r - 0x300) / 16)
    if r % 16 = 0 then c.lastSat.get e else c.lastFlush.get e
  else if r = 0x340 then c.stepSat
  else if r = 0x348 then c.stepFlush
  else 0

/-- STATE of CH_STAT (Table 11.12). -/
def CtlState.code : CtlState → Nat
  | .run => 0 | .frozen => 1 | .reset => 2 | .fenced => 3 | .selfRefresh => 4 | .entering => 5

/-- CSQ_STAT (Table 9.11). -/
def State.csqStat (s : State) (n : Nat) : Nat :=
  let k := s.stack (n / 32)
  let m := if k.mult = 4 then 2 else if k.mult = 2 then 1 else 0
  fields [(m, 2, 0), (b2n s.cfg.refresh.fixedMode, 1, 2), ((BitVec.ofInt 8 k.temp).toNat, 8, 8), (k.act, 11, 16), ((s.ctl n).debtMax, 4, 32)]

/-- The FREEZE_* registers (Table 11.11); REMAIN is a time. -/
def State.freezeValue (s : State) (n r : Nat) : Nat :=
  let c := s.ctl n
  let f := c.frz
  if r = 0x100 then
    let on := c.st == .frozen
    fields [(b2n on, 1, 0), (b2n f.multi, 1, 1), (f.cause, 2, 2), (f.req, 16, 16),
      (if on then (Config.freeRemain s.freeCtr).toNat else 0, 16, 32)]
  else if r = 0x110 then f.dpa % 2 ^ 41
  else if r = 0x118 then f.cw.toNat % 2 ^ 64
  else if r = 0x120 then f.cw.toNat >>> 64
  else if r = 0x128 then f.synd % 2 ^ 15
  else if r = 0x130 then fields [(f.wq, 8, 0), (f.bq, 12, 8)]
  else if 0x180 ≤ r ∧ r < 0x200 then f.cmds.getD ((r - 0x180) / 8) 0
  else 0

/-- The DCH and DCF blocks (Tables 11.10, 12.7, 9.9). -/
def State.ctlValue (s : State) (n r : Nat) : Nat :=
  let c := s.ctl n
  if r = 0 then
    fields [(c.st.code, 3, 0), (b2n (fourDies.any s.panic), 1, 3), (c.pd, 3, 8), (c.writes.length, 8, 16)]
  else if r = 0x18 then s.cfg.timers.pd
  else if 0x100 ≤ r ∧ r < 0x200 then s.freezeValue n r
  else if 0x300 ≤ r ∧ r < 0x330 then
    fields ((List.range 16).map fun k => (AMap.get 0 c.debt (16 * ((r - 0x300) / 8) + k), 4, 4 * k))
  else if r = 0x658 then (if c.scrubPos = 0 ∧ s.reg (ctlOff n + 0x628) = 0 then 0 else scrubLine s.cfg n c.scrubPos)
  else if r = 0x708 ∧ n < 256 then s.csqStat n
  else (s.reg (ctlOff n + r)).toNat

/-- STATE of UNIT_STAT (Table 8.10). -/
def UnitState.code : UnitState → Nat
  | .service => 0 | .evacuating => 1 | .fenced => 2

/-- The COMB block (Table 8.7). -/
def State.combValue (s : State) (n r : Nat) : Nat :=
  let rings := [s.ring (3 * n), s.ring (3 * n + 1), s.ring (3 * n + 2)]
  if r = 0 then fields ((List.range 48).map fun u => (b2n ((s.cunit (48 * n + u)).st == .service), 1, u))
  else if r = 8 then
    (s.reg (combOff n + 8)).toNat ||| fields [(b2n (rings.any fun x => x.cur.isSome), 1, 6),
      (rings.foldl (fun a x => a + x.queue.length) 0, 16, 48)]
  else if r = 0x18 then (s.reg (combOff n + 0x18)).toNat
  else if 0x100 ≤ r ∧ r < 0x280 then
    let x := s.cunit (48 * n + (r - 0x100) / 8)
    let win := max 1 (bits (s.reg (combOff n + 0x18)).toNat 31 16)
    fields [(x.st.code, 2, 0), (x.cause, 8, 8), ((x.window.filter fun e => decide (s.hk.round < e + win)).length, 4, 16)]
  else 0

/-- The PEER block (Table 14.17). -/
def State.peerValue (s : State) (p r : Nat) : Nat :=
  let q := s.port p
  if r = 0 then fields [(q.st.code, 3, 0), (laneCount q.lanes, 3, 3), (q.lanes, 4, 8)]
  else if r = 8 then q.far
  else if 0x800 ≤ r ∧ r < 0x1100 then (s.reg (peerOff p + r)).toNat
  else if p = 0 ∧ 0x4000 ≤ r ∧ r < 0x4400 then
    let e := AMap.get .init s.swarm.peers ((r - 0x4000) / 16)
    if r % 16 = 0 then e.serial
    else if e.valid then fields [(1, 1, 0), (e.least, 3, 1), (e.mask.foldl (fun a i => a ||| (1 <<< i)) 0, 8, 8)] else 0
  else 0

/-- The memory is active: from S7 on, unless the link is degraded (R402). -/
def State.memActive (s : State) : Bool := s.atS7 && !s.host.degraded

/-- The HOSTPORT block (Table 14.16). -/
def State.hostValue (s : State) (r : Nat) : Nat :=
  let h := s.host
  if r = 0 then
    fields [(h.width, 5, 0), (h.rate, 3, 5), (b2n h.degraded, 1, 8), (b2n s.memActive, 1, 9), (b2n h.complLost, 1, 10)]
  else if r = 0x18 then fields [(h.eqProd, 16, 0), (b2n h.eqPhase, 1, 16)]
  else if r = 0x20 then h.pend.length + b2n h.merged.isSome
  else if 0x40 ≤ r ∧ r < 0x80 then (h.compl.getD ((r - 0x40) / 8) 0).toNat
  else (s.reg (hostOff + r)).toNat

/-- The MAP block (Tables 10.4, 10.5, 11.4). -/
def State.mapValue (s : State) (r : Nat) : Nat :=
  let c := s.cfg
  if r < 0xC0 then let g := regionAt c (r / 8); fields [(g.stack, 3, 0), (g.sid, 2, 3), (b2n g.comb, 1, 5), (g.hf, 8, 8)]
  else if r = 0xC0 then fields ((List.range 24).map fun i => (b2n (regionAt c i).comb, 1, i))
  else if r = 0xC8 then (c.regions.map fun g => if g.comb then 1024 * g.hf else 0).foldl (· + ·) 0
  else if r = 0xD0 then s.flt.taken.length
  else if 0x200 ≤ r ∧ r < 0x228 then c.cmask.getD ((r - 0x200) / 8) 0
  else if 0x228 ≤ r ∧ r < 0x250 then c.bmask.getD ((r - 0x228) / 8) 0
  else if 0x250 ≤ r ∧ r < 0x270 then c.fbmask.getD ((r - 0x250) / 8) 0
  else if r = 0x270 then c.frmask
  else 0

/-- The offsets that hold event counters (R484). -/
def isCounter (off : Nat) : Bool :=
  off % 8 == 0 && match blockAt off with
  | (.glb, r) => r == 0x610
  | (.hk, r) => r == 0x38 || r == 0x40
  | (.ledg, r) => r == 0x20 || r == 0x28
  | (.clu _, r) => r == 0x800 || r == 0x808
  | (.core _, r) => decide (0x200 ≤ r ∧ r ≤ 0x218)
  | (.ctl n, r) => decide (0x200 ≤ r ∧ r ≤ 0x248) || decide (0x600 ≤ r ∧ r ≤ 0x638) || (decide (n < 256) && decide (0x710 ≤ r ∧ r ≤ 0x738))
  | (.comb _, r) => r == 0x10 || decide (0x400 ≤ r ∧ r < 0xA00)
  | (.peer p, r) => decide (0x10 ≤ r ∧ r ≤ 0x48) || (p == 0 && r == 0x50)
  | (.host, r) => r == 0x28 || r == 0x30
  | (.d2d _, r) => r == 8 || r == 0x10
  | (.frame, r) => r == 8 || r == 0x10 || decide (0x100 ≤ r ∧ r < 0x160) || decide (0x200 ≤ r ∧ r < 0x260)
  | _ => false

/-- The 64 bits that an 8-byte read of BAR 0 returns; unassigned offsets read 0 (R13). -/
def State.regValue (s : State) (off : Nat) : Nat :=
  if isCounter off then s.counter off
  else match blockAt off with
  | (.glb, r) => s.glbValue r
  | (.hk, r) => s.hkValue r
  | (.sec, r) => s.secValue r
  | (.ledg, r) => s.ledgValue r
  | (.seq d, r) => s.seqValue d r
  | (.face d, r) => if 0x800 ≤ r then (s.reg (seqOff d + 0x8000 + r)).toNat else 0
  | (.clu _, r) => if 0x810 ≤ r ∧ r ≤ 0x820 then (s.reg off).toNat else 0
  | (.core g, r) => s.coreValue g r
  | (.ctl n, r) => s.ctlValue n r
  | (.comb n, r) => s.combValue n r
  | (.peer p, r) => s.peerValue p r
  | (.host, r) => s.hostValue r
  | (.d2d l, r) =>
    if r = 0 then fields [((s.link l).st, 2, 0), ((s.link l).modules, 4, 2)] else if 0x800 ≤ r then (s.reg off).toNat else 0
  | (.map, r) => s.mapValue r
  | (.frame, r) => if r = 0 then s.cfg.frameBase else (s.reg off).toNat
  | (.none, _) => 0

/-- The 64 bits that a read of BAR 4 returns (Table 14.3): HMB0 to HMB15 copy the mailboxes of the lowest sequencer not parked. -/
def State.bar4Value (s : State) (off : Nat) : Nat :=
  if off = 8 then s.host.eqCons
  else if 0x100 ≤ off ∧ off < 0x180 then
    match s.activeSeqs.head? with
    | some d => (AMap.get 0 (s.seq d).mb ((off - 0x100) / 8)).toNat
    | none => 0
  else if 0x7000 ≤ off ∧ off < 0x7100 then
    fields ((List.range 64).map fun i => (AMap.get 0 s.host.pba (8 * (off - 0x7000) + i), 1, i))
  else if 0x8000 ≤ off ∧ off < 0x10000 then (AMap.get 0 s.host.msix ((off - 0x8000) / 8)).toNat
  else 0

end Sys2Proof.Machine
end

