-- ==== Sys2Proof/Machine/HostPort.lean ====
section
/-! DEFINITION. The host port (chapter 14): configuration requests, HDM decoders (R405), CXL.mem requests (R406 to R408), the event queue
(R412), and reads and writes of registers (R10 to R13, R404, R484 to R486, R495 to R498, R503). -/

namespace Sys2Proof.Machine

/-! ## Configuration and decoders -/

/-- The value of a configuration register (R401, R403). -/
def State.cfgValue (s : State) (r : CfgReg) : Nat :=
  let h := s.cfg.hostId
  let c := s.host.cs
  match r with
  | .ids => fields [(h.vid, 16, 0), (h.did, 16, 16)]
  | .classRev => fields [(h.revid, 8, 0), (h.cls, 24, 8)]
  | .subsystem => fields [(h.ssvid, 16, 0), (h.ssid, 16, 16)]
  | .command => c.command
  | .bar0 => c.bar0 ||| 0x4
  | .bar2 => c.bar2 ||| 0xC
  | .bar4 => c.bar4 ||| 0x4
  | .pm => if c.d3 then 3 else 0
  | .msix => fields [(2047, 11, 0), (b2n c.msixMask, 1, 14), (b2n c.msixOn, 1, 15)]
  | .devControl => fields [(c.payload, 3, 5), (c.readReq, 3, 12)]
  | .serial => s.fuses.serial
  | .aerUnc => c.aerUnc
  | .aerCor => c.aerCor
  | .rasUnc => c.rasUnc
  | .rasCor => c.rasCor

/-- A write of a configuration register: BARs keep the bits above their sizes, a payload above 512 B or a read request above 4,096 B is
taken as the most supported (R401), the status bits of AER and RAS clear by a 1, and the rest is read-only. -/
def CfgSpace.write (c : CfgSpace) (r : CfgReg) (v : Nat) : CfgSpace :=
  match r with
  | .command => { c with command := v % 2 ^ 16 }
  | .bar0 => { c with bar0 := v / 2 ^ 26 * 2 ^ 26 % 2 ^ 64 }
  | .bar2 => { c with bar2 := v / 2 ^ 24 * 2 ^ 24 % 2 ^ 64 }
  | .bar4 => { c with bar4 := v / 2 ^ 16 * 2 ^ 16 % 2 ^ 64 }
  | .pm => { c with d3 := if v % 4 = 3 then true else if v % 4 = 0 then false else c.d3 }
  | .msix => { c with msixMask := bitOf v 14, msixOn := bitOf v 15 }
  | .devControl => { c with payload := min 2 (bits v 7 5), readReq := min 5 (bits v 14 12) }
  | .aerUnc => { c with aerUnc := c.aerUnc &&& (allBits ^^^ v % 2 ^ 64) }
  | .aerCor => { c with aerCor := c.aerCor &&& (allBits ^^^ v % 2 ^ 64) }
  | .rasUnc => { c with rasUnc := c.rasUnc &&& (allBits ^^^ v % 2 ^ 64) }
  | .rasCor => { c with rasCor := c.rasCor &&& (allBits ^^^ v % 2 ^ 64) }
  | .ids | .classRev | .subsystem | .serial => c

/-- A configuration request that is served: a read's answer, or a write, after which vectors that are on again are sent. -/
def State.cfgServe (s : State) (r : CfgReg) : Option Nat → State
  | none => s.tell (.cfgData (s.cfgValue r))
  | some v => ((s.onHost fun h => { h with cs := h.cs.write r v }).tell .cfgOk).sendPending

/-- CONFIG_REQUEST (R37): a read, or a write of a value; with retry status before S7, once the link has trained; with PERST# low nothing
answers. -/
def execConfigRequest (s : State) (r : CfgReg := .command) (value : Option Nat := none) : Out :=
  .next (if s.portUp then s.cfgServe r value
    else if s.pins.perst ∧ s.host.link ≠ .down ∧ (s.boot.st = .s4 ∨ s.boot.st = .s5 ∨ s.boot.st = .s6) then s.tell .cfgRetry
    else s)

def gib : Nat := 2 ^ 30

/-- The commit of a decoder keeps the limits of R405. -/
def State.hdmOk (s : State) (i size skip ways : Nat) : Bool :=
  let d0 := if s.host.hdm0.committed then s.host.hdm0.size else 0
  s.memActive && ways == 1 && size % 2 ^ 28 == 0
    && (if i = 0 then decide (size ≤ 768 * gib) && skip == 0
        else decide (size ≤ 512 * gib) && decide (d0 + skip = 1024 * gib))

/-- HDM_COMMIT (R402, R405): the decoder is committed, or Commit Error is set. -/
def execHdmCommit (i base size skip ways : Nat) (s : State) : Out :=
  .next (if s.hostUp ∧ i < 2 then
      s.serve (.hdmCommit i base size skip ways) fun s =>
        let h : Hdm := if s.hdmOk i size skip ways then { committed := true, err := false, base := base, size := size, skip := skip }
          else { (if i = 0 then s.host.hdm0 else s.host.hdm1) with committed := false, err := true }
        s.onHost fun p => if i = 0 then { p with hdm0 := h } else { p with hdm1 := h }
    else s)

/-- The DPA of a host address: decoder 0 maps DPAs from 0, decoder 1 those after its skip. -/
def HostPort.dpaOf (h : HostPort) (hpa : Nat) : Option Nat :=
  let hit := fun (d : Hdm) => d.committed && decide (d.base ≤ hpa ∧ hpa < d.base + d.size)
  if hpa % 64 ≠ 0 then none
  else if hit h.hdm0 then some (hpa - h.hdm0.base)
  else if hit h.hdm1 then some (hpa - h.hdm1.base + 1024 * gib)
  else none

/-! ## CXL.mem (R406 to R408) -/

/-- Serve a CXL.mem request for a line: no memory request is completed unless the memory is active; an address no decoder covers stops
the model. -/
def State.memServe (s : State) (i : Instr) (hpa : Nat) (f : Nat → State → State) : Out :=
  if s.hostUp && s.memActive then
    match s.host.dpaOf hpa with
    | none => .fault .noDecoder
    | some dpa => .next (s.serve i (f dpa))
  else .next s

def execMemRd (hpa : Nat) (s : State) : Out := s.memServe (.memRd hpa) hpa fun dpa s => s.hostMem (.read dpa) dpa
def execMemRdData (hpa : Nat) (s : State) : Out := s.memServe (.memRdData hpa) hpa fun dpa s => s.hostMem (.read dpa) dpa

/-- MEM_SPEC_RD is ignored; as a host-port request it wakes the module. -/
def execMemSpecRd (hpa : Nat) (s : State) : Out :=
  .next (if s.hostUp && s.memActive then s.serve (.memSpecRd hpa) id else s)

/-- MEM_WR: eight full-word writes, with P = 1 on every word when the request carries poison. -/
def execMemWr (hpa : Nat) (data : List Word) (poison : Bool) (s : State) : Out :=
  s.memServe (.memWr hpa data poison) hpa fun dpa s =>
    s.hostMem (.write dpa ((data.take 8).zipIdx.map fun p => { w := dpa / 8 + p.2, mask := fullMask, d := p.1, p := poison })) dpa

/-- MEM_WR_PTL: words with some byte enables set are written under them; others are untouched. -/
def execMemWrPtl (hpa : Nat) (data : List Word) (be : Nat) (poison : Bool) (s : State) : Out :=
  s.memServe (.memWrPtl hpa data be poison) hpa fun dpa s =>
    s.hostMem (.write dpa ((data.take 8).zipIdx.filterMap fun p =>
      let m := beMask (be >>> (8 * p.2) % 256)
      if m = 0 then none else some { w := dpa / 8 + p.2, mask := m, d := p.1, p := poison })) dpa

/-! ## The event queue (R412) -/

/-- log2 of the ring's entries: SIZE 6 to 16, other values act as 6. -/
def State.eqSize (s : State) : Nat :=
  let k := bits (s.reg (hostOff + 0x10)).toNat 4 1
  if 6 ≤ k ∧ k ≤ 16 then k else 6

/-- EQ_CTRL.EN. -/
def State.eqOn (s : State) : Bool := bitOf (s.reg (hostOff + 0x10)).toNat 0

/-- Vector 0 follows a group of entries (R412). -/
def State.endGroup (s : State) : State :=
  if s.host.eqGroup then (s.onHost fun h => { h with eqGroup := false }).sendMsix 0 else s

/-- Write EQ_CTRL: SIZE is ignored while EN = 1; EN going from 0 to 1 starts the ring again, and going to 0 ends a group of entries. -/
def State.eqCtrl (s : State) (v : Nat) : State :=
  let off := hostOff + 0x10
  if s.eqOn then
    let s := s.setReg off (BitVec.ofNat 64 ((s.reg off).toNat &&& 0x1E ||| v % 2))
    if bitOf v 0 then s else s.endGroup
  else
    let s := s.setReg off (BitVec.ofNat 64 (v % 32))
    if bitOf v 0 then s.onHost fun h => { h with eqProd := 0, eqPhase := true, eqCons := 0 } else s

def execEqEnable (size : Nat) (s : State) : Out :=
  .next (s.barServe (.eqEnable size) fun s => s.eqCtrl (1 ||| ((size % 16) <<< 1)))

/-- The words of an event entry (Table 14.7). -/
def Event.words (e : Event) (phase : Bool) : List Word :=
  ([fields [(e.ty, 16, 0), (e.count, 16, 16), (e.fid, 16, 32), (b2n phase, 1, 63)], e.d0, e.d1, e.us % 2 ^ 48]).map (BitVec.ofNat 64)

/-- The pending entry written next: those in the store in order, then the merged one. -/
def HostPort.nextEvent (h : HostPort) : Option (Event × HostPort) :=
  match h.pend with
  | e :: rest => some (e, { h with pend := rest })
  | [] => match h.merged with
    | some e => some (e, { h with merged := none })
    | none => none

/-- The ring has a free entry: advancing EQ_PROD would not make it equal to EQ_CONS. -/
def State.ringRoom (s : State) : Bool := (s.host.eqProd + 1) % 2 ^ s.eqSize != s.host.eqCons

/-- Another entry can be written at once: one waits and the ring has room. -/
def State.moreEvents (s : State) : Bool := s.host.nextEvent.isSome && s.ringRoom

/-- EVENT_WRITE (R412): an entry is written at EQ_PROD, which then advances; ledger 5 counts occurrences. Vector 0 follows the last entry
of the group, after which nothing more can be written. -/
def execEventWrite (s : State) : Out :=
  .next (if s.portUp && s.eqOn && s.ringRoom then
      match s.host.nextEvent with
      | none => s
      | some (e, h) =>
        let prod := s.host.eqProd
        let next := (prod + 1) % 2 ^ s.eqSize
        let addr := (s.reg (hostOff + 8)).toNat + 32 * prod
        let k := if e.ty = 0xFF then e.d0 else e.count
        let phase := s.host.eqPhase
        let s := { s with host := { h with eqProd := next, eqPhase := if next = 0 then !phase else phase, eqGroup := true } }
        let s := (s.ledgOut 5 k).post (.write addr (e.words phase))
        if s.moreEvents then s else s.endGroup
    else s)

/-! ## Expert control (R496) -/

/-- A write of EXP_UNLOCK: the lowest failing code of an open request, or the unlock opened or closed. -/
def State.expUnlock (s : State) (fid key : Nat) (close : Bool) : State :=
  let known := fid == 0 || validFid fid
  let r :=
    if !known then 2
    else if close then 1
    else if !bitOf s.cfg.allow (fid / 0x1000) then 3
    else if key ≠ 0xC0DE then 4
    else if s.fnDown fid || s.flt.resetting.contains fid then 5
    else 0
  let u := s.unlocked.filter (· != fid)
  { s with expResult := r, expLast := fid, unlocked := if r = 0 then u ++ [fid] else if r = 1 then u else s.unlocked }

def execExpOpen (fid key : Nat) (s : State) : Out :=
  .next (s.barServe (.expOpen fid key) fun s => s.expUnlock (fid % 0x10000) (key % 0x10000) false)
def execExpClose (fid : Nat) (s : State) : Out :=
  .next (s.barServe (.expClose fid) fun s => s.expUnlock (fid % 0x10000) 0 true)

/-! ## Register reads (R486) -/

/-- A 4-byte read of BAR 0: of a counter, the low half latches the high half, which offset + 4 returns; of any other register, the half. -/
def State.read4 (s : State) (off : Nat) : State :=
  let base := off / 8 * 8
  if isCounter base then
    if off = base then
      let v := s.counter base
      { s with cntLatch := AMap.set 0 s.cntLatch base (v / 2 ^ 32) }.tell (.regData off (v % 2 ^ 32))
    else s.tell (.regData off (AMap.get 0 s.cntLatch base))
  else s.tell (.regData off (s.regValue base / 2 ^ (8 * (off - base)) % 2 ^ 32))

/-- A read of a BAR (R404): BAR 0 and BAR 4 take naturally aligned 4 and 8 bytes, BAR 2 any size; anything else is an Unsupported
Request. An 8-byte read of a counter returns all of it and leaves its latch alone. -/
def State.barRead (s : State) (bar off size : Nat) : State :=
  if bar = 2 then s.bar2Read off size
  else if (bar ≠ 0 ∧ bar ≠ 4) ∨ (size ≠ 4 ∧ size ≠ 8) ∨ off % size ≠ 0 then s.refuse
  else if bar = 0 then
    (if 0x4000000 ≤ off then s.refuse else if size = 4 then s.read4 off else s.tell (.regData off (s.regValue off)))
  else if off < 0x10000 then s.tell (.barData 4 off (leBytes size (s.bar4Value (off / 8 * 8) / 2 ^ (8 * (off % 8)))))
  else s.refuse

/-- COUNTER_LOW_READ, and every other read of a BAR. -/
def execCounterLowRead (offset : Nat) (s : State) (bar : Nat := 0) (size : Nat := 4) : Out :=
  .next (s.barServe (.counterLowRead offset bar size) fun s => s.barRead bar offset size)

/-! ## Register writes -/

/-- The stored bits of a register after a write of v under the byte lanes of cover: RW and, with the unlock open, EXP bits take v; W1C bits
are cleared by a 1. -/
def mergeReg (d : RegDesc) (openE : Bool) (old v cover : Nat) : Nat :=
  let w := cover &&& (d.rw ||| (if openE then d.exp else 0))
  ((old &&& (allBits ^^^ w)) ||| (v &&& w)) &&& (allBits ^^^ (v &&& cover &&& d.w1c))

/-- A write that takes effect on stored bits (R10, R498). -/
def State.plainWrite (s : State) (off v cover : Nat) : State :=
  let d := regDesc off
  let openE := s.unlocked.contains (expOwner off)
  let s := if d.exp &&& cover ≠ 0 ∧ openE = false then s.bump 0x610 else s
  if d.rw ||| d.exp ||| d.w1c = 0 then s
  else
    let new := mergeReg d openE (s.reg off).toNat v cover
    let bad := off = hkOff + 0x18 ∧ smokerOk (bits new 10 0) (bits new 21 11) (bits new 32 22) (bits new 42 33) (bits new 49 43) = false
    if bad then s else s.setReg off (BitVec.ofNat 64 new)

/-- A write of a register with WO fields performs its action when it covers one of them; uncovered parts act as 0 (R503). -/
def State.woWrite (s : State) (off v : Nat) : State :=
  match blockAt off with
  | (.glb, 0x180) => if bitOf v 63 then s.resume else s
  | (.glb, 0x200) => s.frst (bits v 15 0) (bitOf v 16)
  | (.glb, 0x600) => s.expUnlock (bits v 15 0) (bits v 31 16) (bitOf v 32)
  | (.sec, _) => s.secCmd (bits v 3 0) (bits v 63 32)
  | (.ctl n, _) =>
    if bitOf v 0 && (s.ctl n).st == .frozen then { s with freeCtr := s.freeCtr + 1 }.resetCtl n (Config.freeBit s.freeCtr) else s
  | _ => s

/-- A write of the register at an 8-byte-aligned offset of BAR 0, under the bits the write covers. -/
def State.regWrite (s : State) (off v cover : Nat) : State :=
  if off = hostOff + 0x10 then
    (if cover &&& 0x1F = 0 then s else s.eqCtrl ((s.reg off).toNat &&& (allBits ^^^ cover) ||| (v &&& cover)))
  else if off = hostOff + 8 ∧ s.eqOn then s
  else
    let s := s.plainWrite off v cover
    if (regDesc off).wo &&& cover = 0 then s else s.woWrite off (v &&& cover)

/-- A write of BAR 4 (Table 14.3). A vector whose mask is cleared sends what is pending. -/
def State.bar4Write (s : State) (off v cover : Nat) : State :=
  if off = 0 then (if bitOf cover 0 && bitOf v 0 then s.doorbell else s)
  else if off = 8 then s.onHost fun h => { h with eqCons := (h.eqCons &&& (allBits ^^^ cover) ||| (v &&& cover)) % 2 ^ 16 }
  else if 0x8000 ≤ off ∧ off < 0x10000 then
    let i := (off - 0x8000) / 8
    let old := (AMap.get 0 s.host.msix i).toNat
    let s := s.onHost fun h => { h with msix := AMap.set 0 h.msix i (BitVec.ofNat 64 (old &&& (allBits ^^^ cover) ||| (v &&& cover))) }
    s.sendPending
  else s

/-- A write of a BAR (R404): BAR 0 and BAR 4 take naturally aligned 4 and 8 bytes, BAR 2 any size; anything else is an Unsupported
Request. -/
def State.barWrite (s : State) (bar off size value : Nat) : State :=
  let base := off / 8 * 8
  let sh := 8 * (off - base)
  let cover := (2 ^ (8 * size) - 1) <<< sh
  let v := (value % 2 ^ (8 * size)) <<< sh
  if bar = 2 then s.bar2Write off (leBytes size value)
  else if (bar ≠ 0 ∧ bar ≠ 4) ∨ (size ≠ 4 ∧ size ≠ 8) ∨ off % size ≠ 0 then s.refuse
  else if bar = 0 then (if off < 0x4000000 then s.regWrite base v cover else s.refuse)
  else if off < 0x10000 then s.bar4Write base v cover
  else s.refuse

/-- REGISTER_WRITE. -/
def execRegisterWrite (bar offset size value : Nat) (s : State) : Out :=
  .next (s.barServe (.registerWrite bar offset size value) fun s => s.barWrite bar offset size value)

end Sys2Proof.Machine
end

