-- ==== Sys2Proof/Machine/Dormant.lean ====
section
/-! DEFINITION. The dormant state (R461 to R465) and the gating of a cluster's clocks (R448). -/

namespace Sys2Proof.Machine

/-! ## Clock gating -/

/-- A core has work: an instruction in a queue, or a write whose marker has not arrived. -/
def State.coreBusy (s : State) (g : Nat) : Bool :=
  [Eng.me, .ve, .fe, .xe].any fun e => ((s.core g).q.get e) != [] || s.writesHeld ((engNum e + 1) * 0x1000 + g)

/-- CLUSTER_CLOCK_GATE (R448): the engine clocks of a cluster without work stop. -/
def execClusterClockGate (c : Nat) (s : State) : Out :=
  .next (if s.atS7 && !((clusterCores c).any s.coreBusy) then s.setCluster c { s.cluster c with gated := true } else s)

/-! ## Entry -/

/-- All controllers, DCH then DCF. -/
def allCtls : List Nat := List.range 272

/-- R461, but for what has held over time: the host link is in L1 and nothing is in progress or waiting. -/
def State.mayRest (s : State) : Bool :=
  s.atS7 && s.dorm.st == .active && s.host.link == .l1
    && (fourDies.all fun d => match (s.seq d).st with | .idle | .halted | .parked => true | _ => false)
    && s.flt.pend == [] && s.flt.rehyd == [] && s.flt.resetting == [] && s.flt.busy == none && s.flt.held == none
    && (s.rings.all fun r => r.2.queue == [] && r.2.cur == none)
    && (s.ctls.all fun c => c.2.st != .frozen && c.2.st != .reset)
    && (s.ctls.all fun c => c.2.sr == 0) && s.homeOut.all (fun h => h.2 == []) && s.heldWrites == []
    && (s.dies.all fun d => d.2.inbox == [] && d.2.dups == [])
    && s.nor.busy == none && s.host.pend == [] && s.host.merged == none

/-- Every die cache writes its dirty lines back (R313). -/
def State.writeBackAll (s : State) : State :=
  overList fourDies (fun d s => ((s.die d).lines.map (·.1)).foldl (fun (s : State) la => s.writeBack d la) s) s

/-- DORMANT_ENTRY (Table 15.8): core PLLs and scrubbing stop, the die caches write back, and controllers begin self-refresh entry. -/
def execDormantEntry (s : State) : Out :=
  .next (if s.mayRest then
      let s := { s with dorm := { s.dorm with st := .entering, scrubStopped := true }, pins := { s.pins with corePll := 0 } }.writeBackAll
      overList allCtls (fun n s => let c := s.ctl n
        if c.st = .run then s.setCtl n { c with st := .entering, sr := 0 } else s) s
    else s)

/-- Every controller in service has reported entry. -/
def State.allAsleep (s : State) : Bool :=
  allCtls.all fun n => match (s.ctl n).st with | .selfRefresh | .fenced => true | _ => false

/-- DORMANT_ENTERED: the base-die clocks stop; die caches and frame translation caches do not outlast it (R313, R465). What has become dirty
since the entry began is written back first, and so ends the entry (R343). -/
def execDormantEntered (s : State) : Out :=
  .next (if s.dorm.st = .entering ∧ s.allAsleep then
      if s.dies.any fun d => d.2.lines.any fun l => l.2.dirty then s.writeBackAll
      else (overList fourDies (fun d s => s.setDie d { s.die d with lines := [], ftc := [] })
        (s.onDorm fun m => { m with st := .dormant })).bump (hkOff + 0x38)
    else s)

/-! ## Wake -/

/-- WAKING_EVENT (R463): it cancels an entry in progress, starts wake, or joins the wake in progress. -/
def execWakingEvent (s : State) : Out := .next s.wakeEvent

/-- A request held through wake is served (R463). -/
def State.serveHeld (i : Instr) (s : State) : Out :=
  match i with
  | .release n ok => execRelease n ok s
  | .hdmCommit i base size skip ways => execHdmCommit i base size skip ways s
  | .memRd hpa => execMemRd hpa s
  | .memRdData hpa => execMemRdData hpa s
  | .memSpecRd hpa => execMemSpecRd hpa s
  | .memWr hpa ws p => execMemWr hpa ws p s
  | .memWrPtl hpa ws be p => execMemWrPtl hpa ws be p s
  | .programMemoryWrite off bs => execProgramMemoryWrite off bs s
  | .launchDb v => execLaunchDb v s
  | .resume => execResume s
  | .frstReset f => execFrstReset f s
  | .frstFence f => execFrstFence f s
  | .expOpen f k => execExpOpen f k s
  | .expClose f => execExpClose f s
  | .svCommit n => execSvCommit n s
  | .ownerEnrol n => execOwnerEnrol n s
  | .eqEnable n => execEqEnable n s
  | .counterLowRead off bar size => execCounterLowRead off s bar size
  | .registerWrite bar off size v => execRegisterWrite bar off size v s
  | .req p h b => execReq p h b s
  | .rsp p h b => execRsp p h b s
  | .data p h b => execData p h b s
  | _ => .next s

/-- Serve held requests in order; one that stops the model stops it. -/
def serveAll : List Instr → State → Out
  | [], s => .next s
  | i :: rest, s => match s.serveHeld i with
    | .next s => serveAll rest s
    | o => o

/-- The PLLs that did not lock within their phase: 0 to 3 are core PLLs, 4 to 7 base-die PLLs (R464, Table 13.2). -/
def State.pllFault (s : State) (k : Nat) : State :=
  if k < 4 then
    if bitOf s.pins.corePll k then
      (s.onPins fun p => { p with corePll := p.corePll &&& (15 ^^^ (1 <<< k)) }).fault 3 (0x3000 + k) 0
    else s
  else if k < 8 ∧ s.isFenced (0x9000 + (k - 4)) = false then s.fault 10 (0x9000 + (k - 4)) 0
  else s

/-- WAKE_COMPLETE (R464): clocks run, controllers leave self-refresh, PLLs that failed are faults, and held requests are served. -/
def execWakeComplete (failedPll : List Nat) (s : State) : Out :=
  if s.dorm.st = .waking then
    let held := s.dorm.held
    let (us, s) := s.freshTime 16
    let s := { s with dorm := { st := .active, lastWake := us, held := [], scrubStopped := false },
                      ctls := AMap.mapVals .init Ctl.exitSr s.ctls, pins := { s.pins with corePll := s.pllMask } }
    serveAll held (failedPll.eraseDups.foldl (fun s k => s.pllFault k) s)
  else .next s

end Sys2Proof.Machine
end

