-- ==== Sys2Proof/Machine/Blocking.lean ====
section
/-! DEFINITION. The blocking stage (R224, R225): EXP2, LOG2, RCP and RSQRT on FP32 patterns. Where Table 7.4 gives an exact or special
result it is that; elsewhere it is the free value of Config for the input where that meets the table's bound, and the least value that
meets it otherwise. Bounds on irrational values are enclosed outwards, to far below one unit in the last place. -/

namespace Sys2Proof.Machine

/-- A finite FP32 pattern as a signed number in the order of the values. -/
def key32 (b : Nat) : Int := if b.testBit 31 then -Int.ofNat (b % 2 ^ 31) else Int.ofNat (b % 2 ^ 31)
/-- The pattern of a signed number. -/
def unkey32 (k : Int) : Nat := if k < 0 then 2 ^ 31 + k.natAbs else k.toNat

/-- The greatest finite FP32 pattern not above n · 2^q. -/
def floor32 (n : Nat) (q : Int) : Nat :=
  if n = 0 then 0
  else
    let t := topExp n q
    if t > 127 then 0x7F7FFFFF
    else if t < -149 then 0
    else
      let qq := max (t - 23) (-149)
      let fr := if qq ≤ q then n <<< (q - qq).toNat else n >>> (qq - q).toNat
      if t < -126 then fr else ((t + 127).toNat <<< 23) ||| (fr % 2 ^ 23)

/-- Whether a pattern's value is n · 2^q. -/
def isExact32 (b n : Nat) (q : Int) : Bool :=
  match fp32.value b with
  | .fin _ m e => let (z, _) := sumFin false m e true n q; z == 0
  | .zero _ => n == 0
  | _ => false

/-- The least FP32 pattern not below n · 2^q. -/
def ceil32 (n : Nat) (q : Int) : Nat := let b := floor32 n q; if isExact32 b n q then b else b + 1

/-- The greatest signed number whose value is not above z · 2^q. -/
def keyFloor (z q : Int) : Int := if z < 0 then -Int.ofNat (ceil32 z.natAbs q) else Int.ofNat (floor32 z.natAbs q)
/-- The least whose value is not below it. -/
def keyCeil (z q : Int) : Int := -keyFloor (-z) q

/-- The free value where its order lies within bounds, else the lower bound. -/
def within32 (raw : Nat) (lo hi : Int) : Nat := if lo ≤ key32 raw ∧ key32 raw ≤ hi then raw else unkey32 lo

/-- 2^(f / 2^60) · 2^128 for f below 2^60, from below, or from above. -/
def pow2Frac (up : Bool) (f : Nat) : Nat :=
  let u := b2n up
  ((List.range 60).foldl (fun (acc : Nat × Nat) i =>
    let r := Nat.sqrt (acc.1 <<< 128) + u
    (r, if f.testBit (59 - i) then ((acc.2 * r) >>> 128) + u else acc.2)) (2 ^ 129, 2 ^ 128)).2

/-- EXP2 of an ordinary input n·m·2^e with −150 < x < 128, not an integer. -/
def exp2Ord (raw : Nat) (neg : Bool) (m : Nat) (e : Int) : Nat :=
  let z : Int := if neg then -Int.ofNat m else Int.ofNat m
  let x := if -60 ≤ e then z * 2 ^ (e + 60).toNat else z / 2 ^ (-60 - e).toNat
  let at' := fun (up : Bool) (y : Int) => (pow2Frac up (y % 2 ^ 60).toNat, y / 2 ^ 60 - 128)
  let (l, ql) := at' false x
  let (h, qh) := at' true (x + 1)
  if x / 2 ^ 60 ≥ -126 then
    within32 raw (keyCeil (l * (2 ^ 22 - 1)) (ql - 22)) (keyFloor (h * (2 ^ 22 + 1)) (qh - 22))
  else
    let one := 2 ^ 149
    let lo := Int.ofNat (l * one) / 2 ^ (-ql).toNat
    let hi := Int.ofNat (h * one) / 2 ^ (-qh).toNat + 1
    within32 raw lo hi

/-- EXP2. -/
def exp2f (b : Nat) : Nat :=
  match fp32.value b with
  | .nan => fp32.nanBits
  | .inf n => if n then 0 else fp32.infBits false
  | .zero _ => 0x3F800000
  | .fin n m e =>
    let t := topExp m e
    if t ≥ 8 then (if n then 0 else fp32.infBits false)
    else
      let k := roundAt m e 0
      let integer := decide (0 ≤ e) || m % 2 ^ (-e).toNat == 0
      if !n && decide (k ≥ 128) && (integer || decide (topExp m e ≥ 7)) then fp32.infBits false
      else if n && (FV.cmp (.fin false m e) (.fin false 150 0)) != some .lt then 0
      else if integer then fp32.ieee false 1 (if n then -Int.ofNat k else Int.ofNat k)
      else exp2Ord (Config.exp2Raw (BitVec.ofNat 32 b)).toNat n m e

/-- log2 of y / 2^128 with 1 ≤ y / 2^128 < 2, times 2^60, from below, or from above. -/
def log2Frac (up : Bool) (y : Nat) : Nat :=
  ((List.range 60).foldl (fun (acc : Nat × Nat) _ =>
    let s := ((acc.2 * acc.2) >>> 128) + b2n up
    if s ≥ 2 ^ 129 then (2 * acc.1 + 1, s / 2 + b2n up) else (2 * acc.1, s)) (0, y)).1 + b2n up

/-- LOG2. -/
def log2f (b : Nat) : Nat :=
  match fp32.value b with
  | .nan => fp32.nanBits
  | .inf n => if n then fp32.nanBits else fp32.infBits false
  | .zero _ => fp32.infBits true
  | .fin true _ _ => fp32.nanBits
  | .fin false m e =>
    let t := topExp m e
    if m = 2 ^ Nat.log2 m then fp32.ofValue (ofDyadic t 0)
    else
      let y := m <<< (128 - Nat.log2 m)
      let lo := t * 2 ^ 60 + Int.ofNat (log2Frac false y)
      let hi := t * 2 ^ 60 + Int.ofNat (log2Frac true y)
      let raw := (Config.log2Raw (BitVec.ofNat 32 b)).toNat
      if -4 ≤ t ∧ t < 4 then within32 raw (keyCeil (lo - 2 ^ 38) (-60)) (keyFloor (hi + 2 ^ 38) (-60))
      else within32 raw (keyFloor lo (-60)) (keyFloor hi (-60) + 1)

/-- RCP. -/
def rcpf (b : Nat) : Nat :=
  match fp32.value b with
  | .nan => fp32.nanBits
  | .inf n => fp32.zeroBits n
  | .zero n => fp32.infBits n
  | .fin n m e =>
    let sgn := b2n n <<< 31
    if m = 2 ^ Nat.log2 m then sgn ||| fp32.ieee false 1 (-topExp m e)
    else
      let q := 2 ^ 256 / m
      if topExp q (-256 - e) ≥ 128 then sgn ||| fp32.infBits false
      else
        let f := floor32 q (-256 - e)
        sgn ||| within32 ((Config.rcpRaw (BitVec.ofNat 32 b)).toNat % 2 ^ 31) (Int.ofNat f) (Int.ofNat f + 1)

/-- RSQRT. -/
def rsqrtf (b : Nat) : Nat :=
  match fp32.value b with
  | .nan => fp32.nanBits
  | .inf n => if n then fp32.nanBits else 0
  | .zero n => fp32.infBits n
  | .fin true _ _ => fp32.nanBits
  | .fin false m e =>
    let t := topExp m e
    if m = 2 ^ Nat.log2 m ∧ t % 2 = 0 then fp32.ieee false 1 (-(t / 2))
    else
      let (m, e) := if e % 2 = 0 then (m, e) else (2 * m, e - 1)
      let f := floor32 (Nat.sqrt (2 ^ 512 / m)) (-256 - e / 2)
      within32 (Config.rsqrtRaw (BitVec.ofNat 32 b)).toNat (Int.ofNat f) (Int.ofNat f + 1)

/-- A blocking function by its FN code. -/
def blocking (fn b : Nat) : Nat :=
  if fn = 0x20 then exp2f b else if fn = 0x21 then log2f b else if fn = 0x22 then rcpf b else rsqrtf b

end Sys2Proof.Machine
end

