-- ==== Sys2Proof/Machine/Vector.lean ====
section
/-! DEFINITION. The VE (chapter 7): the carding chain with its stages and exit reductions (R216 to R228), RED and the mailbox reductions
(R229 to R231, R146), SOFTMAX (R232 to R235) and MASKGEN (R147). -/

namespace Sys2Proof.Machine

/-! ## Lanes and stages -/

/-- A lane: whether its class is float, the FP32 or INT32 pattern, the predicate, and the events so far (R217). -/
structure Lane' where
  fl : Bool
  x : Nat
  pred : Bool
  ev : Ev
  deriving DecidableEq, Repr

/-- Formats that may enter the chain (R217). -/
def enters (f : Nat) : Bool := f ≤ 9 || f == 11

/-- The FP32 or INT32 pattern an element enters with. -/
def entryOf (f v : Nat) : Nat :=
  if f = 7 then v else if fmtFloat f then (convert false f 7 v).1 else wrapBits 32 (intValue f v)

/-- NEG and ABS on x (R219, R177). -/
def preNeg (g : Stage) (x : Nat) : Nat :=
  if g.neg || g.abs then
    let v := fp32.value x
    let v := if g.abs then v.abs else v
    fp32.ofValue (if g.neg then v.neg else v)
  else x

/-- A comparison (Table 4.13, R196). -/
def compare32 (sub a b : Nat) : Bool :=
  match (fp32.value a).cmp (fp32.value b) with
  | none => sub == 3
  | some o => match sub with
    | 0 => o == .eq
    | 1 => o == .lt
    | 2 => o != .gt
    | _ => false

/-- An integer result brought to INT32, noting SAT. -/
def sat32 (z : Int) : Nat × Ev := intClamp 8 z

/-- Rotate-free shifts of 32-bit lanes (R220). -/
def shr32 (arith : Bool) (x k : Nat) : Nat := if arith then wrapBits 32 (sext 32 x / 2 ^ k) else x >>> k

/-- One stage on a lane; hb is the element of HB as the chain reads it (R219, R220). -/
def stageStep (g : Stage) (hb : Nat) (l : Lane') : Lane' :=
  let b := if g.src = 1 then hb else g.imm
  let x := if l.fl then preNeg g l.x else l.x
  let flt := fun v => { l with x := v }
  let int := fun (r : Nat × Ev) => { l with x := r.1, ev := l.ev.or r.2 }
  match g.fn with
  | 0x01 => flt (add32 x b)
  | 0x02 => flt (fp32.ofValue ((fp32.value x).add (fp32.value b).neg))
  | 0x03 => flt (mul32 x b)
  | 0x04 => flt (fma32 x b (if g.src = 1 then g.imm else hb))
  | 0x05 => { l with x := x, pred := compare32 g.sub x b }
  | 0x06 => flt (if l.pred then x else b)
  | 0x07 => flt (minMax32 false x b)
  | 0x08 => flt (minMax32 true x b)
  | 0x10 => flt ((x <<< (b % 32)) % 2 ^ 32)
  | 0x11 => flt (shr32 (g.sub == 1) x (b % 32))
  | 0x12 => flt (x &&& b)
  | 0x13 => flt (x ||| b)
  | 0x14 => flt (x ^^^ b)
  | 0x15 => flt (2 ^ 32 - 1 - x)
  | 0x16 => int (sat32 (sext 32 x + sext 32 b))
  | 0x17 => int (sat32 (sext 32 x - sext 32 b))
  | 0x18 => int (sat32 (sext 32 x * sext 32 b))
  | 0x19 => flt (wrapBits 32 (max (clampLo g.imm) (min (clampHi g.imm) (sext 32 x))))
  | 0x30 =>
    let t := g.imm % 16
    let (v, e) := convert false (if l.fl then 7 else 8) t x
    { l with fl := fmtFloat t, x := entryOf t v, ev := l.ev.or e }
  | fn => flt (blocking fn x)

/-- The chain on an element. -/
def chainStep (gs : List Stage) (hb : Nat) (l : Lane') : Lane' := gs.foldl (fun l g => stageStep g hb l) l

/-- A stage reads the element of HB. -/
def Stage.readsHb (g : Stage) : Bool := g.src == 1 || g.fn == 0x04

/-- The class along the chain from HA's, with HB's class where a stage reads it (R217, R140); the class at the end where all agree. -/
def chainClass (hbFloat : Bool) : Bool → List Stage → Option Bool
  | cur, [] => some cur
  | cur, g :: gs =>
    if g.fn = 0x30 then chainClass hbFloat (4 ≤ g.imm && g.imm ≤ 7) gs
    else if fnFloat g.fn == cur && (!g.readsHb || hbFloat == cur) then chainClass hbFloat cur gs
    else none

/-- The output format (R218). -/
def chainOut (fl : Bool) (gs : List Stage) : Nat :=
  match gs.getLast? with
  | some g => if g.fn = 0x30 then g.imm % 16 else if fl then 7 else 8
  | none => if fl then 7 else 8

/-- Delivery of a lane value in the output format: exact. -/
def deliverAs (out x : Nat) : Nat := if out = 7 ∨ out = 8 then x else (convert false (if fmtFloat out then 7 else 8) out x).1

/-! ## Reductions (R226 to R228) -/

/-- An element of a set: its index, pattern, and final predicate. -/
structure RedEl where
  i : Nat
  x : Nat
  pred : Bool
  deriving DecidableEq, Repr

/-- What a reduction gives: value, EMPTY, saturation, and for ARGMAX and ARGMIN the extreme pattern. -/
structure RedOut where
  v : Nat
  empty : Bool
  sat : Bool
  ext : Nat
  deriving DecidableEq, Repr

/-- The greater or lesser of two INT32 patterns. -/
def minMaxInt (mx : Bool) (a b : Nat) : Nat := if (sext 32 a < sext 32 b) == mx then b else a

/-- A pattern that is no NaN in the order of R196, −0 below +0. -/
def orderKey (b : Nat) : Int := if b.testBit 31 then -1 - Int.ofNat (b % 2 ^ 31) else Int.ofNat (b % 2 ^ 31)

/-- a comes before b as an extreme: strictly greater (mx) or less (R227). -/
def beats (fl mx : Bool) (a b : Nat) : Bool :=
  let x := if fl then orderKey a else sext 32 a
  let y := if fl then orderKey b else sext 32 b
  if mx then decide (y < x) else decide (x < y)

/-- A NaN pattern. -/
def isNan32 (b : Nat) : Bool := fp32.value b == .nan

/-- Table 7.5. -/
def emptyValue (op : Nat) (fl : Bool) : Nat :=
  match op with
  | 0 => 0
  | 1 => if fl then 0xFF800000 else 0x80000000
  | 2 => if fl then 0x7F800000 else 0x7FFFFFFF
  | 3 | 4 => 0xFFFFFFFF
  | _ => 0

/-- MAX or MIN of a nonempty list of patterns. -/
def foldExt (fl mx : Bool) : List Nat → Nat
  | [] => 0
  | x :: xs =>
    let r := xs.foldl (fun a b => if fl then minMax32 mx a b else minMaxInt mx a b) x
    if fl && isNan32 r then fp32.nanBits else r

/-- The first extreme of elements, NaNs ignored. -/
def argExt (fl mx : Bool) (es : List RedEl) : Option RedEl :=
  (es.filter fun e => !(fl && isNan32 e.x)).foldl (fun b e => match b with
    | none => some e
    | some y => if beats fl mx e.x y.x then some e else b) none

/-- A value is not a zero; a NaN is not zero. -/
def notZero (fl : Bool) (x : Nat) : Bool := if fl then x % 2 ^ 31 != 0 else x != 0

/-- Reduce a set by op (0 SUM, 1 MAX, 2 MIN, 3 ARGMAX, 4 ARGMIN, 5 COUNT); cmp tells that the chain contains a CMP. -/
def reduceSet (op : Nat) (fl cmp : Bool) (es : List RedEl) : RedOut :=
  if es.isEmpty then ⟨emptyValue op fl, true, false, 0⟩
  else
    match op with
    | 0 =>
      if fl then ⟨es.foldl (fun a e => add32 a e.x) 0, false, false, 0⟩
      else
        let (z, s) := es.foldl (fun (a : Int × Bool) e => let (z, s) := satAdd32 a.1 (sext 32 e.x); (z, a.2 || s)) (0, false)
        ⟨wrapBits 32 z, false, s, 0⟩
    | 1 => ⟨foldExt fl true (es.map (·.x)), false, false, 0⟩
    | 2 => ⟨foldExt fl false (es.map (·.x)), false, false, 0⟩
    | 3 => match argExt fl true es with | some e => ⟨e.i, false, false, e.x⟩ | none => ⟨0xFFFFFFFF, true, false, 0⟩
    | 4 => match argExt fl false es with | some e => ⟨e.i, false, false, e.x⟩ | none => ⟨0xFFFFFFFF, true, false, 0⟩
    | _ => ⟨(es.filter fun e => if cmp then e.pred else notZero fl e.x).length, false, false, 0⟩

/-- The format a reduction delivers (R226). -/
def redFmt (op : Nat) (fl : Bool) : Nat := if op ≥ 3 then 8 else if fl then 7 else 8

/-! ## CARD -/

/-- Overlap of a destination with a source is allowed only where both describe the same elements, through the same index descriptor if
they are indexed (R221). -/
def overlapOk (d a : Opnd) (its : List (List Nat)) : Bool :=
  its.all fun js =>
    (d.d.space == a.d.space && d.d.fmt == a.d.fmt && d.d.rank == a.d.rank && d.d.used == a.d.used && d.d.usedStr == a.d.usedStr
      && d.d.baseAt js == a.d.baseAt js && d.idx == a.idx)
    || !spansMeet d.d a.d [js]

/-- The execution check of a CARD with its stages. -/
def cardOk (exit : Nat) (gs : List Stage) (its : List (List Nat)) (d a : Opnd) (b : Option Opnd) : Bool :=
  let hbFloat := match b with | some y => fmtFloat y.d.fmt | none => false
  let r := if exit = 0 then none else some 0
  a.ok false r its && d.ok true none its && enters a.d.fmt
  && (match b with
      | some y => y.ok false r its && enters y.d.fmt && y.d.rank == a.d.rank && y.shape == a.shape && overlapOk d y its
      | none => true)
  && classWalk (some (fmtFloat a.d.fmt)) 0 gs
  && (match chainClass hbFloat (fmtFloat a.d.fmt) gs with
      | some fl => d.d.fmt == (if exit = 0 then chainOut fl gs else redFmt (exit - 1) fl)
      | none => false)
  && d.d.rank == a.d.rank && d.shape == (if exit = 0 then a.shape else 1 :: a.shape.tail)
  && overlapOk d a its

/-- The lane groups of n elements (R375). -/
def groupsOf (n : Nat) : Nat := (n + 63) / 64

/-- Of n elements, those in the first left groups. -/
def inGroups (left : Option Nat) (n : Nat) : Nat := match left with | some l => min n (64 * l) | none => n

/-- Run elements of HA, with those of HB beside them, through the chain: absent where either is masked. -/
def chainRun (gs : List Stage) (fa fb : Nat) (as bs : List SrcEl) : List (Option Lane' × Bool) :=
  (as.zip bs).map fun p =>
    (if p.1.keep && p.2.keep then
      some (chainStep gs (entryOf fb p.2.v) { fl := fmtFloat fa, x := entryOf fa p.1.v, pred := true, ev := .none })
     else none, p.1.p || p.2.p)

/-- The earlier of two stops of sources read side by side. -/
def firstStop (as bs : List SrcEl) (x y : Option Nat) : Option Nat :=
  match x, y with
  | some k, some j => if bs.length < as.length then some j else some k
  | some k, none => some k
  | none, y => y

/-- One iteration of a CARD, delivering what comes of the first left lane groups (R375). -/
def cardIter (c : Ctx) (exit : Nat) (gs : List Stage) (left : Option Nat) (d a : Opnd) (b : Option Opnd) (js : List Nat) : M Res := do
  let (as, sa) ← readSource c a js
  let (bs, sb) ← match b with
    | some y => readSource c y js
    | none => pure (as.map fun e => { e with v := 0, p := false, keep := true }, none)
  let fb := match b with | some y => y.d.fmt | none => 8
  let ls := chainRun gs a.d.fmt fb as bs
  let (ds, sd) ← readDest c d js
  let fl := (chainClass (fmtFloat fb) (fmtFloat a.d.fmt) gs).getD true
  let ls := ls.take (inGroups left ls.length)
  if exit = 0 then
    let out := d.d.fmt
    let vs := ls.map fun l => match l.1 with | some x => (Val.mk (deliverAs out x.x) l.2 true, x.ev) | none => (⟨0, l.2, false⟩, Ev.none)
    let st ← storeVals c d ds (vs.map (·.1))
    finish (firstStop as bs sa sb)
    finish sd
    pure (((ds.zip vs).filter fun x => x.1.keep && x.1.a.isSome && x.2.1.keep).foldl (fun r x => r.count x.2.2) Res.nothing |>.flag st)
  else
    let n := a.shape.headD 0
    let sets := if n = 0 then List.replicate d.count [] else (chunksOf n ls).filter fun x => x.length == n
    let cmp := gs.any fun g => g.fn == 0x05
    let rs := sets.map fun s =>
      let r := reduceSet (exit - 1) fl cmp (s.zipIdx.filterMap fun p => p.1.1.map fun l => { i := p.2, x := l.x, pred := l.pred })
      let ev := s.foldl (fun (e : Ev) l => match l.1 with | some l => e.or l.ev | none => e) ⟨r.sat, false⟩
      (r, ev, s.any (·.2))
    let st ← storeVals c d ds (rs.map fun r => ⟨r.1.v, r.2.2, true⟩)
    finish (firstStop as bs sa sb)
    finish sd
    let res := ((ds.zip rs).filter fun x => x.1.keep && x.1.a.isSome).foldl (fun r x => r.count x.2.2.1) Res.nothing
    pure ((res.flag st).flag (statusIf (rs.any fun r => r.1.empty) stEMPTY))

/-- Add what an iteration reports. -/
def Res.plus (r q : Res) : Res := ⟨r.status ||| q.status, r.sat + q.sat, r.flush + q.flush, false⟩

/-- CARD (R216). Where an exit reduction has not all elements of a set, the set is not delivered. -/
def opCard (chk : ArithCheck) (c : Ctx) : M Res :=
  withOpnds c ([c.h.hd, c.h.ha] ++ (if c.h.hb = 0 then [] else [c.h.hb])) fun os => do
    match os with
    | d :: a :: bs =>
      let exit := bits c.h.md 6 4
      let gs := c.ext.map stageOf
      let b := bs.head?
      execCheck (cardOk exit gs c.its d a b) [d.d]
      let mut left ← arithEvents c 0x218 chk
      let mut r := Res.nothing
      for js in c.its do
        r := r.plus (← cardIter c exit gs left d a b js)
        left ← passUnits left (groupsOf a.count)
      passEnd left
      pure r
    | _ => pure .nothing

/-! ## RED -/

/-- The execution check of a RED. -/
def redOk (op : Nat) (its : List (List Nat)) (a : Opnd) (d : Option Opnd) : Bool :=
  a.ok false none its && enters a.d.fmt && (a.d.space == spCS || a.d.space == spBT)
  && (match d with
      | some y => y.ok true none its && y.d.rank == 1 && y.shape == [1]
          && y.d.fmt == redFmt op (fmtFloat a.d.fmt)
      | none => true)

/-- The elements of a RED in linear order, and whether any is poisoned. -/
def redRead (c : Ctx) (a : Opnd) (js : List Nat) : M (List RedEl × Bool) := do
  let (es, stop) ← readSource c a js
  finish stop
  pure ((es.zipIdx.filter fun p => p.1.keep).map fun p => { i := p.2, x := entryOf a.d.fmt p.1.v, pred := true }, es.any (·.p))

/-- The contribution of a core's local result (R230, R146). -/
def contribOf (c : Ctx) (s : State) (op : Nat) (fl : Bool) (a : Opnd) (o : RedOut) : Contrib :=
  { core := c.g, qid := c.qid, mb := bits c.h.md 7 4, tile := c.ax s (bits c.h.md 12 8), op := op, isFloat := fl,
    included := a.count != 0, empty := o.empty, value := o.v, ext := o.ext, sat := o.sat }

/-- The reduction accepts a contribution. -/
def State.addContrib (s : State) (k : Contrib) : State := { s with prog := { s.prog with contribs := s.prog.contribs ++ [k] } }

/-- What a mailbox RED of a poisoned handle contributes: nothing that is combined (R363), so that the k-th RED of every core still meets
the k-th of the others (R231). -/
def redPoison (c : Ctx) (mbDest : Bool) : List Opnd → M Unit
  | a :: _ => do
    let op := bits c.h.md 2 0
    if mbDest then
      modify fun s => s.addContrib { contribOf c s op (fmtFloat a.d.fmt) a ⟨emptyValue op true, true, false, 0⟩ with included := false }
  | [] => pure ()

/-- RED (R229, R230): to HD, or a contribution to a mailbox (R146). -/
def opRed (c : Ctx) : M Res :=
  let mbDest := bitOf c.h.md 3
  withOpndsOr (redPoison c mbDest) c (c.h.ha :: (if mbDest then [] else [c.h.hd])) fun os => do
    match os with
    | a :: ds =>
      let op := bits c.h.md 2 0
      let fl := fmtFloat a.d.fmt
      execCheck (redOk op c.its a ds.head?) (ds.map (·.d))
      match ds with
      | d :: _ =>
        let mut r := Res.nothing
        for js in c.its do
          let (es, p) ← redRead c a js
          let o := reduceSet op fl false es
          let (pl, sd) ← readDest c d js
          let st ← storeVals c d pl [⟨o.v, p, true⟩]
          finish sd
          let kept := pl.any fun x => x.keep && x.a.isSome
          r := r.plus ⟨st ||| statusIf o.empty stEMPTY, b2n (kept && o.sat), 0, false⟩
        pure r
      | [] =>
        let (es, p) ← redRead c a []
        let o := reduceSet op fl false es
        modify fun s => s.addContrib (contribOf c s op fl a o)
        pure ⟨statusIf p stPOISON ||| statusIf o.empty stEMPTY, 0, 0, false⟩
    | [] => pure .nothing

/-- Order of combination (R81, R146): ascending tile, then ascending rank, which is the order of core numbers. -/
def contribLe (a b : Contrib) : Bool := a.tile < b.tile || (a.tile == b.tile && a.core ≤ b.core)

/-- Insert in order. -/
def insertContrib (a : Contrib) : List Contrib → List Contrib
  | [] => [a]
  | b :: bs => if contribLe a b then a :: b :: bs else b :: insertContrib a bs

/-- The mailbox value of contributions in order (R230, Table 7.6), whether it is empty, and whether the combination saturated. -/
def combine (ks : List Contrib) : Nat × Bool × Bool :=
  let inc := ks.filter (·.included)
  let k := (inc ++ ks).headD ⟨0, 0, 0, 0, 0, false, false, false, 0, 0, false⟩
  let op := k.op
  let fl := k.isFloat
  let wide := fun v => if fl then v else wrapBits 64 (sext 32 v)
  match op with
  | 0 =>
    if fl then (inc.foldl (fun a k => add32 a k.value) 0, inc.isEmpty, false)
    else
      let (z, s) := inc.foldl (fun (a : Int × Bool) k => let (z, s) := satAdd32 a.1 (sext 32 k.value); (z, a.2 || s)) (0, false)
      (wrapBits 64 z, inc.isEmpty, s)
  | 1 => (wide (if inc.isEmpty then emptyValue 1 fl else foldExt fl true (inc.map (·.value))), inc.isEmpty, false)
  | 2 => (wide (if inc.isEmpty then emptyValue 2 fl else foldExt fl false (inc.map (·.value))), inc.isEmpty, false)
  | 5 => ((inc.foldl (fun a k => a + k.value) 0) % 2 ^ 64, inc.isEmpty, false)
  | _ =>
    let mx := op == 3
    let best := (inc.filter fun k => !k.empty).foldl (fun (b : Option Contrib) k => match b with
      | none => some k
      | some y => if beats fl mx k.ext y.ext then some k else b) none
    match best with
    | some k => ((k.tile % 2 ^ 32) * 2 ^ 32 + k.value % 2 ^ 32, false, false)
    | none => (2 ^ 64 - 1, true, false)

/-- Count one SAT in the RED of a core (R231): in its entry while that has still to complete, else where its counts were recorded. -/
def State.creditSat (s : State) (k : Contrib) : State :=
  match ((s.core k.core).q.get .ve).find? fun x => x.qid == k.qid with
  | some x => s.setEntry k.core .ve { x with sat := 1 }
  | none =>
  let c := s.core k.core
  let c := if c.lastVe = k.qid + 1 then { c with lastSat := c.lastSat.set .ve 1 } else c
  if s.prog.inStep then
    let a := satTotal c.stepSat 1
    (s.setCore k.core { c with stepSat := a.1 }).totalsFlag a.2
  else (s.setCore k.core c).addLaunch 1 0

/-- The oldest contribution of each live core to a mailbox. -/
def State.firstContribs (s : State) (mb : Nat) : List Contrib :=
  s.liveCores.filterMap fun g => s.prog.contribs.find? fun k => k.mb == mb && k.core == g

/-- Every live core has contributed to MBn: the value goes to all four sequencers (R78, R230, R146). -/
def execMailboxReduction (mb : Nat) (s : State) : Out :=
  .next (let ks := s.firstContribs mb
    if ks == [] ∨ ks.length ≠ s.liveCores.length then s
    else
      let ordered := ks.foldr insertContrib []
      let (v, empty, sat) := combine ordered
      let s := { s with prog := { s.prog with
        contribs := s.prog.contribs.filter fun k => !(ks.contains k),
        mbEmptySeen := s.prog.mbEmptySeen || empty } }
      let s := overList fourDies (fun d s =>
        let x := s.seq d
        s.setSeq d { x with mb := AMap.set 0 x.mb mb (BitVec.ofNat 64 v),
                            mbEmpty := (x.mbEmpty &&& (0xFFFF ^^^ (1 <<< mb))) ||| (b2n empty <<< mb) }) s
      match ks.find? (·.included) with
      | some k => if sat || ks.any (fun k => k.included && k.sat) then s.creditSat k else s
      | none => s)

/-! ## SOFTMAX -/

/-- The execution check of a SOFTMAX (R232). -/
def softmaxOk (its : List (List Nat)) (d a : Opnd) : Bool :=
  a.ok false none its && d.ok true none its && (a.d.space == spCS || a.d.space == spBT) && (d.d.space == spCS || d.d.space == spBT)
  && a.d.rank == d.d.rank && a.shape == d.shape && fmtFloat a.d.fmt && (d.d.fmt == 5 || d.d.fmt == 6 || d.d.fmt == 7)
  && overlapOk d a its

/-- log2 e. -/
def l2e : Nat := 0x3FB8AA3B

/-- 1 / k correctly rounded to FP32. -/
def recipNat (k : Nat) : Nat := fp32.ieee false (if 2 ^ 64 % k = 0 then 2 ^ 64 / k else 2 * (2 ^ 64 / k) + 1) (if 2 ^ 64 % k = 0 then -64 else -65)

/-- A row of SOFTMAX (R233) on patterns, none where masked: the FP32 outputs and whether the row is empty. -/
def softmaxRow (base2 : Bool) (p : Nat) (as : List (Option Nat)) : List Nat × Bool :=
  let xs := as.map fun a => a.map (mul32 p ·)
  let live := xs.filterMap id
  if live.isEmpty then (as.map fun _ => 0, true)
  else if live.any isNan32 then (as.map fun _ => fp32.nanBits, false)
  else
    let m := foldExt true true live
    if m = fp32.infBits false then
      let k := (live.filter (· == m)).length
      (xs.map fun x => if x = some m then recipNat k else 0, false)
    else if m = fp32.infBits true then (as.map fun _ => 0, true)
    else
      let e := fun x =>
        let d := fp32.ofValue ((fp32.value x).add (fp32.value m).neg)
        exp2f (if base2 then d else mul32 d l2e)
      let r := rcpf (live.foldl (fun s x => add32 s (e x)) 0)
      (xs.map fun x => match x with | some x => mul32 (e x) r | none => 0, false)

/-- One iteration of a SOFTMAX, delivering the rows that lie in the first left lane groups (R375); rows without elements are empty. -/
def softmaxIter (c : Ctx) (left : Option Nat) (d a : Opnd) (js : List Nat) : M Res := do
  let (as, sa) ← readSource c a js
  let (ds, sd) ← readDest c d js
  let n := a.shape.headD 0
  let as := as.take (inGroups left as.length)
  let rows := if n = 0 then List.replicate (product' a.shape.tail) [] else (chunksOf n as).filter fun x => x.length == n
  let outs := rows.map fun row =>
    let (vs, empty) := softmaxRow (bitOf c.h.md 0) (bits (c.ext.headD 0) 31 0)
      (row.map fun e => if e.keep then some (entryOf a.d.fmt e.v) else none)
    (vs.map fun v => Val.mk (convert false 7 d.d.fmt v).1 (row.any (·.p)) true, empty)
  let st ← storeVals c d ds (outs.flatMap (·.1))
  finish sa
  finish sd
  pure (Res.nothing.flag (st ||| statusIf (outs.any (·.2)) stEMPTY))

/-- SOFTMAX (R233). -/
def opSoftmax (chk : ArithCheck) (c : Ctx) : M Res :=
  withOpnds c [c.h.hd, c.h.ha] fun os => do
    match os with
    | [d, a] =>
      execCheck (softmaxOk c.its d a) [d.d]
      let mut left ← arithEvents c 0x218 chk
      let mut r := Res.nothing
      for js in c.its do
        r := r.plus (← softmaxIter c left d a js)
        left ← passUnits left (groupsOf a.count)
      passEnd left
      pure r
    | _ => pure .nothing

/-! ## MASKGEN -/

/-- The execution check of a MASKGEN. -/
def maskgenOk (its : List (List Nat)) (d : Opnd) : Bool :=
  d.ok true none its && (d.d.space == spCS || d.d.space == spBT) && d.d.rank == 2 && d.d.fmt == 11

/-- An element of a mask (R147): column j, row i. -/
def maskBit (kind : Nat) (o w : Int) (j i : Int) : Bool :=
  match kind with
  | 0 => decide (j ≤ i + o)
  | 1 => decide (j < o)
  | _ => decide (i + o - w < j ∧ j ≤ i + o)

/-- MASKGEN (R147). -/
def opMaskgen (c : Ctx) : M Res :=
  withOpnds c [c.h.hd] fun os => do
    match os with
    | [d] =>
      execCheck (maskgenOk c.its d) [d.d]
      let o := sext 48 (c.ax (← get) (bits c.h.md 6 2))
      let w := Int.ofNat (bits (c.ext.headD 0) 31 0)
      let mut st := 0
      for js in c.its do
        let (ds, sd) ← readDest c d js
        let vs := (tuples d.shape).map fun ix =>
          Val.mk (b2n (maskBit (bits c.h.md 1 0) o w (Int.ofNat (ix.getD 0 0)) (Int.ofNat (ix.getD 1 0)))) false true
        let q ← storeVals c d ds vs
        finish sd
        st := st ||| q
      pure (Res.nothing.flag st)
    | _ => pure .nothing

def execCard (core : Nat) (chk : ArithCheck) (s : State) : Out := .next (s.runEngine core .ve 0x50 (opCard chk))
def execRed (core : Nat) (s : State) : Out := .next (s.runEngine core .ve 0x51 opRed)
def execSoftmax (core : Nat) (chk : ArithCheck) (s : State) : Out := .next (s.runEngine core .ve 0x52 (opSoftmax chk))
def execMaskgen (core : Nat) (s : State) : Out := .next (s.runEngine core .ve 0x53 opMaskgen)

end Sys2Proof.Machine
end

