-- ==== Sys2Proof/Machine/Dispatch.lean ====
section
/-! DEFINITION. exec: one arm per command, each one call of that command's meaning. A command acts on everything but
the queue; its meaning answers a next state or stops by name. -/

namespace Sys2Proof.Machine

/-- The effect of one command. -/
def exec (i : Instr) (s : State) : Host.Outcome State Fault Refusal :=
  match i with
  | .inputOn => Sys2Proof.Machine.execInputOn s
  | .undervoltageOff => Sys2Proof.Machine.execUndervoltageOff s
  | .overvoltageOff => Sys2Proof.Machine.execOvervoltageOff s
  | .mrstLow => Sys2Proof.Machine.execMrstLow s
  | .mrstHigh => Sys2Proof.Machine.execMrstHigh s
  | .perstLow => Sys2Proof.Machine.execPerstLow s
  | .perstHigh => Sys2Proof.Machine.execPerstHigh s
  | .pprsntChange p level => Sys2Proof.Machine.execPprsntChange p level s
  | .hostLinkStateChange st width rate => Sys2Proof.Machine.execHostLinkStateChange st width rate s
  | .caperr n => Sys2Proof.Machine.execCaperr n s
  | .calert n sramUe => Sys2Proof.Machine.execCalert n sramUe s
  | .corePllLockLoss d => Sys2Proof.Machine.execCorePllLockLoss d s
  | .strapSample mhold bscan => Sys2Proof.Machine.execStrapSample mhold bscan s
  | .slotHeadersRead jedec sfdp quad => Sys2Proof.Machine.execSlotHeadersRead jedec sfdp quad s
  | .imageRead => Sys2Proof.Machine.execImageRead s
  | .imageVerify => Sys2Proof.Machine.execImageVerify s
  | .railSequence ok => Sys2Proof.Machine.execRailSequence ok s
  | .linkBringup failed => Sys2Proof.Machine.execLinkBringup failed s
  | .cappingFill o => Sys2Proof.Machine.execCappingFill o s
  | .selfTest o => Sys2Proof.Machine.execSelfTest o s
  | .s7Entry => Sys2Proof.Machine.execS7Entry s
  | .norOperationDone => Sys2Proof.Machine.execNorOperationDone s
  | .norTimeout => Sys2Proof.Machine.execNorTimeout s
  | .fatalLogWrite => Sys2Proof.Machine.execFatalLogWrite s
  | .getStatus pecOk => Sys2Proof.Machine.execGetStatus pecOk s
  | .getIdent pecOk => Sys2Proof.Machine.execGetIdent pecOk s
  | .getSensor slot pecOk => Sys2Proof.Machine.execGetSensor slot pecOk s
  | .clearAlert mask pecOk => Sys2Proof.Machine.execClearAlert mask pecOk s
  | .norRead addr len pecOk => Sys2Proof.Machine.execNorRead addr len pecOk s
  | .norBuf offset data pecOk => Sys2Proof.Machine.execNorBuf offset data pecOk s
  | .norProg addr pecOk => Sys2Proof.Machine.execNorProg addr pecOk s
  | .norErase addr pecOk => Sys2Proof.Machine.execNorErase addr pecOk s
  | .norStat pecOk => Sys2Proof.Machine.execNorStat pecOk s
  | .housekeepingRound readings => Sys2Proof.Machine.execHousekeepingRound readings s
  | .smokerStepDown => Sys2Proof.Machine.execSmokerStepDown s
  | .firstUseEnd => Sys2Proof.Machine.execFirstUseEnd s
  | .multiplierStepDown stack => Sys2Proof.Machine.execMultiplierStepDown stack s
  | .slotFailed slot => Sys2Proof.Machine.execSlotFailed slot s
  | .thermalShutdown => Sys2Proof.Machine.execThermalShutdown s
  | .thermalRestart => Sys2Proof.Machine.execThermalRestart s
  | .railFault slot => Sys2Proof.Machine.execRailFault slot s
  | .broadcast d streams => Sys2Proof.Machine.execBroadcast d streams s
  | .nop d st => Sys2Proof.Machine.execNop d st s
  | .br d st => Sys2Proof.Machine.execBr d st s
  | .lset d st => Sys2Proof.Machine.execLset d st s
  | .stepBegin d st => Sys2Proof.Machine.execStepBegin d st s
  | .stepBeginBarrier => Sys2Proof.Machine.execStepBeginBarrier s
  | .stepEnd d st => Sys2Proof.Machine.execStepEnd d st s
  | .endOfStep ledgers => Sys2Proof.Machine.execEndOfStep s ledgers
  | .wtok d st => Sys2Proof.Machine.execWtok d st s
  | .wagglePost core eng => Sys2Proof.Machine.execWagglePost core eng s
  | .waggleCompletion n => Sys2Proof.Machine.execWaggleCompletion n s
  | .waggleWaitRelease d st => Sys2Proof.Machine.execWaggleWaitRelease d st s
  | .pace d st => Sys2Proof.Machine.execPace d st s
  | .paceRelease d st => Sys2Proof.Machine.execPaceRelease d st s
  | .halt d st => Sys2Proof.Machine.execHalt d st s
  | .haltComplete => Sys2Proof.Machine.execHaltComplete s
  | .segmentSwap d g => Sys2Proof.Machine.execSegmentSwap d g s
  | .segmentMeasurement d g => Sys2Proof.Machine.execSegmentMeasurement d g s
  | .aadd core eng => Sys2Proof.Machine.execAadd core eng s
  | .asub core eng => Sys2Proof.Machine.execAsub core eng s
  | .amuli core eng => Sys2Proof.Machine.execAmuli core eng s
  | .ashl core eng => Sys2Proof.Machine.execAshl core eng s
  | .ashr core eng => Sys2Proof.Machine.execAshr core eng s
  | .aand core eng => Sys2Proof.Machine.execAand core eng s
  | .amin core eng => Sys2Proof.Machine.execAmin core eng s
  | .amax core eng => Sys2Proof.Machine.execAmax core eng s
  | .asel core eng => Sys2Proof.Machine.execAsel core eng s
  | .amovi core eng => Sys2Proof.Machine.execAmovi core eng s
  | .arank core eng => Sys2Proof.Machine.execArank core eng s
  | .dset core eng => Sys2Proof.Machine.execDset core eng s
  | .dload core eng => Sys2Proof.Machine.execDload core eng s
  | .dstore core eng => Sys2Proof.Machine.execDstore core eng s
  | .dadv core eng => Sys2Proof.Machine.execDadv core eng s
  | .fteRead d frame => Sys2Proof.Machine.execFteRead d frame s
  | .mma core chk => Sys2Proof.Machine.execMma core chk s
  | .mmas core chk => Sys2Proof.Machine.execMmas core chk s
  | .mzero core => Sys2Proof.Machine.execMzero core s
  | .mdrain core => Sys2Proof.Machine.execMdrain core s
  | .mv core chk => Sys2Proof.Machine.execMv core chk s
  | .card core chk => Sys2Proof.Machine.execCard core chk s
  | .red core => Sys2Proof.Machine.execRed core s
  | .mailboxReduction mb => Sys2Proof.Machine.execMailboxReduction mb s
  | .softmax core chk => Sys2Proof.Machine.execSoftmax core chk s
  | .maskgen core => Sys2Proof.Machine.execMaskgen core s
  | .gidx core => Sys2Proof.Machine.execGidx core s
  | .runAheadPrefetch core q => Sys2Proof.Machine.execRunAheadPrefetch core q s
  | .gather core => Sys2Proof.Machine.execGather core s
  | .scatter core => Sys2Proof.Machine.execScatter core s
  | .fcompat core => Sys2Proof.Machine.execFcompat core s
  | .move core => Sys2Proof.Machine.execMove core s
  | .fill core => Sys2Proof.Machine.execFill core s
  | .cmv core => Sys2Proof.Machine.execCmv core s
  | .mvFallback core chk => Sys2Proof.Machine.execMvFallback core chk s
  | .cmvCompletion core => Sys2Proof.Machine.execCmvCompletion core s
  | .peerput core => Sys2Proof.Machine.execPeerput core s
  | .peerget core => Sys2Proof.Machine.execPeerget core s
  | .mirrorsync core => Sys2Proof.Machine.execMirrorsync core s
  | .tokenPlace core eng k => Sys2Proof.Machine.execTokenPlace core eng s k
  | .peerTransferTimeout core slot => Sys2Proof.Machine.execPeerTransferTimeout core slot s
  | .tileSequence unit => Sys2Proof.Machine.execTileSequence unit s
  | .rowCommandIssue ctl blocked chk upsets => Sys2Proof.Machine.execRowCommandIssue ctl blocked chk upsets s
  | .columnCommandIssue ctl blocked => Sys2Proof.Machine.execColumnCommandIssue ctl blocked s
  | .residueLimit unit => Sys2Proof.Machine.execResidueLimit unit s
  | .runBoundary unit => Sys2Proof.Machine.execRunBoundary unit s
  | .evacuation unit => Sys2Proof.Machine.execEvacuation unit s
  | .frameCopyDone unit chainOk => Sys2Proof.Machine.execFrameCopyDone unit chainOk s
  | .homeAccess d env => Sys2Proof.Machine.execHomeAccess d env s
  | .mirrorDuplicate d => Sys2Proof.Machine.execMirrorDuplicate d s
  | .memoryRequest ctl => Sys2Proof.Machine.execMemoryRequest ctl s
  | .dramAccessComplete ctl upsets => Sys2Proof.Machine.execDramAccessComplete ctl upsets s
  | .patrolScrub ctl => Sys2Proof.Machine.execPatrolScrub ctl s
  | .refreshDue ctl idx => Sys2Proof.Machine.execRefreshDue ctl idx s
  | .powerDownTimer ctl part => Sys2Proof.Machine.execPowerDownTimer ctl part s
  | .diagWindowExpiry ctl exchangeOk => Sys2Proof.Machine.execDiagWindowExpiry ctl exchangeOk s
  | .release ctl exchangeOk => Sys2Proof.Machine.execRelease ctl exchangeOk s
  | .stepWatchdog stalled => Sys2Proof.Machine.execStepWatchdog stalled s
  | .bankLoss ctl bank => Sys2Proof.Machine.execBankLoss ctl bank s
  | .d2dLinkLoss l => Sys2Proof.Machine.execD2dLinkLoss l s
  | .d2dRetrain l => Sys2Proof.Machine.execD2dRetrain l s
  | .faultReplay found ledgers => Sys2Proof.Machine.execFaultReplay s found ledgers
  | .rehydrationCopy => Sys2Proof.Machine.execRehydrationCopy s
  | .perFunctionResetDone linkOk image => Sys2Proof.Machine.execPerFunctionResetDone linkOk image s
  | .configRequest r value => Sys2Proof.Machine.execConfigRequest s r value
  | .hdmCommit k base size skip ways => Sys2Proof.Machine.execHdmCommit k base size skip ways s
  | .memRd hpa => Sys2Proof.Machine.execMemRd hpa s
  | .memRdData hpa => Sys2Proof.Machine.execMemRdData hpa s
  | .memWr hpa data poison => Sys2Proof.Machine.execMemWr hpa data poison s
  | .memWrPtl hpa data be poison => Sys2Proof.Machine.execMemWrPtl hpa data be poison s
  | .memSpecRd hpa => Sys2Proof.Machine.execMemSpecRd hpa s
  | .programMemoryWrite offset data => Sys2Proof.Machine.execProgramMemoryWrite offset data s
  | .launchDb value => Sys2Proof.Machine.execLaunchDb value s
  | .resume => Sys2Proof.Machine.execResume s
  | .frstReset fid => Sys2Proof.Machine.execFrstReset fid s
  | .frstFence fid => Sys2Proof.Machine.execFrstFence fid s
  | .expOpen fid key => Sys2Proof.Machine.execExpOpen fid key s
  | .expClose fid => Sys2Proof.Machine.execExpClose fid s
  | .svCommit serialLow => Sys2Proof.Machine.execSvCommit serialLow s
  | .ownerEnrol serialLow => Sys2Proof.Machine.execOwnerEnrol serialLow s
  | .eqEnable size => Sys2Proof.Machine.execEqEnable size s
  | .eventWrite => Sys2Proof.Machine.execEventWrite s
  | .counterLowRead offset bar size => Sys2Proof.Machine.execCounterLowRead offset s bar size
  | .registerWrite bar offset size value => Sys2Proof.Machine.execRegisterWrite bar offset size value s
  | .getIdentity => Sys2Proof.Machine.execGetIdentity s
  | .getMeas d segs => Sys2Proof.Machine.execGetMeas d segs s
  | .getReport d segs nonce leafEnd openEnd => Sys2Proof.Machine.execGetReport d segs nonce leafEnd openEnd s
  | .close pageEnd => Sys2Proof.Machine.execClose pageEnd s
  | .idle p h => Sys2Proof.Machine.execIdle p h s
  | .req p h b => Sys2Proof.Machine.execReq p h b s
  | .rsp p h b => Sys2Proof.Machine.execRsp p h b s
  | .data p h b => Sys2Proof.Machine.execData p h b s
  | .hello p b h => Sys2Proof.Machine.execHello p b s h
  | .retry p seq h => Sys2Proof.Machine.execRetry p seq s h
  | .resync p b h => Sys2Proof.Machine.execResync p b s h
  | .helloSend p => Sys2Proof.Machine.execHelloSend p s
  | .routeExpiry p serial => Sys2Proof.Machine.execRouteExpiry p serial s
  | .portRetrain p good far => Sys2Proof.Machine.execPortRetrain p good far s
  | .clusterClockGate c => Sys2Proof.Machine.execClusterClockGate c s
  | .dormantEntry => Sys2Proof.Machine.execDormantEntry s
  | .dormantEntered => Sys2Proof.Machine.execDormantEntered s
  | .wakingEvent => Sys2Proof.Machine.execWakingEvent s
  | .wakeComplete failedPll => Sys2Proof.Machine.execWakeComplete failedPll s
  | .holdUpExpiry => Sys2Proof.Machine.execHoldUpExpiry s
  | .secCmdDone blown => Sys2Proof.Machine.execSecCmdDone blown s
  | .flitCrcFail p fec => Sys2Proof.Machine.execFlitCrcFail p fec s
  | .peerPortUp p lanes => Sys2Proof.Machine.execPeerPortUp p lanes s

end Sys2Proof.Machine
end

