-- ==== Sys2Proof/Safety.lean ====
section
/-! DEFINITION. The terms the claims are stated in: the invariant of the state's maps, what a loss of power discards, what a queued
instruction starts from, and when the memories a core reaches are sound. Nothing of the machine uses these. -/

namespace Sys2Proof.Machine

/-! ## The invariant -/

/-- The keys of a map rise strictly. -/
def AMap.rising {α : Type} : AMap α → Bool
  | [] => true
  | (j, _) :: m => AMap.above j m && AMap.rising m

/-- The maps outside the AON domain are in canonical form. Stored registers are keyed rising; what an unlisted one reads as is the
running image's. -/
def State.canonUnits (s : State) : Bool :=
  AMap.wf Seq.init s.seqs && AMap.wf Core.init s.cores && AMap.wf Cluster.init s.clusters && AMap.wf zeroCw s.dram
  && AMap.wf Ctl.init s.ctls && AMap.wf BaseDie.init s.dies && AMap.wf [] s.homeOut && AMap.wf CUnit.init s.units
  && AMap.wf { queue := [], cur := none } s.rings && AMap.wf Port.init s.ports && AMap.wf D2d.init s.d2d
  && AMap.wf Peer.init s.swarm.peers && AMap.wf 0 s.swarm.rtOcc && AMap.wf 0 s.host.msix && AMap.wf 0 s.host.pba

/-- The remaining maps are. -/
def State.canonRest (s : State) : Bool :=
  AMap.rising s.regs && AMap.wf 0 s.cnt && AMap.wf 0 s.cntLatch && AMap.wf 0 s.ledg && AMap.wf Stack.init s.stk
  && AMap.wf 0x80000000 s.hk.sensors && AMap.wf 0 s.hk.invalidRun && AMap.wf erased s.nor.mem && AMap.wf zeroCw s.boot.imgBuf
  && AMap.wf 0 s.nor.buf

/-- Every map that State holds directly, memories among them, is in its one canonical form: equal contents are equal data. -/
def State.canon (s : State) : Bool := s.canonUnits && s.canonRest

/-! ## Power and start-up -/

/-- Everything outside the AON domain is as cleared (R35, R444). -/
def State.discarded (s : State) : Prop :=
  s.seqs = [] ∧ s.prog = Prog.init ∧ s.cores = [] ∧ s.clusters = [] ∧ s.dram = [] ∧ s.ctls = [] ∧ s.dies = [] ∧ s.homeOut = [] ∧
  s.heldWrites = [] ∧ s.units = [] ∧ s.rings = [] ∧ s.flt = Faults.init ∧ s.ports = [] ∧ s.swarm = Swarm.init ∧ s.d2d = [] ∧
  s.sec = Sec.init ∧ s.dorm = Dormant.init ∧ s.regs = [] ∧ s.cnt = []

/-- A start-up has just begun: state S0, the image buffer cleared, no cause of failure, everything outside the AON domain as cleared. -/
def State.freshStart (s : State) : Prop :=
  s.boot.st = .s0 ∧ s.boot.imgBuf = [] ∧ s.boot.failA = 0 ∧ s.boot.failB = 0 ∧ s.boot.failMod = 0 ∧ s.pins.rails = 0 ∧ s.discarded

/-! ## Sequencers -/

/-- Two states differ in nothing but sequencer d. -/
def State.onlySeq (t s : State) (d : Nat) : Prop := { t with seqs := s.seqs } = s ∧ ∀ j, j ≠ d → t.seq j = s.seq j

/-! ## A queued instruction -/

/-- The words of a queue entry decode clean. -/
def QEntry.intact (x : QEntry) : Bool := x.words.all fun w => (decode w).cls == .clean

/-- An entry as its engine holds it once its words are read, and the state that is performed from: its token is consumed. -/
def State.begun (s : State) (g : Nat) (e : Eng) (x : QEntry) : QEntry × State :=
  State.readEntry (if x.head.wv then (s.consumeToken g x.head.wlane).2 else s) g e x

/-- The state engine e performs an entry from. -/
def State.startOf (s : State) (g : Nat) (e : Eng) (x : QEntry) : State := (s.begun g e x).2

/-- The status an entry receives with the token it consumes. -/
def State.received (s : State) (g : Nat) (x : QEntry) : Nat := if x.head.wv then ((s.core g).lane x.head.wlane).status else 0

/-- An entry that its engine has performed with a result. -/
def State.doneEntry (s : State) (g : Nat) (e : Eng) (x : QEntry) (r : Res) : QEntry :=
  { (s.begun g e x).1 with phase := if r.running then .running else .executed, consumed := true, recv := s.received g x,
                           status := s.received g x ||| r.status, sat := r.sat, flush := r.flush }

/-- In t the entry is executed, having started in u with a received status; the other queues and entries are as in u. -/
def State.finished (u t : State) (g : Nat) (e : Eng) (x : QEntry) (recv : Nat) : Prop :=
  ∃ st sat fl, (t.core g).q = (u.core g).q.set e (putEntry ((u.core g).q.get e)
    { x with phase := .executed, consumed := true, recv := recv, status := recv ||| st, sat := sat, flush := fl })

/-- From u, t has written v modulo 2^48 to AX ad of stream e of core g, and nothing else but the queue: AX31 discards it. -/
def axWritten (u t : State) (g : Nat) (e : Eng) (ad v : Nat) : Prop :=
  { t with cores := u.cores } = u ∧ (∀ h, h ≠ g → t.core h = u.core h) ∧
  { t.core g with q := (u.core g).q, axUndo := (u.core g).axUndo } =
    (if ad = 31 then u.core g else { u.core g with ax := (u.core g).ax.set e (AMap.set 0 ((u.core g).ax.get e) ad (BitVec.ofNat 48 v)) })

/-! ## Operands and memories of a core -/

/-- The operand of handle h as an instruction sees its descriptors. -/
def State.opndAt (u : State) (c : Ctx) (h : Nat) : Opnd :=
  opndOf (fun k => if k = 0 then descOf [] else descOf (((u.core c.g).descView c.e c.q k).map fun w => (decode w).d.toNat)) h

/-- An operand that reaches no TVA space, by itself or by a link, and has no index descriptor. -/
def Opnd.isLocal (o : Opnd) : Bool :=
  o.d.space != 2 && o.idx.isNone && (match o.scale with | some d => d.space != 2 | none => true)
  && (match o.mask with | some d => d.space != 2 | none => true)

/-- A memory in canonical form whose every listed word decodes clean. -/
def cleanMap (m : AMap Codeword) : Bool := AMap.wf zeroCw m && m.all fun e => (decode e.2).cls == .clean

/-- The memories core g reaches in its die decode clean, and no SFLIP mask is armed on them. -/
def State.quietCore (s : State) (g : Nat) : Bool :=
  let c := s.core g
  let k := clusterOf g
  cleanMap c.store && cleanMap c.batt && cleanMap c.desc && cleanMap c.acc && cleanMap (s.cluster k).store
  && allEng.all (fun e => (c.descUndo.get e).all fun u => u.old.1.all fun w => (decode w).cls == .clean)
  && s.reg (coreOff g + 0x220) == 0 && s.reg (coreOff g + 0x228) == 0
  && s.reg (cluOff k + 0x810) == 0 && s.reg (cluOff k + 0x818) == 0

/-- A space of a core's die: 0 core store, 1 cluster store, 3 batts, 4 accumulators. -/
def State.memOf (s : State) (g space : Nat) : AMap Codeword :=
  match space with
  | 1 => (s.cluster (clusterOf g)).store
  | 3 => (s.core g).batt
  | 4 => (s.core g).acc
  | _ => (s.core g).store

/-- The element of a width at a bit address of a space of a core's die. -/
def State.peek (s : State) (g space width a : Nat) : Nat :=
  bits (decode (AMap.get zeroCw (s.memOf g space) (a / 64))).d.toNat (a % 64 + width - 1) (a % 64)

/-- DRAM and the die caches decode clean. -/
def State.cleanDram (s : State) : Bool :=
  cleanMap s.dram && s.dies.all fun b => b.2.lines.all fun l => l.2.words.all fun w => (decode w).cls == .clean

/-- The FTE of a frame that the frame translation cache of die d holds clean. -/
def State.cachedFte (s : State) (d fr : Nat) : Option Fte :=
  match (AMap.get [] (s.die d).ftc (ftcSet fr)).find? (fun e => e.1 == fr) with
  | some e => if (decode e.2).cls = .clean then some (fteOf (decode e.2).d) else none
  | none => none

/-- No access, duplicate or held write is on its way in the memory system. -/
def State.memIdle (s : State) : Bool :=
  s.ctls.all (fun c => c.2.q == [] && c.2.inflight == []) && s.homeOut == [] && s.dies.all (fun d => d.2.dups == []) && s.heldWrites == []

/-! ## Numbers -/

/-- The rational value of a finite floating-point value. -/
def FV.rat : FV → Option ℚ
  | .zero _ => some 0
  | .fin n m e => some ((if n then -1 else 1) * (m : ℚ) * 2 ^ e)
  | _ => none

end Sys2Proof.Machine
end

