-- ==== Sys2Proof/WellFormed.lean ====
section
/-! DEFINITION. Which commands are well formed: every unit an operand names is one the module has (R2, R3, R15), and
every operand of a fixed width fits it. -/

namespace Sys2Proof

/-- What is wrong with a command: each names the check that refuses it. -/
inductive WfError where
  | die | core | cluster | stack | ctl | unit | port | link | slot | words | bytes | field
  deriving DecidableEq, Repr

/-- n names one of k units. -/
def inRange (e : WfError) (n k : Nat) : Option WfError := if n < k then none else some e

/-- The first failing check of two. -/
def both (a b : Option WfError) : Option WfError := match a with | some e => some e | none => b

/-- Compute die, base die or sequencer d of 4. -/
def wfDie (d : Nat) : Option WfError := inRange .die d 4
/-- Core of 2,048. -/
def wfCore (c : Nat) : Option WfError := inRange .core c 2048
/-- Controller: DCH n is n, DCF n is 256 + n (R3). -/
def wfCtl (c : Nat) : Option WfError := inRange .ctl c 272
/-- Comb unit of 12,288 (R4): 48 of each channel. -/
def wfUnit (u : Nat) : Option WfError := inRange .unit u 12288
/-- Peer port of 8. -/
def wfPort (p : Nat) : Option WfError := inRange .port p 8
/-- A memory write carries the eight words of a 64-byte line. -/
def wfLine (ws : List Word) : Option WfError := if ws.length = 8 then none else some .words

/-- The fields of a flit head fit their widths (Table 14.9). -/
def FlitHead.check (h : FlitHead) : Option WfError :=
  if h.vc < 4 ∧ h.seq < 4096 ∧ h.ack < 4096 ∧ h.cr0 < 256 ∧ h.cr1 < 256 ∧ h.cr2 < 256 then none else some .field

/-- The check of a command. -/
def Instr.check : Instr → Option WfError
  | .inputOn | .undervoltageOff | .overvoltageOff | .mrstLow | .mrstHigh | .perstLow | .perstHigh
  | .strapSample _ _ | .imageRead | .imageVerify | .railSequence _ | .linkBringup _ | .cappingFill _ | .selfTest _ | .s7Entry
  | .norOperationDone | .norTimeout | .fatalLogWrite | .getStatus _ | .getIdent _ | .norRead _ _ _ | .norProg _ _
  | .norErase _ _ | .norStat _ | .smokerStepDown | .firstUseEnd | .thermalShutdown | .thermalRestart | .stepBeginBarrier
  | .endOfStep _ | .haltComplete | .stepWatchdog _ | .faultReplay _ _ | .rehydrationCopy
  | .perFunctionResetDone _ _ | .configRequest _ _ | .memRd _ | .memRdData _ | .memSpecRd _ | .launchDb _ | .resume
  | .frstReset _ | .frstFence _ | .expOpen _ _ | .expClose _ | .svCommit _ | .ownerEnrol _ | .eqEnable _ | .eventWrite
  | .counterLowRead _ _ _ | .getIdentity | .close _ | .dormantEntry | .dormantEntered | .wakingEvent | .wakeComplete _
  | .holdUpExpiry | .secCmdDone _ | .hostLinkStateChange _ _ _ | .slotHeadersRead _ _ _ | .clearAlert _ _ => none
  | .pprsntChange p _ | .helloSend p | .routeExpiry p _ | .portRetrain p _ _
  | .flitCrcFail p _ | .peerPortUp p _ => wfPort p
  | .idle p h | .req p h _ | .rsp p h _ | .data p h _ | .hello p _ h | .retry p _ h | .resync p _ h => both (wfPort p) h.check
  | .caperr n | .calert n _ => inRange .ctl n 256
  | .corePllLockLoss d | .br d _ | .nop d _ | .lset d _ | .stepBegin d _ | .stepEnd d _ | .wtok d _ | .waggleWaitRelease d _
  | .pace d _ | .paceRelease d _ | .halt d _ | .broadcast d _ | .fteRead d _ | .homeAccess d _
  | .mirrorDuplicate d => wfDie d
  | .getMeas d _ | .getReport d _ _ _ _ => inRange .die d 4
  | .segmentSwap d g | .segmentMeasurement d g => both (wfDie d) (inRange .field g 64)
  | .getSensor k _ | .slotFailed k | .railFault k => inRange .slot k 128
  | .housekeepingRound rs => if rs.all (fun r => r.1 < 128 && r.2 < 2 ^ 32) then none else some .slot
  | .multiplierStepDown s => inRange .stack s 8
  | .norBuf off bs _ => if 0 < bs.length ∧ off + bs.length ≤ 256 then none else some .bytes
  | .waggleCompletion n => inRange .field n 64
  | .mailboxReduction mb => inRange .field mb 16
  | .wagglePost c _ | .aadd c _ | .asub c _ | .amuli c _ | .ashl c _ | .ashr c _ | .aand c _ | .amin c _ | .amax c _ | .asel c _
  | .amovi c _ | .arank c _ | .dset c _ | .dload c _ | .dstore c _ | .dadv c _ | .mma c _ | .mmas c _ | .mzero c | .mdrain c
  | .mv c _ | .card c _ | .red c | .softmax c _ | .maskgen c | .gidx c | .gather c | .scatter c | .fcompat c | .move c
  | .fill c | .cmv c | .mvFallback c _ | .cmvCompletion c | .peerput c | .peerget c | .mirrorsync c | .tokenPlace c _ _ => wfCore c
  | .runAheadPrefetch c q => both (wfCore c) (inRange .field q 8)
  | .peerTransferTimeout c k => both (wfCore c) (inRange .field k 32)
  | .tileSequence u | .residueLimit u | .runBoundary u | .evacuation u | .frameCopyDone u _ => wfUnit u
  | .rowCommandIssue c _ _ _ | .columnCommandIssue c _ | .memoryRequest c | .dramAccessComplete c _ | .patrolScrub c
  | .refreshDue c _ | .powerDownTimer c _ | .diagWindowExpiry c _ | .release c _ => wfCtl c
  | .bankLoss c b => both (wfCtl c) (inRange .field b 96)
  | .d2dLinkLoss l | .d2dRetrain l => inRange .link l 4
  | .hdmCommit i _ _ _ _ => inRange .field i 2
  | .memWr _ ws _ => wfLine ws
  | .memWrPtl _ ws be _ => both (wfLine ws) (inRange .field be (2 ^ 64))
  | .programMemoryWrite _ bs => if bs = [] then some .bytes else none
  | .registerWrite bar _ size v =>
    if bar ≠ 0 ∧ bar ≠ 4 then some .field else if size ≠ 4 ∧ size ≠ 8 then some .bytes else inRange .field v (2 ^ (8 * size))
  | .clusterClockGate c => inRange .cluster c 64

/-- A command is well formed when no check refuses it. -/
def Instr.wf (i : Instr) : Bool := i.check == none

end Sys2Proof
end

