-- ==== Sys2Proof/Certificates/Slice0/Obligations.lean ====
section
/-! DEFINITION. The statements for the provers: one Prop each. The docstring says what it states and the rules it rests on. -/

open Sys2Proof Sys2Proof.Machine

/-- For every command c, queue rest and state s, step of s with c in front of rest is exec of c on s with the queue rest. With an empty
queue a step answers the same state: the model's choice, since the spec has no step without a happening (the log's entry on the empty
queue). (00_scope.md.) -/
def Obligations.StepRunsFrontCommand : Prop :=
  (∀ (c : Instr) (rest : List Instr) (s : State),
      step { s with pending := c :: rest } = exec c { s with pending := rest }) ∧
    ∀ s : State, s.pending = [] → step s = .next s

/-- INPUT_ON with the input off and MRST# high, MRST_HIGH with the input on and MRST# low and no thermal shutdown, and THERMAL_RESTART
after 16 cool rounds with MRST# high each answer a state in S0 with an empty image buffer, no failure cause, everything outside the
AON domain as cleared, and the NOR and the fuses unchanged. INPUT_ON with the input already on changes nothing. (R35.) -/
def Obligations.StartUpBeginsAtS0 : Prop :=
  ∀ s : State,
    (s.pins.inputOn = false → s.pins.mrst = true →
      ∃ t, exec .inputOn s = .next t ∧ t.freshStart ∧ t.pins.inputOn = true ∧ t.pins.aonOn = true ∧ t.nor = s.nor ∧ t.fuses = s.fuses) ∧
    (s.pins.inputOn = true → exec .inputOn s = .next s) ∧
    (s.pins.mrst = false → s.pins.aonOn = true → s.pins.inputOn = true → s.hk.shutdown = false →
      ∃ t, exec .mrstHigh s = .next t ∧ t.freshStart ∧ t.pins.mrst = true ∧ t.nor = s.nor ∧ t.fuses = s.fuses) ∧
    (s.hk.shutdown = true → 16 ≤ s.hk.coolRounds → s.pins.inputOn = true → s.pins.mrst = true →
      ∃ t, exec .thermalRestart s = .next t ∧ t.freshStart ∧ t.hk.shutdown = false ∧ t.pins.thermtrip = false ∧ t.nor = s.nor ∧
        t.fuses = s.fuses)

/-- With AON power, the input on and no thermal shutdown, MRST_LOW answers a state with no rail on, AON power kept, everything outside the
AON domain cleared and the NOR unchanged, and MRST_HIGH then answers a state in S0. While a thermal shutdown holds each changes the
pin's level alone, and after 16 cool rounds THERMAL_RESTART answers a state in S0 with MRST# high, and one that only releases the
shutdown with MRST# low. (R22.) -/
def Obligations.MrstLowRemovesRails : Prop :=
  ∀ s : State, s.pins.aonOn = true → s.pins.inputOn = true →
    (s.hk.shutdown = false → ∃ t u, exec .mrstLow s = .next t ∧ t.pins.rails = 0 ∧ t.pins.aonOn = true ∧ t.boot.st = .off ∧ t.discarded ∧
      t.nor = s.nor ∧ t.fuses = s.fuses ∧ t.pins.mrst = false ∧ exec .mrstHigh t = .next u ∧ u.freshStart ∧ u.pins.mrst = true) ∧
    (s.hk.shutdown = true →
      exec .mrstLow s = .next { s with pins := { s.pins with mrst := false } } ∧
      exec .mrstHigh s = .next { s with pins := { s.pins with mrst := true } } ∧
      (16 ≤ s.hk.coolRounds → ∃ t, exec .thermalRestart s = .next t ∧ t.hk.shutdown = false ∧ t.pins.thermtrip = false ∧
        (s.pins.mrst = true → t.freshStart) ∧ (s.pins.mrst = false → t.boot.st = s.boot.st ∧ t.pins.rails = s.pins.rails)))

/-- With the input on, UNDERVOLTAGE_OFF and OVERVOLTAGE_OFF each answer a state with the input off, no rail on, the AON domain still
powered, memory and registers lost, the NOR's contents and operation in progress kept and no further one queued. When the hold-up then
expires the AON domain is off, a page program in progress has been carried out, and with none in progress the NOR is as it was. (R28,
R29, R444.) -/
def Obligations.InputOffKeepsAonAndNor : Prop :=
  ∀ s : State,
    (s.pins.inputOn = true → ∀ c ∈ [Instr.undervoltageOff, Instr.overvoltageOff], ∃ t, exec c s = .next t ∧
      t.pins.inputOn = false ∧ t.pins.rails = 0 ∧ t.pins.aonOn = s.pins.aonOn ∧ t.pins.unclean = true ∧ t.boot.st = .off ∧
      t.discarded ∧ t.nor.mem = s.nor.mem ∧ t.nor.busy = s.nor.busy ∧ t.nor.queue = [] ∧ t.fuses = s.fuses) ∧
    (s.pins.holdUp = true → s.pins.inputOn = false → ∃ t, exec .holdUpExpiry s = .next t ∧ t.pins.aonOn = false ∧
      t.nor.busy = none ∧ t.discarded ∧ t.fuses = s.fuses ∧
      (∀ a ds w, s.nor.busy = some (.prog a ds w) → t.nor.mem = norProgram s.nor.mem a ds) ∧
      (s.nor.busy = none → t.nor.mem = s.nor.mem))

/-- PERST_LOW with PERST# high answers a state with PERST# low and the host link down: after S7 the two HDM decoders are uncommitted,
configuration space and the MSI-X table as after start, EQ_CTRL.EN clear and the port's unlock closed, with sequencers, program,
cores, clusters, comb units, DRAM, NOR and pending events unchanged; before S7 nothing else changes. PERST_HIGH changes the pin alone.
From S4 on with PERST# high, HOST_LINK_STATE_CHANGE takes the link's state, width and rate, releases WAKE# in L0, asserts it in L2
exactly when a message waits, and changes nothing outside the host port and the pins. What WAKE# does in the other states is the
model's choice (the log's entry on WAKE# after L2). (R20, R21, R24, R402, R415.) -/
def Obligations.PerstResetsOnlyTheHostPort : Prop :=
  ∀ s : State,
    (s.atS7 = true → s.pins.perst = true → s.canon = true → ∃ t, exec .perstLow s = .next t ∧ t.pins.perst = false ∧
      t.host.link = .down ∧ t.host.hdm0 = Hdm.init ∧ t.host.hdm1 = Hdm.init ∧ t.host.cs = CfgSpace.init ∧ t.host.msix = [] ∧
      t.host.pba = [] ∧ t.eqOn = false ∧ 0xA000 ∉ t.unlocked ∧ t.host.pend = s.host.pend ∧
      t.seqs = s.seqs ∧ t.prog = s.prog ∧ t.cores = s.cores ∧ t.clusters = s.clusters ∧ t.units = s.units ∧
      t.dram = s.dram ∧ t.nor = s.nor ∧ t.boot = s.boot) ∧
    (s.atS7 = false → s.pins.perst = true → ∃ t, exec .perstLow s = .next t ∧ t.pins = { s.pins with perst := false } ∧
      t.host.link = .down ∧ { t with pins := s.pins, host := s.host } = s) ∧
    exec .perstHigh s = .next { s with pins := { s.pins with perst := true } } ∧
    (∀ st w r, s.boot.st = .s4 ∨ s.boot.st = .s5 ∨ s.boot.st = .s6 ∨ s.boot.st = .s7 → s.pins.perst = true →
      ∃ t, exec (.hostLinkStateChange st w r) s = .next t ∧ t.host.link = st ∧
        (st ≠ .down → t.host.width = w ∧ t.host.rate = r) ∧ (st = .l0 → t.pins.wake = false) ∧
        (st = .l2 → t.pins.wake = s.host.msgWaiting) ∧ { t with pins := s.pins, host := s.host } = s ∧
        { t.pins with wake := s.pins.wake } = s.pins)

/-- In S0, BSCAN_EN high leads to boundary scan with VIO alone on, MHOLD# low to HOLD with FAIL_MOD 0x0B, and neither to S1. In S1 before
the headers are read: a JEDEC ID of all zeros or ones leads to HOLD with FAIL_MOD 1; a wrong SFDP signature or no quad read to HOLD
with FAIL_MOD 2; otherwise FAIL_A and FAIL_B take each slot's cause, two candidates are ranked by SECVER, then SEQ, then slot A first,
a single one is taken, and with none the module enters HOLD. In S3, rails and PLLs in order lead to S4 with every rail on, a fault to
HOLD with FAIL_MOD 0x08 and no rail on. (R19, R36, R42, R50, R52, R443.) -/
def Obligations.StrapsHeadersAndRailsChooseTheNextState : Prop :=
  (∀ s : State,
    (s.boot.st = .s0 →
      (∀ mh, ∃ t, exec (.strapSample mh true) s = .next t ∧ t.boot.st = .bscan ∧ t.pins.rails = 0x1000) ∧
      (∃ t, exec (.strapSample false false) s = .next t ∧ t.boot.st = .hold ∧ t.boot.failMod = 0x0B ∧ t.pins.rails = 0) ∧
      (∃ t, exec (.strapSample true false) s = .next t ∧ t.boot.st = .s1 ∧ t.pins.mhold = true)) ∧
    (s.boot.st = .s3 →
      (∃ t, exec (.railSequence true) s = .next t ∧ t.boot.st = .s4 ∧ t.pins.rails = 0x3FFF) ∧
      (∃ t, exec (.railSequence false) s = .next t ∧ t.boot.st = .hold ∧ t.boot.failMod = 8 ∧ t.pins.rails = 0 ∧ t.discarded))) ∧
    ∀ (s : State) (j f : Nat) (q : QuadForm), s.boot.st = .s1 → s.boot.headersRead = false →
    (j = 0 ∨ j = 0xFFFFFF → ∃ t, exec (.slotHeadersRead j f q) s = .next t ∧ t.boot.st = .hold ∧ t.boot.failMod = 1) ∧
    (j ≠ 0 → j ≠ 0xFFFFFF → f ≠ 0x50444653 ∨ q = .absent →
      ∃ t, exec (.slotHeadersRead j f q) s = .next t ∧ t.boot.st = .hold ∧ t.boot.failMod = 2) ∧
    (j ≠ 0 → j ≠ 0xFFFFFF → f = 0x50444653 → q ≠ .absent →
      ∃ t, exec (.slotHeadersRead j f q) s = .next t ∧ t.boot.failA = s.slotCause 0 ∧ t.boot.failB = s.slotCause 1 ∧
        (s.slotCause 0 ≠ 0 → s.slotCause 1 ≠ 0 → t.boot.st = .hold) ∧
        (s.slotCause 0 = 0 → s.slotCause 1 ≠ 0 → t.boot.st = .s1 ∧ t.boot.cands = [0]) ∧
        (s.slotCause 0 ≠ 0 → s.slotCause 1 = 0 → t.boot.st = .s1 ∧ t.boot.cands = [1]) ∧
        (s.slotCause 0 = 0 → s.slotCause 1 = 0 → t.boot.st = .s1 ∧
          (s.hdr 0 0x10 8 < s.hdr 1 0x10 8 → t.boot.cands = [1, 0]) ∧
          (s.hdr 1 0x10 8 < s.hdr 0 0x10 8 → t.boot.cands = [0, 1]) ∧
          (s.hdr 0 0x10 8 = s.hdr 1 0x10 8 → s.hdr 0 0x18 8 < s.hdr 1 0x18 8 → t.boot.cands = [1, 0]) ∧
          (s.hdr 0 0x10 8 = s.hdr 1 0x10 8 → s.hdr 1 0x18 8 ≤ s.hdr 0 0x18 8 → t.boot.cands = [0, 1])))

/-- IMAGE_READ in S1 answers S2 with every byte of the image buffer up to SIGNED_LEN + SIG_LEN equal to the slot's byte. IMAGE_VERIFY in
S2 takes the image's configuration and goes to S3 where the signatures and sections are valid; otherwise it records the cause for the
slot (0x0A for invalid sections), and goes back to S1 with FALLBACK set, or to HOLD when no candidate remains. (R36, R46, R49, R50,
R66, R470.) -/
def Obligations.ImageIsReadAndVerified : Prop :=
  ∀ (s : State) (k : Nat) (rest : List Nat), s.boot.cands = k :: rest →
    (s.boot.st = .s1 → s.boot.headersRead = true → AMap.wf erased s.nor.mem = true →
      ∃ t, exec .imageRead s = .next t ∧ t.boot.st = .s2 ∧ t.boot.imgLen = s.hdr k 0x08 4 + s.hdr k 0x34 4 ∧
        (∀ i, i < t.boot.imgLen → t.boot.imgByte i = AMap.get erased s.nor.mem (slotBase k + i)) ∧
        t.nor = s.nor) ∧
    (s.boot.st = .s2 → k < 2 →
      ∃ t, exec .imageVerify s = .next t ∧
        match (if s.sigCause = 0 then s.boot.parse else none) with
        | some c => t.boot.st = .s3 ∧ t.boot.slot = k ∧ t.cfg = c
        | none =>
          (if k = 0 then t.boot.failA else t.boot.failB) = (if s.sigCause = 0 then 0x0A else s.sigCause) ∧
          (rest = [] → t.boot.st = .hold ∧ t.pins.rails = 0) ∧
          (rest ≠ [] → t.boot.st = .s1 ∧ t.boot.fallback = true ∧ t.boot.cands = rest))

/-- In S4, LINK_BRINGUP answers S5, every stack channel and tier-F channel among the failed links is fenced and its controller's state is
FENCED. In S5, CAPPING_FILL answers S6 with every DRAM word reading as the zero codeword, the cores' and clusters' memories and the
sequencers cleared, and the four core PLLs running. (R54, R55, R57, R60.) -/
def Obligations.LinkFailureFencesUntilTheNextStart : Prop :=
  ∀ s : State,
    (s.boot.st = .s4 → s.canon = true → ∀ ls, ∃ t, exec (.linkBringup ls) s = .next t ∧ t.boot.st = .s5 ∧
      (∀ n, n < 256 → LinkId.dch n ∈ ls → t.isFenced (0x4000 + n) = true ∧ (t.ctl n).st = .fenced) ∧
      (∀ n, n < 16 → LinkId.dcf n ∈ ls → t.isFenced (0x6000 + n) = true ∧ (t.ctl (256 + n)).st = .fenced)) ∧
    (s.boot.st = .s5 → ∀ o, ∃ t, exec (.cappingFill o) s = .next t ∧ t.boot.st = .s6 ∧ t.dram = [] ∧ t.cores = [] ∧
      t.clusters = [] ∧ t.seqs = [] ∧ t.pins.corePll = 0xF)

/-- In S6, SELF_TEST answers either HOLD with FAIL_MOD 9 and no rail on, or S6 with the tests done, where base die 0 and a compute die
with a live core and its base die work, every core of the live mask is admitted by LIVEMASK and neither it nor its cluster nor its die
is fenced, and the admitted mask is the live mask. Where no function was fenced before, no test fails and LIVEMASK admits a core, it
answers S6 with the tests done, nothing fenced, and as the live mask the LIVEMASK, or its MAXCORES lowest cores. (R61, R62, R502.) -/
def Obligations.SelfTestFormsTheLiveMask : Prop :=
  ∀ (s : State) (o : TestOutcome), s.boot.st = .s6 → s.boot.s6Done = false →
    (∃ t, exec (.selfTest o) s = .next t ∧
      ((t.boot.st = .hold ∧ t.boot.failMod = 9 ∧ t.pins.rails = 0) ∨
       (t.boot.st = .s6 ∧ t.boot.s6Done = true ∧ t.prog.admitted = t.prog.live ∧ t.isFenced 0x9000 = false ∧
        (∃ d, d < 4 ∧ (t.seq d).st ≠ .parked ∧ t.isFenced (0x9000 + d) = false) ∧
        ∀ g, g < 2048 → t.prog.live.getLsbD g = true →
          s.cfg.liveMask.getLsbD g = true ∧ t.isFenced (0x1000 + g) = false ∧ t.isFenced (0x2000 + g / 32) = false ∧
          t.isFenced (0x3000 + g / 512) = false))) ∧
    (o.links = [] → o.results = [] → o.residue = [] → s.flt.fenced = [] → s.seqs = [] → s.cfg.liveMask ≠ 0 →
      ∃ t, exec (.selfTest o) s = .next t ∧ t.boot.st = .s6 ∧ t.boot.s6Done = true ∧ t.flt = s.flt ∧ t.dram = s.dram ∧
        t.prog.admitted = t.prog.live ∧
        ∀ g, g < 2048 → (t.prog.live.getLsbD g = true ↔ s.cfg.liveMask.getLsbD g = true ∧
          (s.cfg.maxCores = 0 ∨ ((List.range g).filter s.cfg.liveMask.getLsbD).length < s.cfg.maxCores)))

/-- In S6 with the tests done and PERST# high, S7_ENTRY answers S7 with pause level 15, multiplier 4 on every stack, and, while the
pending store has room for them, an event of type 1 for each recorded fence with its function ID, its state and its first affected
DPA. (R63, R64, R504.) -/
def Obligations.S7EntryPlacesFenceEvents : Prop :=
  ∀ s : State, s.boot.st = .s6 → s.boot.s6Done = true → s.pins.perst = true →
    ∃ t, exec .s7Entry s = .next t ∧ t.boot.st = .s7 ∧ t.hk.level = 15 ∧ (∀ k, (t.stack k).mult = 4) ∧
      t.prog = s.prog ∧ t.cores = s.cores ∧ t.dram = s.dram ∧ t.regs = s.regs ∧
      (s.host.pend.length + s.boot.fences.length < 4095 → ∀ f ∈ s.boot.fences,
        ∃ e ∈ t.host.pend, e.ty = 1 ∧ e.fid = f.fid ∧ e.d0 = f.state ∧ e.d1 = f.dpa)

/-- With an operation in progress: NOR_OPERATION_DONE for a slot write answers a state whose NOR holds the bytes programmed and which has
started the next operation in order of request; NOR_TIMEOUT marks the operation timed out, records a fatal event of type 4 and sets
MG_ALERT bit 1. FATAL_LOG_WRITE with an idle NOR and a log position known starts the program of the oldest waiting entry at that
position. (R41, R43, R456, R457.) -/
def Obligations.NorOperationsEndInOrder : Prop :=
  ∀ s : State, s.pins.aonOn = true → s.pins.inputOn = true →
    (∀ a ds nx rest, s.nor.busy = some (.prog a ds .slot) → s.nor.queue = nx :: rest →
      ∃ t, exec .norOperationDone s = .next t ∧ t.nor.mem = norProgram s.nor.mem a ds ∧ t.nor.busy = some nx ∧ t.nor.queue = rest) ∧
    (∀ a, s.nor.busy = some (.erase a .slot) → s.nor.queue = [] →
      ∃ t, exec .norOperationDone s = .next t ∧ t.nor.mem = norErase s.nor.mem a ∧ t.nor.busy = none) ∧
    (∀ a ds, s.nor.busy = some (.prog a ds .slot) →
      ∃ t e, exec .norTimeout s = .next t ∧ t.nor.timedOut = true ∧ t.nor.fatalQ = s.nor.fatalQ ++ [e] ∧ e.ty = 4 ∧
        t.mgmt.alert = s.mgmt.alert ||| 2 ∧ t.dram = s.dram ∧ t.cores = s.cores) ∧
    (∀ e rest, s.nor.fatalQ = e :: rest → s.nor.busy = none → s.nor.fatalSeq ≠ 0 →
      ∃ t bs, exec .fatalLogWrite s = .next t ∧ t.nor.busy = some (.prog (0x2100000 + 256 * s.nor.fatalPos) bs .fatal) ∧
        bs.length = 256 ∧ bs.take 8 = leBytes 8 (s.nor.fatalSeq + 1) ∧ t.nor.mem = s.nor.mem)

/-- With AON power and a good PEC: GET_STATUS from S1 on answers START_STATUS and MG_ALERT, GET_IDENT the serial number, stepping and
ordering code, GET_SENSOR the slot's reading while rounds run, NOR_READ the bytes asked for with the NOR idle, NOR_STAT the NOR's
status in every state, and CLEAR_ALERT clears the named ones of bits 1 to 3 of MG_ALERT. A bad PEC is answered with status 4 and has
no effect. (R51, R436, R437, R450.) -/
def Obligations.ManagementReadsAnswer : Prop :=
  ∀ s : State, s.pins.aonOn = true →
    (s.boot.st.fromS1 = true →
      exec (.getStatus true) s = .next (s.mgAnswer 0 (leBytes 8 s.startStatus ++ leBytes 1 s.mgAlert))) ∧
    exec (.getIdent true) s = .next (s.mgAnswer 0 (leBytes 8 s.fuses.serial ++ [0xB0, 0x00] ++ orderingCode)) ∧
    (∀ k, s.hkRuns = true → k < 128 → exec (.getSensor k true) s = .next (s.mgAnswer 0 (leBytes 4 (s.hk.reading k)))) ∧
    (∀ a n, s.boot.st.fromS1 = true → s.nor.busy = none → 1 ≤ n → n ≤ 31 → a + n ≤ 0x4000000 →
      exec (.norRead a n true) s = .next (s.mgAnswer 0 (bytesAt erased s.nor.mem a n))) ∧
    exec (.norStat true) s = .next (s.mgAnswer 0 [BitVec.ofNat 8 (b2n s.nor.busy.isSome + 2 * b2n s.nor.timedOut)]) ∧
    (∀ m, ∃ t, exec (.clearAlert m true) s = .next t ∧ t.mgmt.status = 0 ∧ t.nor = s.nor ∧ t.hk = s.hk ∧
      ∀ i, t.mgmt.alert.testBit i = (s.mgmt.alert.testBit i && decide (1 ≤ i ∧ i ≤ 3) && !m.testBit i)) ∧
    (∀ c ∈ [Instr.getStatus false, .getIdent false, .norStat false], exec c s = .next (s.mgAnswer 4 [])) ∧
    (∀ k a n m, exec (.getSensor k false) s = .next (s.mgAnswer 4 []) ∧ exec (.norRead a n false) s = .next (s.mgAnswer 4 []) ∧
      exec (.clearAlert m false) s = .next (s.mgAnswer 4 []))

/-- In HOLD with an idle NOR: NOR_BUF puts its 16 bytes in the page buffer, NOR_PROG starts the program of the page buffer's 256 bytes at
a page address within the slots, NOR_ERASE the erase of a sector within them. An address at or above 0x2000000 is answered with status
2, a NOR in progress with status 1, a state other than HOLD with status 2, each without effect. (R67, R435, R436.) -/
def Obligations.SlotsAreWrittenInHoldOnly : Prop :=
  ∀ s : State, s.pins.aonOn = true →
    (s.boot.st = .hold → s.nor.busy = none →
      (∀ off bs, off % 16 = 0 → off < 256 → bs.length = 16 → AMap.wf 0 s.nor.buf = true →
        ∃ t, exec (.norBuf off bs true) s = .next t ∧ t.nor.mem = s.nor.mem ∧
          (∀ i, i < 16 → AMap.get 0 t.nor.buf (off + i) = bs.getD i 0) ∧
          (∀ a, a < off ∨ off + 16 ≤ a → AMap.get 0 t.nor.buf a = AMap.get 0 s.nor.buf a)) ∧
      (∀ a, a % 256 = 0 → a < 0x2000000 → ∃ t, exec (.norProg a true) s = .next t ∧ t.nor.mem = s.nor.mem ∧
        t.nor.busy = some (.prog a ((List.range 256).map fun i => AMap.get 0 s.nor.buf i) .slot)) ∧
      (∀ a, a % 4096 = 0 → a < 0x2000000 → ∃ t, exec (.norErase a true) s = .next t ∧ t.nor.mem = s.nor.mem ∧
        t.nor.busy = some (.erase a .slot)) ∧
      (∀ a, 0x2000000 ≤ a → exec (.norProg a true) s = .next (s.mgAnswer 2 []) ∧
        exec (.norErase a true) s = .next (s.mgAnswer 2 []))) ∧
    (s.boot.st = .hold → s.nor.busy.isSome = true → ∀ off bs a,
      exec (.norBuf off bs true) s = .next (s.mgAnswer 1 []) ∧ exec (.norProg a true) s = .next (s.mgAnswer 1 []) ∧
      exec (.norErase a true) s = .next (s.mgAnswer 1 [])) ∧
    (s.boot.st ≠ .hold → ∀ off bs a,
      exec (.norBuf off bs true) s = .next (s.mgAnswer 2 []) ∧ exec (.norProg a true) s = .next (s.mgAnswer 2 []) ∧
      exec (.norErase a true) s = .next (s.mgAnswer 2 []))

/-- While rounds run, HOUSEKEEPING_ROUND answers a state whose HK_ROUND is one higher and in which each temperature slot given a 32-bit
reading reads that value; no DRAM word is written unless a thermal shutdown falls due. (R449, R450, R467.) -/
def Obligations.HousekeepingRoundReadsEverySlot : Prop :=
  ∀ (s : State) (rs : List (Nat × Nat)), s.hkRuns = true → AMap.wf 0x80000000 s.hk.sensors = true →
    ∃ t, exec (.housekeepingRound rs) s = .next t ∧ t.hk.round = s.hk.round + 1 ∧
      (∀ k v, (k < 96 ∨ k = 112) → v < 2 ^ 32 → rs.find? (fun r => r.1 == k) = some (k, v) → t.hk.reading k = v) ∧
      (t.dram = s.dram ∨ t.hk.shutdown = true)

/-- When first use ends, the power P of the round is compared with budget B: P > B + BAND3 raises the level by 8, P > B + BAND2 by 4, P >
B + BAND1 by 2, P > B by 1, to at most 15, each clearing the down count; P at or below B − HYST raises the down count by one; between
them the down count clears and the level stays. A step down that is due lowers the level by one, not below 0, and clears the count.
(R458, R64.) -/
def Obligations.SmokerFollowsItsBands : Prop :=
  ∀ s : State,
    (s.hk.firstUseDue = true → ∀ b1 b2 b3 h : Nat, let w := (s.reg 0x100018).toNat
      b1 = bits w 10 0 → b2 = bits w 21 11 → b3 = bits w 32 22 → h = bits w 42 33 → b1 < b2 → b2 < b3 →
      ∃ t, exec .firstUseEnd s = .next t ∧ t.hk.firstUseDue = false ∧ t.cores = s.cores ∧ t.dram = s.dram ∧
        let e : Int := (s.hk.power : Int) - s.cfg.smoker.budget
        ((b3 : Int) < e → t.hk.level = min 15 (s.hk.level + 8) ∧ t.hk.down = 0) ∧
        ((b2 : Int) < e → e ≤ b3 → t.hk.level = min 15 (s.hk.level + 4) ∧ t.hk.down = 0) ∧
        ((b1 : Int) < e → e ≤ b2 → t.hk.level = min 15 (s.hk.level + 2) ∧ t.hk.down = 0) ∧
        (0 < e → e ≤ b1 → t.hk.level = min 15 (s.hk.level + 1) ∧ t.hk.down = 0) ∧
        (e ≤ 0 → e ≤ -(h : Int) → t.hk.level = s.hk.level ∧ t.hk.down = s.hk.down + 1) ∧
        (e ≤ 0 → -(h : Int) < e → t.hk.level = s.hk.level ∧ t.hk.down = 0)) ∧
    (s.hk.stepDownDue = true → exec .smokerStepDown s =
      .next { s with hk := { s.hk with level := s.hk.level - 1, down := 0, stepDownDue := false } })

/-- MULTIPLIER_STEP_DOWN of a stack whose step is due answers a state whose multiplier there is half, not below 1, all other stacks
unchanged. SLOT_FAILED of a slot that is due answers a state in which exactly that slot has joined the failed ones; when its unit has
no other slot left and no shutdown holds or is due, a shutdown reading of it is due. (R283, R451.) -/
def Obligations.RefreshMultiplierAndFailedSlots : Prop :=
  ∀ s : State,
    (∀ k, s.canon = true → (s.stack k).stepDue = true → ∃ t, exec (.multiplierStepDown k) s = .next t ∧
      (t.stack k).mult = max 1 ((s.stack k).mult / 2) ∧ (∀ j, j ≠ k → t.stack j = s.stack j) ∧ t.dram = s.dram ∧ t.hk = s.hk) ∧
    (∀ k, k < 128 → s.hk.failDue.testBit k = true → ∃ t, exec (.slotFailed k) s = .next t ∧
      (∀ j, t.hk.failed.testBit j = (s.hk.failed.testBit j || j == k)) ∧ t.cores = s.cores ∧ t.dram = s.dram ∧
      (unitSlots k ≠ [] → (∀ j ∈ unitSlots k, t.hk.failed.testBit j = true) → s.hk.shutdown = false → s.hk.shutDue = none →
        t.hk.shutDue = some (k, s.hk.reading k)))

/-- With a shutdown reading of slot k due, THERMAL_SHUTDOWN answers a state with no rail on, THERMTRIP# asserted, everything outside the
AON domain lost, and a fatal entry of type 1 with slot and reading waiting. RAIL_FAULT of a rail's slot in S7 answers HOLD with
FAIL_MOD 8, no rail on and a fatal entry of type 2 waiting. (R444, R445, R452, R453.) -/
def Obligations.ThermalShutdownAndRailFault : Prop :=
  ∀ s : State,
    (∀ k v, s.hk.shutDue = some (k, v) → ∃ t e, exec .thermalShutdown s = .next t ∧ t.pins.rails = 0 ∧ t.pins.thermtrip = true ∧
      t.discarded ∧ t.hk.shutdown = true ∧ t.nor.fatalQ = s.nor.fatalQ ++ [e] ∧ e.ty = 1 ∧ e.slot = k ∧ e.reading = v ∧
      t.nor.mem = s.nor.mem) ∧
    (∀ k, 114 ≤ k → k < 128 → s.boot.st = .s7 → ∃ t e, exec (.railFault k) s = .next t ∧ t.boot.st = .hold ∧ t.boot.failMod = 8 ∧
      t.pins.rails = 0 ∧ t.discarded ∧ t.nor.fatalQ = s.nor.fatalQ ++ [e] ∧ e.ty = 2 ∧ e.slot = k)

/-- A stream that fetches and stands at the instruction moves its PC past its words and counts one slot; NOP changes nothing else, PACE,
STEP_BEGIN outside a step and STEP_END inside one leave the stream waiting for what they name. The other streams' PCs, the registers
and mailboxes of the sequencer, the other sequencers and everything outside them are unchanged. (R86, R110, R122, R127, R91, R92,
R93.) -/
def Obligations.ControlInstructionsTakeOneSlot : Prop :=
  ∀ (s : State) (d : Nat) (e : Eng) (ws : List Nat), s.canon = true →
    let h := headOf (ws.headD 0)
    let goes := fun (i : Instr) (w : StreamWait) => ∃ t, exec i s = .next t ∧ t.onlySeq s d ∧
      t.seq d = { s.seq d with pc := (s.seq d).pc.set e ((s.seq d).pc.get e + 8 * ws.length),
                               slot := (s.seq d).slot.set e ((s.seq d).slot.get e + 1),
                               wait := (s.seq d).wait.set e w, pm := (t.seq d).pm }
    (s.controlAt d e 0x01 = some ws → goes (.nop d e) .none) ∧
    (s.controlAt d e 0x07 = some ws → goes (.pace d e) (.pace (engOf (bits h.low 38 37)) (bits h.low 36 31))) ∧
    (s.controlAt d e 0x04 = some ws → s.prog.inStep = false → goes (.stepBegin d e) .stepBegin) ∧
    (s.controlAt d e 0x05 = some ws → s.prog.inStep = true → goes (.stepEnd d e) (.stepEnd (bitOf h.low 38) (bits h.low 37 34)))

/-- With A the mailbox or scalar register and B the scalar register or extension word that the BR names, as its slot sees them, the
stream's PC becomes eight times TARGET when the condition (equal, not equal, signed less, signed not less, unsigned less, unsigned not
less, always) holds of A and B, and the address after the BR otherwise; no register, mailbox, loop count or other stream's PC changes,
and nothing outside the sequencer. (R77, R78, R123.) -/
def Obligations.BranchComparesAndJumps : Prop :=
  ∀ (s : State) (d : Nat) (e : Eng) (ws : List Nat), s.canon = true → s.controlAt d e 0x02 = some ws →
    let x := s.seq d
    let h := headOf (ws.headD 0)
    let q := x.slot.get e
    let a : Word := if bitOf h.low 35 then AMap.get 0 x.mb (bits h.low 34 31) else x.sxView s.prog e q (bits h.low 34 31)
    let b : Word := if bitOf h.low 30 then x.sxView s.prog e q (bits h.low 29 26) else BitVec.ofNat 64 (ws.tail.headD 0)
    let c := bits h.low 38 36
    let taken := (c = 0 ∧ a = b) ∨ (c = 1 ∧ a ≠ b) ∨ (c = 2 ∧ a.toInt < b.toInt) ∨ (c = 3 ∧ b.toInt ≤ a.toInt) ∨
      (c = 4 ∧ a.toNat < b.toNat) ∨ (c = 5 ∧ b.toNat ≤ a.toNat) ∨ 6 ≤ c
    ∃ t, exec (.br d e) s = .next t ∧ t.onlySeq s d ∧
      (taken → (t.seq d).pc = x.pc.set e (8 * bits h.low 18 0)) ∧
      (¬ taken → (t.seq d).pc = x.pc.set e (x.pc.get e + 8 * ws.length)) ∧
      (t.seq d).sx = x.sx ∧ (t.seq d).mb = x.mb ∧ (t.seq d).lcnt = x.lcnt ∧ (t.seq d).wcnt = x.wcnt ∧ (t.seq d).st = x.st ∧
      (t.seq d).wait = x.wait

/-- With V the named source (nothing, a scalar register or a mailbox) plus the extension word modulo 2^64: a scalar destination takes V, a
loop-count destination takes V when V is below 2^24, all other registers of the sequencer and everything outside it unchanged; a loop
count out of range begins a halt whose cause is 6 where no halt was in progress. (R76, R124, R106.) -/
def Obligations.LsetWritesOneRegister : Prop :=
  ∀ (s : State) (d : Nat) (e : Eng) (ws : List Nat), s.canon = true → s.controlAt d e 0x03 = some ws →
    let x := s.seq d
    let h := headOf (ws.headD 0)
    let k := bits h.low 36 33
    let src : Word := match bits h.low 32 31 with
      | 1 => x.sxView s.prog e (x.slot.get e) (bits h.low 30 27)
      | 2 => AMap.get 0 x.mb (bits h.low 30 27)
      | _ => 0
    let v : Word := src + BitVec.ofNat 64 (ws.tail.headD 0)
    ∃ t, exec (.lset d e) s = .next t ∧
      (bits h.low 38 37 = 0 → t.onlySeq s d ∧ (t.seq d).sx = AMap.set 0 x.sx k v ∧ (t.seq d).lcnt = x.lcnt ∧
        (t.seq d).mb = x.mb ∧ (t.seq d).wcnt = x.wcnt ∧ (t.seq d).pc = x.pc.set e (x.pc.get e + 8 * ws.length)) ∧
      (bits h.low 38 37 ≠ 0 → v.toNat < 2 ^ 24 → t.onlySeq s d ∧ (t.seq d).sx = x.sx ∧
        (t.seq d).lcnt = x.lcnt.set e (AMap.set 0 (x.lcnt.get e) k v.toNat) ∧
        (t.seq d).mb = x.mb ∧ (t.seq d).wcnt = x.wcnt ∧ (t.seq d).pc = x.pc.set e (x.pc.get e + 8 * ws.length)) ∧
      (bits h.low 38 37 ≠ 0 → 2 ^ 24 ≤ v.toNat → s.prog.halt = none →
        t.prog.halt = some { cause := 6, stream := engNum e, pc := x.pc.get e, code := 0 } ∧ (t.seq d).lcnt = x.lcnt)

/-- With no halt in progress: HALT begins one with cause 2, the stream, its PC and MOD as the code, and every sequencer in RUN is in
DRAIN, the cores unchanged; STEP_BEGIN inside a step and STEP_END outside one begin one with cause 6, every sequencer in RUN is in
DRAIN, and every queue of every core is empty. (R91, R104, R105, R106, R107.) -/
def Obligations.HaltStopsEverySequencer : Prop :=
  ∀ (s : State) (d : Nat) (e : Eng) (ws : List Nat), s.canon = true → s.prog.halt = none →
    let h := headOf (ws.headD 0)
    let drains := fun (t : State) => ∀ j, (s.seq j).st = .run → (t.seq j).st = .drain
    (s.controlAt d e 0x08 = some ws → ∃ t, exec (.halt d e) s = .next t ∧ drains t ∧ t.cores = s.cores ∧ t.dram = s.dram ∧
      t.prog.halt = some { cause := 2, stream := engNum e, pc := (s.seq d).pc.get e, code := bits h.low 14 0 }) ∧
    (s.controlAt d e 0x04 = some ws → s.prog.inStep = true → ∃ t, exec (.stepBegin d e) s = .next t ∧ drains t ∧
      (∀ g, (t.core g).q = .all []) ∧ t.dram = s.dram ∧
      t.prog.halt = some { cause := 6, stream := engNum e, pc := (s.seq d).pc.get e, code := 0 }) ∧
    (s.controlAt d e 0x05 = some ws → s.prog.inStep = false → ∃ t, exec (.stepEnd d e) s = .next t ∧ drains t ∧
      (∀ g, (t.core g).q = .all []) ∧ t.dram = s.dram ∧
      t.prog.halt = some { cause := 6, stream := engNum e, pc := (s.seq d).pc.get e, code := 0 })

/-- STEP_BEGIN_BARRIER with every stream of every unparked sequencer waiting at STEP_BEGIN answers a state in a step whose number is one
higher, where each such sequencer's streams wait for nothing and its snapshot holds its PCs, scalar registers, mailboxes, loop counts
and completion counts, these unchanged, and every live core's TOKSTAT is 0. (R92, R167.) -/
def Obligations.StepBarrierTakesTheSnapshot : Prop :=
  ∀ s : State, s.canon = true → s.allStreams (· == .stepBegin) = true →
    ∃ t, exec .stepBeginBarrier s = .next t ∧ t.prog.step = s.prog.step + 1 ∧ t.prog.inStep = true ∧ t.dram = s.dram ∧
      (∀ d ∈ s.activeSeqs, t.seq d = { s.seq d with wait := .all .none, snap :=
        { pc := (s.seq d).pc, sx := (s.seq d).sx, mb := (s.seq d).mb, lcnt := (s.seq d).lcnt, wcnt := (s.seq d).wcnt } }) ∧
      (∀ g ∈ s.liveCores, (t.core g).tokstat = 0 ∧ (t.core g).q = (s.core g).q)

/-- With every stream of every unparked sequencer at STEP_END, the engines idle, no mailbox reduction, halt or held reset pending and the
ledgers in balance and readable, END_OF_STEP answers a state outside any step, with the step number unchanged and the ledgers latched.
With LIMIT 0 or above the step number every stream of every unparked sequencer fetches on; with LIMIT not 0 and at most the step
number a halt of cause 1 has begun and those sequencers drain. (R93, R103, R107.) -/
def Obligations.EndOfStepHaltsAtTheLimit : Prop :=
  ∀ s : State, s.canon = true → s.prog.inStep = true →
    s.allStreams (fun w => match w with | .stepEnd _ _ => true | _ => false) = true → s.enginesIdle = true → s.prog.contribs = [] →
    s.prog.halt = none → s.flt.held = none → ∀ us, (∀ k, k < 8 → s.balanced k = true ∧ s.ledgUpset us k = false) →
    ∃ t, exec (.endOfStep us) s = .next t ∧ t.prog.inStep = false ∧ t.prog.step = s.prog.step ∧ t.dram = s.dram ∧ t.ledgAudit = s.ledg ∧
      let limit := bits (s.reg 0x180).toNat 47 0
      (limit = 0 ∨ s.prog.step.toNat < limit → t.prog.halt = none ∧
        ∀ d ∈ s.activeSeqs, (t.seq d).st = .run ∧ (t.seq d).wait = .all .none) ∧
      (limit ≠ 0 → limit ≤ s.prog.step.toNat → t.prog.halt = some { cause := 1, stream := 0, pc := 0, code := 0 } ∧
        ∀ d ∈ s.activeSeqs, (t.seq d).st = .drain)

/-- An engine whose queue head is a WTOK post of Wn, with every unparked sequencer's count of Wn below 15 and, on the VE, no mailbox
reduction of its core open, leaves the queue and its core has one more post of Wn. When every live core has posted Wn and every
unparked sequencer's count is below 15, WAGGLE_COMPLETION takes one post from each and raises all four counts by one, to at most 15;
at 15 it changes nothing. A stream of a running sequencer waiting on Wn with a count above 0 resumes and the count falls by one; a
paced stream resumes once the occupancy is at most N. (R87, R88, R89, R90.) -/
def Obligations.WaggleTokensCountCompletions : Prop :=
  ∀ s : State, s.canon = true →
    (∀ g e x rest, (s.core g).q.get e = x :: rest → s.engineOn g = true → x.head.op = 0x06 → x.phase = .queued →
      (e = .ve → ∀ k ∈ s.prog.contribs, k.core ≠ g) → (∀ d ∈ s.activeSeqs, (s.seq d).waggle (bits x.head.low 36 31) < 15) →
      AMap.wf 0 (s.core g).posted = true →
      ∃ t, exec (.wagglePost g e) s = .next t ∧ { t with cores := s.cores } = s ∧ (t.core g).q = (s.core g).q.set e rest ∧
        AMap.get 0 (t.core g).posted (bits x.head.low 36 31) = AMap.get 0 (s.core g).posted (bits x.head.low 36 31) + 1) ∧
    (∀ n, s.liveCores ≠ [] → (∀ g ∈ s.liveCores, 0 < AMap.get 0 (s.core g).posted n ∧ AMap.wf 0 (s.core g).posted = true) →
      (∀ d, d < 4 → AMap.wf 0 (s.seq d).wcnt = true) → (∀ d ∈ s.activeSeqs, (s.seq d).waggle n < 15) →
      ∃ t, exec (.waggleCompletion n) s = .next t ∧ { t with cores := s.cores, seqs := s.seqs } = s ∧
        (∀ d, d < 4 → (t.seq d).waggle n = min 15 ((s.seq d).waggle n + 1)) ∧
        (∀ g ∈ s.liveCores, AMap.get 0 (t.core g).posted n = AMap.get 0 (s.core g).posted n - 1)) ∧
    (∀ n, (∃ d ∈ s.activeSeqs, 15 ≤ (s.seq d).waggle n) → exec (.waggleCompletion n) s = .next s) ∧
    (∀ d e n, (s.seq d).wait.get e = .waggle n → (s.seq d).st = .run → 0 < (s.seq d).waggle n → AMap.wf 0 (s.seq d).wcnt = true →
      ∃ t, exec (.waggleWaitRelease d e) s = .next t ∧ t.onlySeq s d ∧ (t.seq d).wait = (s.seq d).wait.set e .none ∧
        (t.seq d).waggle n = (s.seq d).waggle n - 1) ∧
    (∀ d e e' n, (s.seq d).wait.get e = .pace e' n → (s.seq d).st = .run → s.qocc d e' ≤ n →
      ∃ t, exec (.paceRelease d e) s = .next t ∧ t.onlySeq s d ∧ t.seq d = { s.seq d with wait := (s.seq d).wait.set e .none })

/-- With stream e fetching a good instruction that is not a control instruction and no queue of e full, BROADCAST lengthens queue e of
every live core of the die by one, moves the stream past the words and leaves every core that is not live, and DRAM, unchanged. With a
full queue a halt of at least cause 3 has begun; at words that fail a check one of cause 6. A WTOK post makes the same entry, and its
wait leaves the stream waiting on its token. (R72, R73, R85, R87, R99, R117.) -/
def Obligations.BroadcastReachesEveryLiveCore : Prop :=
  ∀ (s : State) (d : Nat) (e : Eng) (ws : List Nat), s.canon = true → d < 4 → (s.seq d).fetching e = true →
    let lengthens := fun (t : State) => (∀ g ∈ s.liveOf d, ((t.core g).q.get e).length = ((s.core g).q.get e).length + 1) ∧
      (∀ g, g ∉ s.liveOf d → t.core g = s.core g) ∧ t.dram = s.dram ∧
      (t.seq d).pc = (s.seq d).pc.set e ((s.seq d).pc.get e + 8 * ws.length)
    ((s.seq d).fetch e = .ok ws → opGroup (headOf (ws.headD 0)).op ≠ .control → s.queueFull d e = false →
      ∃ t, exec (.broadcast d [e]) s = .next t ∧ lengthens t) ∧
    ((s.seq d).fetch e = .ok ws → opGroup (headOf (ws.headD 0)).op ≠ .control → s.queueFull d e = true → s.prog.halt = none →
      ∃ t h, exec (.broadcast d [e]) s = .next t ∧ t.prog.halt = some h ∧ h.cause = 3) ∧
    ((s.seq d).fetch e = .bad → s.prog.halt = none → ∃ t, exec (.broadcast d [e]) s = .next t ∧
      t.prog.halt = some { cause := 6, stream := engNum e, pc := (s.seq d).pc.get e, code := 0 } ∧ t.dram = s.dram) ∧
    (s.controlAt d e 0x06 = some ws → bitOf (headOf (ws.headD 0)).low 37 = true → s.queueFull d e = false →
      ∃ t, exec (.wtok d e) s = .next t ∧ lengthens t ∧
        (bitOf (headOf (ws.headD 0)).low 38 = true → (t.seq d).wait.get e = .waggle (bits (headOf (ws.headD 0)).low 36 31)))

/-- With segment g of sequencer d pending and the sequencer not running or the segment not live, SEGMENT_SWAP answers a state in which
each word of the segment is its shadow's, every other word of program memory is unchanged, and PENDING of g is 0. With g changed in
S7, SEGMENT_MEASUREMENT records the digest of its 64 KiB and extends the log by the old log, the segment number and the digest.
Nothing outside the sequencer changes. (R101, R102, R475.) -/
def Obligations.SegmentsSwapWhole : Prop :=
  ∀ (s : State) (d g : Nat), s.canon = true → d < 4 → g < 64 →
    (bitOf (s.seq d).pmPending g = true → ((s.seq d).st ≠ .run ∨ (s.seq d).segLive g = false) →
      AMap.wf zeroCw (s.seq d).pm = true → AMap.wf zeroCw (s.seq d).shadow = true →
      ∃ t, exec (.segmentSwap d g) s = .next t ∧ t.onlySeq s d ∧ (t.seq d).pc = (s.seq d).pc ∧
        (∀ k, k / 8192 = g → AMap.get zeroCw (t.seq d).pm k = AMap.get zeroCw (s.seq d).shadow k) ∧
        (∀ k, k / 8192 ≠ g → AMap.get zeroCw (t.seq d).pm k = AMap.get zeroCw (s.seq d).pm k) ∧
        bitOf (t.seq d).pmPending g = false) ∧
    (bitOf (s.seq d).dirty g = true → s.atS7 = true → AMap.wf 0 (s.seq d).meas = true →
      ∃ t, exec (.segmentMeasurement d g) s = .next t ∧ t.onlySeq s d ∧
        let m := Config.sha256 ((s.seq d).segBytes g)
        AMap.get 0 (t.seq d).meas g = m ∧
        (t.seq d).log = Config.sha256 (digestBytes (s.seq d).log ++ leBytes 1 g ++ digestBytes m) ∧
        (t.seq d).pm = (s.seq d).pm ∧ bitOf (t.seq d).dirty g = false)

/-- For each of the eleven, an engine that can start the instruction at its queue's head answers a state where, after the token it waited
for is consumed, AX[AD] of the stream holds the instruction's result modulo 2^48 (the sum, difference, product with the immediate,
shifts of 48 and more giving 0, bitwise and, unsigned minimum and maximum, selection, the 48-bit immediate, or AX[AA] × LIVE + rank or
its comparison), a write of AX31 leaves every AX as it was, the entry is executed, and no other register, core or memory changes. On a
stream with no recent AX write, a write of AX k at slot q is read as the old value at slots below q + 3 and as the new one, modulo
2^48, from slot q + 3 on; a write of AX31 changes nothing and AX31 reads the rank. (R80, R86, R128, R129, R130.) -/
def Obligations.AddressArithmeticWritesOneAx : Prop :=
  (∀ (s : State) (g : Nat) (e : Eng) (x : QEntry), s.canon = true →
    let u := s.startOf g e x
    let c := x.ctx g e (bitOf x.head.md 0)
    let A := c.ax u c.h.aa
    let B := if c.h.immS then c.h.imm48 else c.ax u c.h.ab
    let T := (A * (u.core g).liveCopy + (u.core g).rank) % 2 ^ 48
    let writes := fun (i : Instr) (op v : Nat) => s.readyEntry g e op = some x →
      ∃ t, exec i s = .next t ∧ axWritten u t g e c.h.ad v ∧
        (t.core g).q = (u.core g).q.set e (putEntry ((u.core g).q.get e) (s.doneEntry g e x .nothing))
    writes (.aadd g e) 0x10 (A + B) ∧ writes (.asub g e) 0x11 (A + (2 ^ 48 - B)) ∧ writes (.amuli g e) 0x12 (A * c.h.imm48) ∧
    writes (.ashl g e) 0x13 (if 48 ≤ B % 64 then 0 else A * 2 ^ (B % 64)) ∧
    writes (.ashr g e) 0x14 (if 48 ≤ B % 64 then 0 else A / 2 ^ (B % 64)) ∧ writes (.aand g e) 0x15 (A &&& B) ∧
    writes (.amin g e) 0x16 (min A B) ∧ writes (.amax g e) 0x17 (max A B) ∧
    writes (.asel g e) 0x18 (if A ≠ 0 then c.ax u c.h.ab else c.h.imm48) ∧
    writes (.amovi g e) 0x19 (c.ext.headD 0 % 2 ^ 48) ∧
    writes (.arank g e) 0x1A (if bits c.h.low 22 0 = 0 then T else if T < c.ax u c.h.ab then 1 else 0)) ∧
    ∀ (c : Core) (e : Eng) (q r k v : Nat),
    (k ≠ 31 → c.axUndo.get e = [] → AMap.wf 0 (c.ax.get e) = true →
      (r < q + 3 → (c.axWrite e q k v).axView e r k = (AMap.get 0 (c.ax.get e) k).toNat) ∧
      (q + 3 ≤ r → (c.axWrite e q k v).axView e r k = v % 2 ^ 48)) ∧
    c.axWrite e q 31 v = c ∧ c.axView e r 31 = c.rank

/-- With no SFLIP mask armed on the core and queue words that decode clean: DSET of an unpoisoned handle merges the low bits of its source
into the one descriptor word of its field; DLOAD from an aligned core-store address whose 16 words decode clean leaves the handle's 16
words equal to them and the handle marked poisoned exactly when one carries poison; DSTORE to such an address of a handle whose words
decode clean leaves the 16 words there equal to the handle's; DADV of an unpoisoned handle sets the base to base + inc × n modulo
2^48. No other core's state and no DRAM word changes. (R131, R132, R133, R134, R363.) -/
def Obligations.DescriptorInstructionsActOnTheirHandle : Prop :=
  ∀ (s : State) (g : Nat) (e : Eng) (x : QEntry), s.canon = true →
    let u := s.startOf g e x
    let c := x.ctx g e (bitOf x.head.md 0)
    let k := u.core g
    let hd := c.h.hd
    let a := c.ax u (bits c.h.md 8 4)
    let view := k.descView e x.slot hd
    let d := descOf (view.map fun w => (decode w).d.toNat)
    let others := fun (t : State) => (∀ h, h ≠ g → t.core h = s.core h) ∧ t.dram = s.dram ∧ t.seqs = s.seqs
    x.intact = true → u.reg (coreOff g + 0x220) = 0 → u.reg (coreOff g + 0x228) = 0 → AMap.wf zeroCw k.desc = true → AMap.wf zeroCw k.store = true →
    (s.readyEntry g e 0x20 = some x → AMap.get 0 k.poisoned hd = 0 → ∃ t, exec (.dset g e) s = .next t ∧ others t ∧
      let f := fieldPlace (bits c.h.md 14 9)
      let v := if bits c.h.md 3 3 = 1 then c.ext.headD 0 else a
      let o := decode (AMap.get zeroCw k.desc (16 * hd + f.1))
      (t.core g).desc = AMap.set zeroCw k.desc (16 * hd + f.1)
        (encode (mergeBits o.d (BitVec.ofNat 64 ((v % 2 ^ f.2.2) <<< f.2.1)) (BitVec.ofNat 64 ((2 ^ f.2.2 - 1) <<< f.2.1))) o.p) ∧
      (t.core g).store = k.store ∧ (t.core g).ax = k.ax) ∧
    (s.readyEntry g e 0x21 = some x → bits c.h.md 14 13 = 0 → a % 128 = 0 → a + 128 ≤ 2 ^ 20 →
      (∀ i, i < 16 → (decode (AMap.get zeroCw k.store (a / 8 + i))).cls = .clean) → ∃ t, exec (.dload g e) s = .next t ∧ others t ∧
        (∀ i, i < 16 → AMap.get zeroCw (t.core g).desc (16 * hd + i) = AMap.get zeroCw k.store (a / 8 + i)) ∧
        (∀ j, j < 16 * hd ∨ 16 * hd + 16 ≤ j → AMap.get zeroCw (t.core g).desc j = AMap.get zeroCw k.desc j) ∧
        (AMap.wf 0 k.poisoned = true → (AMap.get 0 (t.core g).poisoned hd ≠ 0 ↔
          ∃ i, i < 16 ∧ (decode (AMap.get zeroCw k.store (a / 8 + i))).p = true))) ∧
    (s.readyEntry g e 0x22 = some x → bits c.h.md 14 13 = 0 → a % 128 = 0 → a + 128 ≤ 2 ^ 20 →
      (∀ w ∈ view, (decode w).cls = .clean) → view.length = 16 → ∃ t, exec (.dstore g e) s = .next t ∧ others t ∧
        (∀ i, i < 16 → AMap.get zeroCw (t.core g).store (a / 8 + i) = view.getD i zeroCw) ∧
        (∀ j, j < a / 8 ∨ a / 8 + 16 ≤ j → AMap.get zeroCw (t.core g).store j = AMap.get zeroCw k.store j)) ∧
    (s.readyEntry g e 0x23 = some x → k.isPoisoned e x.slot hd = false → hd ≠ 0 → (∀ w ∈ view, (decode w).cls = .clean) →
      ∃ t, exec (.dadv g e) s = .next t ∧ others t ∧
        let n : Int := if bits c.h.md 12 12 = 1 then sext 12 (bits c.h.md 11 0) else sext 48 a
        let b := wrapBits 48 (Int.ofNat d.base + d.incs.getD (bits c.h.md 14 13) 0 * n)
        let o := decode (AMap.get zeroCw k.desc (16 * hd))
        (t.core g).desc = AMap.set zeroCw k.desc (16 * hd)
          (encode (mergeBits o.d (BitVec.ofNat 64 b) (BitVec.ofNat 64 (2 ^ 48 - 1))) o.p) ∧
        (t.core g).store = k.store)

/-- With an executed entry, number k of its queue's, whose writes have all been accepted by their homes: an instruction that posts, on a
lane that holds fewer than 63 tokens, adds one token and its status to the lane; one that does not post changes no lane; either way
the entry leaves the queue and its counts are the engine's last. No memory changes. (R163, R164, R166, R167, R489.) -/
def Obligations.TokenIsPlacedAtCompletion : Prop :=
  ∀ (s : State) (g : Nat) (e : Eng) (k : Nat) (x : QEntry), s.canon = true → executedEntry ((s.core g).q.get e) k = some x →
    s.writesHeld ((engNum e + 1) * 0x1000 + g) = false → AMap.wf Lane.init (s.core g).lanes = true →
    let l := x.head.plane
    (x.head.pv = true → ((s.core g).lane l).count < 63 → ∃ t, exec (.tokenPlace g e k) s = .next t ∧
      (t.core g).lane l = { (s.core g).lane l with
        count := ((s.core g).lane l).count + 1, status := ((s.core g).lane l).status ||| x.status,
        placed := ((s.core g).lane l).placed + 1 } ∧
      (∀ j, j ≠ l → (t.core g).lane j = (s.core g).lane j) ∧
      (t.core g).q = (s.core g).q.set e (((s.core g).q.get e).filter fun y => y.qid != x.qid) ∧
      (t.core g).lastSat.get e = x.sat % 2 ^ 48 ∧ (t.core g).store = (s.core g).store ∧ t.dram = s.dram) ∧
    (x.head.pv = false → ∃ t, exec (.tokenPlace g e k) s = .next t ∧ (t.core g).lanes = (s.core g).lanes ∧
      (t.core g).q = (s.core g).q.set e (((s.core g).q.get e).filter fun y => y.qid != x.qid) ∧
      (t.core g).lastFlush.get e = x.flush % 2 ^ 48 ∧ (t.core g).store = (s.core g).store ∧ t.dram = s.dram)

/-- For a block sum P and scale codes ea, eb: with 0xFF among the codes the scaled partial is the canonical NaN, with P = 0 it is +0.0,
neither counted. Otherwise, with S = P·2^(ea+eb−254), or P·2^(ea+eb−270) for LG8, a result with no event is an FP32 value within half
a unit in the last place of S with magnitude from 2^−126 below 2^128; a SAT event comes exactly when |S| ≥ 2^128 − 2^103 and delivers
the largest finite FP32 of the sign of P; a FLUSH event comes exactly when |S| < 2^−126 − 2^−151 and delivers a zero of the sign of P.
(R184.) -/
def Obligations.ScaledPartialIsTheNearestFp32 : Prop :=
  ∀ (lg : Bool) (p : Int) (ea eb : Nat), ea < 256 → eb < 256 →
    let r := scaledPartial lg p ea eb
    let S : ℚ := (p : ℚ) * 2 ^ ((ea : Int) + eb - 254 - (if lg then 16 else 0))
    (ea = 255 ∨ eb = 255 → r = (0x7FC00000, .none)) ∧
    (ea ≠ 255 → eb ≠ 255 → p = 0 → r = (0, .none)) ∧
    (ea ≠ 255 → eb ≠ 255 → p ≠ 0 →
      (r.2 = .satur ↔ (2 : ℚ) ^ (128 : Int) - 2 ^ (103 : Int) ≤ |S|) ∧ (r.2 = .satur → r.1 = if p < 0 then 0xFF7FFFFF else 0x7F7FFFFF) ∧
      (r.2 = .flushed ↔ |S| < (2 : ℚ) ^ (-126 : Int) - 2 ^ (-151 : Int)) ∧ (r.2 = .flushed → r.1 = if p < 0 then 0x80000000 else 0) ∧
      (r.2 ≠ .satur → r.2 ≠ .flushed → r.2 = .none ∧ ∃ v : ℚ, (fp32.value r.1).rat = some v ∧
        (2 : ℚ) ^ (-126 : Int) ≤ |v| ∧ |v| < (2 : ℚ) ^ (128 : Int) ∧ (0 < v ↔ 0 < p) ∧
        ∀ k : Int, (2 : ℚ) ^ k ≤ |S| → |S| < (2 : ℚ) ^ (k + 1) → |v - S| ≤ (2 : ℚ) ^ (k - 24)))

/-- The accumulation of a sequence of pairs of at most 32 from an INT32 accumulator is the accumulator plus the exact sum of their
products, brought into the INT32 range, and SAT is noted exactly when it was outside it; the accumulation of 32 pairs followed by
others is that of the others from the result of the first 32, SAT noted when either notes it. (R186, R189.) -/
def Obligations.Int32AccumulationSaturatesByChunks : Prop :=
  ∀ (fw fa : Nat) (acc : Int) (ws as : List Nat), -2147483648 ≤ acc → acc ≤ 2147483647 → ws.length = as.length →
    (ws ≠ [] → ws.length ≤ 32 →
      let z := acc + ((ws.zip as).map fun p => product fw fa p.1 p.2).sum
      (intAccum fw fa acc ws as).1 = max (-2147483648) (min 2147483647 z) ∧
      ((intAccum fw fa acc ws as).2.sat = true ↔ z < -2147483648 ∨ 2147483647 < z) ∧
      (intAccum fw fa acc ws as).2.flush = false) ∧
    (∀ us vs : List Nat, us.length = 32 → vs.length = 32 →
      let r := intAccum fw fa acc us vs
      let q := intAccum fw fa r.1 ws as
      intAccum fw fa acc (us ++ ws) (vs ++ as) = (q.1, ⟨r.2.sat || q.2.sat, false⟩))

/-- On a core whose memories and queue words decode clean and whose SFLIP mask is not armed, with valid unpoisoned operands without index
descriptors: MMA and MMAS complete, the bank named takes the accumulation kind where there is an element, and the other bank's words
are unchanged; MZERO leaves every word of each bank named the zero codeword and its kind NONE, the other as it was; MDRAIN completes,
and with ZERO clears its bank; MV on local weights completes without touching either bank. No DRAM word and no other core changes. A
second mismatch of an arithmetic check is a core fault. (R203, R204, R205, R208, R209, R212, R374.) -/
def Obligations.MatrixEngineInstructionsComplete : Prop :=
  ∀ (s : State) (g : Nat) (x : QEntry) (chk : ArithCheck), s.canon = true →
    let u := s.startOf g .me x
    let c := x.ctx g .me (bitOf x.head.md 0)
    let k := u.core g
    let A := u.opndAt c c.h.ha
    let B := u.opndAt c c.h.hb
    let D := u.opndAt c c.h.hd
    let bank := bits c.h.md 0 0
    let passes := chk = .clean ∨ ∃ n, chk = .recomputed n
    let kept := fun (t : State) => (∀ h, h ≠ g → t.core h = s.core h) ∧ t.dram = s.dram ∧ t.seqs = s.seqs ∧ t.prog = s.prog
    let other := fun (t : State) (b : Nat) => (t.core g).kind b = k.kind b ∧
      ∀ i, i < 512 → AMap.get zeroCw (t.core g).acc (512 * b + i) = AMap.get zeroCw k.acc (512 * b + i)
    let cleared := fun (t : State) (b : Nat) => (t.core g).kind b = .none ∧
      ∀ i, i < 512 → AMap.get zeroCw (t.core g).acc (512 * b + i) = zeroCw
    u.quietCore g = true → x.intact = true → A.poisoned c k = false → B.poisoned c k = false → D.poisoned c k = false →
    (∀ op i, (op = 0x40 ∧ i = Instr.mma g chk ∨ op = 0x41 ∧ i = Instr.mmas g chk) → s.readyEntry g .me op = some x →
      mmaOk (op == 0x41) c.its A B = true → A.isLocal = true → B.isLocal = true →
      (bitOf c.h.md 1 = true → k.kind bank = .none ∨ k.kind bank = mmaKind (op == 0x41) A) →
      (passes → ∃ t, exec i s = .next t ∧ kept t ∧ u.finished t g .me x (s.received g x) ∧ other t (1 - bank) ∧
        (c.its ≠ [] → A.count ≠ 0 → B.count ≠ 0 → (t.core g).kind bank = mmaKind (op == 0x41) A)) ∧
      (¬ passes → c.its ≠ [] → A.count ≠ 0 → B.count ≠ 0 → ∃ t, exec i s = .next t ∧ Flt.mk 1 (0x1000 + g) 0 ∈ t.flt.pend)) ∧
    (s.readyEntry g .me 0x42 = some x → c.its ≠ [] → ∃ t, exec (.mzero g) s = .next t ∧ kept t ∧ u.finished t g .me x (s.received g x) ∧
      ∀ b, b < 2 → if bitOf c.h.md b then cleared t b else other t b) ∧
    (s.readyEntry g .me 0x43 = some x → mdrainOk c.its D = true → D.isLocal = true → (s.prog.inStep = true → D.d.role ≠ 1) →
      ∃ t, exec (.mdrain g) s = .next t ∧ kept t ∧ u.finished t g .me x (s.received g x) ∧ other t (1 - bank) ∧
        if bitOf c.h.md 1 = true ∧ c.its ≠ [] then cleared t bank else other t bank) ∧
    (s.readyEntry g .me 0x44 = some x → mvOk false (bitOf c.h.md 0) c.its A B D = true → A.d.space ≠ 2 →
      (∀ sc, A.scale = some sc → sc.space ≠ 2) → (∀ sc, B.scale = some sc → sc.space ≠ 2) →
      (s.prog.inStep = true → D.d.role ≠ 1) → passes →
      ∃ t, exec (.mv g chk) s = .next t ∧ kept t ∧ u.finished t g .me x (s.received g x) ∧ other t 0 ∧ other t 1)

/-- On a core whose memories and queue words decode clean and whose SFLIP mask is not armed, with valid unpoisoned operands in its core
store, batts or cluster store, without index descriptors, each completes and touches nothing outside its core. Where such an
instruction makes one iteration and no operand is masked, and the destination's elements lie apart: a CARD without exit writes at each
place the chain's value of the elements of HA and HB with its indices; a RED writes the reduction of HA's elements in linear order; a
SOFTMAX of one row the row's outputs in HD's format; a MASKGEN the mask bit of each column and row. A second mismatch of an arithmetic
check is a core fault. (R147, R216, R217, R218, R219, R226, R227, R229, R233, R375.) -/
def Obligations.VectorInstructionsDeliverTheirValues : Prop :=
  ∀ (s : State) (g : Nat) (x : QEntry) (chk : ArithCheck), s.canon = true →
    let u := s.startOf g .ve x
    let c := x.ctx g .ve (bitOf x.head.md 0)
    let k := u.core g
    let A := u.opndAt c c.h.ha
    let B := u.opndAt c c.h.hb
    let D := u.opndAt c c.h.hd
    let gs := c.ext.map stageOf
    let exit := bits c.h.md 6 4
    let passes := chk = .clean ∨ ∃ n, chk = .recomputed n
    let one := c.its = [[]] ∧ A.mask = none ∧ B.mask = none ∧ D.mask = none ∧ (D.d.addrs [] (tuples D.d.used)).Nodup
    let src := fun (o : Opnd) (ix : List Nat) => entryOf o.d.fmt (u.peek g o.d.space (fmtWidth o.d.fmt) (o.d.bitAt [] ix).toNat)
    let dst := fun (t : State) (ix : List Nat) => t.peek g D.d.space (fmtWidth D.d.fmt) (D.d.bitAt [] ix).toNat
    let does := fun (i : Instr) (val : State → Prop) => ∃ t, exec i s = .next t ∧ (∀ h, h ≠ g → t.core h = s.core h) ∧
      t.dram = s.dram ∧ t.seqs = s.seqs ∧ u.finished t g .ve x (s.received g x) ∧ (t.core g).acc = k.acc ∧
      (t.core g).lanes = k.lanes ∧ (one → val t)
    u.quietCore g = true → x.intact = true → A.poisoned c k = false → B.poisoned c k = false → D.poisoned c k = false → A.isLocal = true →
    (s.prog.inStep = true → D.d.role ≠ 1) →
    (s.readyEntry g .ve 0x50 = some x → D.isLocal = true → B.isLocal = true →
      cardOk exit gs c.its D A (if c.h.hb = 0 then none else some B) = true →
      (passes → does (.card g chk) fun t => exit = 0 → ∀ ix ∈ tuples A.d.used,
        dst t ix = deliverAs D.d.fmt (chainStep gs (if c.h.hb = 0 then entryOf 8 0 else src B ix)
          { fl := fmtFloat A.d.fmt, x := src A ix, pred := true, ev := .none }).x % 2 ^ fmtWidth D.d.fmt) ∧
      (¬ passes → ∃ t, exec (.card g chk) s = .next t ∧ Flt.mk 1 (0x1000 + g) 0 ∈ t.flt.pend)) ∧
    (s.readyEntry g .ve 0x51 = some x → D.isLocal = true → bitOf c.h.md 3 = false → redOk (bits c.h.md 2 0) c.its A (some D) = true →
      does (.red g) fun t => dst t [0] = (reduceSet (bits c.h.md 2 0) (fmtFloat A.d.fmt) false
        ((tuples A.d.used).zipIdx.map fun p => { i := p.2, x := src A p.1, pred := true })).v % 2 ^ fmtWidth D.d.fmt) ∧
    (s.readyEntry g .ve 0x52 = some x → D.isLocal = true → softmaxOk c.its D A = true → passes →
      does (.softmax g chk) fun t => A.d.rank = 1 → ∀ i, i < A.d.sizes.getD 0 0 →
        dst t [i] = (convert false 7 D.d.fmt ((softmaxRow (bitOf c.h.md 0) (bits (c.ext.headD 0) 31 0)
          ((List.range (A.d.sizes.getD 0 0)).map fun j => some (src A [j]))).1.getD i 0)).1 % 2 ^ fmtWidth D.d.fmt) ∧
    (s.readyEntry g .ve 0x53 = some x → D.isLocal = true → maskgenOk c.its D = true →
      does (.maskgen g) fun t => ∀ i j, j < D.d.sizes.getD 0 0 → i < D.d.sizes.getD 1 0 →
        dst t [j, i] = b2n (maskBit (bits c.h.md 1 0) (sext 48 (c.ax u (bits c.h.md 6 2))) (Int.ofNat (bits (c.ext.headD 0) 31 0)) j i))

/-- A RED with a mailbox destination on valid local operands completes and adds one contribution with its core's tile index, operation and
value. When every live core has contributed to MBn, MAILBOX_REDUCTION takes one contribution of each and writes the same combined
value to MBn of all four sequencers, all other mailboxes unchanged: for COUNT the sum of the counts modulo 2^64, for any operation a
value that does not depend on the order in which the contributions arrived. (R78, R81, R230.) -/
def Obligations.MailboxReductionCombinesByTile : Prop :=
  ∀ s : State, s.canon = true →
    (∀ g x, let u := s.startOf g .ve x
      let c := x.ctx g .ve (bitOf x.head.md 0)
      let A := u.opndAt c c.h.ha
      s.readyEntry g .ve 0x51 = some x → bitOf c.h.md 3 = true → u.quietCore g = true → x.intact = true → A.poisoned c (u.core g) = false →
      A.isLocal = true → redOk (bits c.h.md 2 0) c.its A none = true →
      ∃ t k, exec (.red g) s = .next t ∧ t.prog.contribs = s.prog.contribs ++ [k] ∧ k.core = g ∧ k.mb = bits c.h.md 7 4 ∧
        k.tile = c.ax u (bits c.h.md 12 8) ∧ k.op = bits c.h.md 2 0 ∧ t.dram = s.dram ∧ u.finished t g .ve x (s.received g x)) ∧
    (∀ mb, s.liveCores ≠ [] → (∀ g ∈ s.liveCores, ∃ k ∈ s.prog.contribs, k.mb = mb ∧ k.core = g) →
      ∃ t v, exec (.mailboxReduction mb) s = .next t ∧
        (∀ d, d < 4 → (t.seq d).mb = AMap.set 0 (s.seq d).mb mb v ∧ (t.seq d).sx = (s.seq d).sx ∧ (t.seq d).pc = (s.seq d).pc) ∧
        t.dram = s.dram ∧ t.prog.step = s.prog.step ∧
        (∀ k ∈ t.prog.contribs, k ∈ s.prog.contribs) ∧
        t.prog.contribs.length + s.liveCores.length ≤ s.prog.contribs.length ∧
        ((∀ k ∈ s.prog.contribs, k.op = 5 ∧ k.included = true) →
          v = BitVec.ofNat 64 ((s.firstContribs mb).map fun k => k.value).sum)) ∧
    (∀ ks ks' : List Contrib, ks.Perm ks' → (ks.map fun k => (k.tile, k.core)).Nodup →
      combine (ks.foldr insertContrib []) = combine (ks'.foldr insertContrib []))

/-- On a core whose memories and queue words decode clean and whose SFLIP mask is not armed, with valid unpoisoned operands: GIDX leaves
stream q bound to its handle at position 0 with as many positions as iterations times indices. Run-ahead of a bound stream that is
neither stopped nor ahead of its limits, over an index descriptor and rows outside TVA space, advances one position and remembers its
index when the index lies in the row dimension, and stops without a halt when it does not. With one iteration, no mask, unpoisoned
indices in range and local operands, GATHER without a stream and FCOMPAT write at each place the element of the row its index names;
SCATTER with distinct places writes each source element at the place its index names. (R141, R142, R143, R314, R316, R317, R318,
R321.) -/
def Obligations.ForagerInstructionsComplete : Prop :=
  ∀ (s : State) (g : Nat) (x : QEntry), s.canon = true →
    let u := s.startOf g .fe x
    let c := x.ctx g .fe (bitOf x.head.md 0)
    let k := u.core g
    let A := u.opndAt c c.h.ha
    let D := u.opndAt c c.h.hd
    let el := fun (t : State) (o : Opnd) (ix : List Nat) => t.peek g o.d.space (fmtWidth o.d.fmt) (o.d.bitAt [] ix).toNat
    let index := fun (d : Desc) (j : Nat) => intValue d.fmt (u.peek g d.space (fmtWidth d.fmt) (d.bitAt [] [j]).toNat)
    let known := fun (d : Desc) => ∀ j, j < d.sizes.getD 0 0 →
      (decode (AMap.get zeroCw (u.memOf g d.space) ((d.bitAt [] [j]).toNat / 64))).p = false
    let does := fun (i : Instr) (val : State → Prop) => ∃ t, exec i s = .next t ∧ (∀ h, h ≠ g → t.core h = s.core h) ∧
      t.dram = s.dram ∧ t.seqs = s.seqs ∧ u.finished t g .fe x (s.received g x) ∧ val t
    u.quietCore g = true → x.intact = true → A.poisoned c k = false → D.poisoned c k = false → (s.prog.inStep = true → D.d.role ≠ 1) →
    (∀ ix, s.readyEntry g .fe 0x60 = some x → A.ok false none c.its = true → A.idx = some ix →
      does (.gidx g) fun t => let q := AMap.get IdxStream.init (t.core g).streams (bits c.h.md 1 0)
        q.bound = true ∧ q.handle = c.h.ha ∧ q.drawn = 0 ∧ q.ahead = 0 ∧ q.stopped = false ∧
        q.total = c.its.length * ix.sizes.getD 0 0 ∧ q.vals = []) ∧
    (∀ ix : Desc, A.idx = some ix → ix.space ≠ 2 → A.d.space ≠ 2 → D.d.space ≠ 2 → c.its = [[]] → A.mask = none → D.mask = none →
      D.idx = none → A.ok false none c.its = true → D.ok true none c.its = true → gatherShapes A D = true → A.d.space = spCL → known ix →
      (∀ j, j < ix.sizes.getD 0 0 → 0 ≤ index ix j ∧ index ix j < Int.ofNat (A.d.used.getLastD 0)) →
      (D.d.addrs [] (tuples D.d.used)).Nodup →
      let rows := fun (t : State) => ∀ p ∈ tuples D.d.used, el t D p = el u A (p.dropLast ++ [(index ix (p.getLastD 0)).toNat])
      (s.readyEntry g .fe 0x61 = some x → bitOf c.h.md 2 = false → does (.gather g) rows) ∧
      (s.readyEntry g .fe 0x63 = some x → D.d.space = spCS ∨ D.d.space = spCL → does (.fcompat g) rows)) ∧
    (∀ ix : Desc, D.idx = some ix → ix.space ≠ 2 → A.d.space ≠ 2 → D.d.space = spCL → c.its = [[]] → A.mask = none → D.mask = none →
      A.idx = none → A.ok false none c.its = true → D.ok true none c.its = true → gatherShapes D A = true → known ix →
      (∀ j, j < ix.sizes.getD 0 0 → 0 ≤ index ix j ∧ index ix j < Int.ofNat (D.d.used.getLastD 0)) →
      let place := fun (p : List Nat) => D.d.bitAt [] (p.dropLast ++ [(index ix (p.getLastD 0)).toNat])
      ((tuples A.d.used).map fun p => (place p).toNat).Nodup → s.readyEntry g .fe 0x62 = some x →
      does (.scatter g) fun t => ∀ p ∈ tuples A.d.used, t.peek g spCL (fmtWidth D.d.fmt) (place p).toNat = el u A p)

/-- With no die cache under reset, for a live core's bound stream that is not stopped and is within its positions, 4,096 of the next one
drawn and its 256 slots, over clean index words outside TVA space and rows outside TVA space: an unpoisoned index inside the row
dimension is remembered and the position advances by one; one outside it stops the stream; in both cases no halt begins, no DRAM word
and no sequencer changes. (R315, R316, R318.) -/
def Obligations.RunAheadReadsOneIndex : Prop :=
  ∀ (s : State) (g q : Nat), s.canon = true → s.engineOn g = true → s.quietCore g = true →
    let r := AMap.get IdxStream.init (s.core g).streams q
    let p := r.place r.ahead
    let v := intValue r.x.fmt (s.peek g r.x.space (fmtWidth r.x.fmt) (r.idxBit r.ahead))
    AMap.wf IdxStream.init (s.core g).streams = true → AMap.wf 0 r.vals = true →
    s.cacheReset = false → r.bound = true → r.stopped = false → r.ahead < r.total → r.ahead < r.drawn + 4096 → (s.core g).slots < 256 →
    r.x.space ≠ 2 → r.d.space ≠ 2 → inExtent r.x.space (r.x.span p.1) = true → inExtent r.d.space (r.d.span p.1) = true →
    (decode (AMap.get zeroCw (s.memOf g r.x.space) (r.idxBit r.ahead / 64))).p = false →
    ∃ t, exec (.runAheadPrefetch g q) s = .next t ∧ t.dram = s.dram ∧ t.seqs = s.seqs ∧ t.prog = s.prog ∧
      let z := AMap.get IdxStream.init (t.core g).streams q
      (0 ≤ v ∧ v < Int.ofNat (r.d.used.getLastD 0) → z.ahead = r.ahead + 1 ∧ z.stopped = false ∧ AMap.get 0 z.vals r.ahead = v + 1) ∧
      (v < 0 ∨ Int.ofNat (r.d.used.getLastD 0) ≤ v → z.stopped = true ∧ z.ahead = r.ahead)

/-- On a core whose memories and queue words decode clean and whose SFLIP mask is not armed, with valid unpoisoned local operands, without
index descriptors or masks, MOVE and FILL complete. With one iteration and a destination whose elements lie apart, element number i of
MOVE's destination becomes element number i of its source, and every element of FILL's destination the low bits of the extension word.
With no iteration nothing but the token and the queue changes. (R83, R84, R136.) -/
def Obligations.MoveAndFillWriteEachElement : Prop :=
  ∀ (s : State) (g : Nat) (x : QEntry), s.canon = true →
    let u := s.startOf g .xe x
    let c := x.ctx g .xe (bitOf x.head.md 0)
    let k := u.core g
    let A := u.opndAt c c.h.ha
    let D := u.opndAt c c.h.hd
    let el := fun (t : State) (o : Opnd) (ix : List Nat) => t.peek g o.d.space (fmtWidth o.d.fmt) (o.d.bitAt [] ix).toNat
    let does := fun (i : Instr) (val : State → Prop) => ∃ t, exec i s = .next t ∧ (∀ h, h ≠ g → t.core h = s.core h) ∧
      t.dram = s.dram ∧ t.seqs = s.seqs ∧ u.finished t g .xe x (s.received g x) ∧
      (c.its = [[]] → (D.d.addrs [] (tuples D.d.used)).Nodup → val t) ∧
      (c.its = [] → (t.core g).store = k.store ∧ (t.core g).batt = k.batt ∧ t.clusters = u.clusters)
    u.quietCore g = true → x.intact = true → D.poisoned c k = false → D.isLocal = true → D.mask = none → (s.prog.inStep = true → D.d.role ≠ 1) →
    D.ok true none c.its = true →
    (s.readyEntry g .xe 0x70 = some x → A.poisoned c k = false → A.isLocal = true → A.mask = none → A.ok false none c.its = true →
      A.d.fmt = D.d.fmt → A.count = D.count → does (.move g) fun t =>
        ∀ i, i < D.count → el t D ((tuples D.d.used).getD i []) = el u A ((tuples A.d.used).getD i [])) ∧
    (s.readyEntry g .xe 0x71 = some x → does (.fill g) fun t =>
        ∀ p ∈ tuples D.d.used, el t D p = c.ext.headD 0 % 2 ^ fmtWidth D.d.fmt)

/-- On a core whose memories and queue words decode clean, with valid unpoisoned operands and every frame of the weights and of their
scales in TVA space in the die's frame translation cache: a CMV with elements leaves its entry running with a record of at least one
tile still to be done; one with no element is executed at once. With no die cache under reset the ME takes the first tile left to it,
computes it while DRAM and the die caches decode clean, and the CMV's record has one tile less. A running CMV whose record has no tile
left becomes executed with the record's status and counts, and the record is gone. No sequencer changes. (R247, R249, R250, R212.) -/
def Obligations.CmvCompletesWithItsTiles : Prop :=
  ∀ (s : State) (g : Nat), s.canon = true →
    (∀ x, s.readyEntry g .xe 0x72 = some x →
      let u := s.startOf g .xe x
      let c := x.ctx g .xe (bitOf x.head.md 0)
      let A := u.opndAt c c.h.ha
      let B := u.opndAt c c.h.hb
      let D := u.opndAt c c.h.hd
      u.quietCore g = true → x.intact = true → A.poisoned c (u.core g) = false → B.poisoned c (u.core g) = false →
      D.poisoned c (u.core g) = false → mvOk true (bitOf c.h.md 0) c.its A B D = true → B.isLocal = true →
      (s.prog.inStep = true → D.d.role ≠ 1) →
      (∀ fr, (fr ∈ A.d.frames c.its ∨ ∃ y, A.scale = some y ∧ y.space = spTVA ∧ fr ∈ y.frames c.its) → (u.cachedFte (g / 512) fr).isSome = true) →
      ∃ t, exec (.cmv g) s = .next t ∧ t.seqs = s.seqs ∧ t.dram = s.dram ∧
        (c.its ≠ [] → (∀ n ∈ A.d.used, n ≠ 0) →
          (t.core g).q = (u.core g).q.set .xe (putEntry ((u.core g).q.get .xe) { x with
            phase := .running, consumed := true, recv := s.received g x, status := s.received g x, sat := 0, flush := 0 }) ∧
          0 < (AMap.get CmvRec.init (t.core g).cmvs x.qid).left) ∧
        (c.its = [] → u.finished t g .xe x (s.received g x))) ∧
    (∀ tl rest, (s.core g).mvq = tl :: rest → s.engineOn g = true → s.cacheReset = false → executedEntry ((s.core g).q.get .me) 0 = none →
      s.quietCore g = true → s.cleanDram = true → (s.core g).undisp = [] → tl.n0 ≤ 128 → tl.n1 ≤ 128 →
      (∀ fr ∈ framesOf (tl.halfWords 0 ++ tl.halfWords 1), (s.cachedFte (g / 512) fr).isSome = true) →
      ∃ t, exec (.mvFallback g .clean) s = .next t ∧ (t.core g).mvq = rest ∧ t.seqs = s.seqs ∧ t.dram = s.dram ∧
        (AMap.get CmvRec.init (t.core g).cmvs tl.qid).left = (AMap.get CmvRec.init (s.core g).cmvs tl.qid).left - 1) ∧
    (∀ x, (s.core g).q.get .xe = [x] → x.phase = .running → (AMap.get CmvRec.init (s.core g).cmvs x.qid).left = 0 →
      (s.core g).cmvs.any (fun r => r.1 == x.qid) = true → AMap.rising (s.core g).cmvs = true →
      ∃ t, exec (.cmvCompletion g) s = .next t ∧ { t with cores := s.cores } = s ∧ (∀ h, h ≠ g → t.core h = s.core h) ∧
        let r := AMap.get CmvRec.init (s.core g).cmvs x.qid
        (t.core g).q = (s.core g).q.set .xe [{ x with phase := .executed, status := x.status ||| r.status, sat := r.sat, flush := r.flush }] ∧
        (t.core g).cmvs.any (fun e => e.1 == x.qid) = false ∧ (t.core g).store = (s.core g).store)

/-- For an entry whose words decode clean: where it waits for no token the state it is performed from is the state before; where it waits
on a lane that holds one, the lane's count falls by one, its status clears with the last token and joins TOKSTAT, and no other lane,
register, queue, core or memory changes but the ledger of tokens. (R165, R166, R167.) -/
def Obligations.StartingConsumesTheAwaitedToken : Prop :=
  ∀ (s : State) (g : Nat) (e : Eng) (x : QEntry), s.canon = true → x.intact = true →
    let u := s.startOf g e x
    let k := s.core g
    let l := k.lane x.head.wlane
    (x.head.wv = false → u = s) ∧
    (x.head.wv = true → 0 < l.count → { u with cores := s.cores, ledg := s.ledg } = s ∧ (∀ h, h ≠ g → u.core h = s.core h) ∧
      { u.core g with lanes := k.lanes, tokstat := k.tokstat } = k ∧ (u.core g).tokstat = k.tokstat ||| l.status ∧
      (u.core g).lane x.head.wlane = { l with count := l.count - 1, status := if l.count = 1 then 0 else l.status, consumed := l.consumed + 1 } ∧
      ∀ j, j ≠ x.head.wlane → (u.core g).lane j = k.lane j)

/-- On a core whose memories and queue words decode clean, that has no transfer, with valid unpoisoned operands, the local one in its die,
and a peer in the swarm table: PEERPUT and PEERGET of one iteration leave the entry running with a transfer in slot 0 that names the
peer, the operation and the packed length; a GET waits for every word of it. A PUT without an RSP whose time runs out frees its slot
and its entry is executed with POISON; a transfer that has its RSP does not time out. MIRRORSYNC of mirrored frames whose writes are
done, with their entries in the frame translation cache, is executed with POISON exactly when one of them is stale. No DRAM word and
no sequencer changes. (R144, R145, R311, R423, R425.) -/
def Obligations.PeerTransfersAndMirrorSync : Prop :=
  ∀ (s : State) (g : Nat) (x : QEntry), s.canon = true →
    let u := s.startOf g .xe x
    let c := x.ctx g .xe (bitOf x.head.md 0)
    let k := u.core g
    let A := u.opndAt c c.h.ha
    let D := u.opndAt c c.h.hd
    let starts := fun (i : Instr) (serial op len : Nat) (got : List Nat) => ∃ t st, exec i s = .next t ∧ t.dram = s.dram ∧ t.seqs = s.seqs ∧
      (t.core g).q = k.q.set .xe (putEntry (k.q.get .xe) { x with
        phase := .running, consumed := true, recv := s.received g x, status := s.received g x ||| st, sat := 0, flush := 0 }) ∧
      let y := AMap.get Xfer.init (t.core g).xfers 0
      y.active = true ∧ y.qid = x.qid ∧ y.op = op ∧ y.peer = serial ∧ y.len = len ∧ y.got = got
    (∀ serial, u.quietCore g = true → x.intact = true → k.xfers = [] → A.poisoned c k = false → D.poisoned c k = false → c.its = [[]] →
      peerOfIns c u = some serial → A.d.fmt = D.d.fmt → A.count = D.count →
      (s.readyEntry g .xe 0x73 = some x → remoteOk c.its D.d = true → A.ok false none c.its = true → A.isLocal = true →
        D.d.packed ≤ 2 ^ 27 → starts (.peerput g) serial 1 D.d.packed []) ∧
      (s.readyEntry g .xe 0x74 = some x → remoteOk c.its A.d = true → D.ok true none c.its = true → D.isLocal = true →
        A.d.packed ≤ 2 ^ 27 → (s.prog.inStep = true → D.d.role ≠ 1) →
        starts (.peerget g) serial (if bits c.h.md 13 12 = 0 then 2 else 3) A.d.packed (List.range ((A.d.packed + 7) / 8)))) ∧
    (∀ slot y e, slot < 32 → (s.core g).xfers = [(slot, y)] → y.active = true → y.rsp = 0 → y.got = [] → (s.core g).q.get .xe = [e] →
      e.qid = y.qid → e.phase = .running →
      ∃ t, exec (.peerTransferTimeout g slot) s = .next t ∧ (t.core g).xfers = [] ∧ t.dram = s.dram ∧ t.seqs = s.seqs ∧
        (t.core g).q = (s.core g).q.set .xe [{ e with status := e.status ||| 1, phase := .executed }]) ∧
    (∀ slot, (AMap.get Xfer.init (s.core g).xfers slot).rsp ≠ 0 → exec (.peerTransferTimeout g slot) s = .next s) ∧
    (s.readyEntry g .xe 0x75 = some x → x.intact = true → u.quietCore g = true → A.poisoned c k = false → A.ok false none c.its = true →
      A.d.space = spTVA → bitOf A.d.attr 1 = true → s.mirrorWait g (x.ctx g .xe false) = false →
      (∀ fr ∈ A.d.frames c.its, (u.cachedFte (g / 512) fr).isSome = true) →
      ∃ t, exec (.mirrorsync g) s = .next t ∧ t.dram = s.dram ∧ t.seqs = s.seqs ∧
        let stale := (A.d.frames c.its).any fun fr => match u.cachedFte (g / 512) fr with | some f => f.mir && f.mstale | none => false
        (t.core g).q = k.q.set .xe (putEntry (k.q.get .xe) { x with
          phase := .executed, consumed := true, recv := s.received g x, status := s.received g x ||| statusIf stale 1, sat := 0, flush := 0 }))

/-- TILE_SEQUENCE at a unit in SERVICE without a tile takes the first waiting one with its command sequence. ROW_COMMAND_ISSUE: the lowest
bank or rank at debt 8 that no run holds is refreshed before anything else, bank by bank, and its unit of debt goes with the last of
them; an ACT the bus chooses opens its row, a PRE closes its bank's, a run starts its unit's segment. COLUMN_COMMAND_ISSUE: a full-
word write served writes its codeword and leaves the queue, a read goes to flight, a mode register written at the selected unit takes
its data. RUN_BOUNDARY ends the run; before another run of the phase its pair owes refreshes by preemption at debt 8 and by insertion
from POST on, and the requests it may then serve make up the break. (R265, R266, R267, R269, R273, R280, R335, R336, R337, R340, R359,
R361.) -/
def Obligations.CombUnitsRunTheirTiles : Prop :=
  ∀ s : State, s.canon = true →
    (∀ u tl rest, (s.cunit u).cur = none → (s.cunit u).waiting = tl :: rest → (s.cunit u).st = .service → s.combOn (unitDch u) = true →
      ∃ t, exec (.tileSequence u) s = .next t ∧ { t with units := s.units } = s ∧ (∀ v, v ≠ u → t.cunit v = s.cunit v) ∧
        t.cunit u = { s.cunit u with
          cur := some tl, waiting := rest, seq := tl.sequence u, running := false, ran := false, mixNext := false }) ∧
    (∀ n chk, AMap.wf 0 (s.ctl n).debt = true → AMap.wf 0 (s.ctl n).openRow = true → (s.ctl n).st = .run →
      (∀ i ∈ debtList n, ∀ b rest, AMap.get 0 (s.ctl n).debt i = 8 → s.idxHeld n i = false →
        (∀ j ∈ debtList n, j < i → AMap.get 0 (s.ctl n).debt j ≠ 8) → s.toRefresh n i = b :: rest → AMap.get 0 (s.ctl n).openRow b = 0 →
        (s.ctl n).sr = 0 → (s.ctl n).pd = 0 → s.merging n b = false → AMap.wf 0 (s.ctl n).perBank = true →
        AMap.get 0 (s.ctl n).perBank i < 2 ^ 16 →
        ∃ t, exec (.rowCommandIssue n 0 chk []) s = .next t ∧ AMap.get 0 (t.ctl n).debt i = (if rest = [] then 7 else 8) ∧
          t.toRefresh n i = (if rest = [] then debtBanks n i else rest) ∧ t.dram = s.dram ∧ t.units = s.units) ∧
      (∀ k b row, (s.rowList n)[k]? = some (.act b row) → ∃ t, exec (.rowCommandIssue n k chk []) s = .next t ∧
        (t.ctl n).openRow = AMap.set 0 (s.ctl n).openRow b (row + 1) ∧ t.dram = s.dram ∧ t.units = s.units) ∧
      (∀ k b, (s.rowList n)[k]? = some (.pre b) → ∃ t, exec (.rowCommandIssue n k chk []) s = .next t ∧
        AMap.get 0 (t.ctl n).openRow b = 0 ∧ t.dram = s.dram ∧ t.units = s.units) ∧
      (∀ k u, (s.rowList n)[k]? = some (.run u) → ∃ t, exec (.rowCommandIssue n k .clean []) s = .next t ∧
        (t.cunit u).running = true ∧ (t.cunit u).seq = (s.cunit u).seq.tail ∧ t.dram = s.dram)) ∧
    (∀ n k r, (s.colList n)[k]? = some (.serve r) →
      (r.ws = [] → ∃ t, exec (.columnCommandIssue n k) s = .next t ∧ t.dram = s.dram ∧ r ∈ (t.ctl n).inflight ∧
        ∀ q ∈ (t.ctl n).q, q.id ≠ r.id) ∧
      (∀ w, r.ws = [w] → w.mask = fullMask → s.reg (ctlOff n + 0x380) = 0 → s.reg (ctlOff n + 0x388) = 0 →
        ∃ t, exec (.columnCommandIssue n k) s = .next t ∧ t.dram = AMap.set zeroCw s.dram w.w (encode w.d w.p) ∧
          ∀ q ∈ (t.ctl n).q, q.id ≠ r.id)) ∧
    (∀ n k u mr d rest, (s.colList n)[k]? = some (.comb u) → (s.cunit u).seq = .cfg mr d :: rest → mr ≠ 0 →
      AMap.get 0 (s.ctl n).select (unitSid u) = selectOf u →
      ∃ t, exec (.columnCommandIssue n k) s = .next t ∧ t.cunit u = { (s.cunit u).cfg mr d with seq := rest } ∧
        (∀ v, v ≠ u → t.cunit v = s.cunit v) ∧ t.dram = s.dram) ∧
    (∀ u, (s.cunit u).running = true →
      let n := unitDch u
      let b := unitBank u
      let more := (s.cunit u).runNext = true ∧ (s.ctl n).st = .run
      let d := max (AMap.get 0 (s.ctl n).debt b) (AMap.get 0 (s.ctl n).debt (b + 1))
      let k := bits (s.reg (ctlOff n + 0x700)).toNat 3 0
      let post := if k = 0 ∨ 8 < k then 8 else k
      ∃ t, exec (.runBoundary u) s = .next t ∧ t.dram = s.dram ∧
        t.cunit u = { s.cunit u with
          running := false, owed := if more then (if d = 8 then 1 else if post ≤ d then 2 else (s.cunit u).owed) else (s.cunit u).owed } ∧
        (t.ctl n).brk = if more then (s.ctl n).brk ++ (s.servable n [] (s.bankQ n b) ++ s.servable n [] (s.bankQ n (b + 1))).map (·.id)
          else (s.ctl n).brk)

/-- RESIDUE_LIMIT at a unit in SERVICE that has met it leaves it EVACUATING with cause 3, without tiles, last in its ring's queue, with a
fault recorded. CALERT clears the alert of every unit of the channel and keeps their states. EVACUATION of the first unit of a free
ring that has no frame to move leaves it FENCED, the ring empty, with an event of type 6. With no die cache under reset,
FRAME_COPY_DONE of the last frame leaves the unit FENCED and the ring free: with the chain in order, no row moved before, and the
source frame served and clean, every word of the target frame is the source's; after a chain error no DRAM word changes. (R241, R255,
R256, R257, R286.) -/
def Obligations.UnitsLeaveServiceByEvacuation : Prop :=
  ∀ s : State, s.canon = true →
    (∀ u, (s.cunit u).limitDue = true → (s.cunit u).st = .service → (s.ring (ringOf u)).cur = none →
      ∃ t, exec (.residueLimit u) s = .next t ∧ (t.cunit u).st = .evacuating ∧ (t.cunit u).cause = 3 ∧ (t.cunit u).cur = none ∧
        (t.cunit u).waiting = [] ∧ (t.ring (ringOf u)).queue = (s.ring (ringOf u)).queue ++ [u] ∧
        Flt.mk 4 (0x5000 + unitDch u) u ∈ t.flt.pend) ∧
    (∀ n, s.combOn n = true → (∃ u ∈ groupUnits n, (s.cunit u).faultDue ≠ 0) →
      ∃ t, exec (.calert n []) s = .next t ∧ t.dram = s.dram ∧
        ∀ u ∈ groupUnits n, (t.cunit u).faultDue = 0 ∧ (t.cunit u).st = (s.cunit u).st ∧ (t.cunit u).cur = (s.cunit u).cur) ∧
    (∀ u, (s.cunit u).st = .evacuating → s.cacheReset = false → s.ring (ringOf u) = { queue := [u], cur := none } → s.fteKeys = [] → s.host.pend.length < 4095 →
      ∃ t, exec (.evacuation u) s = .next t ∧ (t.cunit u).st = .fenced ∧ t.ring (ringOf u) = { queue := [], cur := none } ∧
        t.dram = s.dram ∧ ∃ e ∈ t.host.pend, e.ty = 6 ∧ e.fid = 0x5000 + unitDch u ∧ e.d0 = 0 ∧ e.d1 = 0) ∧
    (∀ u e fr w f, (s.ring (ringOf u)).cur = some e → e.unit = u → e.copy = some (fr, w, f) → e.todo = [] → s.heldWrites = [] → s.cacheReset = false →
      (∃ t, exec (.frameCopyDone u false) s = .next t ∧ t.dram = s.dram ∧ (t.cunit u).st = .fenced ∧ (t.ring (ringOf u)).cur = none) ∧
      (f ≠ (fteOf w).frame → e.rows = 0 → s.cleanDram = true → s.memIdle = true → (∀ d, (s.die d).lines = []) →
        (∀ i, i < 2 ^ 14 → ∃ pl, placeOf s.cfg (8 * ((fteOf w).frame * 2 ^ 14 + i)) = some pl ∧ s.serves pl = true) →
        ∃ t, exec (.frameCopyDone u true) s = .next t ∧ (t.cunit u).st = .fenced ∧ (t.ring (ringOf u)).cur = none ∧
          ∀ i, i < 2 ^ 14 → AMap.get zeroCw t.dram (f * 2 ^ 14 + i) = AMap.get zeroCw s.dram ((fteOf w).frame * 2 ^ 14 + i)))

/-- Awake, and with the die cache not under reset: HOME_ACCESS with a prefetch at the front takes it, returns its slot, and where its
place is served leaves the line present; no DRAM word changes. MIRROR_DUPLICATE takes the oldest duplicate, and the later ones of its
frame where the mirror becomes stale; a full-word write of a mirror whose controller and home are in service and whose line is present
leaves the line dirty with that codeword. FTE_READ of a frame the cache does not hold, whose entry's word decodes clean in its home: a
valid consistent entry is then held, an invalid one is not. (R298, R300, R302, R303, R307, R308, R310, R315.) -/
def Obligations.HomesServeTheirAccesses : Prop :=
  ∀ s : State, s.canon = true →
    (s.asleep = false → s.cleanDram = true → ∀ d r rest g q, s.flt.resetting.contains (0x9000 + d) = false → (s.die d).inbox = r :: rest → r.why = .prefetch g q →
      ∃ t, exec (.homeAccess d ⟨none, []⟩) s = .next t ∧ (t.die d).inbox = rest ∧ (t.core g).slots = (s.core g).slots - 1 ∧
        t.dram = s.dram ∧ (∀ pl, placeOf s.cfg r.dpa = some pl → s.serves pl = true → (t.line? d (r.dpa / 128)).isSome = true)) ∧
    (s.asleep = false → ∀ d u rest, (s.die d).dups = u :: rest →
      ∃ t, exec (.mirrorDuplicate d) s = .next t ∧
        ((t.die d).dups = rest ∨ (t.die d).dups = rest.filter fun x => x.frame != u.frame) ∧
        ∀ w pl l, u.ws = [w] → w.mask = fullMask → placeOf s.cfg (8 * w.w) = some pl → s.isFenced (ctlFid pl.ctl) = false →
          (s.ctl pl.ctl).st ≠ .reset → s.isFenced (0x9000 + u.home) = false → s.flt.resetting.contains (0x9000 + u.home) = false →
          combAddr s.cfg (8 * w.w) = false →
          s.line? (homeOf s.cfg (8 * w.w)) (w.w / 16) = some l →
          s.reg (frameOff + 0x280 + 0x20 * homeOf s.cfg (8 * w.w)) = 0 → s.reg (frameOff + 0x288 + 0x20 * homeOf s.cfg (8 * w.w)) = 0 →
          (t.die d).dups = rest ∧
          t.line? (homeOf s.cfg (8 * w.w)) (w.w / 16) = some { words := l.words.set (w.w % 16) (encode w.d w.p), dirty := true }) ∧
    (∀ d fr pl l, (∀ e ∈ AMap.get [] (s.die d).ftc (ftcSet fr), e.1 ≠ fr) → s.reg (frameOff + 0x280 + 0x20 * d) = 0 →
      s.reg (frameOff + 0x288 + 0x20 * d) = 0 →
      let w := s.cfg.frameBase / 8 + fr
      placeOf s.cfg (8 * w) = some pl → s.line? (homeOf s.cfg (8 * w)) (w / 16) = some l →
      (decode (l.words.getD (w % 16) zeroCw)).cls = .clean → (decode (l.words.getD (w % 16) zeroCw)).p = false →
      let f := fteOf (decode (l.words.getD (w % 16) zeroCw)).d
      ∃ t, exec (.fteRead d fr) s = .next t ∧ t.dram = s.dram ∧ t.seqs = s.seqs ∧
        (f.v = true → f.consistent s.cfg = true → t.cachedFte d fr = some f) ∧ (f.v = false → t.cachedFte d fr = none))

/-- MEMORY_REQUEST takes the one write a home holds for a controller with room, in order of arrival. DRAM_ACCESS_COMPLETE of a host read
of clean words answers its half of the line with poison where a word has it; of a write it stores the merged codeword. PATROL_SCRUB
queues a read of the next line and moves on by one. REFRESH_DUE, from the fill of S5 on, raises the debt by one and the ledger's count
with it, but in self-refresh. POWER_DOWN_TIMER of an idle part makes its entry due, and the row bus's PDE powers it down. (R331, R332,
R333, R339, R340, R341, R359, R361, R369, R370, R372, R406.) -/
def Obligations.ControllersTakeAndCompleteRequests : Prop :=
  ∀ (s : State) (n : Nat), s.canon = true →
    (∀ r pl, AMap.get [] s.homeOut n = [r] → placeOf s.cfg r.dpa = some pl → pl.ctl = n → s.serves pl = true → s.hasRoom pl r = true →
      r.ws ≠ [] → (∀ q ∈ (s.ctl n).q, q.why ≠ .scrubBack) →
      ∃ t, exec (.memoryRequest n) s = .next t ∧ AMap.get [] t.homeOut n = [] ∧ t.dram = s.dram ∧
        (t.ctl n).q = (s.ctl n).q ++ [{ r with id := (s.ctl n).seq }]) ∧
    (∀ r rest pl, (s.ctl n).inflight = r :: rest → (s.ctl n).st = .run → placeOf s.cfg r.dpa = some pl →
      (∀ half, half < 2 → r.ws = [] → r.why = .hostRead half → r.len = 128 →
        let at' := fun i => decode (AMap.get zeroCw s.dram (r.dpa / 8 + i))
        let ws := (List.range 8).map fun i => at' (8 * half + i)
        (∀ i, i < 16 → (at' i).cls = .clean) →
        ∃ t, exec (.dramAccessComplete n []) s = .next t ∧ t.dram = s.dram ∧ (t.ctl n).inflight = rest ∧
          t.host.out = s.host.out ++ [.memData (r.dpa + 64 * half) (ws.map (·.d)) (ws.any (·.p))]) ∧
      (∀ w, r.ws = [w] → s.reg (ctlOff n + 0x380) = 0 → s.reg (ctlOff n + 0x388) = 0 →
        ∃ t, exec (.dramAccessComplete n []) s = .next t ∧ (t.ctl n).inflight = rest ∧
          t.dram = AMap.set zeroCw s.dram w.w (rmw (AMap.get zeroCw s.dram w.w) w.d w.mask w.p).1)) ∧
    (∀ pl, let r : Req := { id := 0, src := 0xA000 + n, dpa := scrubLine s.cfg n (s.ctl n).scrubPos, len := 128, ws := [], keep := false, why := .scrub }
      bitOf s.cfg.scrub.enable (if isDch n then 0 else 1) = true → s.dorm.scrubStopped = false → (s.ctl n).st = .run → s.atS7 = true → n < 272 →
      placeOf s.cfg r.dpa = some pl → pl.ctl = n → s.serves pl = true → s.forwardable n r = none → s.hasRoom pl r = true →
      (∀ q ∈ (s.ctl n).q, q.why ≠ .scrubBack) →
      ∃ t, exec (.patrolScrub n) s = .next t ∧ (t.ctl n).scrubPos = ((s.ctl n).scrubPos + 1) % scrubLines n ∧ t.dram = s.dram ∧
        (t.ctl n).q = (s.ctl n).q ++ [{ r with id := (s.ctl n).seq }]) ∧
    (∀ i ∈ debtList n, s.refreshing = true → (s.ctl n).refreshes = true → AMap.get 0 (s.ctl n).debt i < 8 →
      (∃ b ∈ debtBanks n i, AMap.get 0 (s.ctl n).lost b = 0) → bitOf (s.ctl n).sr (partOf n ((debtBanks n i).headD 0)) = false →
      ∃ t, exec (.refreshDue n i) s = .next t ∧ AMap.get 0 (t.ctl n).debt i = AMap.get 0 (s.ctl n).debt i + 1 ∧ t.dram = s.dram ∧
        (∀ j, j ≠ i → AMap.get 0 (t.ctl n).debt j = AMap.get 0 (s.ctl n).debt j) ∧ t.ledgGet 3 0 = s.ledgGet 3 0 + 1) ∧
    (∀ p ∈ partsOf n, s.atS7 = true → s.cfg.timers.pd ≠ 0 → (s.ctl n).st = .run → bitOf (s.ctl n).pd p = false →
      s.partIdle n p = true →
      ∃ t, exec (.powerDownTimer n p) s = .next t ∧ t = s.setCtl n { s.ctl n with pdDue := (s.ctl n).pdDue ||| (1 <<< p) } ∧
        bitOf (t.ctl n).pdDue p = true) ∧
    (∀ k p chk, (s.rowList n)[k]? = some (.pde p) → ∃ t, exec (.rowCommandIssue n k chk []) s = .next t ∧ bitOf (t.ctl n).pd p = true ∧
      bitOf (t.ctl n).pdDue p = false ∧ t.dram = s.dram ∧ t.units = s.units ∧ (t.ctl n).q = (s.ctl n).q)

/-- CAPERR of a running controller answers one that is frozen with cause 2 and records the fault. DIAG_WINDOW_EXPIRY, and RELEASE from the
host, of a frozen controller that holds one plain write, while a program runs or no fault waits, leave it with empty queues, every row
closed, and the write's word stored with poison: with the pattern exchange in order it runs, and where the exchange fails while a
program runs it is fenced and a channel loss recorded. (R349, R350, R351, R387.) -/
def Obligations.FrozenControllersAreReset : Prop :=
  ∀ (s : State) (n : Nat), s.canon = true → n < 272 →
    (s.atS7 = true → s.asleep = false → (s.ctl n).st = .run → n < 256 →
      ∃ t, exec (.caperr n) s = .next t ∧ (t.ctl n).st = .frozen ∧ (t.ctl n).frz.cause = 2 ∧ (t.ctl n).frz.multi = false ∧
        Flt.mk 5 (ctlFid n) 0 ∈ t.flt.pend ∧ t.dram = s.dram) ∧
    (∀ ok r w, (s.ctl n).st = .frozen → (s.ctl n).q = [r] → (s.ctl n).inflight = [] → r.ws = [w] → r.why = .plain →
      s.busy = true ∨ s.flt.pend = [] ∧ ok = true → ∀ c, (c = Instr.diagWindowExpiry n ok ∨ c = Instr.release n ok ∧ s.hostUp = true ∧ s.asleep = false) →
      ∃ t, exec c s = .next t ∧ (t.ctl n).q = [] ∧ (t.ctl n).inflight = [] ∧ (t.ctl n).openRow = [] ∧ (t.ctl n).pd = 0 ∧
        (decode (AMap.get zeroCw t.dram w.w)).p = true ∧
        (ok = true → (t.ctl n).st = .run) ∧
        (ok = false → (t.ctl n).st = .fenced ∧ Flt.mk (if n < 256 then 7 else 9) (ctlFid n) 0 ∈ t.flt.pend))

/-- STEP_WATCHDOG in a step with the watchdog set and no stalled engine begins a halt of cause 8; a live core reported with an engine that
may have stalled faults; one none of whose engines may have does not. While a program runs, BANK_LOSS of a bank with four bad rows
marks it lost and records the bank's fault; D2D_LINK_LOSS and CORE_PLL_LOCK_LOSS record theirs, the latter stopping the PLL.
D2D_RETRAIN of a link in service raises its counter by one. (R386, R387, R393, R440, R447.) -/
def Obligations.LossesAreRecordedAsFaults : Prop :=
  ∀ s : State, s.canon = true →
    (s.running = true → s.prog.inStep = true → s.reg (ledgOff + 0x18) ≠ 0 →
      (∀ gs : List Nat, s.prog.halt = none → (∀ g ∈ gs, s.isLive g = true → ∀ e, s.mayStall g e = false) →
        ∃ t h, exec (.stepWatchdog gs) s = .next t ∧ t.prog.halt = some h ∧ h.cause = 8 ∧ t.flt.watchdog = true) ∧
      (∀ g e, s.isLive g = true → s.mayStall g e = true → ∃ t, exec (.stepWatchdog [g]) s = .next t ∧ Flt.mk 1 (0x1000 + g) 0 ∈ t.flt.pend ∧
        ∀ d, (s.seq d).st = .run → (t.seq d).st = .replay)) ∧
    (∀ n b, s.atS7 = true → n < 272 → b ∈ banksOf n → AMap.get 0 (s.ctl n).lost b = 0 → 4 ≤ s.badRows n b →
      ∃ t, exec (.bankLoss n b) s = .next t ∧ (s.busy = true → AMap.get 0 (t.ctl n).lost b = 1 ∧ Flt.mk 6 (ctlFid n) b ∈ t.flt.pend ∧ t.dram = s.dram)) ∧
    (∀ l, s.atS7 = true → l < 4 → s.isFenced (0x8000 + l) = false →
      ∃ t, exec (.d2dLinkLoss l) s = .next t ∧ (s.busy = true → Flt.mk 12 (0x8000 + l) 0 ∈ t.flt.pend ∧ t.dram = s.dram)) ∧
    (∀ d, s.atS7 = true → s.dorm.st ≠ .entering → d < 4 → bitOf s.pins.corePll d = true →
      ∃ t, exec (.corePllLockLoss d) s = .next t ∧ (s.busy = true → bitOf t.pins.corePll d = false ∧ Flt.mk 3 (0x3000 + d) 0 ∈ t.flt.pend)) ∧
    (∀ l, l < 4 → (s.link l).st ≠ 2 → s.counter (d2dOff l + 0x10) < 2 ^ 48 →
      ∃ t, exec (.d2dRetrain l) s = .next t ∧ { t with cnt := s.cnt } = s ∧ t.counter (d2dOff l + 0x10) = s.counter (d2dOff l + 0x10) + 1)

/-- FAULT_REPLAY with every function in service, no fault, no frozen controller and nothing on its way resumes each live sequencer that
waits for replay from the snapshot of the step, with one attempt more; after four attempts it begins a halt of cause 8.
PER_FUNCTION_RESET_DONE of a core leaves its queues and memories as after start and clears BUSY. REHYDRATION_COPY of a frame of tier F
leaves it repointed with its lost copy as its stale mirror, and counts it. With no fault waiting, HALT_COMPLETE leaves each draining
sequencer HALTED with the halt's cause and instruction, and the completion record's step. (R107, R382, R388, R390, R392, R411.) -/
def Obligations.RecoveryRestoresTheStep : Prop :=
  ∀ s : State, s.canon = true →
    (s.flt.pend = [] → s.flt.resetting = [] → s.ctls.all (fun c => c.2.st != .frozen) = true → s.inReplay = true →
      (s.prog.attempts < 4 → s.serviceRow = 0 → s.memIdle = true → AMap.sum (fun c => c.slots) s.cores = 0 → (∀ k, k < 8 → s.balanced k = true) →
        s.prog.admitted = s.prog.live → (∀ d ∈ s.activeSeqs, s.liveOf d ≠ []) →
        ∀ us, (∀ k, k < 8 → s.ledgUpset us k = false) → ∃ t, exec (.faultReplay [] us) s = .next t ∧ t.prog.attempts = s.prog.attempts + 1 ∧ t.dram = s.dram ∧ t.prog.step = s.prog.step ∧
          ∀ d, d < 4 → (s.seq d).st = .replay → (t.seq d).st = .run ∧ (t.seq d).pc = (s.seq d).snap.pc ∧ (t.seq d).sx = (s.seq d).snap.sx ∧
            (t.seq d).mb = (s.seq d).snap.mb ∧ (t.seq d).lcnt = (s.seq d).snap.lcnt ∧ (t.seq d).wcnt = (s.seq d).snap.wcnt ∧
            (t.seq d).wait = .all .none) ∧
      (4 ≤ s.prog.attempts → s.prog.halt = none → ∀ us, ∃ t h, exec (.faultReplay [] us) s = .next t ∧ t.prog.halt = some h ∧ h.cause = 8 ∧
        t.flt.replayMax = true)) ∧
    (∀ g r rs, g < 2048 → s.flt.busy = some (0x1000 + g, false) → s.flt.resetting = r :: rs → s.inReplay = false → s.flt.pend = [] → s.flt.homeHeld = [] →
      ∃ t, exec (.perFunctionResetDone true []) s = .next t ∧ t.flt.busy = none ∧ t.flt.resetting = [] ∧ t.flt.result = 0 ∧
        (t.core g).q = .all [] ∧ (t.core g).store = [] ∧ (t.core g).batt = [] ∧ (t.core g).acc = [] ∧ (t.core g).desc = [] ∧
        (t.core g).ax = .all [] ∧ (t.core g).streams = [] ∧ ∀ l, ((t.core g).lane l).count = 0) ∧
    (∀ e e' rest, s.flt.rehyd = e :: e' :: rest → s.inReplay = false → s.cacheReset = false → (fteOf e.old).tier = 1 →
      ∃ t, exec .rehydrationCopy s = .next t ∧ t.flt.rehyd = e' :: rest ∧ t.flt.rehydLeft = s.flt.rehydLeft + 1 ∧
        t.flt.rehydMoved = s.flt.rehydMoved ∧ t.dram = s.dram ∧
        let w := s.cfg.frameBase / 8 + e.frame
        let d := homeOf s.cfg (8 * w)
        ∀ l, (placeOf s.cfg (8 * w)).isSome = true → combAddr s.cfg (8 * w) = false → s.line? d (w / 16) = some l →
          l.words.getD (w % 16) zeroCw = encode e.now false → s.reg (frameOff + 0x280 + 0x20 * d) = 0 → s.reg (frameOff + 0x288 + 0x20 * d) = 0 →
          t.line? d (w / 16) = some { words := l.words.set (w % 16) (encode (staleMirror e.now (fteOf e.old).frame) false), dirty := true }) ∧
    (∀ h, s.prog.halt = some h → s.enginesIdle = true → s.flt.held = none → s.flt.pend = [] →
      ∃ t, exec .haltComplete s = .next t ∧ t.prog.halt = none ∧ t.prog.inStep = false ∧ t.dram = s.dram ∧
        t.host.compl.getD 1 0 = BitVec.ofNat 64 (s.prog.step.toNat % 2 ^ 48) ∧
        ∀ d, (s.seq d).st = .drain → (t.seq d).st = .halted ∧ (t.seq d).cause = h.cause ∧ (t.seq d).infoPc = h.pc ∧
          (t.seq d).infoStream = h.stream ∧ (t.seq d).infoCode = h.code)

/-- While active in S7 with PERST# high, in D3hot too, a configuration read answers the register and a write changes what Configuration
space lets it; from S4 to S6 with the link up it gets retry status; with PERST# low nothing answers. A decoder commit within its
limits commits, any other leaves it uncommitted with its error set; the other decoder is unchanged. EN going to 1 starts the ring at
entry 0 with phase 1. EVENT_WRITE writes the oldest pending entry at the producer's place, advances it, turns the phase at the ring's
end and, as the last of a group, sends vector 0 if that is on. A low read of a counter returns its low half and latches the high one,
which the next read returns; an aligned 8-byte read answers the register, an unaligned one is unsupported. (R37, R402, R405, R412,
R486.) -/
def Obligations.HostConfiguresAndIsTold : Prop :=
  ∀ s : State, s.canon = true → s.dorm.st = .active →
    ((s.portUp = true → ∀ r, exec (.configRequest r none) s = .next (s.tell (.cfgData (s.cfgValue r))) ∧
        ∀ v, s.host.pba = [] → exec (.configRequest r (some v)) s =
          .next { s with host := { s.host with cs := s.host.cs.write r v, out := s.host.out ++ [.cfgOk] } }) ∧
      (s.pins.perst = true → s.host.link ≠ .down → s.boot.st ∈ [BootState.s4, .s5, .s6] → ∀ r v, exec (.configRequest r v) s = .next (s.tell .cfgRetry)) ∧
      (s.pins.perst = false → ∀ r v, exec (.configRequest r v) s = .next s)) ∧
    (s.hostUp = true →
      (∀ base size skip ways,
        let ok0 := s.memActive = true ∧ ways = 1 ∧ size % 2 ^ 28 = 0 ∧ size ≤ 768 * gib ∧ skip = 0
        let ok1 := s.memActive = true ∧ ways = 1 ∧ size % 2 ^ 28 = 0 ∧ size ≤ 512 * gib ∧
          (if s.host.hdm0.committed then s.host.hdm0.size else 0) + skip = 1024 * gib
        (ok0 → exec (.hdmCommit 0 base size skip ways) s = .next { s with host := { s.host with hdm0 := ⟨true, false, base, size, skip⟩ } }) ∧
        (¬ ok0 → exec (.hdmCommit 0 base size skip ways) s =
          .next { s with host := { s.host with hdm0 := { s.host.hdm0 with committed := false, err := true } } }) ∧
        (ok1 → exec (.hdmCommit 1 base size skip ways) s = .next { s with host := { s.host with hdm1 := ⟨true, false, base, size, skip⟩ } }) ∧
        (¬ ok1 → exec (.hdmCommit 1 base size skip ways) s =
          .next { s with host := { s.host with hdm1 := { s.host.hdm1 with committed := false, err := true } } })) ∧
      (∀ k, s.eqOn = false → ∃ t, exec (.eqEnable k) s = .next t ∧ t.eqOn = true ∧ t.host.eqProd = 0 ∧ t.host.eqPhase = true ∧
        t.host.eqCons = 0 ∧ t.host.pend = s.host.pend ∧ (6 ≤ k → k < 16 → t.eqSize = k)) ∧
      (∀ e rest, s.eqOn = true → s.host.pend = e :: rest → (s.host.eqProd + 1) % 2 ^ s.eqSize ≠ s.host.eqCons →
        ∃ t, exec .eventWrite s = .next t ∧ t.host.pend = rest ∧ t.host.eqProd = (s.host.eqProd + 1) % 2 ^ s.eqSize ∧
          t.host.eqPhase = (if (s.host.eqProd + 1) % 2 ^ s.eqSize = 0 then !s.host.eqPhase else s.host.eqPhase) ∧
          t.host.out = s.host.out ++ [.write ((s.reg (hostOff + 8)).toNat + 32 * s.host.eqProd) (e.words s.host.eqPhase)] ++
            (if ((rest ≠ [] ∨ s.host.merged ≠ none) ∧ (t.host.eqProd + 1) % 2 ^ s.eqSize ≠ s.host.eqCons) ∨ s.host.vectorOn 0 = false then []
             else [.msix 0]) ∧ t.regs = s.regs) ∧
      (∀ off, isCounter off = true → off % 8 = 0 → off < 0x4000000 → ∃ t, exec (.counterLowRead off 0 4) s = .next t ∧
        t.host.out = s.host.out ++ [.regData off (s.counter off % 2 ^ 32)] ∧ AMap.get 0 t.cntLatch off = s.counter off / 2 ^ 32 ∧
        exec (.counterLowRead (off + 4) 0 4) t = .next (t.tell (.regData (off + 4) (s.counter off / 2 ^ 32)))) ∧
      (∀ off, off % 8 = 0 → off < 0x4000000 → exec (.counterLowRead off 0 8) s = .next (s.tell (.regData off (s.regValue off)))) ∧
      (∀ off, exec (.counterLowRead (8 * off + 1) 0 8) s = .next s.refuse ∧ s.refuse.host.out = s.host.out ++ [.unsupported]))

/-- While active in S7 with PERST# high, an 8-byte write of BAR 0: of a launch-descriptor word the register takes the value; of DEVICE_ID
or an unassigned offset nothing changes; of a controller's timing register, whose EXP field is its low 40 bits, the field takes the
value when the controller's unlock is open, and otherwise keeps it and the count of locked writes rises by one. A write of a size or
alignment the BAR does not take is answered as unsupported, which AER's status records. (R10, R13, R495, R498.) -/
def Obligations.RegisterWritesObeyTheirFields : Prop :=
  ∀ (s : State) (v : Nat), s.canon = true → s.dorm.st = .active → s.hostUp = true → v < 2 ^ 64 →
    (∀ i, i < 16 → ∃ t, exec (.registerWrite 0 (0x300 + 8 * i) 8 v) s = .next t ∧ t.reg (0x300 + 8 * i) = BitVec.ofNat 64 v ∧
      (∀ off, off ≠ 0x300 + 8 * i → t.reg off = s.reg off) ∧ { t with regs := s.regs } = s) ∧
    exec (.registerWrite 0 0 8 v) s = .next s ∧ exec (.registerWrite 0 0x3FF8 8 v) s = .next s ∧
    (∀ n, n < 272 →
      (s.unlocked.contains (ctlFid n) = true → ∃ t, exec (.registerWrite 0 (ctlOff n + 0x10) 8 v) s = .next t ∧
        t.reg (ctlOff n + 0x10) = (s.reg (ctlOff n + 0x10) &&& ~~~(BitVec.ofNat 64 (2 ^ 40 - 1))) ||| BitVec.ofNat 64 (v % 2 ^ 40) ∧
        { t with regs := s.regs } = s) ∧
      (s.unlocked.contains (ctlFid n) = false → s.counter 0x610 < 2 ^ 48 → ∃ t, exec (.registerWrite 0 (ctlOff n + 0x10) 8 v) s = .next t ∧
        (∀ off, t.reg off = s.reg off) ∧ t.counter 0x610 = s.counter 0x610 + 1)) ∧
    (∀ bar off, bar = 0 ∨ bar = 4 →
      let r := { s with host := { s.host with out := s.host.out ++ [.unsupported], cs := { s.host.cs with aerUnc := s.host.cs.aerUnc ||| 2 ^ 20 } } }
      exec (.registerWrite bar (8 * off + 1) 8 v) s = .next r ∧ exec (.registerWrite bar off 2 v) s = .next r)

/-- While active in S7, with the memory active, the home not under reset and no access held: MEM_RD and MEM_RD_DATA of a line present in
its home with clean words answer its eight words, with poison where one has it, and change nothing else; of a line that is not, a
request for it joins its controller's queue. MEM_SPEC_RD has no effect. MEM_WR and MEM_WR_PTL of an aligned line present outside comb
regions write each word under its byte enables, with the request's poison, leave the others, and complete. Each of the four stops with
noDecoder at an address no committed decoder maps (R289). (R289, R402, R405, R406, R407, R408.) -/
def Obligations.HostMemoryIsReadAndWritten : Prop :=
  ∀ (s : State) (hpa : Nat), s.canon = true → s.dorm.st = .active → s.hostUp = true → s.memActive = true →
    (s.host.dpaOf hpa = none → ∀ ws be p,
      exec (.memRd hpa) s = .fault .noDecoder ∧ exec (.memRdData hpa) s = .fault .noDecoder ∧
      exec (.memWr hpa ws p) s = .fault .noDecoder ∧ exec (.memWrPtl hpa ws be p) s = .fault .noDecoder) ∧
    exec (.memSpecRd hpa) s = .next s ∧
    (∀ dpa pl, s.host.dpaOf hpa = some dpa → placeOf s.cfg dpa = some pl → s.homeReset dpa = false →
      let d := homeOf s.cfg dpa
      let k := dpa / 64 % 2
      (∀ l, s.line? d (dpa / 128) = some l →
        let at' := fun i => decode (l.words.getD (8 * k + i) zeroCw)
        (∀ i, i < 8 → (at' i).cls = .clean) → ∀ c ∈ [Instr.memRd hpa, .memRdData hpa], ∃ t, exec c s = .next t ∧
          t.host.out = s.host.out ++ [.memData dpa ((List.range 8).map fun i => (at' i).d) ((List.range 8).any fun i => (at' i).p)] ∧
          t.dram = s.dram ∧ t.dies = s.dies ∧ t.ctls = s.ctls) ∧
      (s.line? d (dpa / 128) = none → AMap.get [] s.homeOut pl.ctl = [] → s.serves pl = true → (∀ q ∈ (s.ctl pl.ctl).q, q.why ≠ .scrubBack) →
        let r : Req := { id := 0, src := 0x6000, dpa := 128 * (dpa / 128), len := 128, ws := [], keep := false, why := .hostRead k }
        placeOf s.cfg r.dpa = some pl → s.forwardable pl.ctl r = none → s.hasRoom pl r = true →
        ∃ t, exec (.memRd hpa) s = .next t ∧ t.dram = s.dram ∧ t.host.out = s.host.out ∧
          (t.ctl pl.ctl).q = (s.ctl pl.ctl).q ++ [{ r with id := (s.ctl pl.ctl).seq }]) ∧
      (∀ l ws p, dpa % 64 = 0 → s.line? d (dpa / 128) = some l → l.words.length = 16 → ws.length = 8 → combAddr s.cfg dpa = false → s.memIdle = true →
        s.rings = [] → s.reg (frameOff + 0x280 + 0x20 * d) = 0 → s.reg (frameOff + 0x288 + 0x20 * d) = 0 →
        (∃ t l', exec (.memWr hpa ws p) s = .next t ∧ t.host.out = s.host.out ++ [.cmp dpa] ∧ t.line? d (dpa / 128) = some l' ∧
          l'.dirty = true ∧ t.dram = s.dram ∧ (∀ i, i < 8 → l'.words.getD (8 * k + i) zeroCw = encode (ws.getD i 0) p) ∧
          ∀ i, i < 8 → l'.words.getD (8 * (1 - k) + i) zeroCw = l.words.getD (8 * (1 - k) + i) zeroCw) ∧
        (∀ be, 0 < be → be < 2 ^ 64 → ∃ t l', exec (.memWrPtl hpa ws be p) s = .next t ∧ t.host.out = s.host.out ++ [.cmp dpa] ∧
          t.line? d (dpa / 128) = some l' ∧ l'.dirty = true ∧ t.dram = s.dram ∧
          (∀ i, i < 8 → l'.words.getD (8 * k + i) zeroCw =
            if beMask ((be >>> (8 * i)) % 256) = 0 then l.words.getD (8 * k + i) zeroCw
            else (rmw (l.words.getD (8 * k + i) zeroCw) (ws.getD i 0) (beMask ((be >>> (8 * i)) % 256)) p).1) ∧
          ∀ i, i < 8 → l'.words.getD (8 * (1 - k) + i) zeroCw = l.words.getD (8 * (1 - k) + i) zeroCw) ∧
        exec (.memWrPtl hpa ws 0 p) s = .next (s.tell (.cmp dpa))))

/-- While active in S7 with PERST# high and service not ended: PROGRAM_MEMORY_WRITE of an aligned word of a sequencer that does not run
leaves that word's codeword in its active memory. LAUNCH_DB with bit 0 and no program running, a valid descriptor and no fault pending
starts each live sequencer at the descriptor's PCs with its SX values, at step 0 with a new launch number; while one runs it is
refused with code 1, with an invalid descriptor with code 3, nothing else changing. RESUME after a halt at the step limit, with no
fault pending, lets every sequencer fetch on. (R100, R103, R107, R409, R410.) -/
def Obligations.ProgramsAreLoadedAndLaunched : Prop :=
  ∀ s : State, s.canon = true → s.dorm.st = .active → s.hostUp = true →
    (∀ d k (bs : List Byte), d < 4 → k < 2 ^ 19 → bs.length = 8 → (s.seq d).st ≠ .run → AMap.wf zeroCw (s.seq d).pm = true →
      AMap.wf zeroCw (s.seq d).shadow = true →
      ∃ t, exec (.programMemoryWrite (0x400000 * d + 8 * k) bs) s = .next t ∧ t.onlySeq s d ∧ (t.seq d).pc = (s.seq d).pc ∧
        AMap.get zeroCw (t.seq d).pm k =
          encode (BitVec.ofNat 64 ((List.range 8).map fun i => (bs.getD i 0).toNat * 2 ^ (8 * i)).sum) false) ∧
    (∀ v, bitOf v 0 = true → s.flt.ended = false →
      (s.busy = true → exec (.launchDb v) s =
        .next { s with host := { s.host with launchStat := s.host.launchStat / 2 ^ 32 * 2 ^ 32 + 1 } }) ∧
      (s.busy = false → s.flt.pend = [] → s.serviceRow = 0 →
        (s.launchBad = true → exec (.launchDb v) s =
          .next { s with host := { s.host with launchStat := s.host.launchStat / 2 ^ 32 * 2 ^ 32 + 3 } }) ∧
        (s.launchBad = false → s.prog.admitted = s.prog.live → (∀ d ∈ s.activeSeqs, s.liveOf d ≠ []) →
          ∃ t, exec (.launchDb v) s = .next t ∧ t.prog.step = 0 ∧ t.prog.inStep = false ∧ t.prog.launchNo = (s.prog.launchNo + 1) % 2 ^ 32 ∧
            t.host.launchStat = t.prog.launchNo * 2 ^ 32 ∧ t.dram = s.dram ∧
            ∀ d ∈ s.activeSeqs, (t.seq d).st = .run ∧ (∀ e, (t.seq d).pc.get e = s.launchPc e ∧ (t.seq d).wait.get e = .none) ∧
              ∀ i, i < 12 → AMap.get 0 (t.seq d).sx i = s.reg (0x320 + 8 * i)))) ∧
    (s.activeSeqs ≠ [] → s.flt.ended = false → s.flt.pend = [] → (∀ d ∈ s.activeSeqs, (s.seq d).st = .halted ∧ (s.seq d).cause = 1) →
      ∃ t, exec .resume s = .next t ∧ t.prog = s.prog ∧ t.cores = s.cores ∧ t.dram = s.dram ∧
        ∀ d ∈ s.activeSeqs, t.seq d = { s.seq d with st := .run, cause := 0, wait := .all .none })

/-- While active in S7 with PERST# high: a write of FRST while one is busy is refused with result 2, of an ID that names no function with
1, of a function out of service with 5, nothing else changing. With no program running, one of a core in service makes it busy with
result 0 and its reset begins, its unlock closed; it fences the core afterwards only where it asked to. EXP_OPEN with the key, for a
class the image allows and a function in service, adds the function to the open ones; a wrong key gives result 4 and changes no
unlock; EXP_CLOSE removes it. (R382, R383, R496.) -/
def Obligations.ResetsFencesAndUnlocksAreRequested : Prop :=
  ∀ s : State, s.canon = true → s.dorm.st = .active → s.hostUp = true →
    (∀ fid fence, ∀ c, c = (if fence then Instr.frstFence fid else .frstReset fid) →
      (∀ r, (r = 2 ∧ s.flt.busy.isSome = true ∨ r = 1 ∧ s.flt.busy = none ∧ validFid fid = false ∨
          r = 5 ∧ s.flt.busy = none ∧ validFid fid = true ∧ s.fnDown fid = true) →
        exec c s = .next { s with flt := { s.flt with result := r } }) ∧
      (∀ g, fid = 0x1000 + g → g < 2048 → s.flt.busy = none → s.fnDown fid = false → s.busy = false →
        (fence = true → (s.fenceFn fid).serviceRow = 0) →
        ∃ t, exec c s = .next t ∧ t.flt.busy = some (fid, fence) ∧ t.flt.result = 0 ∧ t.flt.last = fid ∧ t.flt.resetting = [fid] ∧
          t.unlocked = s.unlocked.filter (· != fid) ∧ t.dram = s.dram ∧ t.cores = s.cores ∧ t.seqs = s.seqs)) ∧
    (∀ fid key, fid < 0x10000 → key < 0x10000 →
      (validFid fid = true → bitOf s.cfg.allow (fid / 0x1000) = true → key = 0xC0DE → s.fnDown fid = false →
        s.flt.resetting.contains fid = false →
        exec (.expOpen fid key) s =
          .next { s with expResult := 0, expLast := fid, unlocked := s.unlocked.filter (· != fid) ++ [fid] }) ∧
      (validFid fid = true → bitOf s.cfg.allow (fid / 0x1000) = true → key ≠ 0xC0DE →
        exec (.expOpen fid key) s = .next { s with expResult := 4, expLast := fid }) ∧
      (validFid fid = true →
        exec (.expClose fid) s = .next { s with expResult := 1, expLast := fid, unlocked := s.unlocked.filter (· != fid) }))

/-- While active in S7 with PERST# high and no command busy: SV_COMMIT begins when SV_MIN is below its target and the serial's low half
matches, OWNER_ENROL when no owner is enrolled and the image has an owner key; otherwise the result is 1 and nothing else changes.
SEC_CMD_DONE raises SV_MIN by what was blown, to its target, and ends there; after an enrolment it leaves the hash of the image's
owner key. GET_IDENTITY answers the identity, GET_MEAS of a sequencer without changed segments an unsigned report; GET_REPORT with a
leaf left uses it up and signs, and CLOSE records whether it was written. Before S7 with the link up each of them answers NOT_READY.
(R471, R472, R473, R474, R478, R479, R480.) -/
def Obligations.SecurityCommandsAndReports : Prop :=
  ∀ s : State,
    (s.dorm.st = .active → s.hostUp = true → s.sec.busy = 0 →
      (∀ n, (s.fuses.sv < min s.cfg.secver 64 ∧ n = s.fuses.serial % 2 ^ 32 →
          exec (.svCommit n) s = .next { s with sec := { s.sec with busy := 1, svOld := s.fuses.sv, result := 0 } }) ∧
        (¬ (s.fuses.sv < min s.cfg.secver 64 ∧ n = s.fuses.serial % 2 ^ 32) →
          exec (.svCommit n) s = .next { s with sec := { s.sec with result := 1 } }) ∧
        (s.fuses.ownerKh = 0 ∧ s.cfg.owner = true ∧ n = s.fuses.serial % 2 ^ 32 →
          exec (.ownerEnrol n) s = .next { s with sec := { s.sec with busy := 2, svOld := s.fuses.sv, result := 0 } }) ∧
        (¬ (s.fuses.ownerKh = 0 ∧ s.cfg.owner = true ∧ n = s.fuses.serial % 2 ^ 32) →
          exec (.ownerEnrol n) s = .next { s with sec := { s.sec with result := 1 } }))) ∧
    (∀ n, (s.sec.busy = 1 → ∃ t, exec (.secCmdDone n) s = .next t ∧ t.fuses = { s.fuses with sv := min (min s.cfg.secver 64) (s.fuses.sv + n) } ∧
        (t.sec.busy = if min s.cfg.secver 64 ≤ s.fuses.sv + n then 0 else 1)) ∧
      (s.sec.busy = 2 → ∃ t, exec (.secCmdDone n) s = .next t ∧ t.fuses = { s.fuses with ownerKh := Config.sha256 s.cfg.ownerKey } ∧
        t.sec.busy = 0 ∧ t.sec.result = 0)) ∧
    (s.portUp = true →
      exec .getIdentity s = .next (s.doe 0 (bytesAt 0 s.fuses.identity 0 2764)) ∧
      (∀ d segs, d < 4 → (s.seq d).dirty = 0 →
        exec (.getMeas d segs) s = .next (s.doe 0 (s.reportBody d segs 0 (List.replicate 32 0)))) ∧
      (∀ d segs nonce leaf next, d < 4 → nonce.length = 32 → s.sec.jfail = false → s.sec.next < 1024 → (s.seq d).dirty = 0 →
        ∃ t ans, exec (.getReport d segs nonce leaf next) s = .next t ∧ t.sec.next = s.sec.next + 1 ∧ t.fuses = s.fuses ∧
          t.host.out = s.host.out ++ [.doe ans] ∧ ans.take 4 = leBytes 4 (if leaf = .kept then 0 else 3)) ∧
      (∀ page, s.sec.jfail = false → ∃ t ans, exec (.close page) s = .next t ∧ t.sec.closed = (page == .kept) ∧ t.sec.next = s.sec.next ∧
        t.host.out = s.host.out ++ [.doe ans] ∧ ans = leBytes 4 (if page = .kept then 0 else 3))) ∧
    (s.portUp = false → s.pins.perst = true → s.host.link ≠ .down → ∀ d segs nonce leaf next page,
      ∀ c ∈ [Instr.getIdentity, .getMeas d segs, .getReport d segs nonce leaf next, .close page], exec c s = .next (s.doe 5 []))

/-- On a port that is UP, in a module that is awake: a REQ, RSP or DATA flit out of SEQ order changes nothing but what the credits and
acknowledgements of its head let go, and RETRY asks for the SEQ expected. One in order, no flit waiting for credit there, advances the
SEQ; for another module it goes out with one hop less, or is discarded and counted where no hop or route is left. A RSP for this
module ends a PUT or a complete GET, is kept for an incomplete GET, ends the transfer as for an absent peer with STATUS 5, and halts
with causes 5, 4, 6 for STATUS 2, 3, 4; without a transfer it has no effect. A PUT REQ whose descriptor and frames pass awaits its
words; a REQ whose descriptor does not is answered with STATUS 4; a GET REQ of at most one flit of clean words at home is answered
with them and STATUS 0, or 1 with poison. With no die cache under reset, a DATA flit of one word that holds two 32-bit elements of one
memory word is written at its home for a PUT, kept when its REQ has not come, discarded when the PUT was refused, and written to its
place for a GET. (R418, R419, R420, R423, R424, R426.) -/
def Obligations.PeerFlitsAreTakenAndServed : Prop :=
  ∀ (s : State) (p : Nat) (h : FlitHead), s.canon = true → s.dorm.st = .active → s.hears p = true →
    let me := s.fuses.serial
    let q := s.port p
    let same := fun (t : State) (w : Swarm) => { t.swarm with rtOcc := w.rtOcc } = w
    (∀ c, ((∃ b, c = Instr.req p h b) ∨ (∃ b, c = Instr.rsp p h b) ∨ ∃ b, c = Instr.data p h b) → h.seq ≠ q.rxSeq →
      ∃ t hd, exec c s = .next t ∧ (t.port p).rxSeq = q.rxSeq ∧ (t.port p).sent.getLast? = some (hd, .retry q.rxSeq) ∧
        same t s.swarm ∧ t.cores = s.cores ∧ t.dram = s.dram ∧ t.dies = s.dies) ∧
    (h.seq = q.rxSeq → q.waitq = [] →
      let took := fun (t : State) => (t.port p).rxSeq = (q.rxSeq + 1) % 4096
      (∀ c f dst hops, ((∃ b, c = Instr.req p h b ∧ f = Flit.req h.vc { b with hops := b.hops - 1 } ∧ dst = b.dst ∧ hops = b.hops) ∨
          (∃ b, c = Instr.rsp p h b ∧ f = Flit.rsp { b with hops := b.hops - 1 } ∧ dst = b.dst ∧ hops = b.hops) ∨
          ∃ b, c = Instr.data p h b ∧ f = Flit.data h.vc { b with hops := b.hops - 1 } ∧ dst = b.dst ∧ hops = b.hops) → dst ≠ me →
        (hops = 0 ∨ s.portsTo dst = [] → s.counter (peerOff p + 0x40) < 2 ^ 48 →
          ∃ t, exec c s = .next t ∧ took t ∧ same t s.swarm ∧ t.cores = s.cores ∧
            t.counter (peerOff p + 0x40) = s.counter (peerOff p + 0x40) + 1) ∧
        (0 < hops → ∀ r vc, s.portsTo dst = [r] → r ≠ p → f.vc = some vc → (s.port r).st = .up → (s.port r).waitq = [] →
          0 < (s.port r).credit.getD vc 0 → (s.port r).replay.length < 2048 →
          ∃ t hd, exec c s = .next t ∧ took t ∧ same t s.swarm ∧ t.cores = s.cores ∧
            (t.port r).sent = (s.port r).sent ++ [(hd, f)])) ∧
      (∀ b, b.dst = me →
        let g := tagCore b.tag
        (s.xferAt b.tag = none → ∃ t, exec (.rsp p h b) s = .next t ∧ took t ∧ t.cores = s.cores ∧ same t s.swarm) ∧
        (∀ x e, s.xferAt b.tag = some x → (s.core g).xfers = [(tagSlot b.tag, x)] → (s.core g).q.get .xe = [e] → e.qid = x.qid →
          e.phase = .running →
          let ends := fun (st : Nat) => ∃ t, exec (.rsp p h b) s = .next t ∧ took t ∧ (t.core g).xfers = [] ∧
            (t.core g).q = (s.core g).q.set .xe [{ e with status := e.status ||| st, phase := .executed }]
          (b.status ≤ 1 → x.got = [] → ends b.status) ∧ (b.status = 5 → x.got = [] → ends 1) ∧
          (b.status ≤ 1 → x.got ≠ [] → ∃ t, exec (.rsp p h b) s = .next t ∧ took t ∧ (t.core g).q = (s.core g).q ∧
            (t.core g).xfers = [(tagSlot b.tag, { x with rsp := b.status + 1 })]) ∧
          (s.prog.halt = none → ∀ cause, (b.status = 2 ∧ cause = 5 ∨ b.status = 3 ∧ cause = 4 ∨ b.status = 4 ∧ cause = 6) →
            ∃ t, exec (.rsp p h b) s = .next t ∧ took t ∧ t.prog.halt.map (·.cause) = some cause))) ∧
      (∀ b, b.dst = me → s.cacheReset = false → (s.swarm.early.filter fun e => e.body.src == b.src && e.body.tag == b.tag) = [] →
        let d := reqDesc b
        let fits := d.ok (b.op == 1) [[]] = true ∧ d.space = spTVA ∧ d.scalemode = 0 ∧ d.plain = true ∧ d.packed = b.len ∧ b.len ≤ 2 ^ 27
        let rsp := fun st => Flit.rsp { dst := b.src, src := me, tag := b.tag, status := st, hops := 7 }
        let linked := s.portsTo b.src = [p] ∧ h.vc < 3 ∧ q.held.length = 3 ∧ (∀ vc, vc < 3 → 2 ≤ q.credit.getD vc 0) ∧ q.replay.length ≤ 2046
        (b.op = 1 → fits → 0 < b.len → (s.prog.inStep = true → d.role ≠ 1) →
          (∀ fr ∈ d.frames [[]], ∃ f, s.cachedFte (p / 2) fr = some f ∧ f.rdo = false ∧ (s.prog.inStep = true → f.sin = false)) →
          ∃ t, exec (.req p h b) s = .next t ∧ took t ∧ t.dram = s.dram ∧ t.cores = s.cores ∧
            same t { s.swarm with targets := s.swarm.targets ++ [⟨b.src, b.tag, b.desc, p, List.range ((b.len + 7) / 8), 0, false, 0⟩] }) ∧
        (b.op ∈ [1, 2, 3] → ¬ fits → linked →
          ∃ t h0 hd rest, exec (.req p h b) s = .next t ∧ took t ∧ t.dram = s.dram ∧ t.cores = s.cores ∧
            (t.port p).sent = q.sent ++ (h0, .idle) :: (hd, rsp 4) :: rest) ∧
        (b.op ∈ [2, 3] → fits → linked →
          let w := fmtWidth d.fmt
          let as := d.addrs [] (tuples d.used)
          let val := fun a => match s.cachedFte (p / 2) (a / 64 / 2 ^ 14) with
            | none => (0, true)
            | some f =>
              let k := f.word (a / 64)
              let o := decode (((s.line? (homeOf s.cfg (8 * k)) (k / 16)).getD Line.init).words.getD (k % 16) zeroCw)
              (bits o.d.toNat (a % 64 + w - 1) (a % 64), o.p)
          (∀ fr ∈ d.frames [[]], (s.cachedFte (p / 2) fr).isSome = true) →
          (∀ a ∈ as, ∃ f l, s.cachedFte (p / 2) (a / 64 / 2 ^ 14) = some f ∧
            let k := f.word (a / 64)
            (placeOf s.cfg (8 * k)).isSome = true ∧ s.line? (homeOf s.cfg (8 * k)) (k / 16) = some l ∧
            (decode (l.words.getD (k % 16) zeroCw)).cls = .clean) →
          0 < as.length → as.length ≤ 27 * (64 / w) →
          ∃ t h0 h1 h2 rest, exec (.req p h b) s = .next t ∧ took t ∧ t.dram = s.dram ∧ t.cores = s.cores ∧ same t s.swarm ∧
            (t.port p).sent = q.sent ++ (h0, .idle) :: (h1, .data (if b.op = 3 then 2 else 1)
              { dst := b.src, src := me, tag := b.tag, offset := 0, hops := 7, words := packWords w (as.map val) }) ::
              (h2, rsp (if (as.map val).any (·.2) then 1 else 0)) :: rest)) ∧
      (∀ b, b.dst = me → s.cacheReset = false →
        let d := fun (y : Target) => descOf (y.desc.map (·.toNat))
        let rest := s.swarm.targets.filter fun y => !isTarget b.src b.tag y
        (s.xferAt b.tag = none → h.vc ≠ 1 →
          (s.swarm.targets.find? (isTarget b.src b.tag) = none → ∃ t, exec (.data p h b) s = .next t ∧ took t ∧ t.cores = s.cores ∧
            t.dies = s.dies ∧ same t { s.swarm with early := s.swarm.early ++ [{ port := p, vc := h.vc, body := b }] }) ∧
          (∀ y v pz w f l, s.swarm.targets.find? (isTarget b.src b.tag) = some y → b.words = [(v, pz)] → b.offset ∈ y.got →
            let got := y.got.filter (· != b.offset)
            (y.refused ≠ 0 → ∃ t, exec (.data p h b) s = .next t ∧ took t ∧ t.cores = s.cores ∧ t.dies = s.dies ∧
              same t { s.swarm with targets := if got = [] then rest else rest ++ [{ y with got := got }] }) ∧
            (y.refused = 0 → fmtWidth (d y).fmt = 32 →
              (((d y).addrs [] (tuples (d y).used)).drop (2 * b.offset)).take 2 = [64 * w, 64 * w + 32] →
              s.cachedFte (p / 2) (w / 2 ^ 14) = some f → f.mir = false → s.rings = [] → s.homeOut = [] → s.heldWrites = [] →
              let a := f.word w
              let k := homeOf s.cfg (8 * a)
              (placeOf s.cfg (8 * a)).isSome = true → combAddr s.cfg (8 * a) = false → s.line? k (a / 16) = some l →
              s.reg (frameOff + 0x280 + 0x20 * k) = 0 → s.reg (frameOff + 0x288 + 0x20 * k) = 0 →
              ∃ t, exec (.data p h b) s = .next t ∧ took t ∧ t.cores = s.cores ∧ t.dram = s.dram ∧
                t.line? k (a / 16) = some { words := l.words.set (a % 16) (encode v pz), dirty := true } ∧
                t.swarm.targets = if y.waiting = 0 ∧ got = [] then rest else rest ++ [{ y with got := got, poison := y.poison || pz }]))) ∧
        (∀ x v pz w more,
          let g := tagCore b.tag
          s.xferAt b.tag = some x → (s.core g).xfers = [(tagSlot b.tag, x)] → x.op ≠ 1 → x.peer = b.src → h.vc ≠ 0 →
          b.words = [(v, pz)] → x.got = [b.offset] → x.width = 32 →
          x.places.drop (2 * b.offset) = (64 * w + 1) :: (64 * w + 33) :: more →
          x.space ≠ 2 → s.quietCore g = true → AMap.wf zeroCw (s.memOf g x.space) = true →
          ∃ t, exec (.data p h b) s = .next t ∧ took t ∧ t.dram = s.dram ∧ t.dies = s.dies ∧
            AMap.get zeroCw (t.memOf g x.space) w = encode v pz ∧
            (t.core g).xfers = if x.rsp = 0 then [(tagSlot b.tag, { x with got := [] })] else [])))

/-- On a port that is UP: with none waiting for credit, IDLE takes its head's ACK and credits, and RETRY and RESYNC with theirs resend
from the SEQ expected, the latter with the receiver's absolute credits less those the resent flits take, 16 RETRYs of one SEQ making a
retrain due; a flit whose CRC fails is asked for again. A HELLO of another swarm gives only its head's ACK and credits; of this
module's own serial it puts the port in LOOP; of a neighbour it sets the far end and a one-hop route, for a new peer under a free
handle. HELLO_SEND sends the next page. A route that expires goes, and the peer with its last one. A retrain carries on with the
widest usable lanes, one width less after three in a second, and announces its free credits and good lanes, or leaves the port DOWN. A
cable that arrives starts training, one that leaves is DOWN; a port that takes no part only sees its pin. Bring-up on some usable lane
is UP at SEQ 0 with full credits. (R26, R417, R418, R419, R420, R421, R422, R427, R428, R429.) -/
def Obligations.PeerLinksAreKept : Prop :=
  ∀ (s : State) (p : Nat), s.canon = true →
    let q := s.port p
    let acked := fun (h : FlitHead) => if q.replay.any (fun e => e.1 == h.ack) then (q.replay.dropWhile fun e => e.1 != h.ack).tail else q.replay
    let given := fun (h : FlitHead) => [q.credit.getD 0 0 + h.cr0, q.credit.getD 1 0 + h.cr1, q.credit.getD 2 0 + h.cr2]
    let kept := fun (t : State) => t.cores = s.cores ∧ t.dram = s.dram ∧ t.dies = s.dies ∧ t.swarm = s.swarm
    (s.hears p = true →
      (q.waitq = [] → ∀ h, (∃ t, exec (.idle p h) s = .next t ∧ kept t ∧ t.port p = { q with credit := given h, replay := acked h }) ∧
        (∀ seq, ∃ t, exec (.retry p seq h) s = .next t ∧ kept t ∧ (t.port p).replay = acked h ∧ (t.port p).credit = given h ∧
          (t.port p).sent.map (·.2) = q.sent.map (·.2) ++ ((acked h).dropWhile fun e => e.1 != seq).map (·.2) ∧
          (t.port p).retryRun = (if q.retrySeq = seq then q.retryRun + 1 else 1) ∧
          (16 ≤ (t.port p).retryRun → (t.port p).retrainDue = true)) ∧
        (∀ b, let again := if (acked h).any (fun e => e.1 == b.seq) then (acked h).dropWhile (fun e => e.1 != b.seq)
            else if q.txSeq = b.seq then [] else acked h
          let n := fun vc => (again.filter fun e => e.2.vc == some vc).length
          ∃ t, exec (.resync p b h) s = .next t ∧ kept t ∧ (t.port p).credit = [b.cr0 - n 0, b.cr1 - n 1, b.cr2 - n 2] ∧
            (t.port p).sent.map (·.2) = q.sent.map (·.2) ++ (again.dropWhile fun e => e.1 != b.seq).map (·.2))) ∧
      (∀ fec, ∃ t hd, exec (.flitCrcFail p fec) s = .next t ∧ kept t ∧ (t.port p).sent = q.sent ++ [(hd, .retry q.rxSeq)] ∧
        (t.port p).rxSeq = q.rxSeq ∧ (t.port p).fecRun = q.fecRun + b2n fec) ∧
      (∀ h b, (b.swarmId ≠ s.cfg.peer.swarmId → q.waitq = [] →
          ∃ t, exec (.hello p b h) s = .next t ∧ kept t ∧ t.port p = { q with credit := given h, replay := acked h }) ∧
        (b.swarmId = s.cfg.peer.swarmId →
          (b.src = s.fuses.serial → ∃ t, exec (.hello p b h) s = .next t ∧ (t.port p).st = .loop) ∧
          (b.src ≠ s.fuses.serial → 1 ≤ s.hopLimit → (∀ n ∈ b.hops, n = 0) →
            (∀ k, s.handleOf b.src = some k → ∃ t, exec (.hello p b h) s = .next t ∧ (t.port p).far = b.src ∧
              let e := AMap.get Peer.init s.swarm.peers k
              AMap.get Peer.init t.swarm.peers k = { e with routes := (e.routes.filter fun r => r.1 != p) ++ [(p, 1)] }) ∧
            (s.handleOf b.src = none → (∃ k, k < 64 ∧ (AMap.get Peer.init s.swarm.peers k).valid = false) →
              ∃ t k, exec (.hello p b h) s = .next t ∧ (t.port p).far = b.src ∧ k < 64 ∧
                (AMap.get Peer.init s.swarm.peers k).valid = false ∧
                AMap.get Peer.init t.swarm.peers k = { serial := b.src, valid := true, routes := [(p, 1)], freed := false }))))) ∧
    (q.st = .up → ∃ t hd, exec (.helloSend p) s = .next t ∧ kept t ∧ (t.port p).sent = q.sent ++ [(hd, .hello (s.helloBody p))] ∧
      (t.port p).page = (q.page + 1) % 3) ∧
    (∀ serial k, let e := AMap.get Peer.init s.swarm.peers k
      let rs := e.routes.filter fun r => r.1 != p
      e.valid = true → e.serial = serial → rs ≠ e.routes →
      (∀ j, j ≠ k → (AMap.get Peer.init s.swarm.peers j).valid = true → (AMap.get Peer.init s.swarm.peers j).serial ≠ serial) →
      (rs ≠ [] → ∃ t, exec (.routeExpiry p serial) s = .next t ∧ t = s.setPeer k { e with routes := rs }) ∧
      (rs = [] → ∃ t, exec (.routeExpiry p serial) s = .next t ∧
        AMap.get Peer.init t.swarm.peers k = { e with valid := false, routes := [], freed := true })) ∧
    (∀ good far, q.st = .up → q.retrainDue = true ∨ q.replay ≠ [] →
      let recent := q.recent.filter fun r => decide (s.hk.round < r + 977)
      let m := good &&& far &&& (15 ^^^ q.badLanes)
      let lanes := if 3 ≤ recent.length then narrower m else laneSet m
      (lanes = 0 → ∃ t, exec (.portRetrain p good far) s = .next t ∧ (t.port p).st = .down) ∧
      (lanes ≠ 0 → ∃ t hd, exec (.portRetrain p good far) s = .next t ∧ kept t ∧ (t.port p).st = .up ∧ (t.port p).lanes = lanes ∧
        (t.port p).retrainDue = false ∧ (t.port p).sent = q.sent ++ [(hd, .resync
          ⟨q.rxSeq, q.room 0, q.room 1, q.room 2, good % 16 &&& (15 ^^^ q.badLanes)⟩)])) ∧
    (∀ level, p < 8 → bitOf s.pins.pprsnt p ≠ level →
      ∃ t, exec (.pprsntChange p level) s = .next t ∧ bitOf t.pins.pprsnt p = level ∧
        (s.portOn p = true → (t.port p).st = if level then .down else .training) ∧
        (s.portOn p = false → { t with pins := s.pins } = s)) ∧
    (∀ ls, q.st = .training → s.portOn p = true → s.atS7 = true →
      let lanes := laneSet (ls &&& (15 ^^^ q.badLanes))
      (lanes = 0 → ∃ t, exec (.peerPortUp p ls) s = .next t ∧ (t.port p).st = .down) ∧
      (lanes ≠ 0 → q.waitq = [] → ∃ t, exec (.peerPortUp p ls) s = .next t ∧ kept t ∧ t.port p = { q with
        st := .up, lanes := lanes, txSeq := 0, rxSeq := 0, credit := [512, 512, 8192], owed := [0, 0, 0], held := [0, 0, 0], replay := [], retrySeq := 0,
        retryRun := 0, recent := [], fecRun := 0, retrainDue := false, page := 0 }))

/-- CLUSTER_CLOCK_GATE at S7 gates the clocks of a cluster whose cores have no work. DORMANT_ENTRY with nothing in progress stops core
PLLs and scrubbing, writes every dirty line back and puts running controllers into entry; DORMANT_ENTERED once each has reported
leaves every die cache and frame translation cache empty, but where a line has become dirty since: then the module is not yet dormant.
A waking event does nothing while active or waking, cancels an entry in progress, and begins the wake of a dormant module; a request
of the host that meets a module asleep is held and begins it. WAKE_COMPLETE with no PLL failed and nothing held makes the module
active with its clocks and controllers running. DRAM keeps its contents throughout. (R313, R448, R462, R463, R464, R465.) -/
def Obligations.DormantStateIsEnteredAndLeft : Prop :=
  ∀ s : State, s.canon = true →
    (∀ c, s.atS7 = true → (∀ g ∈ clusterCores c, s.coreBusy g = false) →
      exec (.clusterClockGate c) s = .next (s.setCluster c { s.cluster c with gated := true })) ∧
    (s.mayRest = true → ∃ t, exec .dormantEntry s = .next t ∧ t.dorm = { s.dorm with st := .entering, scrubStopped := true } ∧
      t.pins.corePll = 0 ∧ t.dram = s.dram ∧ t.seqs = s.seqs ∧
      (∀ n, n < 272 → (t.ctl n).st = if (s.ctl n).st = .run then .entering else (s.ctl n).st) ∧
      (∀ d la l, d < 4 → AMap.wf Line.init (s.die d).lines = true → (placeOf s.cfg (128 * la)).isSome = true →
        t.line? d la = some l → l.dirty = false)) ∧
    (s.dorm.st = .entering → s.allAsleep = true → ∃ t, exec .dormantEntered s = .next t ∧ t.dram = s.dram ∧ t.seqs = s.seqs ∧
      (s.dies.any (fun d => d.2.lines.any fun l => l.2.dirty) = true → t.dorm.st ≠ .dormant) ∧
      (s.dies.any (fun d => d.2.lines.any fun l => l.2.dirty) = false → t.dorm = { s.dorm with st := .dormant } ∧ t.ctls = s.ctls ∧
        ∀ d, d < 4 → (t.die d).lines = [] ∧ (t.die d).ftc = [])) ∧
    (s.dorm.st = .active ∨ s.dorm.st = .waking → exec .wakingEvent s = .next s) ∧
    (s.dorm.st = .dormant → exec .wakingEvent s = .next { s with dorm := { s.dorm with st := .waking } }) ∧
    (s.dorm.st = .entering → ∃ t, exec .wakingEvent s = .next t ∧ t.dorm = { s.dorm with st := .active, scrubStopped := false } ∧
      t.pins.corePll = s.pllMask ∧ t.dram = s.dram ∧ t.seqs = s.seqs ∧ ∀ n, t.ctl n = Ctl.exitSr (s.ctl n)) ∧
    (s.hostUp = true → s.asleep = true → ∀ bar off size v, ∀ c ∈ [Instr.registerWrite bar off size v, .resume, .launchDb v],
      exec c s = .next { s with dorm := { s.dorm with st := .waking, held := s.dorm.held ++ [c] } }) ∧
    (s.dorm.st = .waking → s.dorm.held = [] → ∃ t, exec (.wakeComplete []) s = .next t ∧ t.dorm.st = .active ∧ t.dorm.held = [] ∧
      t.dorm.scrubStopped = false ∧ t.pins.corePll = s.pllMask ∧ t.dram = s.dram ∧ t.seqs = s.seqs ∧
      ∀ n, t.ctl n = Ctl.exitSr (s.ctl n))

/-- A codeword that a write stores decodes clean to its data and poison. With one bit of it flipped it is classified correctable with 1
bit, with two flipped correctable with 2, and its data and poison are delivered as written; with three flipped it is uncorrectable and
delivered with poison. The all-zero word, which Table 12.2 classifies first, is left out. (R355, R356, R357, R358, R359, R360, R361.) -/
def Obligations.CodeCorrectsTwoFlipsAndFindsThree : Prop :=
  ∀ (d : Word) (p : Bool),
    let flip := fun (i : Nat) => (1#80 <<< i : Codeword)
    decode (encode d p) = { d := d, p := p, cls := .clean, synd := 0 } ∧
    ∀ i j k, i < j → j < k → k < 80 →
      (∀ a ∈ [i, j, k], encode d p ^^^ flip a ≠ 0 →
        let o := decode (encode d p ^^^ flip a)
        o.d = d ∧ o.p = p ∧ o.cls = .corrected 1) ∧
      (∀ a b, (a, b) ∈ [(i, j), (i, k), (j, k)] → encode d p ^^^ flip a ^^^ flip b ≠ 0 →
        let o := decode (encode d p ^^^ flip a ^^^ flip b)
        o.d = d ∧ o.p = p ∧ o.cls = .corrected 2) ∧
      (encode d p ^^^ flip i ^^^ flip j ^^^ flip k ≠ 0 →
        let o := decode (encode d p ^^^ flip i ^^^ flip j ^^^ flip k)
        o.cls = .uncorrectable ∧ o.p = true)

/-- Whatever the command and the state: when exec answers a next state, the queue, the serial number, the vendor key hash, the device
secret and the identity are as before and EPOCH has not fallen; SV_MIN and the owner key hash are as before too, unless the command is
SEC_CMD_DONE with a fuse command busy: then SV_COMMIT alone changes SV_MIN and OWNER_ENROL alone the owner key hash. (R469, R471,
R472, R473, R478.) -/
def Obligations.IdentityAndFusesAreKept : Prop :=
  ∀ (c : Instr) (s t : State), exec c s = .next t →
    t.pending = s.pending ∧ t.fuses.serial = s.fuses.serial ∧ t.fuses.vendorKh = s.fuses.vendorKh ∧
    t.fuses.devSecret = s.fuses.devSecret ∧ t.fuses.identity = s.fuses.identity ∧ s.fuses.epoch ≤ t.fuses.epoch ∧
    (t.fuses.sv ≠ s.fuses.sv → (∃ n, c = .secCmdDone n) ∧ s.sec.busy = 1) ∧
    (t.fuses.ownerKh ≠ s.fuses.ownerKh → (∃ n, c = .secCmdDone n) ∧ s.sec.busy = 2)

/-- The maps are the model's own form of the state (log entries 9 and 10): what an unlisted word reads as is what the capping fill left,
and an unlisted register its image value. From every state whose maps are in that form (keys rising, nothing listed that reads as an
unlisted key does), a step that answers a next state answers one whose maps are. So equal memories, register files and unit tables are
equal data, in every run. (R57, R500.) -/
def Obligations.EveryStepKeepsMapsCanonical : Prop :=
  ∀ s t : State, s.canon = true → step s = .next t → t.canon = true

/-- State.reset, the module before 54 V is applied (the model's choice of where a run begins, named in the log), has every map canonical,
an empty queue, and everything outside the AON domain cleared. (R35.) -/
def Obligations.ResetHoldsTheInvariant : Prop :=
  State.reset.canon = true ∧ State.reset.pending = [] ∧ State.reset.discarded ∧ State.reset.pins.inputOn = false
end

