-- ==== Sys2Proof/Laws/AMap.lean ====
section
/-! SUPPORT. The laws of sparse maps: a read after a write gives the value written, a write leaves every other key alone, and each
operation keeps the canonical form. -/

namespace Sys2Proof.Machine

variable {α : Type}

/-! ## Bounds -/

theorem AMap.above_mono {b c : Nat} (h : c ≤ b) : ∀ {m : AMap α}, AMap.above b m = true → AMap.above c m = true
  | [], _ => rfl
  | (j, v) :: m, hm => by
    simp only [AMap.above, Bool.and_eq_true, decide_eq_true_eq] at hm ⊢
    exact ⟨by omega, AMap.above_mono h hm.2⟩

theorem AMap.rising_of_wf [DecidableEq α] {d : α} : ∀ {m : AMap α}, AMap.wf d m = true → AMap.rising m = true
  | [], _ => rfl
  | (j, v) :: m, h => by
    simp only [AMap.wf, Bool.and_eq_true, AMap.rising] at h ⊢
    exact ⟨h.1.2, AMap.rising_of_wf h.2⟩

/-- Below every key a map reads as unlisted. -/
theorem AMap.get_of_above {d : α} {b k : Nat} (hk : k ≤ b) : ∀ {m : AMap α}, AMap.above b m = true → AMap.get d m k = d
  | [], _ => rfl
  | (j, v) :: m, h => by
    simp only [AMap.above, Bool.and_eq_true, decide_eq_true_eq] at h
    have h1 : ¬ j = k := by omega
    have h2 : k < j := by omega
    simp [AMap.get, h1, h2]

theorem AMap.above_put {b k : Nat} {v : α} (hk : b < k) : ∀ {m : AMap α}, AMap.above b m = true → AMap.above b (AMap.put m k v) = true
  | [], _ => by simp [AMap.put, AMap.above, hk]
  | (j, w) :: m, h => by
    have h' := h
    simp only [AMap.above, Bool.and_eq_true, decide_eq_true_eq] at h
    unfold AMap.put
    split
    · simp [AMap.above, hk, h.1, h.2]
    · split
      · simp [AMap.above, hk, h.2]
      · simp [AMap.above, h.1, AMap.above_put hk h.2]

theorem AMap.above_erase {b k : Nat} : ∀ {m : AMap α}, AMap.above b m = true → AMap.above b (AMap.erase m k) = true
  | [], _ => rfl
  | (j, w) :: m, h => by
    have h' := h
    simp only [AMap.above, Bool.and_eq_true, decide_eq_true_eq] at h
    unfold AMap.erase
    split
    · exact h.2
    · split
      · exact h'
      · simp [AMap.above, h.1, AMap.above_erase h.2]

/-! ## Reading after writing -/

@[simp] theorem AMap.get_nil (d : α) (k : Nat) : AMap.get d [] k = d := rfl

@[simp] theorem AMap.get_put_same (d : α) (k : Nat) (v : α) : ∀ m : AMap α, AMap.get d (AMap.put m k v) k = v
  | [] => by simp [AMap.put, AMap.get]
  | (j, w) :: m => by
    unfold AMap.put
    split
    · simp [AMap.get]
    · split
      · simp [AMap.get]
      · rename_i h1 h2
        simp [AMap.get, h1, h2, AMap.get_put_same d k v m]

theorem AMap.get_put_other (d : α) {k q : Nat} (v : α) (h : q ≠ k) : ∀ m : AMap α, AMap.get d (AMap.put m k v) q = AMap.get d m q
  | [] => by
    have : ¬ k = q := fun e => h e.symm
    simp [AMap.put, AMap.get, this]
  | (j, w) :: m => by
    have hk : ¬ k = q := fun e => h e.symm
    unfold AMap.put
    split
    · rename_i h1
      simp only [AMap.get, hk, if_false]
      split
      · rename_i h2
        have h3 : ¬ j = q := by omega
        have h4 : q < j := by omega
        simp [h3, h4]
      · rfl
    · split
      · rename_i h1 h2
        subst h2
        simp [AMap.get, hk]
      · simp only [AMap.get]
        split
        · rfl
        · split
          · rfl
          · exact AMap.get_put_other d v h m

theorem AMap.get_erase_same (d : α) (k : Nat) : ∀ {m : AMap α}, AMap.rising m = true → AMap.get d (AMap.erase m k) k = d
  | [], _ => rfl
  | (j, w) :: m, h => by
    simp only [AMap.rising, Bool.and_eq_true] at h
    unfold AMap.erase
    split
    · rename_i h1
      subst h1
      exact AMap.get_of_above (Nat.le_refl _) h.1
    · split
      · rename_i h1 h2
        simp [AMap.get, h1, h2]
      · rename_i h1 h2
        simp [AMap.get, h1, h2, AMap.get_erase_same d k h.2]

theorem AMap.get_erase_other (d : α) {k q : Nat} (hq : q ≠ k) : ∀ {m : AMap α}, AMap.rising m = true →
    AMap.get d (AMap.erase m k) q = AMap.get d m q
  | [], _ => rfl
  | (j, w) :: m, h => by
    simp only [AMap.rising, Bool.and_eq_true] at h
    unfold AMap.erase
    split
    · rename_i h1
      subst h1
      have h2 : ¬ j = q := fun e => hq e.symm
      simp only [AMap.get, h2, if_false]
      split
      · rename_i h3
        exact AMap.get_of_above (Nat.le_of_lt h3) h.1
      · rfl
    · split
      · rfl
      · simp only [AMap.get]
        split
        · rfl
        · split
          · rfl
          · exact AMap.get_erase_other d hq h.2

/-- A read of the key just written gives the value written. -/
theorem AMap.get_set_same [DecidableEq α] (d : α) {m : AMap α} (h : AMap.rising m = true) (k : Nat) (v : α) :
    AMap.get d (AMap.set d m k v) k = v := by
  unfold AMap.set
  split
  · rename_i e
    rw [AMap.get_erase_same d k h, e]
  · simp

/-- A write leaves every other key alone. -/
theorem AMap.get_set_other [DecidableEq α] (d : α) {m : AMap α} (h : AMap.rising m = true) {k q : Nat} (hq : q ≠ k) (v : α) :
    AMap.get d (AMap.set d m k v) q = AMap.get d m q := by
  unfold AMap.set
  split
  · exact AMap.get_erase_other d hq h
  · exact AMap.get_put_other d v hq m

theorem AMap.get_set [DecidableEq α] (d : α) {m : AMap α} (h : AMap.rising m = true) (k q : Nat) (v : α) :
    AMap.get d (AMap.set d m k v) q = if q = k then v else AMap.get d m q := by
  split
  · rename_i e
    rw [e, AMap.get_set_same d h]
  · rename_i e
    exact AMap.get_set_other d h e v

/-! ## The canonical form is kept -/

theorem AMap.rising_put {k : Nat} {v : α} : ∀ {m : AMap α}, AMap.rising m = true → AMap.rising (AMap.put m k v) = true
  | [], _ => rfl
  | (j, w) :: m, h => by
    have h' := h
    simp only [AMap.rising, Bool.and_eq_true] at h
    unfold AMap.put
    split
    · rename_i h1
      simp only [AMap.rising, AMap.above, Bool.and_eq_true, decide_eq_true_eq]
      exact ⟨⟨h1, AMap.above_mono (Nat.le_of_lt h1) h.1⟩, h.1, h.2⟩
    · split
      · rename_i h1 h2
        subst h2
        simp only [AMap.rising, Bool.and_eq_true]
        exact h
      · rename_i h1 h2
        simp only [AMap.rising, Bool.and_eq_true]
        exact ⟨AMap.above_put (by omega) h.1, AMap.rising_put h.2⟩

theorem AMap.rising_erase {k : Nat} : ∀ {m : AMap α}, AMap.rising m = true → AMap.rising (AMap.erase m k) = true
  | [], _ => rfl
  | (j, w) :: m, h => by
    have h' := h
    simp only [AMap.rising, Bool.and_eq_true] at h
    unfold AMap.erase
    split
    · exact h.2
    · split
      · exact h'
      · simp only [AMap.rising, Bool.and_eq_true]
        exact ⟨AMap.above_erase h.1, AMap.rising_erase h.2⟩

theorem AMap.rising_set [DecidableEq α] {d : α} {k : Nat} {v : α} {m : AMap α} (h : AMap.rising m = true) :
    AMap.rising (AMap.set d m k v) = true := by
  unfold AMap.set
  split
  · exact AMap.rising_erase h
  · exact AMap.rising_put h

theorem AMap.wf_put [DecidableEq α] {d : α} {k : Nat} {v : α} (hv : v ≠ d) : ∀ {m : AMap α}, AMap.wf d m = true →
    AMap.wf d (AMap.put m k v) = true
  | [], _ => by simp [AMap.put, AMap.wf, AMap.above, hv]
  | (j, w) :: m, h => by
    have h' := h
    simp only [AMap.wf, Bool.and_eq_true, decide_eq_true_eq] at h
    unfold AMap.put
    split
    · rename_i h1
      simp only [AMap.wf, AMap.above, Bool.and_eq_true, decide_eq_true_eq]
      exact ⟨⟨hv, h1, AMap.above_mono (Nat.le_of_lt h1) h.1.2⟩, h.1, h.2⟩
    · split
      · rename_i h1 h2
        subst h2
        simp only [AMap.wf, Bool.and_eq_true, decide_eq_true_eq]
        exact ⟨⟨hv, h.1.2⟩, h.2⟩
      · rename_i h1 h2
        simp only [AMap.wf, Bool.and_eq_true, decide_eq_true_eq]
        exact ⟨⟨h.1.1, AMap.above_put (by omega) h.1.2⟩, AMap.wf_put hv h.2⟩

theorem AMap.wf_erase [DecidableEq α] {d : α} {k : Nat} : ∀ {m : AMap α}, AMap.wf d m = true → AMap.wf d (AMap.erase m k) = true
  | [], _ => rfl
  | (j, w) :: m, h => by
    have h' := h
    simp only [AMap.wf, Bool.and_eq_true] at h
    unfold AMap.erase
    split
    · exact h.2
    · split
      · exact h'
      · simp only [AMap.wf, Bool.and_eq_true]
        exact ⟨⟨h.1.1, AMap.above_erase h.1.2⟩, AMap.wf_erase h.2⟩

/-- Every write keeps the canonical form. -/
theorem AMap.wf_set [DecidableEq α] {d : α} {k : Nat} {v : α} {m : AMap α} (h : AMap.wf d m = true) :
    AMap.wf d (AMap.set d m k v) = true := by
  unfold AMap.set
  split
  · exact AMap.wf_erase h
  · rename_i hv
    exact AMap.wf_put hv h

theorem AMap.wf_upd [DecidableEq α] {d : α} {k : Nat} {f : α → α} {m : AMap α} (h : AMap.wf d m = true) :
    AMap.wf d (AMap.upd d m k f) = true := AMap.wf_set h

theorem AMap.above_filter {b : Nat} {p : Nat × α → Bool} : ∀ {m : AMap α}, AMap.above b m = true → AMap.above b (m.filter p) = true
  | [], _ => rfl
  | (j, w) :: m, h => by
    simp only [AMap.above, Bool.and_eq_true] at h
    simp only [List.filter_cons]
    split
    · simp only [AMap.above, Bool.and_eq_true]
      exact ⟨h.1, AMap.above_filter h.2⟩
    · exact AMap.above_filter h.2

theorem AMap.rising_filter {p : Nat × α → Bool} : ∀ {m : AMap α}, AMap.rising m = true → AMap.rising (m.filter p) = true
  | [], _ => rfl
  | (j, w) :: m, h => by
    simp only [AMap.rising, Bool.and_eq_true] at h
    simp only [List.filter_cons]
    split
    · simp only [AMap.rising, Bool.and_eq_true]
      exact ⟨AMap.above_filter h.1, AMap.rising_filter h.2⟩
    · exact AMap.rising_filter h.2

/-- Leaving entries out keeps the canonical form. -/
theorem AMap.wf_filter [DecidableEq α] {d : α} {p : Nat × α → Bool} : ∀ {m : AMap α}, AMap.wf d m = true → AMap.wf d (m.filter p) = true
  | [], _ => rfl
  | (j, w) :: m, h => by
    simp only [AMap.wf, Bool.and_eq_true] at h
    simp only [List.filter_cons]
    split
    · simp only [AMap.wf, Bool.and_eq_true]
      exact ⟨⟨h.1.1, AMap.above_filter h.1.2⟩, AMap.wf_filter h.2⟩
    · exact AMap.wf_filter h.2

theorem AMap.wf_filterKeys [DecidableEq α] {d : α} {p : Nat → Bool} {m : AMap α} (h : AMap.wf d m = true) :
    AMap.wf d (AMap.filterKeys p m) = true := AMap.wf_filter h

theorem AMap.above_mapVals [DecidableEq α] {d : α} {f : α → α} {b : Nat} : ∀ {m : AMap α}, AMap.above b m = true →
    AMap.above b (AMap.mapVals d f m) = true
  | [], _ => rfl
  | (j, w) :: m, h => by
    simp only [AMap.above, Bool.and_eq_true] at h
    have ih : AMap.above b (AMap.mapVals d f m) = true := AMap.above_mapVals h.2
    unfold AMap.mapVals at ih ⊢
    simp only [List.filterMap_cons]
    by_cases e : f w = d
    · simpa [e] using ih
    · simp only [e, if_false, AMap.above, Bool.and_eq_true]
      exact ⟨h.1, ih⟩

/-- A change of every listed value keeps the canonical form. -/
theorem AMap.wf_mapVals [DecidableEq α] {d : α} {f : α → α} : ∀ {m : AMap α}, AMap.wf d m = true → AMap.wf d (AMap.mapVals d f m) = true
  | [], _ => rfl
  | (j, w) :: m, h => by
    simp only [AMap.wf, Bool.and_eq_true] at h
    have ih : AMap.wf d (AMap.mapVals d f m) = true := AMap.wf_mapVals h.2
    have ha : AMap.above j (AMap.mapVals d f m) = true := AMap.above_mapVals h.1.2
    unfold AMap.mapVals at ih ha ⊢
    simp only [List.filterMap_cons]
    by_cases e : f w = d
    · simpa [e] using ih
    · simp only [e, if_false, AMap.wf, Bool.and_eq_true, decide_eq_true_eq]
      exact ⟨⟨e, ha⟩, ih⟩

/-- What a map reads as after a change of every listed value that keeps the default. -/
theorem AMap.get_mapVals [DecidableEq α] {d : α} {f : α → α} (hf : f d = d) (k : Nat) : ∀ {m : AMap α}, AMap.rising m = true →
    AMap.get d (AMap.mapVals d f m) k = f (AMap.get d m k)
  | [], _ => by simp [AMap.mapVals, AMap.get, hf]
  | (j, w) :: m, h => by
    simp only [AMap.rising, Bool.and_eq_true] at h
    have ih := AMap.get_mapVals (d := d) (f := f) hf k h.2
    have ha : AMap.above j (AMap.mapVals d f m) = true := AMap.above_mapVals h.1
    unfold AMap.mapVals at ih ha ⊢
    simp only [List.filterMap_cons]
    by_cases hj : j = k
    · subst hj
      by_cases e : f w = d
      · simp [e, AMap.get, AMap.get_of_above (Nat.le_refl _) ha]
      · simp [e, AMap.get]
    · by_cases hk : k < j
      · by_cases e : f w = d
        · simp [e, AMap.get, hj, hk, hf, AMap.get_of_above (Nat.le_of_lt hk) ha]
        · simp [e, AMap.get, hj, hk, hf]
      · by_cases e : f w = d
        · simpa [e, AMap.get, hj, hk] using ih
        · simpa [e, AMap.get, hj, hk] using ih

/-- Canonical maps that read alike are equal. -/
theorem AMap.eq_of_get [DecidableEq α] {d : α} : ∀ {m n : AMap α}, AMap.wf d m = true → AMap.wf d n = true →
    (∀ k, AMap.get d m k = AMap.get d n k) → m = n
  | [], [], _, _, _ => rfl
  | [], (j, w) :: n, _, hn, h => by
    simp only [AMap.wf, Bool.and_eq_true, decide_eq_true_eq] at hn
    have := h j
    simp [AMap.get] at this
    exact absurd this.symm hn.1.1
  | (j, w) :: m, [], hm, _, h => by
    simp only [AMap.wf, Bool.and_eq_true, decide_eq_true_eq] at hm
    have := h j
    simp [AMap.get] at this
    exact absurd this hm.1.1
  | (i, v) :: m, (j, w) :: n, hm, hn, h => by
    simp only [AMap.wf, Bool.and_eq_true, decide_eq_true_eq] at hm hn
    have hi := h i
    have hj := h j
    rcases Nat.lt_trichotomy i j with c | c | c
    · have c1 : ¬ j = i := by omega
      simp [AMap.get, c1, c] at hi
      exact absurd hi hm.1.1
    · subst c
      have e : v = w := by simpa [AMap.get] using hi
      subst e
      have : m = n := by
        apply AMap.eq_of_get hm.2 hn.2
        intro k
        have hk := h k
        by_cases c1 : i = k
        · subst c1
          rw [AMap.get_of_above (Nat.le_refl _) hm.1.2, AMap.get_of_above (Nat.le_refl _) hn.1.2]
        · by_cases c2 : k < i
          · rw [AMap.get_of_above (Nat.le_of_lt c2) hm.1.2, AMap.get_of_above (Nat.le_of_lt c2) hn.1.2]
          · simpa [AMap.get, c1, c2] using hk
      rw [this]
    · have c1 : ¬ i = j := by omega
      simp [AMap.get, c1, c] at hj
      exact absurd hj.symm hn.1.1

end Sys2Proof.Machine
end

