-- ==== Sys2Proof/Laws/State.lean ====
section
/-! SUPPORT. What each update of the state does to each of its fields: one lemma per field and update, true by definition. -/

namespace Sys2Proof.Machine

/-! ## State.setSeq -/

@[simp] theorem State.setSeq_pins (s : State) (d : Nat) (x : Seq) : (s.setSeq d x).pins = s.pins := rfl
@[simp] theorem State.setSeq_boot (s : State) (d : Nat) (x : Seq) : (s.setSeq d x).boot = s.boot := rfl
@[simp] theorem State.setSeq_nor (s : State) (d : Nat) (x : Seq) : (s.setSeq d x).nor = s.nor := rfl
@[simp] theorem State.setSeq_mgmt (s : State) (d : Nat) (x : Seq) : (s.setSeq d x).mgmt = s.mgmt := rfl
@[simp] theorem State.setSeq_hk (s : State) (d : Nat) (x : Seq) : (s.setSeq d x).hk = s.hk := rfl
@[simp] theorem State.setSeq_stk (s : State) (d : Nat) (x : Seq) : (s.setSeq d x).stk = s.stk := rfl
@[simp] theorem State.setSeq_cfg (s : State) (d : Nat) (x : Seq) : (s.setSeq d x).cfg = s.cfg := rfl
@[simp] theorem State.setSeq_seqs (s : State) (d : Nat) (x : Seq) : (s.setSeq d x).seqs = AMap.set Seq.init s.seqs d x := rfl
@[simp] theorem State.setSeq_prog (s : State) (d : Nat) (x : Seq) : (s.setSeq d x).prog = s.prog := rfl
@[simp] theorem State.setSeq_cores (s : State) (d : Nat) (x : Seq) : (s.setSeq d x).cores = s.cores := rfl
@[simp] theorem State.setSeq_clusters (s : State) (d : Nat) (x : Seq) : (s.setSeq d x).clusters = s.clusters := rfl
@[simp] theorem State.setSeq_dram (s : State) (d : Nat) (x : Seq) : (s.setSeq d x).dram = s.dram := rfl
@[simp] theorem State.setSeq_ctls (s : State) (d : Nat) (x : Seq) : (s.setSeq d x).ctls = s.ctls := rfl
@[simp] theorem State.setSeq_dies (s : State) (d : Nat) (x : Seq) : (s.setSeq d x).dies = s.dies := rfl
@[simp] theorem State.setSeq_homeOut (s : State) (d : Nat) (x : Seq) : (s.setSeq d x).homeOut = s.homeOut := rfl
@[simp] theorem State.setSeq_heldWrites (s : State) (d : Nat) (x : Seq) : (s.setSeq d x).heldWrites = s.heldWrites := rfl
@[simp] theorem State.setSeq_units (s : State) (d : Nat) (x : Seq) : (s.setSeq d x).units = s.units := rfl
@[simp] theorem State.setSeq_rings (s : State) (d : Nat) (x : Seq) : (s.setSeq d x).rings = s.rings := rfl
@[simp] theorem State.setSeq_flt (s : State) (d : Nat) (x : Seq) : (s.setSeq d x).flt = s.flt := rfl
@[simp] theorem State.setSeq_host (s : State) (d : Nat) (x : Seq) : (s.setSeq d x).host = s.host := rfl
@[simp] theorem State.setSeq_ports (s : State) (d : Nat) (x : Seq) : (s.setSeq d x).ports = s.ports := rfl
@[simp] theorem State.setSeq_swarm (s : State) (d : Nat) (x : Seq) : (s.setSeq d x).swarm = s.swarm := rfl
@[simp] theorem State.setSeq_d2d (s : State) (d : Nat) (x : Seq) : (s.setSeq d x).d2d = s.d2d := rfl
@[simp] theorem State.setSeq_fuses (s : State) (d : Nat) (x : Seq) : (s.setSeq d x).fuses = s.fuses := rfl
@[simp] theorem State.setSeq_sec (s : State) (d : Nat) (x : Seq) : (s.setSeq d x).sec = s.sec := rfl
@[simp] theorem State.setSeq_dorm (s : State) (d : Nat) (x : Seq) : (s.setSeq d x).dorm = s.dorm := rfl
@[simp] theorem State.setSeq_regs (s : State) (d : Nat) (x : Seq) : (s.setSeq d x).regs = s.regs := rfl
@[simp] theorem State.setSeq_cnt (s : State) (d : Nat) (x : Seq) : (s.setSeq d x).cnt = s.cnt := rfl
@[simp] theorem State.setSeq_cntLatch (s : State) (d : Nat) (x : Seq) : (s.setSeq d x).cntLatch = s.cntLatch := rfl
@[simp] theorem State.setSeq_novf (s : State) (d : Nat) (x : Seq) : (s.setSeq d x).novf = s.novf := rfl
@[simp] theorem State.setSeq_firstOvf (s : State) (d : Nat) (x : Seq) : (s.setSeq d x).firstOvf = s.firstOvf := rfl
@[simp] theorem State.setSeq_unlocked (s : State) (d : Nat) (x : Seq) : (s.setSeq d x).unlocked = s.unlocked := rfl
@[simp] theorem State.setSeq_expResult (s : State) (d : Nat) (x : Seq) : (s.setSeq d x).expResult = s.expResult := rfl
@[simp] theorem State.setSeq_expLast (s : State) (d : Nat) (x : Seq) : (s.setSeq d x).expLast = s.expLast := rfl
@[simp] theorem State.setSeq_ledg (s : State) (d : Nat) (x : Seq) : (s.setSeq d x).ledg = s.ledg := rfl
@[simp] theorem State.setSeq_ledgAudit (s : State) (d : Nat) (x : Seq) : (s.setSeq d x).ledgAudit = s.ledgAudit := rfl
@[simp] theorem State.setSeq_auditStep (s : State) (d : Nat) (x : Seq) : (s.setSeq d x).auditStep = s.auditStep := rfl
@[simp] theorem State.setSeq_freeCtr (s : State) (d : Nat) (x : Seq) : (s.setSeq d x).freeCtr = s.freeCtr := rfl
@[simp] theorem State.setSeq_pending (s : State) (d : Nat) (x : Seq) : (s.setSeq d x).pending = s.pending := rfl

/-! ## State.setCore -/

@[simp] theorem State.setCore_pins (s : State) (g : Nat) (x : Core) : (s.setCore g x).pins = s.pins := rfl
@[simp] theorem State.setCore_boot (s : State) (g : Nat) (x : Core) : (s.setCore g x).boot = s.boot := rfl
@[simp] theorem State.setCore_nor (s : State) (g : Nat) (x : Core) : (s.setCore g x).nor = s.nor := rfl
@[simp] theorem State.setCore_mgmt (s : State) (g : Nat) (x : Core) : (s.setCore g x).mgmt = s.mgmt := rfl
@[simp] theorem State.setCore_hk (s : State) (g : Nat) (x : Core) : (s.setCore g x).hk = s.hk := rfl
@[simp] theorem State.setCore_stk (s : State) (g : Nat) (x : Core) : (s.setCore g x).stk = s.stk := rfl
@[simp] theorem State.setCore_cfg (s : State) (g : Nat) (x : Core) : (s.setCore g x).cfg = s.cfg := rfl
@[simp] theorem State.setCore_seqs (s : State) (g : Nat) (x : Core) : (s.setCore g x).seqs = s.seqs := rfl
@[simp] theorem State.setCore_prog (s : State) (g : Nat) (x : Core) : (s.setCore g x).prog = s.prog := rfl
@[simp] theorem State.setCore_cores (s : State) (g : Nat) (x : Core) : (s.setCore g x).cores = AMap.set Core.init s.cores g x := rfl
@[simp] theorem State.setCore_clusters (s : State) (g : Nat) (x : Core) : (s.setCore g x).clusters = s.clusters := rfl
@[simp] theorem State.setCore_dram (s : State) (g : Nat) (x : Core) : (s.setCore g x).dram = s.dram := rfl
@[simp] theorem State.setCore_ctls (s : State) (g : Nat) (x : Core) : (s.setCore g x).ctls = s.ctls := rfl
@[simp] theorem State.setCore_dies (s : State) (g : Nat) (x : Core) : (s.setCore g x).dies = s.dies := rfl
@[simp] theorem State.setCore_homeOut (s : State) (g : Nat) (x : Core) : (s.setCore g x).homeOut = s.homeOut := rfl
@[simp] theorem State.setCore_heldWrites (s : State) (g : Nat) (x : Core) : (s.setCore g x).heldWrites = s.heldWrites := rfl
@[simp] theorem State.setCore_units (s : State) (g : Nat) (x : Core) : (s.setCore g x).units = s.units := rfl
@[simp] theorem State.setCore_rings (s : State) (g : Nat) (x : Core) : (s.setCore g x).rings = s.rings := rfl
@[simp] theorem State.setCore_flt (s : State) (g : Nat) (x : Core) : (s.setCore g x).flt = s.flt := rfl
@[simp] theorem State.setCore_host (s : State) (g : Nat) (x : Core) : (s.setCore g x).host = s.host := rfl
@[simp] theorem State.setCore_ports (s : State) (g : Nat) (x : Core) : (s.setCore g x).ports = s.ports := rfl
@[simp] theorem State.setCore_swarm (s : State) (g : Nat) (x : Core) : (s.setCore g x).swarm = s.swarm := rfl
@[simp] theorem State.setCore_d2d (s : State) (g : Nat) (x : Core) : (s.setCore g x).d2d = s.d2d := rfl
@[simp] theorem State.setCore_fuses (s : State) (g : Nat) (x : Core) : (s.setCore g x).fuses = s.fuses := rfl
@[simp] theorem State.setCore_sec (s : State) (g : Nat) (x : Core) : (s.setCore g x).sec = s.sec := rfl
@[simp] theorem State.setCore_dorm (s : State) (g : Nat) (x : Core) : (s.setCore g x).dorm = s.dorm := rfl
@[simp] theorem State.setCore_regs (s : State) (g : Nat) (x : Core) : (s.setCore g x).regs = s.regs := rfl
@[simp] theorem State.setCore_cnt (s : State) (g : Nat) (x : Core) : (s.setCore g x).cnt = s.cnt := rfl
@[simp] theorem State.setCore_cntLatch (s : State) (g : Nat) (x : Core) : (s.setCore g x).cntLatch = s.cntLatch := rfl
@[simp] theorem State.setCore_novf (s : State) (g : Nat) (x : Core) : (s.setCore g x).novf = s.novf := rfl
@[simp] theorem State.setCore_firstOvf (s : State) (g : Nat) (x : Core) : (s.setCore g x).firstOvf = s.firstOvf := rfl
@[simp] theorem State.setCore_unlocked (s : State) (g : Nat) (x : Core) : (s.setCore g x).unlocked = s.unlocked := rfl
@[simp] theorem State.setCore_expResult (s : State) (g : Nat) (x : Core) : (s.setCore g x).expResult = s.expResult := rfl
@[simp] theorem State.setCore_expLast (s : State) (g : Nat) (x : Core) : (s.setCore g x).expLast = s.expLast := rfl
@[simp] theorem State.setCore_ledg (s : State) (g : Nat) (x : Core) : (s.setCore g x).ledg = s.ledg := rfl
@[simp] theorem State.setCore_ledgAudit (s : State) (g : Nat) (x : Core) : (s.setCore g x).ledgAudit = s.ledgAudit := rfl
@[simp] theorem State.setCore_auditStep (s : State) (g : Nat) (x : Core) : (s.setCore g x).auditStep = s.auditStep := rfl
@[simp] theorem State.setCore_freeCtr (s : State) (g : Nat) (x : Core) : (s.setCore g x).freeCtr = s.freeCtr := rfl
@[simp] theorem State.setCore_pending (s : State) (g : Nat) (x : Core) : (s.setCore g x).pending = s.pending := rfl

/-! ## State.setCluster -/

@[simp] theorem State.setCluster_pins (s : State) (g : Nat) (x : Cluster) : (s.setCluster g x).pins = s.pins := rfl
@[simp] theorem State.setCluster_boot (s : State) (g : Nat) (x : Cluster) : (s.setCluster g x).boot = s.boot := rfl
@[simp] theorem State.setCluster_nor (s : State) (g : Nat) (x : Cluster) : (s.setCluster g x).nor = s.nor := rfl
@[simp] theorem State.setCluster_mgmt (s : State) (g : Nat) (x : Cluster) : (s.setCluster g x).mgmt = s.mgmt := rfl
@[simp] theorem State.setCluster_hk (s : State) (g : Nat) (x : Cluster) : (s.setCluster g x).hk = s.hk := rfl
@[simp] theorem State.setCluster_stk (s : State) (g : Nat) (x : Cluster) : (s.setCluster g x).stk = s.stk := rfl
@[simp] theorem State.setCluster_cfg (s : State) (g : Nat) (x : Cluster) : (s.setCluster g x).cfg = s.cfg := rfl
@[simp] theorem State.setCluster_seqs (s : State) (g : Nat) (x : Cluster) : (s.setCluster g x).seqs = s.seqs := rfl
@[simp] theorem State.setCluster_prog (s : State) (g : Nat) (x : Cluster) : (s.setCluster g x).prog = s.prog := rfl
@[simp] theorem State.setCluster_cores (s : State) (g : Nat) (x : Cluster) : (s.setCluster g x).cores = s.cores := rfl
@[simp] theorem State.setCluster_clusters (s : State) (g : Nat) (x : Cluster) : (s.setCluster g x).clusters = AMap.set Cluster.init s.clusters g x := rfl
@[simp] theorem State.setCluster_dram (s : State) (g : Nat) (x : Cluster) : (s.setCluster g x).dram = s.dram := rfl
@[simp] theorem State.setCluster_ctls (s : State) (g : Nat) (x : Cluster) : (s.setCluster g x).ctls = s.ctls := rfl
@[simp] theorem State.setCluster_dies (s : State) (g : Nat) (x : Cluster) : (s.setCluster g x).dies = s.dies := rfl
@[simp] theorem State.setCluster_homeOut (s : State) (g : Nat) (x : Cluster) : (s.setCluster g x).homeOut = s.homeOut := rfl
@[simp] theorem State.setCluster_heldWrites (s : State) (g : Nat) (x : Cluster) : (s.setCluster g x).heldWrites = s.heldWrites := rfl
@[simp] theorem State.setCluster_units (s : State) (g : Nat) (x : Cluster) : (s.setCluster g x).units = s.units := rfl
@[simp] theorem State.setCluster_rings (s : State) (g : Nat) (x : Cluster) : (s.setCluster g x).rings = s.rings := rfl
@[simp] theorem State.setCluster_flt (s : State) (g : Nat) (x : Cluster) : (s.setCluster g x).flt = s.flt := rfl
@[simp] theorem State.setCluster_host (s : State) (g : Nat) (x : Cluster) : (s.setCluster g x).host = s.host := rfl
@[simp] theorem State.setCluster_ports (s : State) (g : Nat) (x : Cluster) : (s.setCluster g x).ports = s.ports := rfl
@[simp] theorem State.setCluster_swarm (s : State) (g : Nat) (x : Cluster) : (s.setCluster g x).swarm = s.swarm := rfl
@[simp] theorem State.setCluster_d2d (s : State) (g : Nat) (x : Cluster) : (s.setCluster g x).d2d = s.d2d := rfl
@[simp] theorem State.setCluster_fuses (s : State) (g : Nat) (x : Cluster) : (s.setCluster g x).fuses = s.fuses := rfl
@[simp] theorem State.setCluster_sec (s : State) (g : Nat) (x : Cluster) : (s.setCluster g x).sec = s.sec := rfl
@[simp] theorem State.setCluster_dorm (s : State) (g : Nat) (x : Cluster) : (s.setCluster g x).dorm = s.dorm := rfl
@[simp] theorem State.setCluster_regs (s : State) (g : Nat) (x : Cluster) : (s.setCluster g x).regs = s.regs := rfl
@[simp] theorem State.setCluster_cnt (s : State) (g : Nat) (x : Cluster) : (s.setCluster g x).cnt = s.cnt := rfl
@[simp] theorem State.setCluster_cntLatch (s : State) (g : Nat) (x : Cluster) : (s.setCluster g x).cntLatch = s.cntLatch := rfl
@[simp] theorem State.setCluster_novf (s : State) (g : Nat) (x : Cluster) : (s.setCluster g x).novf = s.novf := rfl
@[simp] theorem State.setCluster_firstOvf (s : State) (g : Nat) (x : Cluster) : (s.setCluster g x).firstOvf = s.firstOvf := rfl
@[simp] theorem State.setCluster_unlocked (s : State) (g : Nat) (x : Cluster) : (s.setCluster g x).unlocked = s.unlocked := rfl
@[simp] theorem State.setCluster_expResult (s : State) (g : Nat) (x : Cluster) : (s.setCluster g x).expResult = s.expResult := rfl
@[simp] theorem State.setCluster_expLast (s : State) (g : Nat) (x : Cluster) : (s.setCluster g x).expLast = s.expLast := rfl
@[simp] theorem State.setCluster_ledg (s : State) (g : Nat) (x : Cluster) : (s.setCluster g x).ledg = s.ledg := rfl
@[simp] theorem State.setCluster_ledgAudit (s : State) (g : Nat) (x : Cluster) : (s.setCluster g x).ledgAudit = s.ledgAudit := rfl
@[simp] theorem State.setCluster_auditStep (s : State) (g : Nat) (x : Cluster) : (s.setCluster g x).auditStep = s.auditStep := rfl
@[simp] theorem State.setCluster_freeCtr (s : State) (g : Nat) (x : Cluster) : (s.setCluster g x).freeCtr = s.freeCtr := rfl
@[simp] theorem State.setCluster_pending (s : State) (g : Nat) (x : Cluster) : (s.setCluster g x).pending = s.pending := rfl

/-! ## State.setCtl -/

@[simp] theorem State.setCtl_pins (s : State) (n : Nat) (x : Ctl) : (s.setCtl n x).pins = s.pins := rfl
@[simp] theorem State.setCtl_boot (s : State) (n : Nat) (x : Ctl) : (s.setCtl n x).boot = s.boot := rfl
@[simp] theorem State.setCtl_nor (s : State) (n : Nat) (x : Ctl) : (s.setCtl n x).nor = s.nor := rfl
@[simp] theorem State.setCtl_mgmt (s : State) (n : Nat) (x : Ctl) : (s.setCtl n x).mgmt = s.mgmt := rfl
@[simp] theorem State.setCtl_hk (s : State) (n : Nat) (x : Ctl) : (s.setCtl n x).hk = s.hk := rfl
@[simp] theorem State.setCtl_stk (s : State) (n : Nat) (x : Ctl) : (s.setCtl n x).stk = s.stk := rfl
@[simp] theorem State.setCtl_cfg (s : State) (n : Nat) (x : Ctl) : (s.setCtl n x).cfg = s.cfg := rfl
@[simp] theorem State.setCtl_seqs (s : State) (n : Nat) (x : Ctl) : (s.setCtl n x).seqs = s.seqs := rfl
@[simp] theorem State.setCtl_prog (s : State) (n : Nat) (x : Ctl) : (s.setCtl n x).prog = s.prog := rfl
@[simp] theorem State.setCtl_cores (s : State) (n : Nat) (x : Ctl) : (s.setCtl n x).cores = s.cores := rfl
@[simp] theorem State.setCtl_clusters (s : State) (n : Nat) (x : Ctl) : (s.setCtl n x).clusters = s.clusters := rfl
@[simp] theorem State.setCtl_dram (s : State) (n : Nat) (x : Ctl) : (s.setCtl n x).dram = s.dram := rfl
@[simp] theorem State.setCtl_ctls (s : State) (n : Nat) (x : Ctl) : (s.setCtl n x).ctls = AMap.set Ctl.init s.ctls n x := rfl
@[simp] theorem State.setCtl_dies (s : State) (n : Nat) (x : Ctl) : (s.setCtl n x).dies = s.dies := rfl
@[simp] theorem State.setCtl_homeOut (s : State) (n : Nat) (x : Ctl) : (s.setCtl n x).homeOut = s.homeOut := rfl
@[simp] theorem State.setCtl_heldWrites (s : State) (n : Nat) (x : Ctl) : (s.setCtl n x).heldWrites = s.heldWrites := rfl
@[simp] theorem State.setCtl_units (s : State) (n : Nat) (x : Ctl) : (s.setCtl n x).units = s.units := rfl
@[simp] theorem State.setCtl_rings (s : State) (n : Nat) (x : Ctl) : (s.setCtl n x).rings = s.rings := rfl
@[simp] theorem State.setCtl_flt (s : State) (n : Nat) (x : Ctl) : (s.setCtl n x).flt = s.flt := rfl
@[simp] theorem State.setCtl_host (s : State) (n : Nat) (x : Ctl) : (s.setCtl n x).host = s.host := rfl
@[simp] theorem State.setCtl_ports (s : State) (n : Nat) (x : Ctl) : (s.setCtl n x).ports = s.ports := rfl
@[simp] theorem State.setCtl_swarm (s : State) (n : Nat) (x : Ctl) : (s.setCtl n x).swarm = s.swarm := rfl
@[simp] theorem State.setCtl_d2d (s : State) (n : Nat) (x : Ctl) : (s.setCtl n x).d2d = s.d2d := rfl
@[simp] theorem State.setCtl_fuses (s : State) (n : Nat) (x : Ctl) : (s.setCtl n x).fuses = s.fuses := rfl
@[simp] theorem State.setCtl_sec (s : State) (n : Nat) (x : Ctl) : (s.setCtl n x).sec = s.sec := rfl
@[simp] theorem State.setCtl_dorm (s : State) (n : Nat) (x : Ctl) : (s.setCtl n x).dorm = s.dorm := rfl
@[simp] theorem State.setCtl_regs (s : State) (n : Nat) (x : Ctl) : (s.setCtl n x).regs = s.regs := rfl
@[simp] theorem State.setCtl_cnt (s : State) (n : Nat) (x : Ctl) : (s.setCtl n x).cnt = s.cnt := rfl
@[simp] theorem State.setCtl_cntLatch (s : State) (n : Nat) (x : Ctl) : (s.setCtl n x).cntLatch = s.cntLatch := rfl
@[simp] theorem State.setCtl_novf (s : State) (n : Nat) (x : Ctl) : (s.setCtl n x).novf = s.novf := rfl
@[simp] theorem State.setCtl_firstOvf (s : State) (n : Nat) (x : Ctl) : (s.setCtl n x).firstOvf = s.firstOvf := rfl
@[simp] theorem State.setCtl_unlocked (s : State) (n : Nat) (x : Ctl) : (s.setCtl n x).unlocked = s.unlocked := rfl
@[simp] theorem State.setCtl_expResult (s : State) (n : Nat) (x : Ctl) : (s.setCtl n x).expResult = s.expResult := rfl
@[simp] theorem State.setCtl_expLast (s : State) (n : Nat) (x : Ctl) : (s.setCtl n x).expLast = s.expLast := rfl
@[simp] theorem State.setCtl_ledg (s : State) (n : Nat) (x : Ctl) : (s.setCtl n x).ledg = s.ledg := rfl
@[simp] theorem State.setCtl_ledgAudit (s : State) (n : Nat) (x : Ctl) : (s.setCtl n x).ledgAudit = s.ledgAudit := rfl
@[simp] theorem State.setCtl_auditStep (s : State) (n : Nat) (x : Ctl) : (s.setCtl n x).auditStep = s.auditStep := rfl
@[simp] theorem State.setCtl_freeCtr (s : State) (n : Nat) (x : Ctl) : (s.setCtl n x).freeCtr = s.freeCtr := rfl
@[simp] theorem State.setCtl_pending (s : State) (n : Nat) (x : Ctl) : (s.setCtl n x).pending = s.pending := rfl

/-! ## State.setDie -/

@[simp] theorem State.setDie_pins (s : State) (d : Nat) (x : BaseDie) : (s.setDie d x).pins = s.pins := rfl
@[simp] theorem State.setDie_boot (s : State) (d : Nat) (x : BaseDie) : (s.setDie d x).boot = s.boot := rfl
@[simp] theorem State.setDie_nor (s : State) (d : Nat) (x : BaseDie) : (s.setDie d x).nor = s.nor := rfl
@[simp] theorem State.setDie_mgmt (s : State) (d : Nat) (x : BaseDie) : (s.setDie d x).mgmt = s.mgmt := rfl
@[simp] theorem State.setDie_hk (s : State) (d : Nat) (x : BaseDie) : (s.setDie d x).hk = s.hk := rfl
@[simp] theorem State.setDie_stk (s : State) (d : Nat) (x : BaseDie) : (s.setDie d x).stk = s.stk := rfl
@[simp] theorem State.setDie_cfg (s : State) (d : Nat) (x : BaseDie) : (s.setDie d x).cfg = s.cfg := rfl
@[simp] theorem State.setDie_seqs (s : State) (d : Nat) (x : BaseDie) : (s.setDie d x).seqs = s.seqs := rfl
@[simp] theorem State.setDie_prog (s : State) (d : Nat) (x : BaseDie) : (s.setDie d x).prog = s.prog := rfl
@[simp] theorem State.setDie_cores (s : State) (d : Nat) (x : BaseDie) : (s.setDie d x).cores = s.cores := rfl
@[simp] theorem State.setDie_clusters (s : State) (d : Nat) (x : BaseDie) : (s.setDie d x).clusters = s.clusters := rfl
@[simp] theorem State.setDie_dram (s : State) (d : Nat) (x : BaseDie) : (s.setDie d x).dram = s.dram := rfl
@[simp] theorem State.setDie_ctls (s : State) (d : Nat) (x : BaseDie) : (s.setDie d x).ctls = s.ctls := rfl
@[simp] theorem State.setDie_dies (s : State) (d : Nat) (x : BaseDie) : (s.setDie d x).dies = AMap.set BaseDie.init s.dies d x := rfl
@[simp] theorem State.setDie_homeOut (s : State) (d : Nat) (x : BaseDie) : (s.setDie d x).homeOut = s.homeOut := rfl
@[simp] theorem State.setDie_heldWrites (s : State) (d : Nat) (x : BaseDie) : (s.setDie d x).heldWrites = s.heldWrites := rfl
@[simp] theorem State.setDie_units (s : State) (d : Nat) (x : BaseDie) : (s.setDie d x).units = s.units := rfl
@[simp] theorem State.setDie_rings (s : State) (d : Nat) (x : BaseDie) : (s.setDie d x).rings = s.rings := rfl
@[simp] theorem State.setDie_flt (s : State) (d : Nat) (x : BaseDie) : (s.setDie d x).flt = s.flt := rfl
@[simp] theorem State.setDie_host (s : State) (d : Nat) (x : BaseDie) : (s.setDie d x).host = s.host := rfl
@[simp] theorem State.setDie_ports (s : State) (d : Nat) (x : BaseDie) : (s.setDie d x).ports = s.ports := rfl
@[simp] theorem State.setDie_swarm (s : State) (d : Nat) (x : BaseDie) : (s.setDie d x).swarm = s.swarm := rfl
@[simp] theorem State.setDie_d2d (s : State) (d : Nat) (x : BaseDie) : (s.setDie d x).d2d = s.d2d := rfl
@[simp] theorem State.setDie_fuses (s : State) (d : Nat) (x : BaseDie) : (s.setDie d x).fuses = s.fuses := rfl
@[simp] theorem State.setDie_sec (s : State) (d : Nat) (x : BaseDie) : (s.setDie d x).sec = s.sec := rfl
@[simp] theorem State.setDie_dorm (s : State) (d : Nat) (x : BaseDie) : (s.setDie d x).dorm = s.dorm := rfl
@[simp] theorem State.setDie_regs (s : State) (d : Nat) (x : BaseDie) : (s.setDie d x).regs = s.regs := rfl
@[simp] theorem State.setDie_cnt (s : State) (d : Nat) (x : BaseDie) : (s.setDie d x).cnt = s.cnt := rfl
@[simp] theorem State.setDie_cntLatch (s : State) (d : Nat) (x : BaseDie) : (s.setDie d x).cntLatch = s.cntLatch := rfl
@[simp] theorem State.setDie_novf (s : State) (d : Nat) (x : BaseDie) : (s.setDie d x).novf = s.novf := rfl
@[simp] theorem State.setDie_firstOvf (s : State) (d : Nat) (x : BaseDie) : (s.setDie d x).firstOvf = s.firstOvf := rfl
@[simp] theorem State.setDie_unlocked (s : State) (d : Nat) (x : BaseDie) : (s.setDie d x).unlocked = s.unlocked := rfl
@[simp] theorem State.setDie_expResult (s : State) (d : Nat) (x : BaseDie) : (s.setDie d x).expResult = s.expResult := rfl
@[simp] theorem State.setDie_expLast (s : State) (d : Nat) (x : BaseDie) : (s.setDie d x).expLast = s.expLast := rfl
@[simp] theorem State.setDie_ledg (s : State) (d : Nat) (x : BaseDie) : (s.setDie d x).ledg = s.ledg := rfl
@[simp] theorem State.setDie_ledgAudit (s : State) (d : Nat) (x : BaseDie) : (s.setDie d x).ledgAudit = s.ledgAudit := rfl
@[simp] theorem State.setDie_auditStep (s : State) (d : Nat) (x : BaseDie) : (s.setDie d x).auditStep = s.auditStep := rfl
@[simp] theorem State.setDie_freeCtr (s : State) (d : Nat) (x : BaseDie) : (s.setDie d x).freeCtr = s.freeCtr := rfl
@[simp] theorem State.setDie_pending (s : State) (d : Nat) (x : BaseDie) : (s.setDie d x).pending = s.pending := rfl

/-! ## State.setUnit -/

@[simp] theorem State.setUnit_pins (s : State) (u : Nat) (x : CUnit) : (s.setUnit u x).pins = s.pins := rfl
@[simp] theorem State.setUnit_boot (s : State) (u : Nat) (x : CUnit) : (s.setUnit u x).boot = s.boot := rfl
@[simp] theorem State.setUnit_nor (s : State) (u : Nat) (x : CUnit) : (s.setUnit u x).nor = s.nor := rfl
@[simp] theorem State.setUnit_mgmt (s : State) (u : Nat) (x : CUnit) : (s.setUnit u x).mgmt = s.mgmt := rfl
@[simp] theorem State.setUnit_hk (s : State) (u : Nat) (x : CUnit) : (s.setUnit u x).hk = s.hk := rfl
@[simp] theorem State.setUnit_stk (s : State) (u : Nat) (x : CUnit) : (s.setUnit u x).stk = s.stk := rfl
@[simp] theorem State.setUnit_cfg (s : State) (u : Nat) (x : CUnit) : (s.setUnit u x).cfg = s.cfg := rfl
@[simp] theorem State.setUnit_seqs (s : State) (u : Nat) (x : CUnit) : (s.setUnit u x).seqs = s.seqs := rfl
@[simp] theorem State.setUnit_prog (s : State) (u : Nat) (x : CUnit) : (s.setUnit u x).prog = s.prog := rfl
@[simp] theorem State.setUnit_cores (s : State) (u : Nat) (x : CUnit) : (s.setUnit u x).cores = s.cores := rfl
@[simp] theorem State.setUnit_clusters (s : State) (u : Nat) (x : CUnit) : (s.setUnit u x).clusters = s.clusters := rfl
@[simp] theorem State.setUnit_dram (s : State) (u : Nat) (x : CUnit) : (s.setUnit u x).dram = s.dram := rfl
@[simp] theorem State.setUnit_ctls (s : State) (u : Nat) (x : CUnit) : (s.setUnit u x).ctls = s.ctls := rfl
@[simp] theorem State.setUnit_dies (s : State) (u : Nat) (x : CUnit) : (s.setUnit u x).dies = s.dies := rfl
@[simp] theorem State.setUnit_homeOut (s : State) (u : Nat) (x : CUnit) : (s.setUnit u x).homeOut = s.homeOut := rfl
@[simp] theorem State.setUnit_heldWrites (s : State) (u : Nat) (x : CUnit) : (s.setUnit u x).heldWrites = s.heldWrites := rfl
@[simp] theorem State.setUnit_units (s : State) (u : Nat) (x : CUnit) : (s.setUnit u x).units = AMap.set CUnit.init s.units u x := rfl
@[simp] theorem State.setUnit_rings (s : State) (u : Nat) (x : CUnit) : (s.setUnit u x).rings = s.rings := rfl
@[simp] theorem State.setUnit_flt (s : State) (u : Nat) (x : CUnit) : (s.setUnit u x).flt = s.flt := rfl
@[simp] theorem State.setUnit_host (s : State) (u : Nat) (x : CUnit) : (s.setUnit u x).host = s.host := rfl
@[simp] theorem State.setUnit_ports (s : State) (u : Nat) (x : CUnit) : (s.setUnit u x).ports = s.ports := rfl
@[simp] theorem State.setUnit_swarm (s : State) (u : Nat) (x : CUnit) : (s.setUnit u x).swarm = s.swarm := rfl
@[simp] theorem State.setUnit_d2d (s : State) (u : Nat) (x : CUnit) : (s.setUnit u x).d2d = s.d2d := rfl
@[simp] theorem State.setUnit_fuses (s : State) (u : Nat) (x : CUnit) : (s.setUnit u x).fuses = s.fuses := rfl
@[simp] theorem State.setUnit_sec (s : State) (u : Nat) (x : CUnit) : (s.setUnit u x).sec = s.sec := rfl
@[simp] theorem State.setUnit_dorm (s : State) (u : Nat) (x : CUnit) : (s.setUnit u x).dorm = s.dorm := rfl
@[simp] theorem State.setUnit_regs (s : State) (u : Nat) (x : CUnit) : (s.setUnit u x).regs = s.regs := rfl
@[simp] theorem State.setUnit_cnt (s : State) (u : Nat) (x : CUnit) : (s.setUnit u x).cnt = s.cnt := rfl
@[simp] theorem State.setUnit_cntLatch (s : State) (u : Nat) (x : CUnit) : (s.setUnit u x).cntLatch = s.cntLatch := rfl
@[simp] theorem State.setUnit_novf (s : State) (u : Nat) (x : CUnit) : (s.setUnit u x).novf = s.novf := rfl
@[simp] theorem State.setUnit_firstOvf (s : State) (u : Nat) (x : CUnit) : (s.setUnit u x).firstOvf = s.firstOvf := rfl
@[simp] theorem State.setUnit_unlocked (s : State) (u : Nat) (x : CUnit) : (s.setUnit u x).unlocked = s.unlocked := rfl
@[simp] theorem State.setUnit_expResult (s : State) (u : Nat) (x : CUnit) : (s.setUnit u x).expResult = s.expResult := rfl
@[simp] theorem State.setUnit_expLast (s : State) (u : Nat) (x : CUnit) : (s.setUnit u x).expLast = s.expLast := rfl
@[simp] theorem State.setUnit_ledg (s : State) (u : Nat) (x : CUnit) : (s.setUnit u x).ledg = s.ledg := rfl
@[simp] theorem State.setUnit_ledgAudit (s : State) (u : Nat) (x : CUnit) : (s.setUnit u x).ledgAudit = s.ledgAudit := rfl
@[simp] theorem State.setUnit_auditStep (s : State) (u : Nat) (x : CUnit) : (s.setUnit u x).auditStep = s.auditStep := rfl
@[simp] theorem State.setUnit_freeCtr (s : State) (u : Nat) (x : CUnit) : (s.setUnit u x).freeCtr = s.freeCtr := rfl
@[simp] theorem State.setUnit_pending (s : State) (u : Nat) (x : CUnit) : (s.setUnit u x).pending = s.pending := rfl

/-! ## State.setRing -/

@[simp] theorem State.setRing_pins (s : State) (r : Nat) (x : Ring) : (s.setRing r x).pins = s.pins := rfl
@[simp] theorem State.setRing_boot (s : State) (r : Nat) (x : Ring) : (s.setRing r x).boot = s.boot := rfl
@[simp] theorem State.setRing_nor (s : State) (r : Nat) (x : Ring) : (s.setRing r x).nor = s.nor := rfl
@[simp] theorem State.setRing_mgmt (s : State) (r : Nat) (x : Ring) : (s.setRing r x).mgmt = s.mgmt := rfl
@[simp] theorem State.setRing_hk (s : State) (r : Nat) (x : Ring) : (s.setRing r x).hk = s.hk := rfl
@[simp] theorem State.setRing_stk (s : State) (r : Nat) (x : Ring) : (s.setRing r x).stk = s.stk := rfl
@[simp] theorem State.setRing_cfg (s : State) (r : Nat) (x : Ring) : (s.setRing r x).cfg = s.cfg := rfl
@[simp] theorem State.setRing_seqs (s : State) (r : Nat) (x : Ring) : (s.setRing r x).seqs = s.seqs := rfl
@[simp] theorem State.setRing_prog (s : State) (r : Nat) (x : Ring) : (s.setRing r x).prog = s.prog := rfl
@[simp] theorem State.setRing_cores (s : State) (r : Nat) (x : Ring) : (s.setRing r x).cores = s.cores := rfl
@[simp] theorem State.setRing_clusters (s : State) (r : Nat) (x : Ring) : (s.setRing r x).clusters = s.clusters := rfl
@[simp] theorem State.setRing_dram (s : State) (r : Nat) (x : Ring) : (s.setRing r x).dram = s.dram := rfl
@[simp] theorem State.setRing_ctls (s : State) (r : Nat) (x : Ring) : (s.setRing r x).ctls = s.ctls := rfl
@[simp] theorem State.setRing_dies (s : State) (r : Nat) (x : Ring) : (s.setRing r x).dies = s.dies := rfl
@[simp] theorem State.setRing_homeOut (s : State) (r : Nat) (x : Ring) : (s.setRing r x).homeOut = s.homeOut := rfl
@[simp] theorem State.setRing_heldWrites (s : State) (r : Nat) (x : Ring) : (s.setRing r x).heldWrites = s.heldWrites := rfl
@[simp] theorem State.setRing_units (s : State) (r : Nat) (x : Ring) : (s.setRing r x).units = s.units := rfl
@[simp] theorem State.setRing_rings (s : State) (r : Nat) (x : Ring) : (s.setRing r x).rings = AMap.set { queue := [], cur := none } s.rings r x := rfl
@[simp] theorem State.setRing_flt (s : State) (r : Nat) (x : Ring) : (s.setRing r x).flt = s.flt := rfl
@[simp] theorem State.setRing_host (s : State) (r : Nat) (x : Ring) : (s.setRing r x).host = s.host := rfl
@[simp] theorem State.setRing_ports (s : State) (r : Nat) (x : Ring) : (s.setRing r x).ports = s.ports := rfl
@[simp] theorem State.setRing_swarm (s : State) (r : Nat) (x : Ring) : (s.setRing r x).swarm = s.swarm := rfl
@[simp] theorem State.setRing_d2d (s : State) (r : Nat) (x : Ring) : (s.setRing r x).d2d = s.d2d := rfl
@[simp] theorem State.setRing_fuses (s : State) (r : Nat) (x : Ring) : (s.setRing r x).fuses = s.fuses := rfl
@[simp] theorem State.setRing_sec (s : State) (r : Nat) (x : Ring) : (s.setRing r x).sec = s.sec := rfl
@[simp] theorem State.setRing_dorm (s : State) (r : Nat) (x : Ring) : (s.setRing r x).dorm = s.dorm := rfl
@[simp] theorem State.setRing_regs (s : State) (r : Nat) (x : Ring) : (s.setRing r x).regs = s.regs := rfl
@[simp] theorem State.setRing_cnt (s : State) (r : Nat) (x : Ring) : (s.setRing r x).cnt = s.cnt := rfl
@[simp] theorem State.setRing_cntLatch (s : State) (r : Nat) (x : Ring) : (s.setRing r x).cntLatch = s.cntLatch := rfl
@[simp] theorem State.setRing_novf (s : State) (r : Nat) (x : Ring) : (s.setRing r x).novf = s.novf := rfl
@[simp] theorem State.setRing_firstOvf (s : State) (r : Nat) (x : Ring) : (s.setRing r x).firstOvf = s.firstOvf := rfl
@[simp] theorem State.setRing_unlocked (s : State) (r : Nat) (x : Ring) : (s.setRing r x).unlocked = s.unlocked := rfl
@[simp] theorem State.setRing_expResult (s : State) (r : Nat) (x : Ring) : (s.setRing r x).expResult = s.expResult := rfl
@[simp] theorem State.setRing_expLast (s : State) (r : Nat) (x : Ring) : (s.setRing r x).expLast = s.expLast := rfl
@[simp] theorem State.setRing_ledg (s : State) (r : Nat) (x : Ring) : (s.setRing r x).ledg = s.ledg := rfl
@[simp] theorem State.setRing_ledgAudit (s : State) (r : Nat) (x : Ring) : (s.setRing r x).ledgAudit = s.ledgAudit := rfl
@[simp] theorem State.setRing_auditStep (s : State) (r : Nat) (x : Ring) : (s.setRing r x).auditStep = s.auditStep := rfl
@[simp] theorem State.setRing_freeCtr (s : State) (r : Nat) (x : Ring) : (s.setRing r x).freeCtr = s.freeCtr := rfl
@[simp] theorem State.setRing_pending (s : State) (r : Nat) (x : Ring) : (s.setRing r x).pending = s.pending := rfl

/-! ## State.setPort -/

@[simp] theorem State.setPort_pins (s : State) (p : Nat) (x : Port) : (s.setPort p x).pins = s.pins := rfl
@[simp] theorem State.setPort_boot (s : State) (p : Nat) (x : Port) : (s.setPort p x).boot = s.boot := rfl
@[simp] theorem State.setPort_nor (s : State) (p : Nat) (x : Port) : (s.setPort p x).nor = s.nor := rfl
@[simp] theorem State.setPort_mgmt (s : State) (p : Nat) (x : Port) : (s.setPort p x).mgmt = s.mgmt := rfl
@[simp] theorem State.setPort_hk (s : State) (p : Nat) (x : Port) : (s.setPort p x).hk = s.hk := rfl
@[simp] theorem State.setPort_stk (s : State) (p : Nat) (x : Port) : (s.setPort p x).stk = s.stk := rfl
@[simp] theorem State.setPort_cfg (s : State) (p : Nat) (x : Port) : (s.setPort p x).cfg = s.cfg := rfl
@[simp] theorem State.setPort_seqs (s : State) (p : Nat) (x : Port) : (s.setPort p x).seqs = s.seqs := rfl
@[simp] theorem State.setPort_prog (s : State) (p : Nat) (x : Port) : (s.setPort p x).prog = s.prog := rfl
@[simp] theorem State.setPort_cores (s : State) (p : Nat) (x : Port) : (s.setPort p x).cores = s.cores := rfl
@[simp] theorem State.setPort_clusters (s : State) (p : Nat) (x : Port) : (s.setPort p x).clusters = s.clusters := rfl
@[simp] theorem State.setPort_dram (s : State) (p : Nat) (x : Port) : (s.setPort p x).dram = s.dram := rfl
@[simp] theorem State.setPort_ctls (s : State) (p : Nat) (x : Port) : (s.setPort p x).ctls = s.ctls := rfl
@[simp] theorem State.setPort_dies (s : State) (p : Nat) (x : Port) : (s.setPort p x).dies = s.dies := rfl
@[simp] theorem State.setPort_homeOut (s : State) (p : Nat) (x : Port) : (s.setPort p x).homeOut = s.homeOut := rfl
@[simp] theorem State.setPort_heldWrites (s : State) (p : Nat) (x : Port) : (s.setPort p x).heldWrites = s.heldWrites := rfl
@[simp] theorem State.setPort_units (s : State) (p : Nat) (x : Port) : (s.setPort p x).units = s.units := rfl
@[simp] theorem State.setPort_rings (s : State) (p : Nat) (x : Port) : (s.setPort p x).rings = s.rings := rfl
@[simp] theorem State.setPort_flt (s : State) (p : Nat) (x : Port) : (s.setPort p x).flt = s.flt := rfl
@[simp] theorem State.setPort_host (s : State) (p : Nat) (x : Port) : (s.setPort p x).host = s.host := rfl
@[simp] theorem State.setPort_ports (s : State) (p : Nat) (x : Port) : (s.setPort p x).ports = AMap.set Port.init s.ports p x := rfl
@[simp] theorem State.setPort_swarm (s : State) (p : Nat) (x : Port) : (s.setPort p x).swarm = s.swarm := rfl
@[simp] theorem State.setPort_d2d (s : State) (p : Nat) (x : Port) : (s.setPort p x).d2d = s.d2d := rfl
@[simp] theorem State.setPort_fuses (s : State) (p : Nat) (x : Port) : (s.setPort p x).fuses = s.fuses := rfl
@[simp] theorem State.setPort_sec (s : State) (p : Nat) (x : Port) : (s.setPort p x).sec = s.sec := rfl
@[simp] theorem State.setPort_dorm (s : State) (p : Nat) (x : Port) : (s.setPort p x).dorm = s.dorm := rfl
@[simp] theorem State.setPort_regs (s : State) (p : Nat) (x : Port) : (s.setPort p x).regs = s.regs := rfl
@[simp] theorem State.setPort_cnt (s : State) (p : Nat) (x : Port) : (s.setPort p x).cnt = s.cnt := rfl
@[simp] theorem State.setPort_cntLatch (s : State) (p : Nat) (x : Port) : (s.setPort p x).cntLatch = s.cntLatch := rfl
@[simp] theorem State.setPort_novf (s : State) (p : Nat) (x : Port) : (s.setPort p x).novf = s.novf := rfl
@[simp] theorem State.setPort_firstOvf (s : State) (p : Nat) (x : Port) : (s.setPort p x).firstOvf = s.firstOvf := rfl
@[simp] theorem State.setPort_unlocked (s : State) (p : Nat) (x : Port) : (s.setPort p x).unlocked = s.unlocked := rfl
@[simp] theorem State.setPort_expResult (s : State) (p : Nat) (x : Port) : (s.setPort p x).expResult = s.expResult := rfl
@[simp] theorem State.setPort_expLast (s : State) (p : Nat) (x : Port) : (s.setPort p x).expLast = s.expLast := rfl
@[simp] theorem State.setPort_ledg (s : State) (p : Nat) (x : Port) : (s.setPort p x).ledg = s.ledg := rfl
@[simp] theorem State.setPort_ledgAudit (s : State) (p : Nat) (x : Port) : (s.setPort p x).ledgAudit = s.ledgAudit := rfl
@[simp] theorem State.setPort_auditStep (s : State) (p : Nat) (x : Port) : (s.setPort p x).auditStep = s.auditStep := rfl
@[simp] theorem State.setPort_freeCtr (s : State) (p : Nat) (x : Port) : (s.setPort p x).freeCtr = s.freeCtr := rfl
@[simp] theorem State.setPort_pending (s : State) (p : Nat) (x : Port) : (s.setPort p x).pending = s.pending := rfl

/-! ## State.setLink -/

@[simp] theorem State.setLink_pins (s : State) (l : Nat) (x : D2d) : (s.setLink l x).pins = s.pins := rfl
@[simp] theorem State.setLink_boot (s : State) (l : Nat) (x : D2d) : (s.setLink l x).boot = s.boot := rfl
@[simp] theorem State.setLink_nor (s : State) (l : Nat) (x : D2d) : (s.setLink l x).nor = s.nor := rfl
@[simp] theorem State.setLink_mgmt (s : State) (l : Nat) (x : D2d) : (s.setLink l x).mgmt = s.mgmt := rfl
@[simp] theorem State.setLink_hk (s : State) (l : Nat) (x : D2d) : (s.setLink l x).hk = s.hk := rfl
@[simp] theorem State.setLink_stk (s : State) (l : Nat) (x : D2d) : (s.setLink l x).stk = s.stk := rfl
@[simp] theorem State.setLink_cfg (s : State) (l : Nat) (x : D2d) : (s.setLink l x).cfg = s.cfg := rfl
@[simp] theorem State.setLink_seqs (s : State) (l : Nat) (x : D2d) : (s.setLink l x).seqs = s.seqs := rfl
@[simp] theorem State.setLink_prog (s : State) (l : Nat) (x : D2d) : (s.setLink l x).prog = s.prog := rfl
@[simp] theorem State.setLink_cores (s : State) (l : Nat) (x : D2d) : (s.setLink l x).cores = s.cores := rfl
@[simp] theorem State.setLink_clusters (s : State) (l : Nat) (x : D2d) : (s.setLink l x).clusters = s.clusters := rfl
@[simp] theorem State.setLink_dram (s : State) (l : Nat) (x : D2d) : (s.setLink l x).dram = s.dram := rfl
@[simp] theorem State.setLink_ctls (s : State) (l : Nat) (x : D2d) : (s.setLink l x).ctls = s.ctls := rfl
@[simp] theorem State.setLink_dies (s : State) (l : Nat) (x : D2d) : (s.setLink l x).dies = s.dies := rfl
@[simp] theorem State.setLink_homeOut (s : State) (l : Nat) (x : D2d) : (s.setLink l x).homeOut = s.homeOut := rfl
@[simp] theorem State.setLink_heldWrites (s : State) (l : Nat) (x : D2d) : (s.setLink l x).heldWrites = s.heldWrites := rfl
@[simp] theorem State.setLink_units (s : State) (l : Nat) (x : D2d) : (s.setLink l x).units = s.units := rfl
@[simp] theorem State.setLink_rings (s : State) (l : Nat) (x : D2d) : (s.setLink l x).rings = s.rings := rfl
@[simp] theorem State.setLink_flt (s : State) (l : Nat) (x : D2d) : (s.setLink l x).flt = s.flt := rfl
@[simp] theorem State.setLink_host (s : State) (l : Nat) (x : D2d) : (s.setLink l x).host = s.host := rfl
@[simp] theorem State.setLink_ports (s : State) (l : Nat) (x : D2d) : (s.setLink l x).ports = s.ports := rfl
@[simp] theorem State.setLink_swarm (s : State) (l : Nat) (x : D2d) : (s.setLink l x).swarm = s.swarm := rfl
@[simp] theorem State.setLink_d2d (s : State) (l : Nat) (x : D2d) : (s.setLink l x).d2d = AMap.set D2d.init s.d2d l x := rfl
@[simp] theorem State.setLink_fuses (s : State) (l : Nat) (x : D2d) : (s.setLink l x).fuses = s.fuses := rfl
@[simp] theorem State.setLink_sec (s : State) (l : Nat) (x : D2d) : (s.setLink l x).sec = s.sec := rfl
@[simp] theorem State.setLink_dorm (s : State) (l : Nat) (x : D2d) : (s.setLink l x).dorm = s.dorm := rfl
@[simp] theorem State.setLink_regs (s : State) (l : Nat) (x : D2d) : (s.setLink l x).regs = s.regs := rfl
@[simp] theorem State.setLink_cnt (s : State) (l : Nat) (x : D2d) : (s.setLink l x).cnt = s.cnt := rfl
@[simp] theorem State.setLink_cntLatch (s : State) (l : Nat) (x : D2d) : (s.setLink l x).cntLatch = s.cntLatch := rfl
@[simp] theorem State.setLink_novf (s : State) (l : Nat) (x : D2d) : (s.setLink l x).novf = s.novf := rfl
@[simp] theorem State.setLink_firstOvf (s : State) (l : Nat) (x : D2d) : (s.setLink l x).firstOvf = s.firstOvf := rfl
@[simp] theorem State.setLink_unlocked (s : State) (l : Nat) (x : D2d) : (s.setLink l x).unlocked = s.unlocked := rfl
@[simp] theorem State.setLink_expResult (s : State) (l : Nat) (x : D2d) : (s.setLink l x).expResult = s.expResult := rfl
@[simp] theorem State.setLink_expLast (s : State) (l : Nat) (x : D2d) : (s.setLink l x).expLast = s.expLast := rfl
@[simp] theorem State.setLink_ledg (s : State) (l : Nat) (x : D2d) : (s.setLink l x).ledg = s.ledg := rfl
@[simp] theorem State.setLink_ledgAudit (s : State) (l : Nat) (x : D2d) : (s.setLink l x).ledgAudit = s.ledgAudit := rfl
@[simp] theorem State.setLink_auditStep (s : State) (l : Nat) (x : D2d) : (s.setLink l x).auditStep = s.auditStep := rfl
@[simp] theorem State.setLink_freeCtr (s : State) (l : Nat) (x : D2d) : (s.setLink l x).freeCtr = s.freeCtr := rfl
@[simp] theorem State.setLink_pending (s : State) (l : Nat) (x : D2d) : (s.setLink l x).pending = s.pending := rfl

/-! ## State.setStack -/

@[simp] theorem State.setStack_pins (s : State) (k : Nat) (x : Stack) : (s.setStack k x).pins = s.pins := rfl
@[simp] theorem State.setStack_boot (s : State) (k : Nat) (x : Stack) : (s.setStack k x).boot = s.boot := rfl
@[simp] theorem State.setStack_nor (s : State) (k : Nat) (x : Stack) : (s.setStack k x).nor = s.nor := rfl
@[simp] theorem State.setStack_mgmt (s : State) (k : Nat) (x : Stack) : (s.setStack k x).mgmt = s.mgmt := rfl
@[simp] theorem State.setStack_hk (s : State) (k : Nat) (x : Stack) : (s.setStack k x).hk = s.hk := rfl
@[simp] theorem State.setStack_stk (s : State) (k : Nat) (x : Stack) : (s.setStack k x).stk = AMap.set Stack.init s.stk k x := rfl
@[simp] theorem State.setStack_cfg (s : State) (k : Nat) (x : Stack) : (s.setStack k x).cfg = s.cfg := rfl
@[simp] theorem State.setStack_seqs (s : State) (k : Nat) (x : Stack) : (s.setStack k x).seqs = s.seqs := rfl
@[simp] theorem State.setStack_prog (s : State) (k : Nat) (x : Stack) : (s.setStack k x).prog = s.prog := rfl
@[simp] theorem State.setStack_cores (s : State) (k : Nat) (x : Stack) : (s.setStack k x).cores = s.cores := rfl
@[simp] theorem State.setStack_clusters (s : State) (k : Nat) (x : Stack) : (s.setStack k x).clusters = s.clusters := rfl
@[simp] theorem State.setStack_dram (s : State) (k : Nat) (x : Stack) : (s.setStack k x).dram = s.dram := rfl
@[simp] theorem State.setStack_ctls (s : State) (k : Nat) (x : Stack) : (s.setStack k x).ctls = s.ctls := rfl
@[simp] theorem State.setStack_dies (s : State) (k : Nat) (x : Stack) : (s.setStack k x).dies = s.dies := rfl
@[simp] theorem State.setStack_homeOut (s : State) (k : Nat) (x : Stack) : (s.setStack k x).homeOut = s.homeOut := rfl
@[simp] theorem State.setStack_heldWrites (s : State) (k : Nat) (x : Stack) : (s.setStack k x).heldWrites = s.heldWrites := rfl
@[simp] theorem State.setStack_units (s : State) (k : Nat) (x : Stack) : (s.setStack k x).units = s.units := rfl
@[simp] theorem State.setStack_rings (s : State) (k : Nat) (x : Stack) : (s.setStack k x).rings = s.rings := rfl
@[simp] theorem State.setStack_flt (s : State) (k : Nat) (x : Stack) : (s.setStack k x).flt = s.flt := rfl
@[simp] theorem State.setStack_host (s : State) (k : Nat) (x : Stack) : (s.setStack k x).host = s.host := rfl
@[simp] theorem State.setStack_ports (s : State) (k : Nat) (x : Stack) : (s.setStack k x).ports = s.ports := rfl
@[simp] theorem State.setStack_swarm (s : State) (k : Nat) (x : Stack) : (s.setStack k x).swarm = s.swarm := rfl
@[simp] theorem State.setStack_d2d (s : State) (k : Nat) (x : Stack) : (s.setStack k x).d2d = s.d2d := rfl
@[simp] theorem State.setStack_fuses (s : State) (k : Nat) (x : Stack) : (s.setStack k x).fuses = s.fuses := rfl
@[simp] theorem State.setStack_sec (s : State) (k : Nat) (x : Stack) : (s.setStack k x).sec = s.sec := rfl
@[simp] theorem State.setStack_dorm (s : State) (k : Nat) (x : Stack) : (s.setStack k x).dorm = s.dorm := rfl
@[simp] theorem State.setStack_regs (s : State) (k : Nat) (x : Stack) : (s.setStack k x).regs = s.regs := rfl
@[simp] theorem State.setStack_cnt (s : State) (k : Nat) (x : Stack) : (s.setStack k x).cnt = s.cnt := rfl
@[simp] theorem State.setStack_cntLatch (s : State) (k : Nat) (x : Stack) : (s.setStack k x).cntLatch = s.cntLatch := rfl
@[simp] theorem State.setStack_novf (s : State) (k : Nat) (x : Stack) : (s.setStack k x).novf = s.novf := rfl
@[simp] theorem State.setStack_firstOvf (s : State) (k : Nat) (x : Stack) : (s.setStack k x).firstOvf = s.firstOvf := rfl
@[simp] theorem State.setStack_unlocked (s : State) (k : Nat) (x : Stack) : (s.setStack k x).unlocked = s.unlocked := rfl
@[simp] theorem State.setStack_expResult (s : State) (k : Nat) (x : Stack) : (s.setStack k x).expResult = s.expResult := rfl
@[simp] theorem State.setStack_expLast (s : State) (k : Nat) (x : Stack) : (s.setStack k x).expLast = s.expLast := rfl
@[simp] theorem State.setStack_ledg (s : State) (k : Nat) (x : Stack) : (s.setStack k x).ledg = s.ledg := rfl
@[simp] theorem State.setStack_ledgAudit (s : State) (k : Nat) (x : Stack) : (s.setStack k x).ledgAudit = s.ledgAudit := rfl
@[simp] theorem State.setStack_auditStep (s : State) (k : Nat) (x : Stack) : (s.setStack k x).auditStep = s.auditStep := rfl
@[simp] theorem State.setStack_freeCtr (s : State) (k : Nat) (x : Stack) : (s.setStack k x).freeCtr = s.freeCtr := rfl
@[simp] theorem State.setStack_pending (s : State) (k : Nat) (x : Stack) : (s.setStack k x).pending = s.pending := rfl

/-! ## State.setReg -/

@[simp] theorem State.setReg_pins (s : State) (o : Nat) (v : Word) : (s.setReg o v).pins = s.pins := rfl
@[simp] theorem State.setReg_boot (s : State) (o : Nat) (v : Word) : (s.setReg o v).boot = s.boot := rfl
@[simp] theorem State.setReg_nor (s : State) (o : Nat) (v : Word) : (s.setReg o v).nor = s.nor := rfl
@[simp] theorem State.setReg_mgmt (s : State) (o : Nat) (v : Word) : (s.setReg o v).mgmt = s.mgmt := rfl
@[simp] theorem State.setReg_hk (s : State) (o : Nat) (v : Word) : (s.setReg o v).hk = s.hk := rfl
@[simp] theorem State.setReg_stk (s : State) (o : Nat) (v : Word) : (s.setReg o v).stk = s.stk := rfl
@[simp] theorem State.setReg_cfg (s : State) (o : Nat) (v : Word) : (s.setReg o v).cfg = s.cfg := rfl
@[simp] theorem State.setReg_seqs (s : State) (o : Nat) (v : Word) : (s.setReg o v).seqs = s.seqs := rfl
@[simp] theorem State.setReg_prog (s : State) (o : Nat) (v : Word) : (s.setReg o v).prog = s.prog := rfl
@[simp] theorem State.setReg_cores (s : State) (o : Nat) (v : Word) : (s.setReg o v).cores = s.cores := rfl
@[simp] theorem State.setReg_clusters (s : State) (o : Nat) (v : Word) : (s.setReg o v).clusters = s.clusters := rfl
@[simp] theorem State.setReg_dram (s : State) (o : Nat) (v : Word) : (s.setReg o v).dram = s.dram := rfl
@[simp] theorem State.setReg_ctls (s : State) (o : Nat) (v : Word) : (s.setReg o v).ctls = s.ctls := rfl
@[simp] theorem State.setReg_dies (s : State) (o : Nat) (v : Word) : (s.setReg o v).dies = s.dies := rfl
@[simp] theorem State.setReg_homeOut (s : State) (o : Nat) (v : Word) : (s.setReg o v).homeOut = s.homeOut := rfl
@[simp] theorem State.setReg_heldWrites (s : State) (o : Nat) (v : Word) : (s.setReg o v).heldWrites = s.heldWrites := rfl
@[simp] theorem State.setReg_units (s : State) (o : Nat) (v : Word) : (s.setReg o v).units = s.units := rfl
@[simp] theorem State.setReg_rings (s : State) (o : Nat) (v : Word) : (s.setReg o v).rings = s.rings := rfl
@[simp] theorem State.setReg_flt (s : State) (o : Nat) (v : Word) : (s.setReg o v).flt = s.flt := rfl
@[simp] theorem State.setReg_host (s : State) (o : Nat) (v : Word) : (s.setReg o v).host = s.host := rfl
@[simp] theorem State.setReg_ports (s : State) (o : Nat) (v : Word) : (s.setReg o v).ports = s.ports := rfl
@[simp] theorem State.setReg_swarm (s : State) (o : Nat) (v : Word) : (s.setReg o v).swarm = s.swarm := rfl
@[simp] theorem State.setReg_d2d (s : State) (o : Nat) (v : Word) : (s.setReg o v).d2d = s.d2d := rfl
@[simp] theorem State.setReg_fuses (s : State) (o : Nat) (v : Word) : (s.setReg o v).fuses = s.fuses := rfl
@[simp] theorem State.setReg_sec (s : State) (o : Nat) (v : Word) : (s.setReg o v).sec = s.sec := rfl
@[simp] theorem State.setReg_dorm (s : State) (o : Nat) (v : Word) : (s.setReg o v).dorm = s.dorm := rfl
@[simp] theorem State.setReg_regs (s : State) (o : Nat) (v : Word) : (s.setReg o v).regs = AMap.set (regDefault s.cfg o) s.regs o v := rfl
@[simp] theorem State.setReg_cnt (s : State) (o : Nat) (v : Word) : (s.setReg o v).cnt = s.cnt := rfl
@[simp] theorem State.setReg_cntLatch (s : State) (o : Nat) (v : Word) : (s.setReg o v).cntLatch = s.cntLatch := rfl
@[simp] theorem State.setReg_novf (s : State) (o : Nat) (v : Word) : (s.setReg o v).novf = s.novf := rfl
@[simp] theorem State.setReg_firstOvf (s : State) (o : Nat) (v : Word) : (s.setReg o v).firstOvf = s.firstOvf := rfl
@[simp] theorem State.setReg_unlocked (s : State) (o : Nat) (v : Word) : (s.setReg o v).unlocked = s.unlocked := rfl
@[simp] theorem State.setReg_expResult (s : State) (o : Nat) (v : Word) : (s.setReg o v).expResult = s.expResult := rfl
@[simp] theorem State.setReg_expLast (s : State) (o : Nat) (v : Word) : (s.setReg o v).expLast = s.expLast := rfl
@[simp] theorem State.setReg_ledg (s : State) (o : Nat) (v : Word) : (s.setReg o v).ledg = s.ledg := rfl
@[simp] theorem State.setReg_ledgAudit (s : State) (o : Nat) (v : Word) : (s.setReg o v).ledgAudit = s.ledgAudit := rfl
@[simp] theorem State.setReg_auditStep (s : State) (o : Nat) (v : Word) : (s.setReg o v).auditStep = s.auditStep := rfl
@[simp] theorem State.setReg_freeCtr (s : State) (o : Nat) (v : Word) : (s.setReg o v).freeCtr = s.freeCtr := rfl
@[simp] theorem State.setReg_pending (s : State) (o : Nat) (v : Word) : (s.setReg o v).pending = s.pending := rfl

/-! ## State.setPeer -/

@[simp] theorem State.setPeer_pins (s : State) (h : Nat) (e : Peer) : (s.setPeer h e).pins = s.pins := rfl
@[simp] theorem State.setPeer_boot (s : State) (h : Nat) (e : Peer) : (s.setPeer h e).boot = s.boot := rfl
@[simp] theorem State.setPeer_nor (s : State) (h : Nat) (e : Peer) : (s.setPeer h e).nor = s.nor := rfl
@[simp] theorem State.setPeer_mgmt (s : State) (h : Nat) (e : Peer) : (s.setPeer h e).mgmt = s.mgmt := rfl
@[simp] theorem State.setPeer_hk (s : State) (h : Nat) (e : Peer) : (s.setPeer h e).hk = s.hk := rfl
@[simp] theorem State.setPeer_stk (s : State) (h : Nat) (e : Peer) : (s.setPeer h e).stk = s.stk := rfl
@[simp] theorem State.setPeer_cfg (s : State) (h : Nat) (e : Peer) : (s.setPeer h e).cfg = s.cfg := rfl
@[simp] theorem State.setPeer_seqs (s : State) (h : Nat) (e : Peer) : (s.setPeer h e).seqs = s.seqs := rfl
@[simp] theorem State.setPeer_prog (s : State) (h : Nat) (e : Peer) : (s.setPeer h e).prog = s.prog := rfl
@[simp] theorem State.setPeer_cores (s : State) (h : Nat) (e : Peer) : (s.setPeer h e).cores = s.cores := rfl
@[simp] theorem State.setPeer_clusters (s : State) (h : Nat) (e : Peer) : (s.setPeer h e).clusters = s.clusters := rfl
@[simp] theorem State.setPeer_dram (s : State) (h : Nat) (e : Peer) : (s.setPeer h e).dram = s.dram := rfl
@[simp] theorem State.setPeer_ctls (s : State) (h : Nat) (e : Peer) : (s.setPeer h e).ctls = s.ctls := rfl
@[simp] theorem State.setPeer_dies (s : State) (h : Nat) (e : Peer) : (s.setPeer h e).dies = s.dies := rfl
@[simp] theorem State.setPeer_homeOut (s : State) (h : Nat) (e : Peer) : (s.setPeer h e).homeOut = s.homeOut := rfl
@[simp] theorem State.setPeer_heldWrites (s : State) (h : Nat) (e : Peer) : (s.setPeer h e).heldWrites = s.heldWrites := rfl
@[simp] theorem State.setPeer_units (s : State) (h : Nat) (e : Peer) : (s.setPeer h e).units = s.units := rfl
@[simp] theorem State.setPeer_rings (s : State) (h : Nat) (e : Peer) : (s.setPeer h e).rings = s.rings := rfl
@[simp] theorem State.setPeer_flt (s : State) (h : Nat) (e : Peer) : (s.setPeer h e).flt = s.flt := rfl
@[simp] theorem State.setPeer_host (s : State) (h : Nat) (e : Peer) : (s.setPeer h e).host = s.host := rfl
@[simp] theorem State.setPeer_ports (s : State) (h : Nat) (e : Peer) : (s.setPeer h e).ports = s.ports := rfl
@[simp] theorem State.setPeer_swarm (s : State) (h : Nat) (e : Peer) : (s.setPeer h e).swarm = { s.swarm with peers := AMap.set .init s.swarm.peers h e } := rfl
@[simp] theorem State.setPeer_d2d (s : State) (h : Nat) (e : Peer) : (s.setPeer h e).d2d = s.d2d := rfl
@[simp] theorem State.setPeer_fuses (s : State) (h : Nat) (e : Peer) : (s.setPeer h e).fuses = s.fuses := rfl
@[simp] theorem State.setPeer_sec (s : State) (h : Nat) (e : Peer) : (s.setPeer h e).sec = s.sec := rfl
@[simp] theorem State.setPeer_dorm (s : State) (h : Nat) (e : Peer) : (s.setPeer h e).dorm = s.dorm := rfl
@[simp] theorem State.setPeer_regs (s : State) (h : Nat) (e : Peer) : (s.setPeer h e).regs = s.regs := rfl
@[simp] theorem State.setPeer_cnt (s : State) (h : Nat) (e : Peer) : (s.setPeer h e).cnt = s.cnt := rfl
@[simp] theorem State.setPeer_cntLatch (s : State) (h : Nat) (e : Peer) : (s.setPeer h e).cntLatch = s.cntLatch := rfl
@[simp] theorem State.setPeer_novf (s : State) (h : Nat) (e : Peer) : (s.setPeer h e).novf = s.novf := rfl
@[simp] theorem State.setPeer_firstOvf (s : State) (h : Nat) (e : Peer) : (s.setPeer h e).firstOvf = s.firstOvf := rfl
@[simp] theorem State.setPeer_unlocked (s : State) (h : Nat) (e : Peer) : (s.setPeer h e).unlocked = s.unlocked := rfl
@[simp] theorem State.setPeer_expResult (s : State) (h : Nat) (e : Peer) : (s.setPeer h e).expResult = s.expResult := rfl
@[simp] theorem State.setPeer_expLast (s : State) (h : Nat) (e : Peer) : (s.setPeer h e).expLast = s.expLast := rfl
@[simp] theorem State.setPeer_ledg (s : State) (h : Nat) (e : Peer) : (s.setPeer h e).ledg = s.ledg := rfl
@[simp] theorem State.setPeer_ledgAudit (s : State) (h : Nat) (e : Peer) : (s.setPeer h e).ledgAudit = s.ledgAudit := rfl
@[simp] theorem State.setPeer_auditStep (s : State) (h : Nat) (e : Peer) : (s.setPeer h e).auditStep = s.auditStep := rfl
@[simp] theorem State.setPeer_freeCtr (s : State) (h : Nat) (e : Peer) : (s.setPeer h e).freeCtr = s.freeCtr := rfl
@[simp] theorem State.setPeer_pending (s : State) (h : Nat) (e : Peer) : (s.setPeer h e).pending = s.pending := rfl

/-! ## State.onBoot -/

@[simp] theorem State.onBoot_pins (s : State) (f : Boot → Boot) : (s.onBoot f).pins = s.pins := rfl
@[simp] theorem State.onBoot_boot (s : State) (f : Boot → Boot) : (s.onBoot f).boot = f s.boot := rfl
@[simp] theorem State.onBoot_nor (s : State) (f : Boot → Boot) : (s.onBoot f).nor = s.nor := rfl
@[simp] theorem State.onBoot_mgmt (s : State) (f : Boot → Boot) : (s.onBoot f).mgmt = s.mgmt := rfl
@[simp] theorem State.onBoot_hk (s : State) (f : Boot → Boot) : (s.onBoot f).hk = s.hk := rfl
@[simp] theorem State.onBoot_stk (s : State) (f : Boot → Boot) : (s.onBoot f).stk = s.stk := rfl
@[simp] theorem State.onBoot_cfg (s : State) (f : Boot → Boot) : (s.onBoot f).cfg = s.cfg := rfl
@[simp] theorem State.onBoot_seqs (s : State) (f : Boot → Boot) : (s.onBoot f).seqs = s.seqs := rfl
@[simp] theorem State.onBoot_prog (s : State) (f : Boot → Boot) : (s.onBoot f).prog = s.prog := rfl
@[simp] theorem State.onBoot_cores (s : State) (f : Boot → Boot) : (s.onBoot f).cores = s.cores := rfl
@[simp] theorem State.onBoot_clusters (s : State) (f : Boot → Boot) : (s.onBoot f).clusters = s.clusters := rfl
@[simp] theorem State.onBoot_dram (s : State) (f : Boot → Boot) : (s.onBoot f).dram = s.dram := rfl
@[simp] theorem State.onBoot_ctls (s : State) (f : Boot → Boot) : (s.onBoot f).ctls = s.ctls := rfl
@[simp] theorem State.onBoot_dies (s : State) (f : Boot → Boot) : (s.onBoot f).dies = s.dies := rfl
@[simp] theorem State.onBoot_homeOut (s : State) (f : Boot → Boot) : (s.onBoot f).homeOut = s.homeOut := rfl
@[simp] theorem State.onBoot_heldWrites (s : State) (f : Boot → Boot) : (s.onBoot f).heldWrites = s.heldWrites := rfl
@[simp] theorem State.onBoot_units (s : State) (f : Boot → Boot) : (s.onBoot f).units = s.units := rfl
@[simp] theorem State.onBoot_rings (s : State) (f : Boot → Boot) : (s.onBoot f).rings = s.rings := rfl
@[simp] theorem State.onBoot_flt (s : State) (f : Boot → Boot) : (s.onBoot f).flt = s.flt := rfl
@[simp] theorem State.onBoot_host (s : State) (f : Boot → Boot) : (s.onBoot f).host = s.host := rfl
@[simp] theorem State.onBoot_ports (s : State) (f : Boot → Boot) : (s.onBoot f).ports = s.ports := rfl
@[simp] theorem State.onBoot_swarm (s : State) (f : Boot → Boot) : (s.onBoot f).swarm = s.swarm := rfl
@[simp] theorem State.onBoot_d2d (s : State) (f : Boot → Boot) : (s.onBoot f).d2d = s.d2d := rfl
@[simp] theorem State.onBoot_fuses (s : State) (f : Boot → Boot) : (s.onBoot f).fuses = s.fuses := rfl
@[simp] theorem State.onBoot_sec (s : State) (f : Boot → Boot) : (s.onBoot f).sec = s.sec := rfl
@[simp] theorem State.onBoot_dorm (s : State) (f : Boot → Boot) : (s.onBoot f).dorm = s.dorm := rfl
@[simp] theorem State.onBoot_regs (s : State) (f : Boot → Boot) : (s.onBoot f).regs = s.regs := rfl
@[simp] theorem State.onBoot_cnt (s : State) (f : Boot → Boot) : (s.onBoot f).cnt = s.cnt := rfl
@[simp] theorem State.onBoot_cntLatch (s : State) (f : Boot → Boot) : (s.onBoot f).cntLatch = s.cntLatch := rfl
@[simp] theorem State.onBoot_novf (s : State) (f : Boot → Boot) : (s.onBoot f).novf = s.novf := rfl
@[simp] theorem State.onBoot_firstOvf (s : State) (f : Boot → Boot) : (s.onBoot f).firstOvf = s.firstOvf := rfl
@[simp] theorem State.onBoot_unlocked (s : State) (f : Boot → Boot) : (s.onBoot f).unlocked = s.unlocked := rfl
@[simp] theorem State.onBoot_expResult (s : State) (f : Boot → Boot) : (s.onBoot f).expResult = s.expResult := rfl
@[simp] theorem State.onBoot_expLast (s : State) (f : Boot → Boot) : (s.onBoot f).expLast = s.expLast := rfl
@[simp] theorem State.onBoot_ledg (s : State) (f : Boot → Boot) : (s.onBoot f).ledg = s.ledg := rfl
@[simp] theorem State.onBoot_ledgAudit (s : State) (f : Boot → Boot) : (s.onBoot f).ledgAudit = s.ledgAudit := rfl
@[simp] theorem State.onBoot_auditStep (s : State) (f : Boot → Boot) : (s.onBoot f).auditStep = s.auditStep := rfl
@[simp] theorem State.onBoot_freeCtr (s : State) (f : Boot → Boot) : (s.onBoot f).freeCtr = s.freeCtr := rfl
@[simp] theorem State.onBoot_pending (s : State) (f : Boot → Boot) : (s.onBoot f).pending = s.pending := rfl

/-! ## State.onPins -/

@[simp] theorem State.onPins_pins (s : State) (f : Pins → Pins) : (s.onPins f).pins = f s.pins := rfl
@[simp] theorem State.onPins_boot (s : State) (f : Pins → Pins) : (s.onPins f).boot = s.boot := rfl
@[simp] theorem State.onPins_nor (s : State) (f : Pins → Pins) : (s.onPins f).nor = s.nor := rfl
@[simp] theorem State.onPins_mgmt (s : State) (f : Pins → Pins) : (s.onPins f).mgmt = s.mgmt := rfl
@[simp] theorem State.onPins_hk (s : State) (f : Pins → Pins) : (s.onPins f).hk = s.hk := rfl
@[simp] theorem State.onPins_stk (s : State) (f : Pins → Pins) : (s.onPins f).stk = s.stk := rfl
@[simp] theorem State.onPins_cfg (s : State) (f : Pins → Pins) : (s.onPins f).cfg = s.cfg := rfl
@[simp] theorem State.onPins_seqs (s : State) (f : Pins → Pins) : (s.onPins f).seqs = s.seqs := rfl
@[simp] theorem State.onPins_prog (s : State) (f : Pins → Pins) : (s.onPins f).prog = s.prog := rfl
@[simp] theorem State.onPins_cores (s : State) (f : Pins → Pins) : (s.onPins f).cores = s.cores := rfl
@[simp] theorem State.onPins_clusters (s : State) (f : Pins → Pins) : (s.onPins f).clusters = s.clusters := rfl
@[simp] theorem State.onPins_dram (s : State) (f : Pins → Pins) : (s.onPins f).dram = s.dram := rfl
@[simp] theorem State.onPins_ctls (s : State) (f : Pins → Pins) : (s.onPins f).ctls = s.ctls := rfl
@[simp] theorem State.onPins_dies (s : State) (f : Pins → Pins) : (s.onPins f).dies = s.dies := rfl
@[simp] theorem State.onPins_homeOut (s : State) (f : Pins → Pins) : (s.onPins f).homeOut = s.homeOut := rfl
@[simp] theorem State.onPins_heldWrites (s : State) (f : Pins → Pins) : (s.onPins f).heldWrites = s.heldWrites := rfl
@[simp] theorem State.onPins_units (s : State) (f : Pins → Pins) : (s.onPins f).units = s.units := rfl
@[simp] theorem State.onPins_rings (s : State) (f : Pins → Pins) : (s.onPins f).rings = s.rings := rfl
@[simp] theorem State.onPins_flt (s : State) (f : Pins → Pins) : (s.onPins f).flt = s.flt := rfl
@[simp] theorem State.onPins_host (s : State) (f : Pins → Pins) : (s.onPins f).host = s.host := rfl
@[simp] theorem State.onPins_ports (s : State) (f : Pins → Pins) : (s.onPins f).ports = s.ports := rfl
@[simp] theorem State.onPins_swarm (s : State) (f : Pins → Pins) : (s.onPins f).swarm = s.swarm := rfl
@[simp] theorem State.onPins_d2d (s : State) (f : Pins → Pins) : (s.onPins f).d2d = s.d2d := rfl
@[simp] theorem State.onPins_fuses (s : State) (f : Pins → Pins) : (s.onPins f).fuses = s.fuses := rfl
@[simp] theorem State.onPins_sec (s : State) (f : Pins → Pins) : (s.onPins f).sec = s.sec := rfl
@[simp] theorem State.onPins_dorm (s : State) (f : Pins → Pins) : (s.onPins f).dorm = s.dorm := rfl
@[simp] theorem State.onPins_regs (s : State) (f : Pins → Pins) : (s.onPins f).regs = s.regs := rfl
@[simp] theorem State.onPins_cnt (s : State) (f : Pins → Pins) : (s.onPins f).cnt = s.cnt := rfl
@[simp] theorem State.onPins_cntLatch (s : State) (f : Pins → Pins) : (s.onPins f).cntLatch = s.cntLatch := rfl
@[simp] theorem State.onPins_novf (s : State) (f : Pins → Pins) : (s.onPins f).novf = s.novf := rfl
@[simp] theorem State.onPins_firstOvf (s : State) (f : Pins → Pins) : (s.onPins f).firstOvf = s.firstOvf := rfl
@[simp] theorem State.onPins_unlocked (s : State) (f : Pins → Pins) : (s.onPins f).unlocked = s.unlocked := rfl
@[simp] theorem State.onPins_expResult (s : State) (f : Pins → Pins) : (s.onPins f).expResult = s.expResult := rfl
@[simp] theorem State.onPins_expLast (s : State) (f : Pins → Pins) : (s.onPins f).expLast = s.expLast := rfl
@[simp] theorem State.onPins_ledg (s : State) (f : Pins → Pins) : (s.onPins f).ledg = s.ledg := rfl
@[simp] theorem State.onPins_ledgAudit (s : State) (f : Pins → Pins) : (s.onPins f).ledgAudit = s.ledgAudit := rfl
@[simp] theorem State.onPins_auditStep (s : State) (f : Pins → Pins) : (s.onPins f).auditStep = s.auditStep := rfl
@[simp] theorem State.onPins_freeCtr (s : State) (f : Pins → Pins) : (s.onPins f).freeCtr = s.freeCtr := rfl
@[simp] theorem State.onPins_pending (s : State) (f : Pins → Pins) : (s.onPins f).pending = s.pending := rfl

/-! ## State.onHk -/

@[simp] theorem State.onHk_pins (s : State) (f : Hk → Hk) : (s.onHk f).pins = s.pins := rfl
@[simp] theorem State.onHk_boot (s : State) (f : Hk → Hk) : (s.onHk f).boot = s.boot := rfl
@[simp] theorem State.onHk_nor (s : State) (f : Hk → Hk) : (s.onHk f).nor = s.nor := rfl
@[simp] theorem State.onHk_mgmt (s : State) (f : Hk → Hk) : (s.onHk f).mgmt = s.mgmt := rfl
@[simp] theorem State.onHk_hk (s : State) (f : Hk → Hk) : (s.onHk f).hk = f s.hk := rfl
@[simp] theorem State.onHk_stk (s : State) (f : Hk → Hk) : (s.onHk f).stk = s.stk := rfl
@[simp] theorem State.onHk_cfg (s : State) (f : Hk → Hk) : (s.onHk f).cfg = s.cfg := rfl
@[simp] theorem State.onHk_seqs (s : State) (f : Hk → Hk) : (s.onHk f).seqs = s.seqs := rfl
@[simp] theorem State.onHk_prog (s : State) (f : Hk → Hk) : (s.onHk f).prog = s.prog := rfl
@[simp] theorem State.onHk_cores (s : State) (f : Hk → Hk) : (s.onHk f).cores = s.cores := rfl
@[simp] theorem State.onHk_clusters (s : State) (f : Hk → Hk) : (s.onHk f).clusters = s.clusters := rfl
@[simp] theorem State.onHk_dram (s : State) (f : Hk → Hk) : (s.onHk f).dram = s.dram := rfl
@[simp] theorem State.onHk_ctls (s : State) (f : Hk → Hk) : (s.onHk f).ctls = s.ctls := rfl
@[simp] theorem State.onHk_dies (s : State) (f : Hk → Hk) : (s.onHk f).dies = s.dies := rfl
@[simp] theorem State.onHk_homeOut (s : State) (f : Hk → Hk) : (s.onHk f).homeOut = s.homeOut := rfl
@[simp] theorem State.onHk_heldWrites (s : State) (f : Hk → Hk) : (s.onHk f).heldWrites = s.heldWrites := rfl
@[simp] theorem State.onHk_units (s : State) (f : Hk → Hk) : (s.onHk f).units = s.units := rfl
@[simp] theorem State.onHk_rings (s : State) (f : Hk → Hk) : (s.onHk f).rings = s.rings := rfl
@[simp] theorem State.onHk_flt (s : State) (f : Hk → Hk) : (s.onHk f).flt = s.flt := rfl
@[simp] theorem State.onHk_host (s : State) (f : Hk → Hk) : (s.onHk f).host = s.host := rfl
@[simp] theorem State.onHk_ports (s : State) (f : Hk → Hk) : (s.onHk f).ports = s.ports := rfl
@[simp] theorem State.onHk_swarm (s : State) (f : Hk → Hk) : (s.onHk f).swarm = s.swarm := rfl
@[simp] theorem State.onHk_d2d (s : State) (f : Hk → Hk) : (s.onHk f).d2d = s.d2d := rfl
@[simp] theorem State.onHk_fuses (s : State) (f : Hk → Hk) : (s.onHk f).fuses = s.fuses := rfl
@[simp] theorem State.onHk_sec (s : State) (f : Hk → Hk) : (s.onHk f).sec = s.sec := rfl
@[simp] theorem State.onHk_dorm (s : State) (f : Hk → Hk) : (s.onHk f).dorm = s.dorm := rfl
@[simp] theorem State.onHk_regs (s : State) (f : Hk → Hk) : (s.onHk f).regs = s.regs := rfl
@[simp] theorem State.onHk_cnt (s : State) (f : Hk → Hk) : (s.onHk f).cnt = s.cnt := rfl
@[simp] theorem State.onHk_cntLatch (s : State) (f : Hk → Hk) : (s.onHk f).cntLatch = s.cntLatch := rfl
@[simp] theorem State.onHk_novf (s : State) (f : Hk → Hk) : (s.onHk f).novf = s.novf := rfl
@[simp] theorem State.onHk_firstOvf (s : State) (f : Hk → Hk) : (s.onHk f).firstOvf = s.firstOvf := rfl
@[simp] theorem State.onHk_unlocked (s : State) (f : Hk → Hk) : (s.onHk f).unlocked = s.unlocked := rfl
@[simp] theorem State.onHk_expResult (s : State) (f : Hk → Hk) : (s.onHk f).expResult = s.expResult := rfl
@[simp] theorem State.onHk_expLast (s : State) (f : Hk → Hk) : (s.onHk f).expLast = s.expLast := rfl
@[simp] theorem State.onHk_ledg (s : State) (f : Hk → Hk) : (s.onHk f).ledg = s.ledg := rfl
@[simp] theorem State.onHk_ledgAudit (s : State) (f : Hk → Hk) : (s.onHk f).ledgAudit = s.ledgAudit := rfl
@[simp] theorem State.onHk_auditStep (s : State) (f : Hk → Hk) : (s.onHk f).auditStep = s.auditStep := rfl
@[simp] theorem State.onHk_freeCtr (s : State) (f : Hk → Hk) : (s.onHk f).freeCtr = s.freeCtr := rfl
@[simp] theorem State.onHk_pending (s : State) (f : Hk → Hk) : (s.onHk f).pending = s.pending := rfl

/-! ## State.onFlt -/

@[simp] theorem State.onFlt_pins (s : State) (f : Faults → Faults) : (s.onFlt f).pins = s.pins := rfl
@[simp] theorem State.onFlt_boot (s : State) (f : Faults → Faults) : (s.onFlt f).boot = s.boot := rfl
@[simp] theorem State.onFlt_nor (s : State) (f : Faults → Faults) : (s.onFlt f).nor = s.nor := rfl
@[simp] theorem State.onFlt_mgmt (s : State) (f : Faults → Faults) : (s.onFlt f).mgmt = s.mgmt := rfl
@[simp] theorem State.onFlt_hk (s : State) (f : Faults → Faults) : (s.onFlt f).hk = s.hk := rfl
@[simp] theorem State.onFlt_stk (s : State) (f : Faults → Faults) : (s.onFlt f).stk = s.stk := rfl
@[simp] theorem State.onFlt_cfg (s : State) (f : Faults → Faults) : (s.onFlt f).cfg = s.cfg := rfl
@[simp] theorem State.onFlt_seqs (s : State) (f : Faults → Faults) : (s.onFlt f).seqs = s.seqs := rfl
@[simp] theorem State.onFlt_prog (s : State) (f : Faults → Faults) : (s.onFlt f).prog = s.prog := rfl
@[simp] theorem State.onFlt_cores (s : State) (f : Faults → Faults) : (s.onFlt f).cores = s.cores := rfl
@[simp] theorem State.onFlt_clusters (s : State) (f : Faults → Faults) : (s.onFlt f).clusters = s.clusters := rfl
@[simp] theorem State.onFlt_dram (s : State) (f : Faults → Faults) : (s.onFlt f).dram = s.dram := rfl
@[simp] theorem State.onFlt_ctls (s : State) (f : Faults → Faults) : (s.onFlt f).ctls = s.ctls := rfl
@[simp] theorem State.onFlt_dies (s : State) (f : Faults → Faults) : (s.onFlt f).dies = s.dies := rfl
@[simp] theorem State.onFlt_homeOut (s : State) (f : Faults → Faults) : (s.onFlt f).homeOut = s.homeOut := rfl
@[simp] theorem State.onFlt_heldWrites (s : State) (f : Faults → Faults) : (s.onFlt f).heldWrites = s.heldWrites := rfl
@[simp] theorem State.onFlt_units (s : State) (f : Faults → Faults) : (s.onFlt f).units = s.units := rfl
@[simp] theorem State.onFlt_rings (s : State) (f : Faults → Faults) : (s.onFlt f).rings = s.rings := rfl
@[simp] theorem State.onFlt_flt (s : State) (f : Faults → Faults) : (s.onFlt f).flt = f s.flt := rfl
@[simp] theorem State.onFlt_host (s : State) (f : Faults → Faults) : (s.onFlt f).host = s.host := rfl
@[simp] theorem State.onFlt_ports (s : State) (f : Faults → Faults) : (s.onFlt f).ports = s.ports := rfl
@[simp] theorem State.onFlt_swarm (s : State) (f : Faults → Faults) : (s.onFlt f).swarm = s.swarm := rfl
@[simp] theorem State.onFlt_d2d (s : State) (f : Faults → Faults) : (s.onFlt f).d2d = s.d2d := rfl
@[simp] theorem State.onFlt_fuses (s : State) (f : Faults → Faults) : (s.onFlt f).fuses = s.fuses := rfl
@[simp] theorem State.onFlt_sec (s : State) (f : Faults → Faults) : (s.onFlt f).sec = s.sec := rfl
@[simp] theorem State.onFlt_dorm (s : State) (f : Faults → Faults) : (s.onFlt f).dorm = s.dorm := rfl
@[simp] theorem State.onFlt_regs (s : State) (f : Faults → Faults) : (s.onFlt f).regs = s.regs := rfl
@[simp] theorem State.onFlt_cnt (s : State) (f : Faults → Faults) : (s.onFlt f).cnt = s.cnt := rfl
@[simp] theorem State.onFlt_cntLatch (s : State) (f : Faults → Faults) : (s.onFlt f).cntLatch = s.cntLatch := rfl
@[simp] theorem State.onFlt_novf (s : State) (f : Faults → Faults) : (s.onFlt f).novf = s.novf := rfl
@[simp] theorem State.onFlt_firstOvf (s : State) (f : Faults → Faults) : (s.onFlt f).firstOvf = s.firstOvf := rfl
@[simp] theorem State.onFlt_unlocked (s : State) (f : Faults → Faults) : (s.onFlt f).unlocked = s.unlocked := rfl
@[simp] theorem State.onFlt_expResult (s : State) (f : Faults → Faults) : (s.onFlt f).expResult = s.expResult := rfl
@[simp] theorem State.onFlt_expLast (s : State) (f : Faults → Faults) : (s.onFlt f).expLast = s.expLast := rfl
@[simp] theorem State.onFlt_ledg (s : State) (f : Faults → Faults) : (s.onFlt f).ledg = s.ledg := rfl
@[simp] theorem State.onFlt_ledgAudit (s : State) (f : Faults → Faults) : (s.onFlt f).ledgAudit = s.ledgAudit := rfl
@[simp] theorem State.onFlt_auditStep (s : State) (f : Faults → Faults) : (s.onFlt f).auditStep = s.auditStep := rfl
@[simp] theorem State.onFlt_freeCtr (s : State) (f : Faults → Faults) : (s.onFlt f).freeCtr = s.freeCtr := rfl
@[simp] theorem State.onFlt_pending (s : State) (f : Faults → Faults) : (s.onFlt f).pending = s.pending := rfl

/-! ## State.onProg -/

@[simp] theorem State.onProg_pins (s : State) (f : Prog → Prog) : (s.onProg f).pins = s.pins := rfl
@[simp] theorem State.onProg_boot (s : State) (f : Prog → Prog) : (s.onProg f).boot = s.boot := rfl
@[simp] theorem State.onProg_nor (s : State) (f : Prog → Prog) : (s.onProg f).nor = s.nor := rfl
@[simp] theorem State.onProg_mgmt (s : State) (f : Prog → Prog) : (s.onProg f).mgmt = s.mgmt := rfl
@[simp] theorem State.onProg_hk (s : State) (f : Prog → Prog) : (s.onProg f).hk = s.hk := rfl
@[simp] theorem State.onProg_stk (s : State) (f : Prog → Prog) : (s.onProg f).stk = s.stk := rfl
@[simp] theorem State.onProg_cfg (s : State) (f : Prog → Prog) : (s.onProg f).cfg = s.cfg := rfl
@[simp] theorem State.onProg_seqs (s : State) (f : Prog → Prog) : (s.onProg f).seqs = s.seqs := rfl
@[simp] theorem State.onProg_prog (s : State) (f : Prog → Prog) : (s.onProg f).prog = f s.prog := rfl
@[simp] theorem State.onProg_cores (s : State) (f : Prog → Prog) : (s.onProg f).cores = s.cores := rfl
@[simp] theorem State.onProg_clusters (s : State) (f : Prog → Prog) : (s.onProg f).clusters = s.clusters := rfl
@[simp] theorem State.onProg_dram (s : State) (f : Prog → Prog) : (s.onProg f).dram = s.dram := rfl
@[simp] theorem State.onProg_ctls (s : State) (f : Prog → Prog) : (s.onProg f).ctls = s.ctls := rfl
@[simp] theorem State.onProg_dies (s : State) (f : Prog → Prog) : (s.onProg f).dies = s.dies := rfl
@[simp] theorem State.onProg_homeOut (s : State) (f : Prog → Prog) : (s.onProg f).homeOut = s.homeOut := rfl
@[simp] theorem State.onProg_heldWrites (s : State) (f : Prog → Prog) : (s.onProg f).heldWrites = s.heldWrites := rfl
@[simp] theorem State.onProg_units (s : State) (f : Prog → Prog) : (s.onProg f).units = s.units := rfl
@[simp] theorem State.onProg_rings (s : State) (f : Prog → Prog) : (s.onProg f).rings = s.rings := rfl
@[simp] theorem State.onProg_flt (s : State) (f : Prog → Prog) : (s.onProg f).flt = s.flt := rfl
@[simp] theorem State.onProg_host (s : State) (f : Prog → Prog) : (s.onProg f).host = s.host := rfl
@[simp] theorem State.onProg_ports (s : State) (f : Prog → Prog) : (s.onProg f).ports = s.ports := rfl
@[simp] theorem State.onProg_swarm (s : State) (f : Prog → Prog) : (s.onProg f).swarm = s.swarm := rfl
@[simp] theorem State.onProg_d2d (s : State) (f : Prog → Prog) : (s.onProg f).d2d = s.d2d := rfl
@[simp] theorem State.onProg_fuses (s : State) (f : Prog → Prog) : (s.onProg f).fuses = s.fuses := rfl
@[simp] theorem State.onProg_sec (s : State) (f : Prog → Prog) : (s.onProg f).sec = s.sec := rfl
@[simp] theorem State.onProg_dorm (s : State) (f : Prog → Prog) : (s.onProg f).dorm = s.dorm := rfl
@[simp] theorem State.onProg_regs (s : State) (f : Prog → Prog) : (s.onProg f).regs = s.regs := rfl
@[simp] theorem State.onProg_cnt (s : State) (f : Prog → Prog) : (s.onProg f).cnt = s.cnt := rfl
@[simp] theorem State.onProg_cntLatch (s : State) (f : Prog → Prog) : (s.onProg f).cntLatch = s.cntLatch := rfl
@[simp] theorem State.onProg_novf (s : State) (f : Prog → Prog) : (s.onProg f).novf = s.novf := rfl
@[simp] theorem State.onProg_firstOvf (s : State) (f : Prog → Prog) : (s.onProg f).firstOvf = s.firstOvf := rfl
@[simp] theorem State.onProg_unlocked (s : State) (f : Prog → Prog) : (s.onProg f).unlocked = s.unlocked := rfl
@[simp] theorem State.onProg_expResult (s : State) (f : Prog → Prog) : (s.onProg f).expResult = s.expResult := rfl
@[simp] theorem State.onProg_expLast (s : State) (f : Prog → Prog) : (s.onProg f).expLast = s.expLast := rfl
@[simp] theorem State.onProg_ledg (s : State) (f : Prog → Prog) : (s.onProg f).ledg = s.ledg := rfl
@[simp] theorem State.onProg_ledgAudit (s : State) (f : Prog → Prog) : (s.onProg f).ledgAudit = s.ledgAudit := rfl
@[simp] theorem State.onProg_auditStep (s : State) (f : Prog → Prog) : (s.onProg f).auditStep = s.auditStep := rfl
@[simp] theorem State.onProg_freeCtr (s : State) (f : Prog → Prog) : (s.onProg f).freeCtr = s.freeCtr := rfl
@[simp] theorem State.onProg_pending (s : State) (f : Prog → Prog) : (s.onProg f).pending = s.pending := rfl

/-! ## State.onHost -/

@[simp] theorem State.onHost_pins (s : State) (f : HostPort → HostPort) : (s.onHost f).pins = s.pins := rfl
@[simp] theorem State.onHost_boot (s : State) (f : HostPort → HostPort) : (s.onHost f).boot = s.boot := rfl
@[simp] theorem State.onHost_nor (s : State) (f : HostPort → HostPort) : (s.onHost f).nor = s.nor := rfl
@[simp] theorem State.onHost_mgmt (s : State) (f : HostPort → HostPort) : (s.onHost f).mgmt = s.mgmt := rfl
@[simp] theorem State.onHost_hk (s : State) (f : HostPort → HostPort) : (s.onHost f).hk = s.hk := rfl
@[simp] theorem State.onHost_stk (s : State) (f : HostPort → HostPort) : (s.onHost f).stk = s.stk := rfl
@[simp] theorem State.onHost_cfg (s : State) (f : HostPort → HostPort) : (s.onHost f).cfg = s.cfg := rfl
@[simp] theorem State.onHost_seqs (s : State) (f : HostPort → HostPort) : (s.onHost f).seqs = s.seqs := rfl
@[simp] theorem State.onHost_prog (s : State) (f : HostPort → HostPort) : (s.onHost f).prog = s.prog := rfl
@[simp] theorem State.onHost_cores (s : State) (f : HostPort → HostPort) : (s.onHost f).cores = s.cores := rfl
@[simp] theorem State.onHost_clusters (s : State) (f : HostPort → HostPort) : (s.onHost f).clusters = s.clusters := rfl
@[simp] theorem State.onHost_dram (s : State) (f : HostPort → HostPort) : (s.onHost f).dram = s.dram := rfl
@[simp] theorem State.onHost_ctls (s : State) (f : HostPort → HostPort) : (s.onHost f).ctls = s.ctls := rfl
@[simp] theorem State.onHost_dies (s : State) (f : HostPort → HostPort) : (s.onHost f).dies = s.dies := rfl
@[simp] theorem State.onHost_homeOut (s : State) (f : HostPort → HostPort) : (s.onHost f).homeOut = s.homeOut := rfl
@[simp] theorem State.onHost_heldWrites (s : State) (f : HostPort → HostPort) : (s.onHost f).heldWrites = s.heldWrites := rfl
@[simp] theorem State.onHost_units (s : State) (f : HostPort → HostPort) : (s.onHost f).units = s.units := rfl
@[simp] theorem State.onHost_rings (s : State) (f : HostPort → HostPort) : (s.onHost f).rings = s.rings := rfl
@[simp] theorem State.onHost_flt (s : State) (f : HostPort → HostPort) : (s.onHost f).flt = s.flt := rfl
@[simp] theorem State.onHost_host (s : State) (f : HostPort → HostPort) : (s.onHost f).host = f s.host := rfl
@[simp] theorem State.onHost_ports (s : State) (f : HostPort → HostPort) : (s.onHost f).ports = s.ports := rfl
@[simp] theorem State.onHost_swarm (s : State) (f : HostPort → HostPort) : (s.onHost f).swarm = s.swarm := rfl
@[simp] theorem State.onHost_d2d (s : State) (f : HostPort → HostPort) : (s.onHost f).d2d = s.d2d := rfl
@[simp] theorem State.onHost_fuses (s : State) (f : HostPort → HostPort) : (s.onHost f).fuses = s.fuses := rfl
@[simp] theorem State.onHost_sec (s : State) (f : HostPort → HostPort) : (s.onHost f).sec = s.sec := rfl
@[simp] theorem State.onHost_dorm (s : State) (f : HostPort → HostPort) : (s.onHost f).dorm = s.dorm := rfl
@[simp] theorem State.onHost_regs (s : State) (f : HostPort → HostPort) : (s.onHost f).regs = s.regs := rfl
@[simp] theorem State.onHost_cnt (s : State) (f : HostPort → HostPort) : (s.onHost f).cnt = s.cnt := rfl
@[simp] theorem State.onHost_cntLatch (s : State) (f : HostPort → HostPort) : (s.onHost f).cntLatch = s.cntLatch := rfl
@[simp] theorem State.onHost_novf (s : State) (f : HostPort → HostPort) : (s.onHost f).novf = s.novf := rfl
@[simp] theorem State.onHost_firstOvf (s : State) (f : HostPort → HostPort) : (s.onHost f).firstOvf = s.firstOvf := rfl
@[simp] theorem State.onHost_unlocked (s : State) (f : HostPort → HostPort) : (s.onHost f).unlocked = s.unlocked := rfl
@[simp] theorem State.onHost_expResult (s : State) (f : HostPort → HostPort) : (s.onHost f).expResult = s.expResult := rfl
@[simp] theorem State.onHost_expLast (s : State) (f : HostPort → HostPort) : (s.onHost f).expLast = s.expLast := rfl
@[simp] theorem State.onHost_ledg (s : State) (f : HostPort → HostPort) : (s.onHost f).ledg = s.ledg := rfl
@[simp] theorem State.onHost_ledgAudit (s : State) (f : HostPort → HostPort) : (s.onHost f).ledgAudit = s.ledgAudit := rfl
@[simp] theorem State.onHost_auditStep (s : State) (f : HostPort → HostPort) : (s.onHost f).auditStep = s.auditStep := rfl
@[simp] theorem State.onHost_freeCtr (s : State) (f : HostPort → HostPort) : (s.onHost f).freeCtr = s.freeCtr := rfl
@[simp] theorem State.onHost_pending (s : State) (f : HostPort → HostPort) : (s.onHost f).pending = s.pending := rfl

/-! ## State.onSec -/

@[simp] theorem State.onSec_pins (s : State) (f : Sec → Sec) : (s.onSec f).pins = s.pins := rfl
@[simp] theorem State.onSec_boot (s : State) (f : Sec → Sec) : (s.onSec f).boot = s.boot := rfl
@[simp] theorem State.onSec_nor (s : State) (f : Sec → Sec) : (s.onSec f).nor = s.nor := rfl
@[simp] theorem State.onSec_mgmt (s : State) (f : Sec → Sec) : (s.onSec f).mgmt = s.mgmt := rfl
@[simp] theorem State.onSec_hk (s : State) (f : Sec → Sec) : (s.onSec f).hk = s.hk := rfl
@[simp] theorem State.onSec_stk (s : State) (f : Sec → Sec) : (s.onSec f).stk = s.stk := rfl
@[simp] theorem State.onSec_cfg (s : State) (f : Sec → Sec) : (s.onSec f).cfg = s.cfg := rfl
@[simp] theorem State.onSec_seqs (s : State) (f : Sec → Sec) : (s.onSec f).seqs = s.seqs := rfl
@[simp] theorem State.onSec_prog (s : State) (f : Sec → Sec) : (s.onSec f).prog = s.prog := rfl
@[simp] theorem State.onSec_cores (s : State) (f : Sec → Sec) : (s.onSec f).cores = s.cores := rfl
@[simp] theorem State.onSec_clusters (s : State) (f : Sec → Sec) : (s.onSec f).clusters = s.clusters := rfl
@[simp] theorem State.onSec_dram (s : State) (f : Sec → Sec) : (s.onSec f).dram = s.dram := rfl
@[simp] theorem State.onSec_ctls (s : State) (f : Sec → Sec) : (s.onSec f).ctls = s.ctls := rfl
@[simp] theorem State.onSec_dies (s : State) (f : Sec → Sec) : (s.onSec f).dies = s.dies := rfl
@[simp] theorem State.onSec_homeOut (s : State) (f : Sec → Sec) : (s.onSec f).homeOut = s.homeOut := rfl
@[simp] theorem State.onSec_heldWrites (s : State) (f : Sec → Sec) : (s.onSec f).heldWrites = s.heldWrites := rfl
@[simp] theorem State.onSec_units (s : State) (f : Sec → Sec) : (s.onSec f).units = s.units := rfl
@[simp] theorem State.onSec_rings (s : State) (f : Sec → Sec) : (s.onSec f).rings = s.rings := rfl
@[simp] theorem State.onSec_flt (s : State) (f : Sec → Sec) : (s.onSec f).flt = s.flt := rfl
@[simp] theorem State.onSec_host (s : State) (f : Sec → Sec) : (s.onSec f).host = s.host := rfl
@[simp] theorem State.onSec_ports (s : State) (f : Sec → Sec) : (s.onSec f).ports = s.ports := rfl
@[simp] theorem State.onSec_swarm (s : State) (f : Sec → Sec) : (s.onSec f).swarm = s.swarm := rfl
@[simp] theorem State.onSec_d2d (s : State) (f : Sec → Sec) : (s.onSec f).d2d = s.d2d := rfl
@[simp] theorem State.onSec_fuses (s : State) (f : Sec → Sec) : (s.onSec f).fuses = s.fuses := rfl
@[simp] theorem State.onSec_sec (s : State) (f : Sec → Sec) : (s.onSec f).sec = f s.sec := rfl
@[simp] theorem State.onSec_dorm (s : State) (f : Sec → Sec) : (s.onSec f).dorm = s.dorm := rfl
@[simp] theorem State.onSec_regs (s : State) (f : Sec → Sec) : (s.onSec f).regs = s.regs := rfl
@[simp] theorem State.onSec_cnt (s : State) (f : Sec → Sec) : (s.onSec f).cnt = s.cnt := rfl
@[simp] theorem State.onSec_cntLatch (s : State) (f : Sec → Sec) : (s.onSec f).cntLatch = s.cntLatch := rfl
@[simp] theorem State.onSec_novf (s : State) (f : Sec → Sec) : (s.onSec f).novf = s.novf := rfl
@[simp] theorem State.onSec_firstOvf (s : State) (f : Sec → Sec) : (s.onSec f).firstOvf = s.firstOvf := rfl
@[simp] theorem State.onSec_unlocked (s : State) (f : Sec → Sec) : (s.onSec f).unlocked = s.unlocked := rfl
@[simp] theorem State.onSec_expResult (s : State) (f : Sec → Sec) : (s.onSec f).expResult = s.expResult := rfl
@[simp] theorem State.onSec_expLast (s : State) (f : Sec → Sec) : (s.onSec f).expLast = s.expLast := rfl
@[simp] theorem State.onSec_ledg (s : State) (f : Sec → Sec) : (s.onSec f).ledg = s.ledg := rfl
@[simp] theorem State.onSec_ledgAudit (s : State) (f : Sec → Sec) : (s.onSec f).ledgAudit = s.ledgAudit := rfl
@[simp] theorem State.onSec_auditStep (s : State) (f : Sec → Sec) : (s.onSec f).auditStep = s.auditStep := rfl
@[simp] theorem State.onSec_freeCtr (s : State) (f : Sec → Sec) : (s.onSec f).freeCtr = s.freeCtr := rfl
@[simp] theorem State.onSec_pending (s : State) (f : Sec → Sec) : (s.onSec f).pending = s.pending := rfl

/-! ## State.onNor -/

@[simp] theorem State.onNor_pins (s : State) (f : Nor → Nor) : (s.onNor f).pins = s.pins := rfl
@[simp] theorem State.onNor_boot (s : State) (f : Nor → Nor) : (s.onNor f).boot = s.boot := rfl
@[simp] theorem State.onNor_nor (s : State) (f : Nor → Nor) : (s.onNor f).nor = f s.nor := rfl
@[simp] theorem State.onNor_mgmt (s : State) (f : Nor → Nor) : (s.onNor f).mgmt = s.mgmt := rfl
@[simp] theorem State.onNor_hk (s : State) (f : Nor → Nor) : (s.onNor f).hk = s.hk := rfl
@[simp] theorem State.onNor_stk (s : State) (f : Nor → Nor) : (s.onNor f).stk = s.stk := rfl
@[simp] theorem State.onNor_cfg (s : State) (f : Nor → Nor) : (s.onNor f).cfg = s.cfg := rfl
@[simp] theorem State.onNor_seqs (s : State) (f : Nor → Nor) : (s.onNor f).seqs = s.seqs := rfl
@[simp] theorem State.onNor_prog (s : State) (f : Nor → Nor) : (s.onNor f).prog = s.prog := rfl
@[simp] theorem State.onNor_cores (s : State) (f : Nor → Nor) : (s.onNor f).cores = s.cores := rfl
@[simp] theorem State.onNor_clusters (s : State) (f : Nor → Nor) : (s.onNor f).clusters = s.clusters := rfl
@[simp] theorem State.onNor_dram (s : State) (f : Nor → Nor) : (s.onNor f).dram = s.dram := rfl
@[simp] theorem State.onNor_ctls (s : State) (f : Nor → Nor) : (s.onNor f).ctls = s.ctls := rfl
@[simp] theorem State.onNor_dies (s : State) (f : Nor → Nor) : (s.onNor f).dies = s.dies := rfl
@[simp] theorem State.onNor_homeOut (s : State) (f : Nor → Nor) : (s.onNor f).homeOut = s.homeOut := rfl
@[simp] theorem State.onNor_heldWrites (s : State) (f : Nor → Nor) : (s.onNor f).heldWrites = s.heldWrites := rfl
@[simp] theorem State.onNor_units (s : State) (f : Nor → Nor) : (s.onNor f).units = s.units := rfl
@[simp] theorem State.onNor_rings (s : State) (f : Nor → Nor) : (s.onNor f).rings = s.rings := rfl
@[simp] theorem State.onNor_flt (s : State) (f : Nor → Nor) : (s.onNor f).flt = s.flt := rfl
@[simp] theorem State.onNor_host (s : State) (f : Nor → Nor) : (s.onNor f).host = s.host := rfl
@[simp] theorem State.onNor_ports (s : State) (f : Nor → Nor) : (s.onNor f).ports = s.ports := rfl
@[simp] theorem State.onNor_swarm (s : State) (f : Nor → Nor) : (s.onNor f).swarm = s.swarm := rfl
@[simp] theorem State.onNor_d2d (s : State) (f : Nor → Nor) : (s.onNor f).d2d = s.d2d := rfl
@[simp] theorem State.onNor_fuses (s : State) (f : Nor → Nor) : (s.onNor f).fuses = s.fuses := rfl
@[simp] theorem State.onNor_sec (s : State) (f : Nor → Nor) : (s.onNor f).sec = s.sec := rfl
@[simp] theorem State.onNor_dorm (s : State) (f : Nor → Nor) : (s.onNor f).dorm = s.dorm := rfl
@[simp] theorem State.onNor_regs (s : State) (f : Nor → Nor) : (s.onNor f).regs = s.regs := rfl
@[simp] theorem State.onNor_cnt (s : State) (f : Nor → Nor) : (s.onNor f).cnt = s.cnt := rfl
@[simp] theorem State.onNor_cntLatch (s : State) (f : Nor → Nor) : (s.onNor f).cntLatch = s.cntLatch := rfl
@[simp] theorem State.onNor_novf (s : State) (f : Nor → Nor) : (s.onNor f).novf = s.novf := rfl
@[simp] theorem State.onNor_firstOvf (s : State) (f : Nor → Nor) : (s.onNor f).firstOvf = s.firstOvf := rfl
@[simp] theorem State.onNor_unlocked (s : State) (f : Nor → Nor) : (s.onNor f).unlocked = s.unlocked := rfl
@[simp] theorem State.onNor_expResult (s : State) (f : Nor → Nor) : (s.onNor f).expResult = s.expResult := rfl
@[simp] theorem State.onNor_expLast (s : State) (f : Nor → Nor) : (s.onNor f).expLast = s.expLast := rfl
@[simp] theorem State.onNor_ledg (s : State) (f : Nor → Nor) : (s.onNor f).ledg = s.ledg := rfl
@[simp] theorem State.onNor_ledgAudit (s : State) (f : Nor → Nor) : (s.onNor f).ledgAudit = s.ledgAudit := rfl
@[simp] theorem State.onNor_auditStep (s : State) (f : Nor → Nor) : (s.onNor f).auditStep = s.auditStep := rfl
@[simp] theorem State.onNor_freeCtr (s : State) (f : Nor → Nor) : (s.onNor f).freeCtr = s.freeCtr := rfl
@[simp] theorem State.onNor_pending (s : State) (f : Nor → Nor) : (s.onNor f).pending = s.pending := rfl

/-! ## State.onDorm -/

@[simp] theorem State.onDorm_pins (s : State) (f : Dormant → Dormant) : (s.onDorm f).pins = s.pins := rfl
@[simp] theorem State.onDorm_boot (s : State) (f : Dormant → Dormant) : (s.onDorm f).boot = s.boot := rfl
@[simp] theorem State.onDorm_nor (s : State) (f : Dormant → Dormant) : (s.onDorm f).nor = s.nor := rfl
@[simp] theorem State.onDorm_mgmt (s : State) (f : Dormant → Dormant) : (s.onDorm f).mgmt = s.mgmt := rfl
@[simp] theorem State.onDorm_hk (s : State) (f : Dormant → Dormant) : (s.onDorm f).hk = s.hk := rfl
@[simp] theorem State.onDorm_stk (s : State) (f : Dormant → Dormant) : (s.onDorm f).stk = s.stk := rfl
@[simp] theorem State.onDorm_cfg (s : State) (f : Dormant → Dormant) : (s.onDorm f).cfg = s.cfg := rfl
@[simp] theorem State.onDorm_seqs (s : State) (f : Dormant → Dormant) : (s.onDorm f).seqs = s.seqs := rfl
@[simp] theorem State.onDorm_prog (s : State) (f : Dormant → Dormant) : (s.onDorm f).prog = s.prog := rfl
@[simp] theorem State.onDorm_cores (s : State) (f : Dormant → Dormant) : (s.onDorm f).cores = s.cores := rfl
@[simp] theorem State.onDorm_clusters (s : State) (f : Dormant → Dormant) : (s.onDorm f).clusters = s.clusters := rfl
@[simp] theorem State.onDorm_dram (s : State) (f : Dormant → Dormant) : (s.onDorm f).dram = s.dram := rfl
@[simp] theorem State.onDorm_ctls (s : State) (f : Dormant → Dormant) : (s.onDorm f).ctls = s.ctls := rfl
@[simp] theorem State.onDorm_dies (s : State) (f : Dormant → Dormant) : (s.onDorm f).dies = s.dies := rfl
@[simp] theorem State.onDorm_homeOut (s : State) (f : Dormant → Dormant) : (s.onDorm f).homeOut = s.homeOut := rfl
@[simp] theorem State.onDorm_heldWrites (s : State) (f : Dormant → Dormant) : (s.onDorm f).heldWrites = s.heldWrites := rfl
@[simp] theorem State.onDorm_units (s : State) (f : Dormant → Dormant) : (s.onDorm f).units = s.units := rfl
@[simp] theorem State.onDorm_rings (s : State) (f : Dormant → Dormant) : (s.onDorm f).rings = s.rings := rfl
@[simp] theorem State.onDorm_flt (s : State) (f : Dormant → Dormant) : (s.onDorm f).flt = s.flt := rfl
@[simp] theorem State.onDorm_host (s : State) (f : Dormant → Dormant) : (s.onDorm f).host = s.host := rfl
@[simp] theorem State.onDorm_ports (s : State) (f : Dormant → Dormant) : (s.onDorm f).ports = s.ports := rfl
@[simp] theorem State.onDorm_swarm (s : State) (f : Dormant → Dormant) : (s.onDorm f).swarm = s.swarm := rfl
@[simp] theorem State.onDorm_d2d (s : State) (f : Dormant → Dormant) : (s.onDorm f).d2d = s.d2d := rfl
@[simp] theorem State.onDorm_fuses (s : State) (f : Dormant → Dormant) : (s.onDorm f).fuses = s.fuses := rfl
@[simp] theorem State.onDorm_sec (s : State) (f : Dormant → Dormant) : (s.onDorm f).sec = s.sec := rfl
@[simp] theorem State.onDorm_dorm (s : State) (f : Dormant → Dormant) : (s.onDorm f).dorm = f s.dorm := rfl
@[simp] theorem State.onDorm_regs (s : State) (f : Dormant → Dormant) : (s.onDorm f).regs = s.regs := rfl
@[simp] theorem State.onDorm_cnt (s : State) (f : Dormant → Dormant) : (s.onDorm f).cnt = s.cnt := rfl
@[simp] theorem State.onDorm_cntLatch (s : State) (f : Dormant → Dormant) : (s.onDorm f).cntLatch = s.cntLatch := rfl
@[simp] theorem State.onDorm_novf (s : State) (f : Dormant → Dormant) : (s.onDorm f).novf = s.novf := rfl
@[simp] theorem State.onDorm_firstOvf (s : State) (f : Dormant → Dormant) : (s.onDorm f).firstOvf = s.firstOvf := rfl
@[simp] theorem State.onDorm_unlocked (s : State) (f : Dormant → Dormant) : (s.onDorm f).unlocked = s.unlocked := rfl
@[simp] theorem State.onDorm_expResult (s : State) (f : Dormant → Dormant) : (s.onDorm f).expResult = s.expResult := rfl
@[simp] theorem State.onDorm_expLast (s : State) (f : Dormant → Dormant) : (s.onDorm f).expLast = s.expLast := rfl
@[simp] theorem State.onDorm_ledg (s : State) (f : Dormant → Dormant) : (s.onDorm f).ledg = s.ledg := rfl
@[simp] theorem State.onDorm_ledgAudit (s : State) (f : Dormant → Dormant) : (s.onDorm f).ledgAudit = s.ledgAudit := rfl
@[simp] theorem State.onDorm_auditStep (s : State) (f : Dormant → Dormant) : (s.onDorm f).auditStep = s.auditStep := rfl
@[simp] theorem State.onDorm_freeCtr (s : State) (f : Dormant → Dormant) : (s.onDorm f).freeCtr = s.freeCtr := rfl
@[simp] theorem State.onDorm_pending (s : State) (f : Dormant → Dormant) : (s.onDorm f).pending = s.pending := rfl

/-! ## State.onSwarm -/

@[simp] theorem State.onSwarm_pins (s : State) (f : Swarm → Swarm) : (s.onSwarm f).pins = s.pins := rfl
@[simp] theorem State.onSwarm_boot (s : State) (f : Swarm → Swarm) : (s.onSwarm f).boot = s.boot := rfl
@[simp] theorem State.onSwarm_nor (s : State) (f : Swarm → Swarm) : (s.onSwarm f).nor = s.nor := rfl
@[simp] theorem State.onSwarm_mgmt (s : State) (f : Swarm → Swarm) : (s.onSwarm f).mgmt = s.mgmt := rfl
@[simp] theorem State.onSwarm_hk (s : State) (f : Swarm → Swarm) : (s.onSwarm f).hk = s.hk := rfl
@[simp] theorem State.onSwarm_stk (s : State) (f : Swarm → Swarm) : (s.onSwarm f).stk = s.stk := rfl
@[simp] theorem State.onSwarm_cfg (s : State) (f : Swarm → Swarm) : (s.onSwarm f).cfg = s.cfg := rfl
@[simp] theorem State.onSwarm_seqs (s : State) (f : Swarm → Swarm) : (s.onSwarm f).seqs = s.seqs := rfl
@[simp] theorem State.onSwarm_prog (s : State) (f : Swarm → Swarm) : (s.onSwarm f).prog = s.prog := rfl
@[simp] theorem State.onSwarm_cores (s : State) (f : Swarm → Swarm) : (s.onSwarm f).cores = s.cores := rfl
@[simp] theorem State.onSwarm_clusters (s : State) (f : Swarm → Swarm) : (s.onSwarm f).clusters = s.clusters := rfl
@[simp] theorem State.onSwarm_dram (s : State) (f : Swarm → Swarm) : (s.onSwarm f).dram = s.dram := rfl
@[simp] theorem State.onSwarm_ctls (s : State) (f : Swarm → Swarm) : (s.onSwarm f).ctls = s.ctls := rfl
@[simp] theorem State.onSwarm_dies (s : State) (f : Swarm → Swarm) : (s.onSwarm f).dies = s.dies := rfl
@[simp] theorem State.onSwarm_homeOut (s : State) (f : Swarm → Swarm) : (s.onSwarm f).homeOut = s.homeOut := rfl
@[simp] theorem State.onSwarm_heldWrites (s : State) (f : Swarm → Swarm) : (s.onSwarm f).heldWrites = s.heldWrites := rfl
@[simp] theorem State.onSwarm_units (s : State) (f : Swarm → Swarm) : (s.onSwarm f).units = s.units := rfl
@[simp] theorem State.onSwarm_rings (s : State) (f : Swarm → Swarm) : (s.onSwarm f).rings = s.rings := rfl
@[simp] theorem State.onSwarm_flt (s : State) (f : Swarm → Swarm) : (s.onSwarm f).flt = s.flt := rfl
@[simp] theorem State.onSwarm_host (s : State) (f : Swarm → Swarm) : (s.onSwarm f).host = s.host := rfl
@[simp] theorem State.onSwarm_ports (s : State) (f : Swarm → Swarm) : (s.onSwarm f).ports = s.ports := rfl
@[simp] theorem State.onSwarm_swarm (s : State) (f : Swarm → Swarm) : (s.onSwarm f).swarm = f s.swarm := rfl
@[simp] theorem State.onSwarm_d2d (s : State) (f : Swarm → Swarm) : (s.onSwarm f).d2d = s.d2d := rfl
@[simp] theorem State.onSwarm_fuses (s : State) (f : Swarm → Swarm) : (s.onSwarm f).fuses = s.fuses := rfl
@[simp] theorem State.onSwarm_sec (s : State) (f : Swarm → Swarm) : (s.onSwarm f).sec = s.sec := rfl
@[simp] theorem State.onSwarm_dorm (s : State) (f : Swarm → Swarm) : (s.onSwarm f).dorm = s.dorm := rfl
@[simp] theorem State.onSwarm_regs (s : State) (f : Swarm → Swarm) : (s.onSwarm f).regs = s.regs := rfl
@[simp] theorem State.onSwarm_cnt (s : State) (f : Swarm → Swarm) : (s.onSwarm f).cnt = s.cnt := rfl
@[simp] theorem State.onSwarm_cntLatch (s : State) (f : Swarm → Swarm) : (s.onSwarm f).cntLatch = s.cntLatch := rfl
@[simp] theorem State.onSwarm_novf (s : State) (f : Swarm → Swarm) : (s.onSwarm f).novf = s.novf := rfl
@[simp] theorem State.onSwarm_firstOvf (s : State) (f : Swarm → Swarm) : (s.onSwarm f).firstOvf = s.firstOvf := rfl
@[simp] theorem State.onSwarm_unlocked (s : State) (f : Swarm → Swarm) : (s.onSwarm f).unlocked = s.unlocked := rfl
@[simp] theorem State.onSwarm_expResult (s : State) (f : Swarm → Swarm) : (s.onSwarm f).expResult = s.expResult := rfl
@[simp] theorem State.onSwarm_expLast (s : State) (f : Swarm → Swarm) : (s.onSwarm f).expLast = s.expLast := rfl
@[simp] theorem State.onSwarm_ledg (s : State) (f : Swarm → Swarm) : (s.onSwarm f).ledg = s.ledg := rfl
@[simp] theorem State.onSwarm_ledgAudit (s : State) (f : Swarm → Swarm) : (s.onSwarm f).ledgAudit = s.ledgAudit := rfl
@[simp] theorem State.onSwarm_auditStep (s : State) (f : Swarm → Swarm) : (s.onSwarm f).auditStep = s.auditStep := rfl
@[simp] theorem State.onSwarm_freeCtr (s : State) (f : Swarm → Swarm) : (s.onSwarm f).freeCtr = s.freeCtr := rfl
@[simp] theorem State.onSwarm_pending (s : State) (f : Swarm → Swarm) : (s.onSwarm f).pending = s.pending := rfl

/-! ## State.tell -/

@[simp] theorem State.tell_pins (s : State) (m : HostMsg) : (s.tell m).pins = s.pins := rfl
@[simp] theorem State.tell_boot (s : State) (m : HostMsg) : (s.tell m).boot = s.boot := rfl
@[simp] theorem State.tell_nor (s : State) (m : HostMsg) : (s.tell m).nor = s.nor := rfl
@[simp] theorem State.tell_mgmt (s : State) (m : HostMsg) : (s.tell m).mgmt = s.mgmt := rfl
@[simp] theorem State.tell_hk (s : State) (m : HostMsg) : (s.tell m).hk = s.hk := rfl
@[simp] theorem State.tell_stk (s : State) (m : HostMsg) : (s.tell m).stk = s.stk := rfl
@[simp] theorem State.tell_cfg (s : State) (m : HostMsg) : (s.tell m).cfg = s.cfg := rfl
@[simp] theorem State.tell_seqs (s : State) (m : HostMsg) : (s.tell m).seqs = s.seqs := rfl
@[simp] theorem State.tell_prog (s : State) (m : HostMsg) : (s.tell m).prog = s.prog := rfl
@[simp] theorem State.tell_cores (s : State) (m : HostMsg) : (s.tell m).cores = s.cores := rfl
@[simp] theorem State.tell_clusters (s : State) (m : HostMsg) : (s.tell m).clusters = s.clusters := rfl
@[simp] theorem State.tell_dram (s : State) (m : HostMsg) : (s.tell m).dram = s.dram := rfl
@[simp] theorem State.tell_ctls (s : State) (m : HostMsg) : (s.tell m).ctls = s.ctls := rfl
@[simp] theorem State.tell_dies (s : State) (m : HostMsg) : (s.tell m).dies = s.dies := rfl
@[simp] theorem State.tell_homeOut (s : State) (m : HostMsg) : (s.tell m).homeOut = s.homeOut := rfl
@[simp] theorem State.tell_heldWrites (s : State) (m : HostMsg) : (s.tell m).heldWrites = s.heldWrites := rfl
@[simp] theorem State.tell_units (s : State) (m : HostMsg) : (s.tell m).units = s.units := rfl
@[simp] theorem State.tell_rings (s : State) (m : HostMsg) : (s.tell m).rings = s.rings := rfl
@[simp] theorem State.tell_flt (s : State) (m : HostMsg) : (s.tell m).flt = s.flt := rfl
@[simp] theorem State.tell_host (s : State) (m : HostMsg) : (s.tell m).host = { s.host with out := s.host.out ++ [m] } := rfl
@[simp] theorem State.tell_ports (s : State) (m : HostMsg) : (s.tell m).ports = s.ports := rfl
@[simp] theorem State.tell_swarm (s : State) (m : HostMsg) : (s.tell m).swarm = s.swarm := rfl
@[simp] theorem State.tell_d2d (s : State) (m : HostMsg) : (s.tell m).d2d = s.d2d := rfl
@[simp] theorem State.tell_fuses (s : State) (m : HostMsg) : (s.tell m).fuses = s.fuses := rfl
@[simp] theorem State.tell_sec (s : State) (m : HostMsg) : (s.tell m).sec = s.sec := rfl
@[simp] theorem State.tell_dorm (s : State) (m : HostMsg) : (s.tell m).dorm = s.dorm := rfl
@[simp] theorem State.tell_regs (s : State) (m : HostMsg) : (s.tell m).regs = s.regs := rfl
@[simp] theorem State.tell_cnt (s : State) (m : HostMsg) : (s.tell m).cnt = s.cnt := rfl
@[simp] theorem State.tell_cntLatch (s : State) (m : HostMsg) : (s.tell m).cntLatch = s.cntLatch := rfl
@[simp] theorem State.tell_novf (s : State) (m : HostMsg) : (s.tell m).novf = s.novf := rfl
@[simp] theorem State.tell_firstOvf (s : State) (m : HostMsg) : (s.tell m).firstOvf = s.firstOvf := rfl
@[simp] theorem State.tell_unlocked (s : State) (m : HostMsg) : (s.tell m).unlocked = s.unlocked := rfl
@[simp] theorem State.tell_expResult (s : State) (m : HostMsg) : (s.tell m).expResult = s.expResult := rfl
@[simp] theorem State.tell_expLast (s : State) (m : HostMsg) : (s.tell m).expLast = s.expLast := rfl
@[simp] theorem State.tell_ledg (s : State) (m : HostMsg) : (s.tell m).ledg = s.ledg := rfl
@[simp] theorem State.tell_ledgAudit (s : State) (m : HostMsg) : (s.tell m).ledgAudit = s.ledgAudit := rfl
@[simp] theorem State.tell_auditStep (s : State) (m : HostMsg) : (s.tell m).auditStep = s.auditStep := rfl
@[simp] theorem State.tell_freeCtr (s : State) (m : HostMsg) : (s.tell m).freeCtr = s.freeCtr := rfl
@[simp] theorem State.tell_pending (s : State) (m : HostMsg) : (s.tell m).pending = s.pending := rfl

end Sys2Proof.Machine
end

