-- ==== Sys2Proof/Laws/Canon.lean ====
section
/-! SUPPORT. The canonical form of the state: what it says of each map, what the units read as after an update of one, and that the
shared updates and operations keep it. -/

namespace Sys2Proof.Machine

variable {s : State}

/-! ## The maps of a canonical state -/

theorem State.canon_seqs (h : s.canon = true) : AMap.wf Seq.init s.seqs = true := by
  simp only [State.canon, State.canonUnits, State.canonRest, Bool.and_eq_true] at h; simp only [h]
theorem State.canon_cores (h : s.canon = true) : AMap.wf Core.init s.cores = true := by
  simp only [State.canon, State.canonUnits, State.canonRest, Bool.and_eq_true] at h; simp only [h]
theorem State.canon_clusters (h : s.canon = true) : AMap.wf Cluster.init s.clusters = true := by
  simp only [State.canon, State.canonUnits, State.canonRest, Bool.and_eq_true] at h; simp only [h]
theorem State.canon_dram (h : s.canon = true) : AMap.wf zeroCw s.dram = true := by
  simp only [State.canon, State.canonUnits, State.canonRest, Bool.and_eq_true] at h; simp only [h]
theorem State.canon_ctls (h : s.canon = true) : AMap.wf Ctl.init s.ctls = true := by
  simp only [State.canon, State.canonUnits, State.canonRest, Bool.and_eq_true] at h; simp only [h]
theorem State.canon_dies (h : s.canon = true) : AMap.wf BaseDie.init s.dies = true := by
  simp only [State.canon, State.canonUnits, State.canonRest, Bool.and_eq_true] at h; simp only [h]
theorem State.canon_homeOut (h : s.canon = true) : AMap.wf [] s.homeOut = true := by
  simp only [State.canon, State.canonUnits, State.canonRest, Bool.and_eq_true] at h; simp only [h]
theorem State.canon_units (h : s.canon = true) : AMap.wf CUnit.init s.units = true := by
  simp only [State.canon, State.canonUnits, State.canonRest, Bool.and_eq_true] at h; simp only [h]
theorem State.canon_rings (h : s.canon = true) : AMap.wf { queue := [], cur := none } s.rings = true := by
  simp only [State.canon, State.canonUnits, State.canonRest, Bool.and_eq_true] at h; simp only [h]
theorem State.canon_ports (h : s.canon = true) : AMap.wf Port.init s.ports = true := by
  simp only [State.canon, State.canonUnits, State.canonRest, Bool.and_eq_true] at h; simp only [h]
theorem State.canon_d2d (h : s.canon = true) : AMap.wf D2d.init s.d2d = true := by
  simp only [State.canon, State.canonUnits, State.canonRest, Bool.and_eq_true] at h; simp only [h]
theorem State.canon_swarm_peers (h : s.canon = true) : AMap.wf Peer.init s.swarm.peers = true := by
  simp only [State.canon, State.canonUnits, State.canonRest, Bool.and_eq_true] at h; simp only [h]
theorem State.canon_swarm_rtOcc (h : s.canon = true) : AMap.wf 0 s.swarm.rtOcc = true := by
  simp only [State.canon, State.canonUnits, State.canonRest, Bool.and_eq_true] at h; simp only [h]
theorem State.canon_host_msix (h : s.canon = true) : AMap.wf 0 s.host.msix = true := by
  simp only [State.canon, State.canonUnits, State.canonRest, Bool.and_eq_true] at h; simp only [h]
theorem State.canon_host_pba (h : s.canon = true) : AMap.wf 0 s.host.pba = true := by
  simp only [State.canon, State.canonUnits, State.canonRest, Bool.and_eq_true] at h; simp only [h]
theorem State.canon_cnt (h : s.canon = true) : AMap.wf 0 s.cnt = true := by
  simp only [State.canon, State.canonUnits, State.canonRest, Bool.and_eq_true] at h; simp only [h]
theorem State.canon_cntLatch (h : s.canon = true) : AMap.wf 0 s.cntLatch = true := by
  simp only [State.canon, State.canonUnits, State.canonRest, Bool.and_eq_true] at h; simp only [h]
theorem State.canon_ledg (h : s.canon = true) : AMap.wf 0 s.ledg = true := by
  simp only [State.canon, State.canonUnits, State.canonRest, Bool.and_eq_true] at h; simp only [h]
theorem State.canon_stk (h : s.canon = true) : AMap.wf Stack.init s.stk = true := by
  simp only [State.canon, State.canonUnits, State.canonRest, Bool.and_eq_true] at h; simp only [h]
theorem State.canon_hk_sensors (h : s.canon = true) : AMap.wf 0x80000000 s.hk.sensors = true := by
  simp only [State.canon, State.canonUnits, State.canonRest, Bool.and_eq_true] at h; simp only [h]
theorem State.canon_hk_invalidRun (h : s.canon = true) : AMap.wf 0 s.hk.invalidRun = true := by
  simp only [State.canon, State.canonUnits, State.canonRest, Bool.and_eq_true] at h; simp only [h]
theorem State.canon_nor_mem (h : s.canon = true) : AMap.wf erased s.nor.mem = true := by
  simp only [State.canon, State.canonUnits, State.canonRest, Bool.and_eq_true] at h; simp only [h]
theorem State.canon_boot_imgBuf (h : s.canon = true) : AMap.wf zeroCw s.boot.imgBuf = true := by
  simp only [State.canon, State.canonUnits, State.canonRest, Bool.and_eq_true] at h; simp only [h]
theorem State.canon_nor_buf (h : s.canon = true) : AMap.wf 0 s.nor.buf = true := by
  simp only [State.canon, State.canonUnits, State.canonRest, Bool.and_eq_true] at h; simp only [h]
theorem State.canon_regs (h : s.canon = true) : AMap.rising s.regs = true := by
  simp only [State.canon, State.canonUnits, State.canonRest, Bool.and_eq_true] at h; simp only [h]

/-! ## Reading a unit after an update of one -/

theorem State.seq_setSeq (h : s.canon = true) (i j : Nat) (x : Seq) : (s.setSeq i x).seq j = if j = i then x else s.seq j :=
  AMap.get_set _ (AMap.rising_of_wf (State.canon_seqs h)) i j x
theorem State.core_setCore (h : s.canon = true) (i j : Nat) (x : Core) : (s.setCore i x).core j = if j = i then x else s.core j :=
  AMap.get_set _ (AMap.rising_of_wf (State.canon_cores h)) i j x
theorem State.cluster_setCluster (h : s.canon = true) (i j : Nat) (x : Cluster) : (s.setCluster i x).cluster j = if j = i then x else s.cluster j :=
  AMap.get_set _ (AMap.rising_of_wf (State.canon_clusters h)) i j x
theorem State.ctl_setCtl (h : s.canon = true) (i j : Nat) (x : Ctl) : (s.setCtl i x).ctl j = if j = i then x else s.ctl j :=
  AMap.get_set _ (AMap.rising_of_wf (State.canon_ctls h)) i j x
theorem State.die_setDie (h : s.canon = true) (i j : Nat) (x : BaseDie) : (s.setDie i x).die j = if j = i then x else s.die j :=
  AMap.get_set _ (AMap.rising_of_wf (State.canon_dies h)) i j x
theorem State.cunit_setUnit (h : s.canon = true) (i j : Nat) (x : CUnit) : (s.setUnit i x).cunit j = if j = i then x else s.cunit j :=
  AMap.get_set _ (AMap.rising_of_wf (State.canon_units h)) i j x
theorem State.ring_setRing (h : s.canon = true) (i j : Nat) (x : Ring) : (s.setRing i x).ring j = if j = i then x else s.ring j :=
  AMap.get_set _ (AMap.rising_of_wf (State.canon_rings h)) i j x
theorem State.port_setPort (h : s.canon = true) (i j : Nat) (x : Port) : (s.setPort i x).port j = if j = i then x else s.port j :=
  AMap.get_set _ (AMap.rising_of_wf (State.canon_ports h)) i j x
theorem State.link_setLink (h : s.canon = true) (i j : Nat) (x : D2d) : (s.setLink i x).link j = if j = i then x else s.link j :=
  AMap.get_set _ (AMap.rising_of_wf (State.canon_d2d h)) i j x
theorem State.stack_setStack (h : s.canon = true) (i j : Nat) (x : Stack) : (s.setStack i x).stack j = if j = i then x else s.stack j :=
  AMap.get_set _ (AMap.rising_of_wf (State.canon_stk h)) i j x

/-- A register reads as it was last set, and the others as before. -/
theorem State.reg_setReg (h : s.canon = true) (i j : Nat) (v : Word) : (s.setReg i v).reg j = if j = i then v else s.reg j := by
  by_cases e : j = i
  · subst e
    rw [if_pos rfl]
    exact AMap.get_set_same _ (State.canon_regs h) j v
  · rw [if_neg e]
    show AMap.get _ (AMap.set _ s.regs i v) j = AMap.get _ s.regs j
    unfold AMap.set
    split
    · exact AMap.get_erase_other _ e (State.canon_regs h)
    · exact AMap.get_put_other _ v e _

/-! ## Updates keep the canonical form -/

theorem State.canon_setSeq (h : s.canon = true) (i : Nat) (x : Seq) : (s.setSeq i x).canon = true := by
  have hw := AMap.wf_set (k := i) (v := x) (State.canon_seqs h)
  simp only [State.canon, State.canonUnits, State.canonRest, Bool.and_eq_true] at h ⊢
  simp only [State.setSeq] at *
  simp only [h, hw, and_self]
theorem State.canon_setCore (h : s.canon = true) (i : Nat) (x : Core) : (s.setCore i x).canon = true := by
  have hw := AMap.wf_set (k := i) (v := x) (State.canon_cores h)
  simp only [State.canon, State.canonUnits, State.canonRest, Bool.and_eq_true] at h ⊢
  simp only [State.setCore] at *
  simp only [h, hw, and_self]
theorem State.canon_setCluster (h : s.canon = true) (i : Nat) (x : Cluster) : (s.setCluster i x).canon = true := by
  have hw := AMap.wf_set (k := i) (v := x) (State.canon_clusters h)
  simp only [State.canon, State.canonUnits, State.canonRest, Bool.and_eq_true] at h ⊢
  simp only [State.setCluster] at *
  simp only [h, hw, and_self]
theorem State.canon_setCtl (h : s.canon = true) (i : Nat) (x : Ctl) : (s.setCtl i x).canon = true := by
  have hw := AMap.wf_set (k := i) (v := x) (State.canon_ctls h)
  simp only [State.canon, State.canonUnits, State.canonRest, Bool.and_eq_true] at h ⊢
  simp only [State.setCtl] at *
  simp only [h, hw, and_self]
theorem State.canon_setDie (h : s.canon = true) (i : Nat) (x : BaseDie) : (s.setDie i x).canon = true := by
  have hw := AMap.wf_set (k := i) (v := x) (State.canon_dies h)
  simp only [State.canon, State.canonUnits, State.canonRest, Bool.and_eq_true] at h ⊢
  simp only [State.setDie] at *
  simp only [h, hw, and_self]
theorem State.canon_setUnit (h : s.canon = true) (i : Nat) (x : CUnit) : (s.setUnit i x).canon = true := by
  have hw := AMap.wf_set (k := i) (v := x) (State.canon_units h)
  simp only [State.canon, State.canonUnits, State.canonRest, Bool.and_eq_true] at h ⊢
  simp only [State.setUnit] at *
  simp only [h, hw, and_self]
theorem State.canon_setRing (h : s.canon = true) (i : Nat) (x : Ring) : (s.setRing i x).canon = true := by
  have hw := AMap.wf_set (k := i) (v := x) (State.canon_rings h)
  simp only [State.canon, State.canonUnits, State.canonRest, Bool.and_eq_true] at h ⊢
  simp only [State.setRing] at *
  simp only [h, hw, and_self]
theorem State.canon_setPort (h : s.canon = true) (i : Nat) (x : Port) : (s.setPort i x).canon = true := by
  have hw := AMap.wf_set (k := i) (v := x) (State.canon_ports h)
  simp only [State.canon, State.canonUnits, State.canonRest, Bool.and_eq_true] at h ⊢
  simp only [State.setPort] at *
  simp only [h, hw, and_self]
theorem State.canon_setLink (h : s.canon = true) (i : Nat) (x : D2d) : (s.setLink i x).canon = true := by
  have hw := AMap.wf_set (k := i) (v := x) (State.canon_d2d h)
  simp only [State.canon, State.canonUnits, State.canonRest, Bool.and_eq_true] at h ⊢
  simp only [State.setLink] at *
  simp only [h, hw, and_self]
theorem State.canon_setStack (h : s.canon = true) (i : Nat) (x : Stack) : (s.setStack i x).canon = true := by
  have hw := AMap.wf_set (k := i) (v := x) (State.canon_stk h)
  simp only [State.canon, State.canonUnits, State.canonRest, Bool.and_eq_true] at h ⊢
  simp only [State.setStack] at *
  simp only [h, hw, and_self]
theorem State.canon_setReg (h : s.canon = true) (o : Nat) (v : Word) : (s.setReg o v).canon = true := by
  have hw := AMap.rising_set (d := regDefault s.cfg o) (k := o) (v := v) (State.canon_regs h)
  simp only [State.canon, State.canonUnits, State.canonRest, Bool.and_eq_true] at h ⊢
  simp only [State.setReg] at *
  simp only [h, hw, and_self]

theorem State.canon_setPeer (h : s.canon = true) (k : Nat) (e : Peer) : (s.setPeer k e).canon = true := by
  have hw := AMap.wf_set (k := k) (v := e) (State.canon_swarm_peers h)
  simp only [State.canon, State.canonUnits, State.canonRest, Bool.and_eq_true] at h ⊢
  simp only [State.setPeer] at *
  simp only [h, hw, and_self]

/-- A write of a ledger count keeps the form. -/
theorem State.canon_with_ledg (h : s.canon = true) {m : AMap Nat} (hm : AMap.wf 0 m = true) : State.canon { s with ledg := m } = true := by
  simp only [State.canon, State.canonUnits, State.canonRest, Bool.and_eq_true] at h ⊢
  simp only [h, hm, and_self]

/-- A change of the host port that keeps its two maps keeps the form. -/
theorem State.canon_with_host (h : s.canon = true) {p : HostPort} (h1 : p.msix = s.host.msix) (h2 : p.pba = s.host.pba) :
    State.canon { s with host := p } = true := by
  simp only [State.canon, State.canonUnits, State.canonRest, Bool.and_eq_true] at h ⊢
  simp only [h, h1, h2, and_self]

theorem State.canon_with_cnt (h : s.canon = true) {m : AMap Word} (hm : AMap.wf 0 m = true) : State.canon { s with cnt := m } = true := by
  simp only [State.canon, State.canonUnits, State.canonRest, Bool.and_eq_true] at h ⊢
  simp only [h, hm, and_self]

theorem State.canon_with_seqs (h : s.canon = true) {m : AMap Seq} (hm : AMap.wf Seq.init m = true) :
    State.canon { s with seqs := m } = true := by
  simp only [State.canon, State.canonUnits, State.canonRest, Bool.and_eq_true] at h ⊢
  simp only [h, hm, and_self]

theorem State.canon_with_ctls (h : s.canon = true) {m : AMap Ctl} (hm : AMap.wf Ctl.init m = true) :
    State.canon { s with ctls := m } = true := by
  simp only [State.canon, State.canonUnits, State.canonRest, Bool.and_eq_true] at h ⊢
  simp only [h, hm, and_self]

theorem State.canon_with_cores (h : s.canon = true) {m : AMap Core} (hm : AMap.wf Core.init m = true) :
    State.canon { s with cores := m } = true := by
  simp only [State.canon, State.canonUnits, State.canonRest, Bool.and_eq_true] at h ⊢
  simp only [h, hm, and_self]

theorem State.canon_with_dies (h : s.canon = true) {m : AMap BaseDie} (hm : AMap.wf BaseDie.init m = true) :
    State.canon { s with dies := m } = true := by
  simp only [State.canon, State.canonUnits, State.canonRest, Bool.and_eq_true] at h ⊢
  simp only [h, hm, and_self]

theorem State.canon_with_units (h : s.canon = true) {m : AMap CUnit} (hm : AMap.wf CUnit.init m = true) :
    State.canon { s with units := m } = true := by
  simp only [State.canon, State.canonUnits, State.canonRest, Bool.and_eq_true] at h ⊢
  simp only [h, hm, and_self]

/-- A word of DRAM may be written without losing the form. -/
theorem State.canon_with_dram (h : s.canon = true) {m : AMap Codeword} (hm : AMap.wf zeroCw m = true) :
    State.canon { s with dram := m } = true := by
  simp only [State.canon, State.canonUnits, State.canonRest, Bool.and_eq_true] at h ⊢
  simp only [h, hm, and_self]

/-! ## Shared operations keep it -/

theorem State.canon_ledgAdd (h : s.canon = true) (k j n : Nat) : (s.ledgAdd k j n).canon = true :=
  State.canon_with_ledg h (AMap.wf_upd (State.canon_ledg h))

theorem State.canon_ledgTake (h : s.canon = true) (k n : Nat) : (s.ledgTake k n).canon = true :=
  State.canon_with_ledg h (AMap.wf_upd (State.canon_ledg h))

theorem State.canon_ledgIn (h : s.canon = true) (k n : Nat) : (s.ledgIn k n).canon = true :=
  State.canon_ledgAdd (State.canon_ledgAdd h k 0 n) k 3 n

theorem State.canon_ledgOut (h : s.canon = true) (k n : Nat) : (s.ledgOut k n).canon = true :=
  State.canon_ledgTake (State.canon_ledgAdd h k 1 n) k n

theorem State.canon_ledgAlt (h : s.canon = true) (k n : Nat) : (s.ledgAlt k n).canon = true :=
  State.canon_ledgTake (State.canon_ledgAdd h k 2 n) k n

theorem mergeEvent_maps (p : HostPort) (e : Event) : (mergeEvent p e).msix = p.msix ∧ (mergeEvent p e).pba = p.pba := by
  unfold mergeEvent
  simp only
  repeat' split
  all_goals exact ⟨rfl, rfl⟩

theorem State.canon_raise (h : s.canon = true) (ty fid d0 d1 : Nat) : (s.raise ty fid d0 d1).canon = true := by
  have h1 : State.canon { s with freeCtr := s.freeCtr + 1 } = true := h
  have h2 := State.canon_ledgIn h1 5 1
  exact State.canon_with_host h2 (mergeEvent_maps _ _).1 (mergeEvent_maps _ _).2

theorem State.canon_bumpN (h : s.canon = true) (off k : Nat) : (s.bumpN off k).canon = true := by
  have h1 : State.canon { s with cnt := AMap.set 0 s.cnt off (BitVec.ofNat 64 (bumpVal (s.counter off) k)) } = true :=
    State.canon_with_cnt h (AMap.wf_set (State.canon_cnt h))
  unfold State.bumpN
  simp only
  split
  · have h2 := State.canon_setReg h1 0x700
      (State.reg { s with cnt := AMap.set 0 s.cnt off (BitVec.ofNat 64 (bumpVal (s.counter off) k)) } 0x700 ||| 1)
    exact State.canon_raise (s := { State.setReg { s with cnt := AMap.set 0 s.cnt off (BitVec.ofNat 64 (bumpVal (s.counter off) k)) }
      0x700 (State.reg { s with cnt := AMap.set 0 s.cnt off (BitVec.ofNat 64 (bumpVal (s.counter off) k)) } 0x700 ||| 1) with
      firstOvf := _, novf := _ }) h2 _ _ _ _
  · exact h1

theorem State.canon_bump (h : s.canon = true) (off : Nat) : (s.bump off).canon = true := State.canon_bumpN h off 1

theorem State.canon_with_entry (h : s.canon = true) (a : Dormant) (b : Pins) {m : AMap Ctl} (hm : AMap.wf Ctl.init m = true) :
    State.canon { s with dorm := a, ctls := m, pins := b } = true :=
  State.canon_with_ctls (s := { s with dorm := a, pins := b }) h hm

theorem State.canon_cancelEntry (h : s.canon = true) : s.cancelEntry.canon = true := by
  unfold State.cancelEntry
  split
  · exact State.canon_bump (State.canon_with_entry h _ _ (AMap.wf_mapVals (State.canon_ctls h))) _
  · exact h

theorem State.canon_flushAll (h : s.canon = true) : s.flushAll.canon = true := by
  unfold State.flushAll
  apply State.canon_ledgOut
  exact State.canon_with_cores (s := { s with units := _, dies := _, prog := _ })
    (State.canon_with_units (s := { s with dies := _, prog := _ })
      (State.canon_with_dies (s := { s with prog := _ }) h (AMap.wf_mapVals (State.canon_dies h)))
      (AMap.wf_mapVals (State.canon_units h)))
    (AMap.wf_mapVals (State.canon_cores h))

theorem State.canon_beginHalt (h : s.canon = true) (cause stream pc code : Nat) : (s.beginHalt cause stream pc code).canon = true := by
  have h1 : ∀ p, State.canon { s with prog := p, seqs := AMap.mapVals .init Seq.drain s.seqs } = true := fun p =>
    State.canon_with_seqs (s := { s with prog := p }) h (AMap.wf_mapVals (State.canon_seqs h))
  unfold State.beginHalt
  simp only
  split
  · exact State.canon_flushAll (h1 _)
  · exact h1 _

/-- Whichever of two states is taken, the form holds. -/
theorem State.canon_ite {p : Prop} [Decidable p] {a b : State} (ha : a.canon = true) (hb : b.canon = true) :
    (if p then a else b).canon = true := by
  by_cases h : p
  · rw [if_pos h]; exact ha
  · rw [if_neg h]; exact hb

theorem State.canon_fault (h : s.canon = true) (row fid arg : Nat) : (s.fault row fid arg).canon = true := by
  have h1 : ∀ f, State.canon { s.cancelEntry with flt := f } = true := fun f => State.canon_cancelEntry h
  exact State.canon_ite
    (State.canon_ite (State.canon_with_seqs (h1 _) (AMap.wf_mapVals (State.canon_seqs (State.canon_cancelEntry h))))
      (State.canon_beginHalt (h1 _) _ _ _ _))
    (State.canon_ite (State.canon_beginHalt (h1 _) _ _ _ _) (h1 _))

theorem State.canon_coreEcc (h : s.canon = true) (g loc : Nat) (o : Decoded) : (s.coreEcc g loc o).canon = true := by
  unfold State.coreEcc
  split
  · exact h
  · exact State.canon_bump h _
  · exact State.canon_fault (State.canon_raise (State.canon_bump h _) _ _ _ _) _ _ _

theorem State.canon_sflip (h : s.canon = true) (base tgt idx : Nat) (any : Bool) (cw : Codeword) :
    (s.sflip base tgt idx any cw).2.canon = true := by
  unfold State.sflip
  simp only
  generalize (if bits (s.reg (base + 0x10)).toNat 2 0 ≥ 5 then 0 else bits (s.reg (base + 0x10)).toNat 2 0) = t
  split
  · exact h
  · exact State.canon_setReg (State.canon_setReg (State.canon_setReg h _ _) _ _) _ _

theorem State.canon_coreStore (h : s.canon = true) (g tgt idx : Nat) (cw : Codeword) : (s.coreStore g tgt idx cw).canon = true :=
  State.canon_setCore (State.canon_sflip h _ _ _ _ _) _ _

theorem State.canon_coreRead (h : s.canon = true) (g tgt idx : Nat) : (s.coreRead g tgt idx).2.canon = true := by
  unfold State.coreRead
  simp only
  split
  · exact State.canon_coreStore (State.canon_coreEcc h _ _ _) _ _ _ _
  · exact State.canon_coreEcc h _ _ _

theorem State.canon_clusterStore (h : s.canon = true) (k idx : Nat) (cw : Codeword) : (s.clusterStore k idx cw).canon = true :=
  State.canon_setCluster (State.canon_sflip h _ _ _ _ _) _ _

theorem State.canon_clusterRead (h : s.canon = true) (k idx : Nat) : (s.clusterRead k idx).2.canon = true := by
  unfold State.clusterRead
  simp only
  split
  · exact h
  · exact State.canon_clusterStore (State.canon_bump h _) _ _ _
  · exact State.canon_fault (State.canon_raise (State.canon_bump h _) _ _ _ _) _ _ _

theorem State.canon_placeToken (h : s.canon = true) (g t st : Nat) : (s.placeToken g t st).canon = true :=
  State.canon_ledgIn (State.canon_setCore h _ _) _ _

theorem State.canon_consumeToken (h : s.canon = true) (g t : Nat) : (s.consumeToken g t).2.canon = true :=
  State.canon_ledgOut (State.canon_setCore h _ _) _ _

theorem State.canon_retireLanes (h : s.canon = true) (g : Nat) : (s.retireLanes g).canon = true :=
  State.canon_ledgAlt (State.canon_setCore h _ _) _ _

theorem State.canon_unbindStreams (h : s.canon = true) (g : Nat) : (s.unbindStreams g).canon = true :=
  State.canon_ledgOut (State.canon_setCore (State.canon_with_dies h (AMap.wf_mapVals (State.canon_dies h))) _ _) _ _

/-- What holds of a state and is kept by each application holds after a fold over a list. -/
theorem overList_keeps {P : State → Prop} {f : Nat → State → State} (hf : ∀ k t, P t → P (f k t)) :
    ∀ (ks : List Nat) (t : State), P t → P (overList ks f t)
  | [], _, h => h
  | k :: ks, t, h => overList_keeps hf ks (f k t) (hf k t h)

/-- The same of a fold over any list. -/
theorem foldl_keeps {β : Type} {P : State → Prop} {f : State → β → State} (hf : ∀ t x, P t → P (f t x)) :
    ∀ (xs : List β) (t : State), P t → P (xs.foldl f t)
  | [], _, h => h
  | x :: xs, t, h => foldl_keeps hf xs (f t x) (hf t x h)

theorem State.canon_setEntry (h : s.canon = true) (g : Nat) (e : Eng) (x : QEntry) : (s.setEntry g e x).canon = true :=
  State.canon_setCore h _ _

end Sys2Proof.Machine
end

