-- ==== Sys2Proof/Laws/Ops.lean ====
section
/-! SUPPORT. What each shared operation can do: what it leaves alone, said once as one equation, and what it answers where nothing
extraordinary is met. -/

namespace Sys2Proof.Machine

variable {s : State}

/-! ## Ledgers, events, counters -/

theorem State.ledgAdd_frame (s : State) (k j n : Nat) : { s.ledgAdd k j n with ledg := s.ledg } = s := rfl
theorem State.ledgTake_frame (s : State) (k n : Nat) : { s.ledgTake k n with ledg := s.ledg } = s := rfl
theorem State.ledgIn_frame (s : State) (k n : Nat) : { s.ledgIn k n with ledg := s.ledg } = s := rfl
theorem State.ledgOut_frame (s : State) (k n : Nat) : { s.ledgOut k n with ledg := s.ledg } = s := rfl
theorem State.ledgAlt_frame (s : State) (k n : Nat) : { s.ledgAlt k n with ledg := s.ledg } = s := rfl

/-- An occurrence joins the pending store or the merged entry; the rest of the host port is as before. -/
theorem mergeEvent_frame (p : HostPort) (e : Event) : { mergeEvent p e with pend := p.pend, merged := p.merged } = p := by
  unfold mergeEvent
  simp only
  repeat' split
  all_goals rfl

/-- Raising an event changes the pending store, ledger 5 and the use of free times, and nothing else. -/
theorem State.raise_frame (s : State) (ty fid d0 d1 : Nat) :
    { s.raise ty fid d0 d1 with host := s.host, ledg := s.ledg, freeCtr := s.freeCtr } = s := by
  cases s
  rfl

theorem State.raise_host (s : State) (ty fid d0 d1 : Nat) : (s.raise ty fid d0 d1).host = mergeEvent s.host
    { ty := ty, count := 1, fid := fid, d0 := d0, d1 := d1, us := (Config.freeTime s.freeCtr).toNat % 2 ^ 48 } := rfl

theorem State.raise_out (s : State) (ty fid d0 d1 : Nat) : (s.raise ty fid d0 d1).host.out = s.host.out := by
  rw [State.raise_host]
  unfold mergeEvent
  simp only
  repeat' split
  all_goals rfl

/-- Counting changes counters, the record of their overflow and what raising its event changes, and nothing else. -/
theorem State.bumpN_frame (s : State) (off k : Nat) :
    { s.bumpN off k with cnt := s.cnt, regs := s.regs, firstOvf := s.firstOvf, novf := s.novf, host := s.host, ledg := s.ledg,
                         freeCtr := s.freeCtr } = s := by
  unfold State.bumpN
  simp only
  generalize bumpVal (s.counter off) k = w
  split
  · cases s
    rfl
  · cases s
    rfl

/-- Below the overflow a count rises by k and nothing else changes. -/
theorem State.bumpN_small (s : State) (off k : Nat) (h : s.counter off + k < 0xFFFF * 2 ^ 48) :
    s.bumpN off k = { s with cnt := AMap.set 0 s.cnt off (BitVec.ofNat 64 (s.counter off + k)) } := by
  have hv : bits (s.counter off) 63 48 ≠ 0xFFFF := by
    unfold bits
    have : s.counter off >>> 48 < 0xFFFF := by
      rw [Nat.shiftRight_eq_div_pow]
      exact Nat.div_lt_of_lt_mul (by omega)
    omega
  have hw : bumpVal (s.counter off) k = s.counter off + k := by
    unfold bumpVal
    rw [if_neg hv, if_pos (by simpa [Nat.shiftLeft_eq] using h)]
  have hx : bits (s.counter off + k) 63 48 ≠ 0xFFFF := by
    unfold bits
    have : (s.counter off + k) >>> 48 < 0xFFFF := by
      rw [Nat.shiftRight_eq_div_pow]
      exact Nat.div_lt_of_lt_mul (by omega)
    omega
  unfold State.bumpN
  simp only [hw]
  rw [if_neg (fun c => hx c.2)]

/-! ## Reading stored words -/

/-- A word that decodes clean is the codeword of what it delivers. -/
theorem decode_clean {cw : Codeword} (h : (decode cw).cls = .clean) : encode (decode cw).d (decode cw).p = cw := by
  unfold decode at h ⊢
  split at h
  · simp [deliverBad] at h
  · rename_i h0
    rw [if_neg h0]
    split at h
    · rename_i h1
      rw [if_pos h1]
      exact h1
    · exfalso
      simp only [deliver, deliverBad] at h
      repeat' split at h
      all_goals simp at h

/-- A clean word is read without any other effect. -/
theorem State.coreEcc_clean (g loc : Nat) {o : Decoded} (h : o.cls = .clean) : s.coreEcc g loc o = s := by
  unfold State.coreEcc
  rw [h]

theorem State.coreRead_clean (g tgt idx : Nat) (h : (decode (AMap.get zeroCw ((s.core g).sram tgt) idx)).cls = .clean) :
    s.coreRead g tgt idx =
      (((decode (AMap.get zeroCw ((s.core g).sram tgt) idx)).d, (decode (AMap.get zeroCw ((s.core g).sram tgt) idx)).p), s) := by
  unfold State.coreRead
  simp only [State.coreEcc_clean g idx h, h]

theorem State.clusterRead_clean (k idx : Nat) (h : (decode (AMap.get zeroCw (s.cluster k).store idx)).cls = .clean) :
    s.clusterRead k idx =
      (((decode (AMap.get zeroCw (s.cluster k).store idx)).d, (decode (AMap.get zeroCw (s.cluster k).store idx)).p), s) := by
  unfold State.clusterRead
  simp only [h]

/-- A clean word of a die cache is counted nowhere. -/
theorem State.dieEcc_clean (d w cause : Nat) {o : Decoded} (h : o.cls = .clean) : s.dieEcc d w cause o = s := by
  unfold State.dieEcc
  rw [h]

/-- A word of a line at home that decodes clean is read without any other effect. -/
theorem State.lineRead_clean {d la i src : Nat} {l : Line} (hl : s.line? d la = some l)
    (h : (decode (l.words.getD i zeroCw)).cls = .clean) :
    s.lineRead d la i src = (((decode (l.words.getD i zeroCw)).d, (decode (l.words.getD i zeroCw)).p), s) := by
  unfold State.lineRead
  simp only [hl, State.dieEcc_clean d _ 1 h, h]

/-- Where no SFLIP mask is set a word is stored as given. -/
theorem State.sflip_quiet (base tgt idx : Nat) (any : Bool) (cw : Codeword) (h1 : s.reg base = 0) (h2 : s.reg (base + 8) = 0) :
    s.sflip base tgt idx any cw = (cw, s) := by
  unfold State.sflip
  simp only
  generalize (if bits (s.reg (base + 0x10)).toNat 2 0 ≥ 5 then 0 else bits (s.reg (base + 0x10)).toNat 2 0) = t
  rw [if_pos (Or.inl ⟨h1, h2⟩)]

/-- A write of a whole word reads nothing first. -/
theorem rmw_full (old : Codeword) (v : Word) (p : Bool) : rmw old v fullMask p = (encode v p, none) := by
  unfold rmw
  rw [if_pos rfl]

/-! ## Engines -/

/-- An engine that cannot start the instruction does nothing. -/
theorem State.runEngine_idle {g op : Nat} {e : Eng} {f : Ctx → M Res} (h : s.readyEntry g e op = none) : s.runEngine g e op f = s := by
  unfold State.runEngine
  rw [h]

/-- Words that decode clean are read without any other effect. -/
theorem State.foldl_coreEcc_clean (g : Nat) : ∀ (ws : List Codeword) (s : State), (∀ w ∈ ws, (decode w).cls = .clean) →
    ws.foldl (fun s w => s.coreEcc g 0 (decode w)) s = s
  | [], _, _ => rfl
  | w :: ws, s, h => by
    rw [List.foldl_cons, State.coreEcc_clean g 0 (h w (List.mem_cons_self ..))]
    exact State.foldl_coreEcc_clean g ws s fun v hv => h v (List.mem_cons_of_mem _ hv)

/-- Queue words that decode clean are read without any other effect. -/
theorem readQueued_clean (g : Nat) (e : Eng) : ∀ (ws : List Codeword) (n : Nat) (acc : List Codeword),
    (∀ w ∈ ws, (decode w).cls = .clean) → (ws.zipIdx n).foldl (readQueued g e) (acc, s) = (acc ++ ws, s)
  | [], n, acc, _ => by simp
  | w :: ws, n, acc, hc => by
    have hw := hc w (List.mem_cons_self ..)
    have h1 : readQueued g e (acc, s) (w, n) = (acc ++ [w], s) := by
      unfold readQueued
      simp only [State.coreEcc_clean g 0 hw, hw]
    rw [List.zipIdx_cons, List.foldl_cons, h1,
      readQueued_clean g e ws (n + 1) (acc ++ [w]) fun v hv => hc v (List.mem_cons_of_mem _ hv)]
    simp

/-- An entry whose words decode clean is read without any other effect. -/
theorem State.readEntry_intact (g : Nat) (e : Eng) {x : QEntry} (h : x.intact = true) : s.readEntry g e x = (x, s) := by
  have hc : ∀ w ∈ x.words, (decode w).cls = .clean := fun w hw => by simpa using List.all_eq_true.mp h w hw
  unfold State.readEntry
  rw [readQueued_clean g e x.words 0 [] hc]
  simp

/-- An intact entry begins with its token consumed and nothing else done. -/
theorem State.begun_intact {g : Nat} {e : Eng} {x : QEntry} (h : x.intact = true) :
    s.begun g e x = (x, if x.head.wv then (s.consumeToken g x.head.wlane).2 else s) := State.readEntry_intact g e h

/-- An engine starts an intact entry from the state that has consumed its token. -/
theorem State.startOf_intact {g : Nat} {e : Eng} {x : QEntry} (h : x.intact = true) :
    s.startOf g e x = if x.head.wv then (s.consumeToken g x.head.wlane).2 else s := by
  unfold State.startOf
  rw [State.begun_intact h]

/-- An engine that can start the instruction performs it and leaves the entry executed, or running, with what it reports. -/
theorem State.runEngine_done {g op : Nat} {e : Eng} {f : Ctx → M Res} {x : QEntry} {r : Res} {t : State}
    (h : s.readyEntry g e op = some x) (hf : (f (x.ctx g e (bitOf x.head.md 0))).run (s.startOf g e x) = (.ok r, t)) :
    s.runEngine g e op f = t.setEntry g e (s.doneEntry g e x r) := by
  unfold State.runEngine
  rw [h]
  unfold State.startOf State.begun at hf
  cases hw : x.head.wv
  · simp only [hw, Bool.false_eq_true, if_false] at hf ⊢
    rw [hf]
    simp [State.doneEntry, State.received, State.begun, hw]
  · simp only [hw, if_true] at hf ⊢
    rw [hf]
    simp [State.doneEntry, State.received, State.begun, hw, State.consumeToken]

/-- An instruction that halts the program begins its halt. -/
theorem State.runEngine_halts {g op cause : Nat} {e : Eng} {f : Ctx → M Res} {x : QEntry} {t : State}
    (h : s.readyEntry g e op = some x) (hf : (f (x.ctx g e (bitOf x.head.md 0))).run (s.startOf g e x) = (.error cause, t))
    (hc : cause ≠ coreFault) : s.runEngine g e op f = t.beginHalt cause (engNum e) (s.begun g e x).1.pc 0 := by
  unfold State.runEngine
  rw [h]
  unfold State.startOf at hf
  unfold State.begun at hf ⊢
  cases hw : x.head.wv
  · simp only [hw, Bool.false_eq_true, if_false] at hf ⊢
    rw [hf]
    simp only
    rw [if_neg hc]
  · simp only [hw, if_true] at hf ⊢
    rw [hf]
    simp only
    rw [if_neg hc]

/-! ## Serving, waking and ports -/

/-- While the module is active nothing has to wake. -/
theorem State.wakeEvent_active (h : s.dorm.st = .active) : s.wakeEvent = s := by
  unfold State.wakeEvent
  rw [h]

theorem State.asleep_active (h : s.dorm.st = .active) : s.asleep = false := by
  unfold State.asleep
  rw [h]
  rfl

/-- A module that is active serves a request at once. -/
theorem State.serve_active (h : s.dorm.st = .active) (i : Instr) (f : State → State) : s.serve i f = f s := by
  unfold State.serve
  rw [State.asleep_active h, State.wakeEvent_active h]
  simp

theorem State.cancelEntry_active (h : s.dorm.st = .active) : s.cancelEntry = s := by
  unfold State.cancelEntry
  rw [if_neg (by rw [h]; decide)]

/-- A fault while no program runs and none halts is recorded for recovery. -/
theorem State.fault_idle (h : s.dorm.st = .active) (hr : s.running = false) (hh : s.prog.halt = none) (row fid arg : Nat) :
    s.fault row fid arg = { s with flt := { s.flt with pend := s.flt.pend ++ [Flt.mk row fid arg] } } := by
  unfold State.fault
  rw [State.cancelEntry_active h]
  have : State.running { s with flt := { s.flt with pend := s.flt.pend ++ [Flt.mk row fid arg] } } = false := hr
  simp only [this, Bool.false_eq_true, if_false, hh, Option.isSome_none, false_and]

/-- With nothing waiting, a port's pump changes nothing. -/
theorem State.pump_nil (h : s.canon = true) {p : Nat} (hq : (s.port p).waitq = []) : s.pump p = s.setPort p (s.port p) := by
  have e1 : ({ s.port p with waitq := [] } : Port) = s.port p := by rw [← hq]
  unfold State.pump
  simp only [hq, List.foldl_nil, e1]
  have e2 : (s.setPort p (s.port p)).port p = s.port p := by rw [State.port_setPort h, if_pos rfl]
  rw [e2, e1]
  unfold State.setPort
  have hw := State.canon_ports h
  have e3 : AMap.set Port.init (AMap.set Port.init s.ports p (s.port p)) p (s.port p) = AMap.set Port.init s.ports p (s.port p) := by
    apply AMap.eq_of_get (AMap.wf_set (AMap.wf_set hw)) (AMap.wf_set hw)
    intro k
    have r1 := AMap.rising_of_wf (AMap.wf_set (k := p) (v := s.port p) hw)
    rw [AMap.get_set _ r1, AMap.get_set _ (AMap.rising_of_wf hw)]
    split <;> rfl
  rw [e3]

/-- Writing a unit back as it stands changes nothing. -/
theorem State.setPort_self (h : s.canon = true) (p : Nat) : s.setPort p (s.port p) = s := by
  have hw := State.canon_ports h
  have e : AMap.set Port.init s.ports p (s.port p) = s.ports := by
    apply AMap.eq_of_get (AMap.wf_set hw) hw
    intro k
    rw [AMap.get_set _ (AMap.rising_of_wf hw)]
    split
    · rename_i e
      rw [e]
      rfl
    · rfl
  unfold State.setPort
  rw [e]

end Sys2Proof.Machine
end

