-- ==== Sys2Proof/Laws/PerInstr.lean ====
section
/-! SUPPORT. What holds of every command as syntax: a well-formed command names only functions that Table 13.1 knows (R2, R3, R15,
R381). -/

namespace Sys2Proof

/-- The function ID of the unit that a command names by its first operand, where it names one (Table 13.1). -/
def Laws.Unit.fid : Instr → Option Nat
  | .pprsntChange n _ | .idle n _ | .req n _ _ | .rsp n _ _ | .data n _ _ | .hello n _ _ | .retry n _ _ | .resync n _ _
  | .helloSend n | .routeExpiry n _ | .portRetrain n _ _ | .flitCrcFail n _ | .peerPortUp n _ => some (0x7000 + n)
  | .caperr n | .calert n _ => some (0x4000 + n)
  | .corePllLockLoss n | .broadcast n _ | .nop n _ | .br n _ | .lset n _ | .stepBegin n _ | .stepEnd n _ | .wtok n _
  | .waggleWaitRelease n _ | .pace n _ | .paceRelease n _ | .halt n _ | .segmentSwap n _ | .segmentMeasurement n _
  | .fteRead n _ | .mirrorDuplicate n | .getMeas n _ | .getReport n _ _ _ _ => some (0x3000 + n)
  | .wagglePost n _ | .aadd n _ | .asub n _ | .amuli n _ | .ashl n _ | .ashr n _ | .aand n _ | .amin n _ | .amax n _
  | .asel n _ | .amovi n _ | .arank n _ | .dset n _ | .dload n _ | .dstore n _ | .dadv n _ | .mma n _ | .mmas n _ | .mzero n
  | .mdrain n | .mv n _ | .card n _ | .red n | .softmax n _ | .maskgen n | .gidx n | .runAheadPrefetch n _ | .gather n
  | .scatter n | .fcompat n | .move n | .fill n | .cmv n | .mvFallback n _ | .cmvCompletion n | .peerput n | .peerget n
  | .mirrorsync n | .tokenPlace n _ _ | .peerTransferTimeout n _ => some (0x1000 + n)
  | .tileSequence n | .residueLimit n | .runBoundary n | .evacuation n | .frameCopyDone n _ => some (0x5000 + n / 48)
  | .rowCommandIssue n _ _ _ | .columnCommandIssue n _ | .memoryRequest n | .dramAccessComplete n _ | .patrolScrub n
  | .refreshDue n _ | .powerDownTimer n _ | .diagWindowExpiry n _ | .release n _ | .bankLoss n _ => some (Machine.ctlFid n)
  | .homeAccess n _ => some (0x9000 + n)
  | .d2dLinkLoss n | .d2dRetrain n => some (0x8000 + n)
  | .clusterClockGate n => some (0x2000 + n)
  | .inputOn | .undervoltageOff | .overvoltageOff | .mrstLow | .mrstHigh | .perstLow | .perstHigh | .hostLinkStateChange _ _ _
  | .strapSample _ _ | .slotHeadersRead _ _ _ | .imageRead | .imageVerify | .railSequence _ | .linkBringup _ | .cappingFill _
  | .selfTest _ | .s7Entry | .norOperationDone | .norTimeout | .fatalLogWrite | .getStatus _ | .getIdent _ | .getSensor _ _
  | .clearAlert _ _ | .norRead _ _ _ | .norBuf _ _ _ | .norProg _ _ | .norErase _ _ | .norStat _ | .housekeepingRound _
  | .smokerStepDown | .firstUseEnd | .multiplierStepDown _ | .slotFailed _ | .thermalShutdown | .thermalRestart | .railFault _
  | .stepBeginBarrier | .endOfStep _ | .waggleCompletion _ | .haltComplete | .mailboxReduction _ | .stepWatchdog _ | .faultReplay _ _
  | .rehydrationCopy | .perFunctionResetDone _ _ | .configRequest _ _ | .hdmCommit _ _ _ _ _ | .memRd _ | .memRdData _
  | .memWr _ _ _ | .memWrPtl _ _ _ _ | .memSpecRd _ | .programMemoryWrite _ _ | .launchDb _ | .resume | .frstReset _
  | .frstFence _ | .expOpen _ _ | .expClose _ | .svCommit _ | .ownerEnrol _ | .eqEnable _ | .eventWrite | .counterLowRead _ _ _
  | .registerWrite _ _ _ _ | .getIdentity | .close _ | .dormantEntry | .dormantEntered | .wakingEvent | .wakeComplete _
  | .holdUpExpiry | .secCmdDone _ => none

/-- A well-formed command names a function of the module. -/
def Laws.Unit.Statement (i : Instr) : Prop := i.wf = true → ∀ f, Laws.Unit.fid i = some f → Machine.validFid f = true

/-- A range check that passes. -/
theorem Laws.Unit.inRange_ok {e : WfError} {n k : Nat} (h : (inRange e n k == none) = true) : n < k := by
  unfold inRange at h
  split at h
  · assumption
  · simp at h

/-- The first of two checks passes where both do. -/
theorem Laws.Unit.both_left {a b : Option WfError} (h : (both a b == none) = true) : (a == none) = true := by
  cases a
  · rfl
  · simp [both] at h

theorem Laws.Unit.valid (c n : Nat) (hc : 0 < c) (hs : n < Machine.classSize c) (hn : Machine.classSize c ≤ 0x1000) :
    Machine.validFid (0x1000 * c + n) = true := by
  have h1 : (0x1000 * c + n) / 0x1000 = c := by omega
  have h2 : (0x1000 * c + n) % 0x1000 = n := by omega
  unfold Machine.validFid
  rw [h1, h2]
  simp [hs]
  omega

/-- A controller is a function. -/
theorem Laws.Unit.ctl_valid {n : Nat} (h : n < 272) : Machine.validFid (Machine.ctlFid n) = true := by
  unfold Machine.ctlFid
  split
  · exact Laws.Unit.valid 4 n (by decide) (show n < 256 by omega) (by decide)
  · exact Laws.Unit.valid 6 (n - 256) (by decide) (show n - 256 < 16 by omega) (by decide)

theorem Laws.Unit.inputOn : Laws.Unit.Statement .inputOn := by
  intro _ f hf; cases hf
theorem Laws.Unit.undervoltageOff : Laws.Unit.Statement .undervoltageOff := by
  intro _ f hf; cases hf
theorem Laws.Unit.overvoltageOff : Laws.Unit.Statement .overvoltageOff := by
  intro _ f hf; cases hf
theorem Laws.Unit.mrstLow : Laws.Unit.Statement .mrstLow := by
  intro _ f hf; cases hf
theorem Laws.Unit.mrstHigh : Laws.Unit.Statement .mrstHigh := by
  intro _ f hf; cases hf
theorem Laws.Unit.perstLow : Laws.Unit.Statement .perstLow := by
  intro _ f hf; cases hf
theorem Laws.Unit.perstHigh : Laws.Unit.Statement .perstHigh := by
  intro _ f hf; cases hf
theorem Laws.Unit.pprsntChange (p : Nat) (level : Bool) : Laws.Unit.Statement (.pprsntChange p level) := by
  intro h f hf; cases hf
  exact Laws.Unit.valid 7 p (by decide) (Laws.Unit.inRange_ok h) (by decide)
theorem Laws.Unit.hostLinkStateChange (st : LinkState) (width rate : Nat) : Laws.Unit.Statement (.hostLinkStateChange st width rate) := by
  intro _ f hf; cases hf
theorem Laws.Unit.caperr (n : Nat) : Laws.Unit.Statement (.caperr n) := by
  intro h f hf; cases hf
  exact Laws.Unit.valid 4 n (by decide) (Laws.Unit.inRange_ok h) (by decide)
theorem Laws.Unit.calert (n : Nat) (sramUe : List Nat) : Laws.Unit.Statement (.calert n sramUe) := by
  intro h f hf; cases hf
  exact Laws.Unit.valid 4 n (by decide) (Laws.Unit.inRange_ok h) (by decide)
theorem Laws.Unit.corePllLockLoss (d : Nat) : Laws.Unit.Statement (.corePllLockLoss d) := by
  intro h f hf; cases hf
  exact Laws.Unit.valid 3 d (by decide) (Laws.Unit.inRange_ok h) (by decide)
theorem Laws.Unit.strapSample (mhold bscan : Bool) : Laws.Unit.Statement (.strapSample mhold bscan) := by
  intro _ f hf; cases hf
theorem Laws.Unit.slotHeadersRead (jedec sfdp : Nat) (quad : QuadForm) : Laws.Unit.Statement (.slotHeadersRead jedec sfdp quad) := by
  intro _ f hf; cases hf
theorem Laws.Unit.imageRead : Laws.Unit.Statement .imageRead := by
  intro _ f hf; cases hf
theorem Laws.Unit.imageVerify : Laws.Unit.Statement .imageVerify := by
  intro _ f hf; cases hf
theorem Laws.Unit.railSequence (ok : Bool) : Laws.Unit.Statement (.railSequence ok) := by
  intro _ f hf; cases hf
theorem Laws.Unit.linkBringup (failed : List LinkId) : Laws.Unit.Statement (.linkBringup failed) := by
  intro _ f hf; cases hf
theorem Laws.Unit.cappingFill (o : FillOutcome) : Laws.Unit.Statement (.cappingFill o) := by
  intro _ f hf; cases hf
theorem Laws.Unit.selfTest (o : TestOutcome) : Laws.Unit.Statement (.selfTest o) := by
  intro _ f hf; cases hf
theorem Laws.Unit.s7Entry : Laws.Unit.Statement .s7Entry := by
  intro _ f hf; cases hf
theorem Laws.Unit.norOperationDone : Laws.Unit.Statement .norOperationDone := by
  intro _ f hf; cases hf
theorem Laws.Unit.norTimeout : Laws.Unit.Statement .norTimeout := by
  intro _ f hf; cases hf
theorem Laws.Unit.fatalLogWrite : Laws.Unit.Statement .fatalLogWrite := by
  intro _ f hf; cases hf
theorem Laws.Unit.getStatus (pecOk : Bool) : Laws.Unit.Statement (.getStatus pecOk) := by
  intro _ f hf; cases hf
theorem Laws.Unit.getIdent (pecOk : Bool) : Laws.Unit.Statement (.getIdent pecOk) := by
  intro _ f hf; cases hf
theorem Laws.Unit.getSensor (slot : Nat) (pecOk : Bool) : Laws.Unit.Statement (.getSensor slot pecOk) := by
  intro _ f hf; cases hf
theorem Laws.Unit.clearAlert (mask : Nat) (pecOk : Bool) : Laws.Unit.Statement (.clearAlert mask pecOk) := by
  intro _ f hf; cases hf
theorem Laws.Unit.norRead (addr len : Nat) (pecOk : Bool) : Laws.Unit.Statement (.norRead addr len pecOk) := by
  intro _ f hf; cases hf
theorem Laws.Unit.norBuf (offset : Nat) (data : List Byte) (pecOk : Bool) : Laws.Unit.Statement (.norBuf offset data pecOk) := by
  intro _ f hf; cases hf
theorem Laws.Unit.norProg (addr : Nat) (pecOk : Bool) : Laws.Unit.Statement (.norProg addr pecOk) := by
  intro _ f hf; cases hf
theorem Laws.Unit.norErase (addr : Nat) (pecOk : Bool) : Laws.Unit.Statement (.norErase addr pecOk) := by
  intro _ f hf; cases hf
theorem Laws.Unit.norStat (pecOk : Bool) : Laws.Unit.Statement (.norStat pecOk) := by
  intro _ f hf; cases hf
theorem Laws.Unit.housekeepingRound (readings : List (Nat × Nat)) : Laws.Unit.Statement (.housekeepingRound readings) := by
  intro _ f hf; cases hf
theorem Laws.Unit.smokerStepDown : Laws.Unit.Statement .smokerStepDown := by
  intro _ f hf; cases hf
theorem Laws.Unit.firstUseEnd : Laws.Unit.Statement .firstUseEnd := by
  intro _ f hf; cases hf
theorem Laws.Unit.multiplierStepDown (stack : Nat) : Laws.Unit.Statement (.multiplierStepDown stack) := by
  intro _ f hf; cases hf
theorem Laws.Unit.slotFailed (slot : Nat) : Laws.Unit.Statement (.slotFailed slot) := by
  intro _ f hf; cases hf
theorem Laws.Unit.thermalShutdown : Laws.Unit.Statement .thermalShutdown := by
  intro _ f hf; cases hf
theorem Laws.Unit.thermalRestart : Laws.Unit.Statement .thermalRestart := by
  intro _ f hf; cases hf
theorem Laws.Unit.railFault (slot : Nat) : Laws.Unit.Statement (.railFault slot) := by
  intro _ f hf; cases hf
theorem Laws.Unit.broadcast (d : Nat) (streams : List Eng) : Laws.Unit.Statement (.broadcast d streams) := by
  intro h f hf; cases hf
  exact Laws.Unit.valid 3 d (by decide) (Laws.Unit.inRange_ok h) (by decide)
theorem Laws.Unit.nop (d : Nat) (st : Eng) : Laws.Unit.Statement (.nop d st) := by
  intro h f hf; cases hf
  exact Laws.Unit.valid 3 d (by decide) (Laws.Unit.inRange_ok h) (by decide)
theorem Laws.Unit.br (d : Nat) (st : Eng) : Laws.Unit.Statement (.br d st) := by
  intro h f hf; cases hf
  exact Laws.Unit.valid 3 d (by decide) (Laws.Unit.inRange_ok h) (by decide)
theorem Laws.Unit.lset (d : Nat) (st : Eng) : Laws.Unit.Statement (.lset d st) := by
  intro h f hf; cases hf
  exact Laws.Unit.valid 3 d (by decide) (Laws.Unit.inRange_ok h) (by decide)
theorem Laws.Unit.stepBegin (d : Nat) (st : Eng) : Laws.Unit.Statement (.stepBegin d st) := by
  intro h f hf; cases hf
  exact Laws.Unit.valid 3 d (by decide) (Laws.Unit.inRange_ok h) (by decide)
theorem Laws.Unit.stepBeginBarrier : Laws.Unit.Statement .stepBeginBarrier := by
  intro _ f hf; cases hf
theorem Laws.Unit.stepEnd (d : Nat) (st : Eng) : Laws.Unit.Statement (.stepEnd d st) := by
  intro h f hf; cases hf
  exact Laws.Unit.valid 3 d (by decide) (Laws.Unit.inRange_ok h) (by decide)
theorem Laws.Unit.endOfStep (ledgers : Upsets) : Laws.Unit.Statement (.endOfStep ledgers) := by
  intro _ f hf; cases hf
theorem Laws.Unit.wtok (d : Nat) (st : Eng) : Laws.Unit.Statement (.wtok d st) := by
  intro h f hf; cases hf
  exact Laws.Unit.valid 3 d (by decide) (Laws.Unit.inRange_ok h) (by decide)
theorem Laws.Unit.wagglePost (core : Nat) (eng : Eng) : Laws.Unit.Statement (.wagglePost core eng) := by
  intro h f hf; cases hf
  exact Laws.Unit.valid 1 core (by decide) (Laws.Unit.inRange_ok h) (by decide)
theorem Laws.Unit.waggleCompletion (n : Nat) : Laws.Unit.Statement (.waggleCompletion n) := by
  intro _ f hf; cases hf
theorem Laws.Unit.waggleWaitRelease (d : Nat) (st : Eng) : Laws.Unit.Statement (.waggleWaitRelease d st) := by
  intro h f hf; cases hf
  exact Laws.Unit.valid 3 d (by decide) (Laws.Unit.inRange_ok h) (by decide)
theorem Laws.Unit.pace (d : Nat) (st : Eng) : Laws.Unit.Statement (.pace d st) := by
  intro h f hf; cases hf
  exact Laws.Unit.valid 3 d (by decide) (Laws.Unit.inRange_ok h) (by decide)
theorem Laws.Unit.paceRelease (d : Nat) (st : Eng) : Laws.Unit.Statement (.paceRelease d st) := by
  intro h f hf; cases hf
  exact Laws.Unit.valid 3 d (by decide) (Laws.Unit.inRange_ok h) (by decide)
theorem Laws.Unit.halt (d : Nat) (st : Eng) : Laws.Unit.Statement (.halt d st) := by
  intro h f hf; cases hf
  exact Laws.Unit.valid 3 d (by decide) (Laws.Unit.inRange_ok h) (by decide)
theorem Laws.Unit.haltComplete : Laws.Unit.Statement .haltComplete := by
  intro _ f hf; cases hf
theorem Laws.Unit.segmentSwap (d g : Nat) : Laws.Unit.Statement (.segmentSwap d g) := by
  intro h f hf; cases hf
  exact Laws.Unit.valid 3 d (by decide) (Laws.Unit.inRange_ok (Laws.Unit.both_left h)) (by decide)
theorem Laws.Unit.segmentMeasurement (d g : Nat) : Laws.Unit.Statement (.segmentMeasurement d g) := by
  intro h f hf; cases hf
  exact Laws.Unit.valid 3 d (by decide) (Laws.Unit.inRange_ok (Laws.Unit.both_left h)) (by decide)
theorem Laws.Unit.aadd (core : Nat) (eng : Eng) : Laws.Unit.Statement (.aadd core eng) := by
  intro h f hf; cases hf
  exact Laws.Unit.valid 1 core (by decide) (Laws.Unit.inRange_ok h) (by decide)
theorem Laws.Unit.asub (core : Nat) (eng : Eng) : Laws.Unit.Statement (.asub core eng) := by
  intro h f hf; cases hf
  exact Laws.Unit.valid 1 core (by decide) (Laws.Unit.inRange_ok h) (by decide)
theorem Laws.Unit.amuli (core : Nat) (eng : Eng) : Laws.Unit.Statement (.amuli core eng) := by
  intro h f hf; cases hf
  exact Laws.Unit.valid 1 core (by decide) (Laws.Unit.inRange_ok h) (by decide)
theorem Laws.Unit.ashl (core : Nat) (eng : Eng) : Laws.Unit.Statement (.ashl core eng) := by
  intro h f hf; cases hf
  exact Laws.Unit.valid 1 core (by decide) (Laws.Unit.inRange_ok h) (by decide)
theorem Laws.Unit.ashr (core : Nat) (eng : Eng) : Laws.Unit.Statement (.ashr core eng) := by
  intro h f hf; cases hf
  exact Laws.Unit.valid 1 core (by decide) (Laws.Unit.inRange_ok h) (by decide)
theorem Laws.Unit.aand (core : Nat) (eng : Eng) : Laws.Unit.Statement (.aand core eng) := by
  intro h f hf; cases hf
  exact Laws.Unit.valid 1 core (by decide) (Laws.Unit.inRange_ok h) (by decide)
theorem Laws.Unit.amin (core : Nat) (eng : Eng) : Laws.Unit.Statement (.amin core eng) := by
  intro h f hf; cases hf
  exact Laws.Unit.valid 1 core (by decide) (Laws.Unit.inRange_ok h) (by decide)
theorem Laws.Unit.amax (core : Nat) (eng : Eng) : Laws.Unit.Statement (.amax core eng) := by
  intro h f hf; cases hf
  exact Laws.Unit.valid 1 core (by decide) (Laws.Unit.inRange_ok h) (by decide)
theorem Laws.Unit.asel (core : Nat) (eng : Eng) : Laws.Unit.Statement (.asel core eng) := by
  intro h f hf; cases hf
  exact Laws.Unit.valid 1 core (by decide) (Laws.Unit.inRange_ok h) (by decide)
theorem Laws.Unit.amovi (core : Nat) (eng : Eng) : Laws.Unit.Statement (.amovi core eng) := by
  intro h f hf; cases hf
  exact Laws.Unit.valid 1 core (by decide) (Laws.Unit.inRange_ok h) (by decide)
theorem Laws.Unit.arank (core : Nat) (eng : Eng) : Laws.Unit.Statement (.arank core eng) := by
  intro h f hf; cases hf
  exact Laws.Unit.valid 1 core (by decide) (Laws.Unit.inRange_ok h) (by decide)
theorem Laws.Unit.dset (core : Nat) (eng : Eng) : Laws.Unit.Statement (.dset core eng) := by
  intro h f hf; cases hf
  exact Laws.Unit.valid 1 core (by decide) (Laws.Unit.inRange_ok h) (by decide)
theorem Laws.Unit.dload (core : Nat) (eng : Eng) : Laws.Unit.Statement (.dload core eng) := by
  intro h f hf; cases hf
  exact Laws.Unit.valid 1 core (by decide) (Laws.Unit.inRange_ok h) (by decide)
theorem Laws.Unit.dstore (core : Nat) (eng : Eng) : Laws.Unit.Statement (.dstore core eng) := by
  intro h f hf; cases hf
  exact Laws.Unit.valid 1 core (by decide) (Laws.Unit.inRange_ok h) (by decide)
theorem Laws.Unit.dadv (core : Nat) (eng : Eng) : Laws.Unit.Statement (.dadv core eng) := by
  intro h f hf; cases hf
  exact Laws.Unit.valid 1 core (by decide) (Laws.Unit.inRange_ok h) (by decide)
theorem Laws.Unit.fteRead (d frame : Nat) : Laws.Unit.Statement (.fteRead d frame) := by
  intro h f hf; cases hf
  exact Laws.Unit.valid 3 d (by decide) (Laws.Unit.inRange_ok h) (by decide)
theorem Laws.Unit.mma (core : Nat) (chk : ArithCheck) : Laws.Unit.Statement (.mma core chk) := by
  intro h f hf; cases hf
  exact Laws.Unit.valid 1 core (by decide) (Laws.Unit.inRange_ok h) (by decide)
theorem Laws.Unit.mmas (core : Nat) (chk : ArithCheck) : Laws.Unit.Statement (.mmas core chk) := by
  intro h f hf; cases hf
  exact Laws.Unit.valid 1 core (by decide) (Laws.Unit.inRange_ok h) (by decide)
theorem Laws.Unit.mzero (core : Nat) : Laws.Unit.Statement (.mzero core) := by
  intro h f hf; cases hf
  exact Laws.Unit.valid 1 core (by decide) (Laws.Unit.inRange_ok h) (by decide)
theorem Laws.Unit.mdrain (core : Nat) : Laws.Unit.Statement (.mdrain core) := by
  intro h f hf; cases hf
  exact Laws.Unit.valid 1 core (by decide) (Laws.Unit.inRange_ok h) (by decide)
theorem Laws.Unit.mv (core : Nat) (chk : ArithCheck) : Laws.Unit.Statement (.mv core chk) := by
  intro h f hf; cases hf
  exact Laws.Unit.valid 1 core (by decide) (Laws.Unit.inRange_ok h) (by decide)
theorem Laws.Unit.card (core : Nat) (chk : ArithCheck) : Laws.Unit.Statement (.card core chk) := by
  intro h f hf; cases hf
  exact Laws.Unit.valid 1 core (by decide) (Laws.Unit.inRange_ok h) (by decide)
theorem Laws.Unit.red (core : Nat) : Laws.Unit.Statement (.red core) := by
  intro h f hf; cases hf
  exact Laws.Unit.valid 1 core (by decide) (Laws.Unit.inRange_ok h) (by decide)
theorem Laws.Unit.mailboxReduction (mb : Nat) : Laws.Unit.Statement (.mailboxReduction mb) := by
  intro _ f hf; cases hf
theorem Laws.Unit.softmax (core : Nat) (chk : ArithCheck) : Laws.Unit.Statement (.softmax core chk) := by
  intro h f hf; cases hf
  exact Laws.Unit.valid 1 core (by decide) (Laws.Unit.inRange_ok h) (by decide)
theorem Laws.Unit.maskgen (core : Nat) : Laws.Unit.Statement (.maskgen core) := by
  intro h f hf; cases hf
  exact Laws.Unit.valid 1 core (by decide) (Laws.Unit.inRange_ok h) (by decide)
theorem Laws.Unit.gidx (core : Nat) : Laws.Unit.Statement (.gidx core) := by
  intro h f hf; cases hf
  exact Laws.Unit.valid 1 core (by decide) (Laws.Unit.inRange_ok h) (by decide)
theorem Laws.Unit.runAheadPrefetch (core q : Nat) : Laws.Unit.Statement (.runAheadPrefetch core q) := by
  intro h f hf; cases hf
  exact Laws.Unit.valid 1 core (by decide) (Laws.Unit.inRange_ok (Laws.Unit.both_left h)) (by decide)
theorem Laws.Unit.gather (core : Nat) : Laws.Unit.Statement (.gather core) := by
  intro h f hf; cases hf
  exact Laws.Unit.valid 1 core (by decide) (Laws.Unit.inRange_ok h) (by decide)
theorem Laws.Unit.scatter (core : Nat) : Laws.Unit.Statement (.scatter core) := by
  intro h f hf; cases hf
  exact Laws.Unit.valid 1 core (by decide) (Laws.Unit.inRange_ok h) (by decide)
theorem Laws.Unit.fcompat (core : Nat) : Laws.Unit.Statement (.fcompat core) := by
  intro h f hf; cases hf
  exact Laws.Unit.valid 1 core (by decide) (Laws.Unit.inRange_ok h) (by decide)
theorem Laws.Unit.move (core : Nat) : Laws.Unit.Statement (.move core) := by
  intro h f hf; cases hf
  exact Laws.Unit.valid 1 core (by decide) (Laws.Unit.inRange_ok h) (by decide)
theorem Laws.Unit.fill (core : Nat) : Laws.Unit.Statement (.fill core) := by
  intro h f hf; cases hf
  exact Laws.Unit.valid 1 core (by decide) (Laws.Unit.inRange_ok h) (by decide)
theorem Laws.Unit.cmv (core : Nat) : Laws.Unit.Statement (.cmv core) := by
  intro h f hf; cases hf
  exact Laws.Unit.valid 1 core (by decide) (Laws.Unit.inRange_ok h) (by decide)
theorem Laws.Unit.mvFallback (core : Nat) (chk : ArithCheck) : Laws.Unit.Statement (.mvFallback core chk) := by
  intro h f hf; cases hf
  exact Laws.Unit.valid 1 core (by decide) (Laws.Unit.inRange_ok h) (by decide)
theorem Laws.Unit.cmvCompletion (core : Nat) : Laws.Unit.Statement (.cmvCompletion core) := by
  intro h f hf; cases hf
  exact Laws.Unit.valid 1 core (by decide) (Laws.Unit.inRange_ok h) (by decide)
theorem Laws.Unit.peerput (core : Nat) : Laws.Unit.Statement (.peerput core) := by
  intro h f hf; cases hf
  exact Laws.Unit.valid 1 core (by decide) (Laws.Unit.inRange_ok h) (by decide)
theorem Laws.Unit.peerget (core : Nat) : Laws.Unit.Statement (.peerget core) := by
  intro h f hf; cases hf
  exact Laws.Unit.valid 1 core (by decide) (Laws.Unit.inRange_ok h) (by decide)
theorem Laws.Unit.mirrorsync (core : Nat) : Laws.Unit.Statement (.mirrorsync core) := by
  intro h f hf; cases hf
  exact Laws.Unit.valid 1 core (by decide) (Laws.Unit.inRange_ok h) (by decide)
theorem Laws.Unit.tokenPlace (core : Nat) (eng : Eng) (k : Nat) : Laws.Unit.Statement (.tokenPlace core eng k) := by
  intro h f hf; cases hf
  exact Laws.Unit.valid 1 core (by decide) (Laws.Unit.inRange_ok h) (by decide)
theorem Laws.Unit.peerTransferTimeout (core slot : Nat) : Laws.Unit.Statement (.peerTransferTimeout core slot) := by
  intro h f hf; cases hf
  exact Laws.Unit.valid 1 core (by decide) (Laws.Unit.inRange_ok (Laws.Unit.both_left h)) (by decide)
theorem Laws.Unit.tileSequence (unit : Nat) : Laws.Unit.Statement (.tileSequence unit) := by
  intro h f hf; cases hf
  have hk := Laws.Unit.inRange_ok h
  exact Laws.Unit.valid 5 (unit / 48) (by decide) (show unit / 48 < 256 by omega) (by decide)
theorem Laws.Unit.rowCommandIssue (ctl blocked : Nat) (chk : CombCheck) (upsets : Upsets) : Laws.Unit.Statement (.rowCommandIssue ctl blocked chk upsets) := by
  intro h f hf; cases hf
  exact Laws.Unit.ctl_valid (Laws.Unit.inRange_ok h)
theorem Laws.Unit.columnCommandIssue (ctl blocked : Nat) : Laws.Unit.Statement (.columnCommandIssue ctl blocked) := by
  intro h f hf; cases hf
  exact Laws.Unit.ctl_valid (Laws.Unit.inRange_ok h)
theorem Laws.Unit.residueLimit (unit : Nat) : Laws.Unit.Statement (.residueLimit unit) := by
  intro h f hf; cases hf
  have hk := Laws.Unit.inRange_ok h
  exact Laws.Unit.valid 5 (unit / 48) (by decide) (show unit / 48 < 256 by omega) (by decide)
theorem Laws.Unit.runBoundary (unit : Nat) : Laws.Unit.Statement (.runBoundary unit) := by
  intro h f hf; cases hf
  have hk := Laws.Unit.inRange_ok h
  exact Laws.Unit.valid 5 (unit / 48) (by decide) (show unit / 48 < 256 by omega) (by decide)
theorem Laws.Unit.evacuation (unit : Nat) : Laws.Unit.Statement (.evacuation unit) := by
  intro h f hf; cases hf
  have hk := Laws.Unit.inRange_ok h
  exact Laws.Unit.valid 5 (unit / 48) (by decide) (show unit / 48 < 256 by omega) (by decide)
theorem Laws.Unit.frameCopyDone (unit : Nat) (chainOk : Bool) : Laws.Unit.Statement (.frameCopyDone unit chainOk) := by
  intro h f hf; cases hf
  have hk := Laws.Unit.inRange_ok h
  exact Laws.Unit.valid 5 (unit / 48) (by decide) (show unit / 48 < 256 by omega) (by decide)
theorem Laws.Unit.homeAccess (d : Nat) (env : HomeEnv) : Laws.Unit.Statement (.homeAccess d env) := by
  intro h f hf; cases hf
  exact Laws.Unit.valid 9 d (by decide) (Laws.Unit.inRange_ok h) (by decide)
theorem Laws.Unit.mirrorDuplicate (d : Nat) : Laws.Unit.Statement (.mirrorDuplicate d) := by
  intro h f hf; cases hf
  exact Laws.Unit.valid 3 d (by decide) (Laws.Unit.inRange_ok h) (by decide)
theorem Laws.Unit.memoryRequest (ctl : Nat) : Laws.Unit.Statement (.memoryRequest ctl) := by
  intro h f hf; cases hf
  exact Laws.Unit.ctl_valid (Laws.Unit.inRange_ok h)
theorem Laws.Unit.dramAccessComplete (ctl : Nat) (upsets : Upsets) : Laws.Unit.Statement (.dramAccessComplete ctl upsets) := by
  intro h f hf; cases hf
  exact Laws.Unit.ctl_valid (Laws.Unit.inRange_ok h)
theorem Laws.Unit.patrolScrub (ctl : Nat) : Laws.Unit.Statement (.patrolScrub ctl) := by
  intro h f hf; cases hf
  exact Laws.Unit.ctl_valid (Laws.Unit.inRange_ok h)
theorem Laws.Unit.refreshDue (ctl idx : Nat) : Laws.Unit.Statement (.refreshDue ctl idx) := by
  intro h f hf; cases hf
  exact Laws.Unit.ctl_valid (Laws.Unit.inRange_ok h)
theorem Laws.Unit.powerDownTimer (ctl part : Nat) : Laws.Unit.Statement (.powerDownTimer ctl part) := by
  intro h f hf; cases hf
  exact Laws.Unit.ctl_valid (Laws.Unit.inRange_ok h)
theorem Laws.Unit.diagWindowExpiry (ctl : Nat) (exchangeOk : Bool) : Laws.Unit.Statement (.diagWindowExpiry ctl exchangeOk) := by
  intro h f hf; cases hf
  exact Laws.Unit.ctl_valid (Laws.Unit.inRange_ok h)
theorem Laws.Unit.release (ctl : Nat) (exchangeOk : Bool) : Laws.Unit.Statement (.release ctl exchangeOk) := by
  intro h f hf; cases hf
  exact Laws.Unit.ctl_valid (Laws.Unit.inRange_ok h)
theorem Laws.Unit.stepWatchdog (stalled : List Nat) : Laws.Unit.Statement (.stepWatchdog stalled) := by
  intro _ f hf; cases hf
theorem Laws.Unit.bankLoss (ctl bank : Nat) : Laws.Unit.Statement (.bankLoss ctl bank) := by
  intro h f hf; cases hf
  exact Laws.Unit.ctl_valid (Laws.Unit.inRange_ok (Laws.Unit.both_left h))
theorem Laws.Unit.d2dLinkLoss (l : Nat) : Laws.Unit.Statement (.d2dLinkLoss l) := by
  intro h f hf; cases hf
  exact Laws.Unit.valid 8 l (by decide) (Laws.Unit.inRange_ok h) (by decide)
theorem Laws.Unit.d2dRetrain (l : Nat) : Laws.Unit.Statement (.d2dRetrain l) := by
  intro h f hf; cases hf
  exact Laws.Unit.valid 8 l (by decide) (Laws.Unit.inRange_ok h) (by decide)
theorem Laws.Unit.faultReplay (found : List FoundFault) (ledgers : Upsets) : Laws.Unit.Statement (.faultReplay found ledgers) := by
  intro _ f hf; cases hf
theorem Laws.Unit.rehydrationCopy : Laws.Unit.Statement .rehydrationCopy := by
  intro _ f hf; cases hf
theorem Laws.Unit.perFunctionResetDone (linkOk : Bool) (image : Upsets) : Laws.Unit.Statement (.perFunctionResetDone linkOk image) := by
  intro _ f hf; cases hf
theorem Laws.Unit.configRequest (r : CfgReg) (value : Option Nat) : Laws.Unit.Statement (.configRequest r value) := by
  intro _ f hf; cases hf
theorem Laws.Unit.hdmCommit (i base size skip ways : Nat) : Laws.Unit.Statement (.hdmCommit i base size skip ways) := by
  intro _ f hf; cases hf
theorem Laws.Unit.memRd (hpa : Nat) : Laws.Unit.Statement (.memRd hpa) := by
  intro _ f hf; cases hf
theorem Laws.Unit.memRdData (hpa : Nat) : Laws.Unit.Statement (.memRdData hpa) := by
  intro _ f hf; cases hf
theorem Laws.Unit.memWr (hpa : Nat) (data : List Word) (poison : Bool) : Laws.Unit.Statement (.memWr hpa data poison) := by
  intro _ f hf; cases hf
theorem Laws.Unit.memWrPtl (hpa : Nat) (data : List Word) (be : Nat) (poison : Bool) : Laws.Unit.Statement (.memWrPtl hpa data be poison) := by
  intro _ f hf; cases hf
theorem Laws.Unit.memSpecRd (hpa : Nat) : Laws.Unit.Statement (.memSpecRd hpa) := by
  intro _ f hf; cases hf
theorem Laws.Unit.programMemoryWrite (offset : Nat) (data : List Byte) : Laws.Unit.Statement (.programMemoryWrite offset data) := by
  intro _ f hf; cases hf
theorem Laws.Unit.launchDb (value : Nat) : Laws.Unit.Statement (.launchDb value) := by
  intro _ f hf; cases hf
theorem Laws.Unit.resume : Laws.Unit.Statement .resume := by
  intro _ f hf; cases hf
theorem Laws.Unit.frstReset (fid : Nat) : Laws.Unit.Statement (.frstReset fid) := by
  intro _ f hf; cases hf
theorem Laws.Unit.frstFence (fid : Nat) : Laws.Unit.Statement (.frstFence fid) := by
  intro _ f hf; cases hf
theorem Laws.Unit.expOpen (fid key : Nat) : Laws.Unit.Statement (.expOpen fid key) := by
  intro _ f hf; cases hf
theorem Laws.Unit.expClose (fid : Nat) : Laws.Unit.Statement (.expClose fid) := by
  intro _ f hf; cases hf
theorem Laws.Unit.svCommit (serialLow : Nat) : Laws.Unit.Statement (.svCommit serialLow) := by
  intro _ f hf; cases hf
theorem Laws.Unit.ownerEnrol (serialLow : Nat) : Laws.Unit.Statement (.ownerEnrol serialLow) := by
  intro _ f hf; cases hf
theorem Laws.Unit.eqEnable (size : Nat) : Laws.Unit.Statement (.eqEnable size) := by
  intro _ f hf; cases hf
theorem Laws.Unit.eventWrite : Laws.Unit.Statement .eventWrite := by
  intro _ f hf; cases hf
theorem Laws.Unit.counterLowRead (offset bar size : Nat) : Laws.Unit.Statement (.counterLowRead offset bar size) := by
  intro _ f hf; cases hf
theorem Laws.Unit.registerWrite (bar offset size value : Nat) : Laws.Unit.Statement (.registerWrite bar offset size value) := by
  intro _ f hf; cases hf
theorem Laws.Unit.getIdentity : Laws.Unit.Statement .getIdentity := by
  intro _ f hf; cases hf
theorem Laws.Unit.getMeas (d : Nat) (segs : Bool) : Laws.Unit.Statement (.getMeas d segs) := by
  intro h f hf; cases hf
  exact Laws.Unit.valid 3 d (by decide) (Laws.Unit.inRange_ok h) (by decide)
theorem Laws.Unit.getReport (d : Nat) (segs : Bool) (nonce : List Byte) (leafEnd openEnd : PageEnd) : Laws.Unit.Statement (.getReport d segs nonce leafEnd openEnd) := by
  intro h f hf; cases hf
  exact Laws.Unit.valid 3 d (by decide) (Laws.Unit.inRange_ok h) (by decide)
theorem Laws.Unit.close (pageEnd : PageEnd) : Laws.Unit.Statement (.close pageEnd) := by
  intro _ f hf; cases hf
theorem Laws.Unit.idle (p : Nat) (h : FlitHead) : Laws.Unit.Statement (.idle p h) := by
  intro h f hf; cases hf
  exact Laws.Unit.valid 7 p (by decide) (Laws.Unit.inRange_ok (Laws.Unit.both_left h)) (by decide)
theorem Laws.Unit.req (p : Nat) (h : FlitHead) (b : ReqBody) : Laws.Unit.Statement (.req p h b) := by
  intro h f hf; cases hf
  exact Laws.Unit.valid 7 p (by decide) (Laws.Unit.inRange_ok (Laws.Unit.both_left h)) (by decide)
theorem Laws.Unit.rsp (p : Nat) (h : FlitHead) (b : RspBody) : Laws.Unit.Statement (.rsp p h b) := by
  intro h f hf; cases hf
  exact Laws.Unit.valid 7 p (by decide) (Laws.Unit.inRange_ok (Laws.Unit.both_left h)) (by decide)
theorem Laws.Unit.data (p : Nat) (h : FlitHead) (b : DataBody) : Laws.Unit.Statement (.data p h b) := by
  intro h f hf; cases hf
  exact Laws.Unit.valid 7 p (by decide) (Laws.Unit.inRange_ok (Laws.Unit.both_left h)) (by decide)
theorem Laws.Unit.hello (p : Nat) (b : HelloBody) (fh : FlitHead) : Laws.Unit.Statement (.hello p b fh) := by
  intro h f hf; cases hf
  exact Laws.Unit.valid 7 p (by decide) (Laws.Unit.inRange_ok (Laws.Unit.both_left h)) (by decide)
theorem Laws.Unit.retry (p : Nat) (seq : Nat) (fh : FlitHead) : Laws.Unit.Statement (.retry p seq fh) := by
  intro h f hf; cases hf
  exact Laws.Unit.valid 7 p (by decide) (Laws.Unit.inRange_ok (Laws.Unit.both_left h)) (by decide)
theorem Laws.Unit.resync (p : Nat) (b : ResyncBody) (fh : FlitHead) : Laws.Unit.Statement (.resync p b fh) := by
  intro h f hf; cases hf
  exact Laws.Unit.valid 7 p (by decide) (Laws.Unit.inRange_ok (Laws.Unit.both_left h)) (by decide)
theorem Laws.Unit.helloSend (p : Nat) : Laws.Unit.Statement (.helloSend p) := by
  intro h f hf; cases hf
  exact Laws.Unit.valid 7 p (by decide) (Laws.Unit.inRange_ok h) (by decide)
theorem Laws.Unit.routeExpiry (p serial : Nat) : Laws.Unit.Statement (.routeExpiry p serial) := by
  intro h f hf; cases hf
  exact Laws.Unit.valid 7 p (by decide) (Laws.Unit.inRange_ok h) (by decide)
theorem Laws.Unit.portRetrain (p good far : Nat) : Laws.Unit.Statement (.portRetrain p good far) := by
  intro h f hf; cases hf
  exact Laws.Unit.valid 7 p (by decide) (Laws.Unit.inRange_ok h) (by decide)
theorem Laws.Unit.clusterClockGate (c : Nat) : Laws.Unit.Statement (.clusterClockGate c) := by
  intro h f hf; cases hf
  exact Laws.Unit.valid 2 c (by decide) (Laws.Unit.inRange_ok h) (by decide)
theorem Laws.Unit.dormantEntry : Laws.Unit.Statement .dormantEntry := by
  intro _ f hf; cases hf
theorem Laws.Unit.dormantEntered : Laws.Unit.Statement .dormantEntered := by
  intro _ f hf; cases hf
theorem Laws.Unit.wakingEvent : Laws.Unit.Statement .wakingEvent := by
  intro _ f hf; cases hf
theorem Laws.Unit.wakeComplete (failedPll : List Nat) : Laws.Unit.Statement (.wakeComplete failedPll) := by
  intro _ f hf; cases hf
theorem Laws.Unit.holdUpExpiry : Laws.Unit.Statement .holdUpExpiry := by
  intro _ f hf; cases hf
theorem Laws.Unit.secCmdDone (blown : Nat) : Laws.Unit.Statement (.secCmdDone blown) := by
  intro _ f hf; cases hf
theorem Laws.Unit.flitCrcFail (p : Nat) (fec : Bool) : Laws.Unit.Statement (.flitCrcFail p fec) := by
  intro h f hf; cases hf
  exact Laws.Unit.valid 7 p (by decide) (Laws.Unit.inRange_ok h) (by decide)
theorem Laws.Unit.peerPortUp (p lanes : Nat) : Laws.Unit.Statement (.peerPortUp p lanes) := by
  intro h f hf; cases hf
  exact Laws.Unit.valid 7 p (by decide) (Laws.Unit.inRange_ok h) (by decide)

end Sys2Proof
end

