-- ==== Sys2Proof/Machine/Flits.lean ====
section
/-! DEFINITION. A peer flit as the 32 words of its 256 bytes (R417, R418, R427): the head of Table 14.9, the bodies of Table 14.10, the
CRC-32; and the command a received flit is. -/

namespace Sys2Proof.Machine

/-- FTYPE (Table 14.10). -/
def Flit.ftype : Flit → Nat
  | .idle => 0 | .req _ _ => 1 | .rsp _ => 2 | .data _ _ => 3 | .hello _ => 4 | .retry _ => 5 | .resync _ => 6

/-- Word 0 (Table 14.9). -/
def headWord (ftype : Nat) (h : FlitHead) : Nat :=
  fields [(ftype, 4, 0), (h.vc, 2, 4), (h.seq, 12, 6), (h.ack, 12, 18), (h.cr0, 8, 32), (h.cr1, 8, 40), (h.cr2, 8, 48)]

/-- The body words from word 1 on (Table 14.10, R427); the poison bits of DATA are those of word 31. -/
def Flit.body : Flit → List Nat
  | .idle => []
  | .req _ b => [b.dst, b.src, fields [(b.tag, 16, 0), (b.op, 8, 16), (b.hops, 3, 24), (b.len, 32, 32)]] ++ (b.desc.take 16).map (·.toNat)
  | .rsp b => [b.dst, b.src, fields [(b.tag, 16, 0), (b.status, 8, 16), (b.hops, 3, 24)]]
  | .data _ b => [b.dst, b.src, fields [(b.tag, 16, 0), (b.offset, 24, 16), (b.words.length, 5, 40), (b.hops, 3, 45)]]
      ++ (b.words.take 27).map (·.1.toNat)
  | .hello b => [b.src, fields [(b.port, 3, 0), (b.lanes, 3, 3), (b.valid, 8, 8), (b.page, 2, 16), (b.version, 8, 24), (b.swarmId, 32, 32)]]
      ++ ((List.range 3).map fun k => fields ((List.range 8).map fun j => (b.hops.getD (8 * k + j) 0, 8, 8 * j)))
      ++ b.serials.take 24
  | .retry seq => [seq % 4096]
  | .resync b => [b.seq % 4096, fields [(b.cr0, 16, 0), (b.cr1, 16, 16), (b.cr2, 16, 32)], b.lanes % 16]

/-- The low half of word 31: the poison bit of each data word of a DATA flit. -/
def Flit.tail : Flit → Nat
  | .data _ b => fields ((b.words.take 27).zipIdx.map fun w => (b2n w.1.2, 1, w.2))
  | _ => 0

/-- Bytes 0 to 251 of a flit. -/
def flitBytes (h : FlitHead) (f : Flit) : List Byte :=
  let ws := headWord f.ftype h :: f.body
  ((List.range 31).flatMap fun i => leBytes 8 (ws.getD i 0)) ++ leBytes 4 f.tail

/-- The 32 words of a flit, the CRC in the upper half of the last. -/
def flitWords (h : FlitHead) (f : Flit) : List Nat :=
  let ws := headWord f.ftype h :: f.body
  ((List.range 31).map fun i => ws.getD i 0 % 2 ^ 64) ++ [f.tail ||| ((crc32 (flitBytes h f)).toNat <<< 32)]

/-- The CRC of 32 received words holds. -/
def crcHolds (ws : List Nat) : Bool :=
  bits (ws.getD 31 0) 63 32 == (crc32 ((((List.range 31).flatMap fun i => leBytes 8 (ws.getD i 0)) ++ leBytes 4 (ws.getD 31 0)))).toNat

/-- The head of received words. -/
def headOfWords (ws : List Nat) : FlitHead :=
  let w := ws.getD 0 0
  { vc := bits w 5 4, seq := bits w 17 6, ack := bits w 29 18, cr0 := bits w 39 32, cr1 := bits w 47 40, cr2 := bits w 55 48 }

/-- The command that a received flit of 32 words is at port p; none for an FTYPE that Table 14.10 does not list. -/
def rxCommand (p : Nat) (ws : List Nat) : Option Instr :=
  let h := headOfWords ws
  let w := fun i => ws.getD i 0
  let ww := fun i => BitVec.ofNat 64 (w i)
  if !crcHolds ws then some (.flitCrcFail p false)
  else
    match bits (w 0) 3 0 with
    | 0 => some (.idle p h)
    | 1 => some (.req p h { dst := w 1, src := w 2, tag := bits (w 3) 15 0, op := bits (w 3) 23 16, hops := bits (w 3) 26 24, len := bits (w 3) 63 32,
                            desc := (List.range 16).map fun i => ww (4 + i) })
    | 2 => some (.rsp p h { dst := w 1, src := w 2, tag := bits (w 3) 15 0, status := bits (w 3) 23 16, hops := bits (w 3) 26 24 })
    | 3 => some (.data p h { dst := w 1, src := w 2, tag := bits (w 3) 15 0, offset := bits (w 3) 39 16, hops := bits (w 3) 47 45,
                             words := (List.range (min 27 (bits (w 3) 44 40))).map fun i => (ww (4 + i), bitOf (w 31) i) })
    | 4 => some (.hello p { src := w 1, port := bits (w 2) 2 0, lanes := bits (w 2) 5 3, valid := bits (w 2) 15 8, page := bits (w 2) 17 16,
                              version := bits (w 2) 31 24, swarmId := bits (w 2) 63 32,
                              hops := (List.range 24).map fun k => bits (w (3 + k / 8)) (8 * (k % 8) + 7) (8 * (k % 8)),
                              serials := (List.range 24).map fun k => w (6 + k) } h)
    | 5 => some (.retry p (bits (w 1) 11 0) h)
    | 6 => some (.resync p { seq := bits (w 1) 11 0, cr0 := bits (w 2) 15 0, cr1 := bits (w 2) 31 16, cr2 := bits (w 2) 47 32, lanes := bits (w 3) 3 0 } h)
    | _ => none

/-- What a port has sent, as words on its lanes. -/
def Port.lineWords (q : Port) : List (List Nat) := q.sent.map fun f => flitWords f.1 f.2

end Sys2Proof.Machine
end

