-- ==== Sys2Proof/Tests/Slice0.lean ====
section
/-! SUPPORT. Tests: ill-formed commands that the checks refuse, and for each obligation the states and operands that meet the hypotheses of
its clauses, with what the model answers there. Expected values come from the rules cited, by hand. -/

namespace Sys2Proof.Tests

set_option Elab.async false

open Sys2Proof.Machine

/-! ## Small states -/

/-- The next state of an outcome. -/
def nx (o : Out) : State := match o with | .next t => t | _ => State.reset

/-- The outcome is a next state. -/
def goes (o : Out) : Bool := match o with | .next _ => true | _ => false

/-- The module in S7 with PERST# high and its host link up. -/
def base : State :=
  { State.reset with
    pins := { Pins.init with perst := true, inputOn := true, aonOn := true, rails := 0x3FFF, corePll := 1 },
    boot := { State.reset.boot with st := .s7 }, host := { HostPort.init with link := .l0 } }

/-- The same with core 0 alone in the live mask. -/
def live1 : State := { base with prog := { base.prog with live := 1, admitted := 1 }, seqs := [(0, { Seq.init with st := .run })] }

/-- Core 0 alone, with the other dies' sequencers parked. -/
def solo : State :=
  { live1 with seqs := [(0, { Seq.init with st := .run }), (1, { Seq.init with st := .parked }), (2, { Seq.init with st := .parked }),
    (3, { Seq.init with st := .parked })] }

/-- A head word: opcode, engine, lane to wait on (plus 1) and to post (plus 1), and its low 39 bits. -/
def hw (op eng wl pl low : Nat) : Nat :=
  (op <<< 56) ||| (eng <<< 54) ||| (if wl = 0 then 0 else (1 <<< 50) ||| ((wl - 1) <<< 45)) |||
    (if pl = 0 then 0 else (1 <<< 44) ||| ((pl - 1) <<< 39)) ||| low

/-- The low bits of an engine instruction: HD, HA, HB, MOD. -/
def lo (hd ha hb md : Nat) : Nat := (hd <<< 31) ||| (ha <<< 23) ||| (hb <<< 15) ||| md

/-- A queue entry of these words. -/
def ent (ws : List Nat) : QEntry := mkEntry 0 0 8 ws [0, 0, 0, 0]

/-- Put one entry in a queue of core 0. -/
def queued (s : State) (e : Eng) (x : QEntry) : State := s.setCore 0 { s.core 0 with q := (s.core 0).q.set e [x] }

/-- Store words from an index on. -/
def words (m : AMap Codeword) (k : Nat) (ws : List Nat) : AMap Codeword :=
  ws.zipIdx.foldl (fun m p => AMap.set zeroCw m (k + p.2) (encode (BitVec.ofNat 64 p.1) false)) m

/-- The words of a descriptor: base, space, format, sizes, byte strides in bits as given, and links in word 1. -/
def dw (b space fmt : Nat) (sizes strides : List Nat) (links : Nat) : List Nat :=
  [b, space ||| (fmt <<< 2) ||| (sizes.length <<< 6) ||| links, sizes.getD 0 0 ||| (sizes.getD 1 0 <<< 32),
   sizes.getD 2 0 ||| (sizes.getD 3 0 <<< 32), 0] ++ (List.range 5).map fun i => strides.getD i 0

/-- Put a descriptor in a handle of core 0. -/
def desc (s : State) (h : Nat) (ws : List Nat) : State := s.setCore 0 { s.core 0 with desc := words (s.core 0).desc (16 * h) ws }

/-- Put words in core 0's store. -/
def cs (s : State) (k : Nat) (ws : List Nat) : State := s.setCore 0 { s.core 0 with store := words (s.core 0).store k ws }

/-- Put words in program memory of sequencer 0. -/
def pm (s : State) (k : Nat) (ws : List Nat) : State := s.setSeq 0 { s.seq 0 with pm := words (s.seq 0).pm k ws }

/-- An entry at the head of an engine's queue of core 0. -/
def run (e : Eng) (s : State) (ws : List Nat) : State := queued s e (ent ws)

/-- The phases of an engine's queue. -/
def phases (e : Eng) (s : State) : List Phase := ((s.core 0).q.get e).map (·.phase)

/-- Low data bits of a word of a memory. -/
def at64 (m : AMap Codeword) (k : Nat) : Nat := (decode (AMap.get zeroCw m k)).d.toNat

/-- The context of words in an engine. -/
def cx (e : Eng) (ws : List Nat) : Ctx := (ent ws).ctx 0 e (bitOf (ent ws).head.md 0)

/-- Frame 0 of TVA space is frame 0 of tier N (with flags f), and base die 0's cache holds line 0: 3, −1 as INT8, then poison at word 1. -/
def mem0 (f : Nat) : State :=
  { solo with dies := [(0, { BaseDie.init with
      ftc := [(0, [(0, encode (BitVec.ofNat 64 (1 ||| f)) false)])],
      lines := [(0, ⟨encode 0xFF03 false :: encode 0 true :: List.replicate 14 zeroCw, false⟩)] })] }

/-- A plain read or write of the line at DPA 0 or row 1 of bank 0, in controller 0. -/
def req (dpa : Nat) (ws : List WUpd) : Req := { id := 7, src := 0x1000, dpa := dpa, len := 128, ws := ws, keep := false, why := .plain }

/-- Controller 0. -/
def ctl0 (c : Ctl) : State := base.setCtl 0 c

/-- In a step. -/
def stepping (s : State) : State := { s with prog := { s.prog with inStep := true, step := 5 } }

/-! ## Ill-formed commands -/

theorem test_wf_die : (Instr.br 4 .me).check = some .die := by decide
theorem test_wf_core : (Instr.mma 2048 .clean).check = some .core := by decide
theorem test_wf_cluster : (Instr.clusterClockGate 64).check = some .cluster := by decide
theorem test_wf_stack : (Instr.multiplierStepDown 8).check = some .stack := by decide
theorem test_wf_ctl : (Instr.patrolScrub 272).check = some .ctl := by decide
theorem test_wf_unit : (Instr.tileSequence 12288).check = some .unit := by decide
theorem test_wf_port : (Instr.helloSend 8).check = some .port := by decide
theorem test_wf_link : (Instr.d2dRetrain 4).check = some .link := by decide
theorem test_wf_slot : (Instr.railFault 128).check = some .slot := by decide
theorem test_wf_words : (Instr.memWr 0 [0] false).check = some .words := by decide
theorem test_wf_bytes : (Instr.programMemoryWrite 0 []).check = some .bytes := by decide
theorem test_wf_field : (Instr.idle 0 ⟨0, 4096, 0, 0, 0, 0⟩).check = some .field := by decide
theorem test_wf_ok : (Instr.mma 2047 .clean).wf = true ∧ (Instr.memWr 0 (List.replicate 8 0) false).wf = true := by decide

/-! ## Power and start-up -/

theorem test_start_up : State.reset.pins.inputOn = false ∧ State.reset.pins.mrst = true ∧
    (nx (exec .inputOn State.reset)).boot.st = .s0 := by decide +kernel

/-- S5 with PERST# high and the link up. -/
def inBoot0 : State := { base with boot := { base.boot with st := .s5 } }

theorem test_mrst_high :
    let s := { base with pins := { base.pins with mrst := false } }
    s.pins.aonOn = true ∧ s.hk.shutdown = false ∧ (nx (exec .mrstHigh s)).boot.st = .s0 := by decide +kernel

theorem test_thermal_restart :
    let s := { base with hk := { base.hk with shutdown := true, coolRounds := 16 }, pins := { base.pins with thermtrip := true } }
    s.pins.inputOn = true ∧ (nx (exec .thermalRestart s)).pins.thermtrip = false ∧ (nx (exec .thermalRestart s)).boot.st = .s0 := by
  decide +kernel

theorem test_mrst_low : base.hk.shutdown = false ∧ (nx (exec .mrstLow base)).pins.rails = 0 ∧
    (nx (exec .mrstHigh (nx (exec .mrstLow base)))).boot.st = .s0 := by decide +kernel

theorem test_mrst_shutdown :
    let s := { base with hk := { base.hk with shutdown := true } }
    s.pins.aonOn = true ∧ s.pins.inputOn = true ∧ (nx (exec .mrstLow s)).boot.st = .s7 := by decide +kernel

theorem test_input_off :
    let s := { base with nor := { base.nor with mem := [(5, 7)], queue := [.erase 0 .slot] } }
    (nx (exec .undervoltageOff s)).pins.rails = 0 ∧ (nx (exec .overvoltageOff s)).nor.mem = [(5, 7)] ∧
    (nx (exec .undervoltageOff s)).nor.queue = [] := by decide +kernel

theorem test_hold_up :
    let s := { base with pins := { base.pins with inputOn := false, holdUp := true }, nor := { base.nor with busy := some (.prog 8 [1] .slot) } }
    (nx (exec .holdUpExpiry s)).nor.mem = [(8, 1)] ∧ (nx (exec .holdUpExpiry s)).pins.aonOn = false := by decide +kernel

theorem test_hold_up_idle :
    let s := { base with pins := { base.pins with inputOn := false, holdUp := true } }
    s.nor.busy = none ∧ (nx (exec .holdUpExpiry s)).nor.mem = [] := by decide +kernel

theorem test_restart_held : let s := { base with hk := { base.hk with shutdown := true, coolRounds := 16 }, pins := { base.pins with mrst := false } }
    s.pins.aonOn = true ∧ s.pins.inputOn = true ∧ (nx (exec .thermalRestart s)).hk.shutdown = false ∧ (nx (exec .thermalRestart s)).boot.st = .s7 ∧
    (nx (exec .mrstHigh s)).pins.mrst = true ∧ exec .inputOn base = .next base := by
  refine ⟨?_, ?_, ?_, ?_, ?_, rfl⟩ <;> decide +kernel

theorem test_perst_before_s7 : let s := inBoot0
    s.atS7 = false ∧ s.pins.perst = true ∧ (nx (exec .perstLow s)).pins.perst = false ∧ (nx (exec .perstLow s)).host.link = .down ∧
    base.canon = true ∧ (nx (exec (.hostLinkStateChange .l0 8 5) s)).host.rate = 5 ∧ (nx (exec (.hostLinkStateChange .down 8 5) s)).host.link = .down := by
  decide +kernel

theorem test_perst : base.atS7 = true ∧ base.pins.perst = true ∧ (nx (exec .perstLow base)).host.link = .down ∧
    (nx (exec .perstHigh (nx (exec .perstLow base)))).pins.perst = true := by decide +kernel

theorem test_link_l2 :
    let s := { base with host := { base.host with msgWaiting := true } }
    (nx (exec (.hostLinkStateChange .l2 16 6) s)).pins.wake = true ∧ (nx (exec (.hostLinkStateChange .l0 16 6) s)).host.width = 16 := by
  decide +kernel

/-- The module in a start-up state. -/
def inBoot (st : BootState) : State := { base with boot := { base.boot with st := st, headersRead := false } }

theorem test_straps : (nx (exec (.strapSample true true) (inBoot .s0))).boot.st = .bscan ∧
    (nx (exec (.strapSample false false) (inBoot .s0))).boot.failMod = 0x0B ∧
    (nx (exec (.strapSample true false) (inBoot .s0))).boot.st = .s1 := by decide +kernel

theorem test_rails : (nx (exec (.railSequence true) (inBoot .s3))).boot.st = .s4 ∧
    (nx (exec (.railSequence false) (inBoot .s3))).boot.failMod = 8 := by decide +kernel

/-- The first 56 bytes of a header that Table 2.8 takes: version 1, one section, signed length 0x100, the vendor's signature alone,
serial 0, SECVER v, SEQ q. -/
def header (b v q : Nat) : AMap Byte :=
  ([0x58495750 ||| (1 <<< 32) ||| (0x100 <<< 48), 0x100 ||| (1 <<< 32), v, q, 0xB0, 0, 0x100 ||| (2724 <<< 32)].flatMap fun w =>
    leBytes 8 w).zipIdx.map fun p => (b + p.2, p.1)

/-- n zero bytes from b on. -/
def zeros : Nat → Nat → AMap Byte
  | _, 0 => []
  | b, n + 1 => (b, 0) :: zeros (b + 1) n

/-- S1 with a header in slot A, or in each slot. -/
def s1 (m : AMap Byte) : State := { inBoot .s1 with nor := { base.nor with mem := m } }

/-- The bytes of one slot's header. -/
def slotA (v q : Nat) : AMap Byte := header 0 v q ++ zeros 0x38 200
def slotB (v q : Nat) : AMap Byte := header 0x1000000 v q ++ zeros 0x1000038 200

theorem get_zeros (b n : Nat) (m : AMap Byte) (i : Nat) (h : i < n) : AMap.get erased (zeros b n ++ m) (b + i) = 0 := by
  induction n generalizing b i with
  | zero => omega
  | succ n ih =>
    cases i with
    | zero => simp [zeros, AMap.get]
    | succ i =>
      have e : b + (i + 1) = b + 1 + i := by omega
      simp only [zeros, List.cons_append, AMap.get]
      rw [if_neg (by omega), if_neg (by omega), e]
      exact ih (b + 1) i (by omega)

theorem get_after (a m : AMap Byte) (k : Nat) (h : a.all (fun e => decide (e.1 < k)) = true) :
    AMap.get erased (a ++ m) k = AMap.get erased m k := by
  induction a with
  | nil => rfl
  | cons x a ih =>
    simp only [List.all_cons, Bool.and_eq_true, decide_eq_true_eq] at h
    simp only [List.cons_append, AMap.get]
    rw [if_neg (by omega), if_neg (by omega)]
    exact ih h.2

theorem zeros_read (a m : AMap Byte) (b n : Nat) (h : a.all (fun e => decide (e.1 < b)) = true) :
    (bytesAt erased (a ++ (zeros b n ++ m)) b n).all (· == 0) = true := by
  simp only [bytesAt, List.all_map, List.all_eq_true, List.mem_range, Function.comp]
  intro i hi
  rw [get_after a _ _ (by
    simp only [List.all_eq_true, decide_eq_true_eq] at h ⊢
    intro e he; have := h e he; omega), get_zeros b n m i hi]
  rfl

/-- What slotCause asks apart from the zero bytes. -/
def restOk (s : State) (k : Nat) : Bool :=
  s.hdr k 0 4 == 0x58495750 && s.hdr k 4 2 == 1 && s.hdr k 6 2 == 0x100 && s.hdr k 8 4 == 0x100 && s.hdr k 0x0C 4 == 1 &&
  (bytesAt erased s.nor.mem (slotBase k + 0x22) 6).all (· == 0) && s.hdr k 0x30 4 == 0x100 && s.hdr k 0x34 4 == 2724 &&
  s.hdr k 0x28 8 == s.fuses.serial && s.hdr k 0x20 2 == 0xB0 && decide (s.fuses.sv ≤ s.hdr k 0x10 8)

theorem cause_zero (s : State) (k : Nat) (hz : (bytesAt erased s.nor.mem (slotBase k + 0x38) 200).all (· == 0) = true)
    (hc : s.hdr k 0x0C 2 = 1) (hf : s.hdr k 0x0E 2 = 0) (hr : restOk s k = true) : s.slotCause k = 0 := by
  simp only [restOk, Bool.and_eq_true, beq_iff_eq, decide_eq_true_eq] at hr
  obtain ⟨⟨⟨⟨⟨⟨⟨⟨⟨⟨h1, h2⟩, h3⟩, h4⟩, -⟩, h5⟩, h6⟩, h7⟩, h8⟩, h9⟩, h10⟩ := hr
  simp only [List.all_eq_true, beq_iff_eq] at h5 hz
  simp [State.slotCause, h1, h2, h3, h4, h6, h7, h8, h9, hc, hf, Nat.not_lt.mpr h10]
  exact ⟨h5, hz⟩

theorem test_headers_bad : (inBoot .s1).boot.headersRead = false ∧ (nx (exec (.slotHeadersRead 0 0 .eb) (inBoot .s1))).boot.failMod = 1 ∧
    (nx (exec (.slotHeadersRead 1 0 .eb) (inBoot .s1))).boot.failMod = 2 ∧
    (nx (exec (.slotHeadersRead 1 0x50444653 .absent) (inBoot .s1))).boot.failMod = 2 := by decide +kernel

theorem test_headers_none : (inBoot .s1).slotCause 0 ≠ 0 ∧ (inBoot .s1).slotCause 1 ≠ 0 ∧
    (nx (exec (.slotHeadersRead 1 0x50444653 .eb) (inBoot .s1))).boot.st = .hold := by decide +kernel

theorem cause_a (v q : Nat) (m : AMap Byte) (h : restOk (s1 (slotA v q ++ m)) 0 = true)
    (hc : (s1 (slotA v q ++ m)).hdr 0 0x0C 2 = 1) (hf : (s1 (slotA v q ++ m)).hdr 0 0x0E 2 = 0)
    (hk : (header 0 v q).all (fun e => decide (e.1 < 0x38)) = true) : (s1 (slotA v q ++ m)).slotCause 0 = 0 :=
  cause_zero _ 0 (by
    have := zeros_read (header 0 v q) m 0x38 200 hk
    rw [← List.append_assoc] at this
    exact this) hc hf h

theorem cause_b (v q : Nat) (a : AMap Byte) (h : restOk (s1 (a ++ slotB v q)) 1 = true)
    (hc : (s1 (a ++ slotB v q)).hdr 1 0x0C 2 = 1) (hf : (s1 (a ++ slotB v q)).hdr 1 0x0E 2 = 0)
    (hk : (a ++ header 0x1000000 v q).all (fun e => decide (e.1 < 0x1000038)) = true) : (s1 (a ++ slotB v q)).slotCause 1 = 0 :=
  cause_zero _ 1 (by
    have := zeros_read (a ++ header 0x1000000 v q) [] 0x1000038 200 hk
    rw [List.append_nil, List.append_assoc] at this
    exact this) hc hf h

theorem test_headers_a : (s1 (slotA 1 1 ++ [])).slotCause 0 = 0 ∧ (s1 (slotA 1 1 ++ [])).slotCause 1 ≠ 0 ∧
    (s1 (slotA 1 1 ++ [])).boot.headersRead = false :=
  ⟨cause_a 1 1 [] (by decide +kernel) (by decide +kernel) (by decide +kernel) (by decide +kernel), by decide +kernel, by decide⟩

theorem test_headers_b : (s1 ([] ++ slotB 1 1)).slotCause 0 ≠ 0 ∧ (s1 ([] ++ slotB 1 1)).slotCause 1 = 0 :=
  ⟨by decide +kernel, cause_b 1 1 [] (by decide +kernel) (by decide +kernel) (by decide +kernel) (by decide +kernel)⟩

/-- Both slots hold a candidate. -/
def both (v q v' q' : Nat) : State := s1 (slotA v q ++ slotB v' q')

theorem test_headers_secver : (both 1 9 2 1).slotCause 0 = 0 ∧ (both 1 9 2 1).slotCause 1 = 0 ∧
    (both 1 9 2 1).hdr 0 0x10 8 < (both 1 9 2 1).hdr 1 0x10 8 ∧
    (both 2 1 1 9).slotCause 0 = 0 ∧ (both 2 1 1 9).slotCause 1 = 0 ∧ (both 2 1 1 9).hdr 1 0x10 8 < (both 2 1 1 9).hdr 0 0x10 8 :=
  ⟨cause_a 1 9 _ (by decide +kernel) (by decide +kernel) (by decide +kernel) (by decide +kernel),
   cause_b 2 1 (slotA 1 9) (by decide +kernel) (by decide +kernel) (by decide +kernel) (by decide +kernel), by decide +kernel,
   cause_a 2 1 _ (by decide +kernel) (by decide +kernel) (by decide +kernel) (by decide +kernel),
   cause_b 1 9 (slotA 2 1) (by decide +kernel) (by decide +kernel) (by decide +kernel) (by decide +kernel), by decide +kernel⟩

theorem test_headers_seq : (both 1 1 1 2).slotCause 0 = 0 ∧ (both 1 1 1 2).slotCause 1 = 0 ∧
    (both 1 1 1 2).hdr 0 0x10 8 = (both 1 1 1 2).hdr 1 0x10 8 ∧ (both 1 1 1 2).hdr 0 0x18 8 < (both 1 1 1 2).hdr 1 0x18 8 ∧
    (both 1 1 1 1).slotCause 0 = 0 ∧ (both 1 1 1 1).slotCause 1 = 0 ∧ (both 1 1 1 1).hdr 1 0x18 8 ≤ (both 1 1 1 1).hdr 0 0x18 8 :=
  ⟨cause_a 1 1 _ (by decide +kernel) (by decide +kernel) (by decide +kernel) (by decide +kernel),
   cause_b 1 2 (slotA 1 1) (by decide +kernel) (by decide +kernel) (by decide +kernel) (by decide +kernel), by decide +kernel,
   by decide +kernel,
   cause_a 1 1 _ (by decide +kernel) (by decide +kernel) (by decide +kernel) (by decide +kernel),
   cause_b 1 1 (slotA 1 1) (by decide +kernel) (by decide +kernel) (by decide +kernel) (by decide +kernel), by decide +kernel⟩

theorem test_image_read :
    let s := { s1 [(8, 16), (9, 0), (10, 0), (11, 0), (0x34, 0), (0x35, 0), (0x36, 0), (0x37, 0)] with
      boot := { (inBoot .s1).boot with cands := [0], headersRead := true } }
    s.boot.cands = [0] ∧ s.boot.headersRead = true ∧ AMap.wf erased s.nor.mem = true ∧ (nx (exec .imageRead s)).boot.st = .s2 ∧
    (nx (exec .imageRead s)).boot.imgLen = 16 ∧ (nx (exec .imageRead s)).boot.imgByte 8 = 16 := by
  decide +kernel

/-! ## Verification, links, self-test, S7 -/

/-- S2 with slot A, or A then B, to verify: an empty image has no valid sections. -/
def s2 (cs : List Nat) : State := { inBoot .s2 with boot := { (inBoot .s2).boot with cands := cs } }

theorem test_verify_none : (s2 [0]).boot.parse = none ∧ (nx (exec .imageVerify (s2 [0]))).boot.st = .hold ∧
    (nx (exec .imageVerify (s2 [0, 1]))).boot.st = .s1 ∧ (nx (exec .imageVerify (s2 [0, 1]))).boot.fallback = true := by
  decide +kernel

theorem test_bringup : (inBoot .s4).canon = true ∧ (nx (exec (.linkBringup [.dch 0, .dcf 15]) (inBoot .s4))).isFenced 0x4000 = true ∧
    (nx (exec (.linkBringup [.dch 0, .dcf 15]) (inBoot .s4))).isFenced 0x600F = true ∧
    (nx (exec (.linkBringup [.dch 0, .dcf 15]) (inBoot .s4))).isFenced 0x4001 = false ∧
    (((inBoot .s4).linkFailed 4 (.dcf 15)).ctl 271).st = .fenced := by decide +kernel

theorem test_fill : let s := { inBoot .s5 with dram := [(3, 1)] }
    (nx (exec (.cappingFill ⟨[], [], [], .kept⟩) s)).boot.st = .s6 ∧ (nx (exec (.cappingFill ⟨[], [], [], .kept⟩) s)).dram = [] := by decide +kernel

theorem test_s7 : let s := { inBoot .s6 with boot := { (inBoot .s6).boot with s6Done := true, fences := [⟨0x4001, 4, 64⟩] } }
    s.host.pend.length + s.boot.fences.length < 4095 ∧ (nx (exec .s7Entry s)).hk.level = 15 ∧
    ((nx (exec .s7Entry s)).host.pend.map fun e => (e.ty, e.fid, e.d0, e.d1)) = [(1, 0x4001, 4, 64)] := by decide +kernel

/-! ## NOR and the management interface -/

/-- With a NOR operation in progress. -/
def norBusy (o : NorOp) (q : List NorOp) : State := { base with nor := { base.nor with busy := some o, queue := q } }

theorem test_nor_done : let s := norBusy (.prog 0x2000 [1, 2] .slot) [.erase 0 .slot]
    (nx (exec .norOperationDone s)).nor.mem = [(0x2000, 1), (0x2001, 2)] ∧ (nx (exec .norOperationDone s)).nor.busy = some (.erase 0 .slot) := by
  decide +kernel

theorem test_nor_erase_done : let s := { norBusy (.erase 4096 .slot) [] with nor := { (norBusy (.erase 4096 .slot) []).nor with
      mem := [(4095, 1), (4096, 2), (8191, 3), (8192, 4)] } }
    (nx (exec .norOperationDone s)).nor.mem = [(4095, 1), (8192, 4)] := by decide +kernel

theorem test_nor_timeout : let s := norBusy (.prog 0 [1] .slot) []
    (nx (exec .norTimeout s)).nor.timedOut = true ∧ (nx (exec .norTimeout s)).mgmt.alert = 2 := by decide +kernel

theorem test_fatal_write : let s := { base with nor := { base.nor with fatalQ := [⟨1, 3, 4, 5⟩], fatalSeq := 1, fatalPos := 4095 } }
    s.nor.busy = none ∧ (match (nx (exec .fatalLogWrite s)).nor.busy with | some (.prog a bs _) => (a, bs.length, bs.take 8) | _ => (0, 0, [])) =
      (0x21FFF00, 256, leBytes 8 2) := by decide +kernel

theorem test_mg_reads : (nx (exec (.getStatus true) base)).mgmt.resp.length = 9 ∧ (nx (exec (.getIdent true) base)).mgmt.status = 0 ∧
    base.hkRuns = true ∧ (nx (exec (.getSensor 127 true) base)).mgmt.resp.length = 4 ∧
    (nx (exec (.norRead 0x3FFFFFF 1 true) base)).mgmt.resp = [0xFF] ∧ (nx (exec (.norRead 0 31 true) base)).mgmt.resp.length = 31 ∧
    (nx (exec (.norStat true) (norBusy (.erase 0 .slot) []))).mgmt.resp = [1] ∧ (nx (exec (.getIdent false) base)).mgmt.status = 4 := by
  decide +kernel

theorem test_clear_alert : let s := { base with mgmt := { base.mgmt with alert := 0xE } }
    (nx (exec (.clearAlert 0xFB true) s)).mgmt.alert = 4 ∧ (nx (exec (.clearAlert 0xFB false) s)).mgmt.alert = 0xE := by decide +kernel

/-- HOLD. -/
def hold : State := inBoot .hold

theorem test_nor_buf : let bs := (List.range 16).map fun i => BitVec.ofNat 8 (i + 1)
    hold.nor.busy = none ∧ AMap.wf 0 hold.nor.buf = true ∧ AMap.get 0 (nx (exec (.norBuf 240 bs true) hold)).nor.buf 255 = 16 ∧
    AMap.get 0 (nx (exec (.norBuf 240 bs true) hold)).nor.buf 239 = 0 := by decide +kernel

theorem test_nor_prog : (nx (exec (.norProg 0x1FFFF00 true) hold)).nor.busy.isSome = true ∧
    (nx (exec (.norErase 0x1FFF000 true) hold)).nor.busy = some (.erase 0x1FFF000 .slot) ∧
    (nx (exec (.norProg 0x2000000 true) hold)).mgmt.status = 2 ∧ (nx (exec (.norErase 0x2000000 true) base)).mgmt.status = 2 ∧
    (nx (exec (.norErase 0 true) { norBusy (.erase 0 .slot) [] with boot := hold.boot })).mgmt.status = 1 := by decide +kernel

/-! ## Housekeeping -/

theorem test_round : let t := nx (exec (.housekeepingRound [(0, 0x20), (95, 0x30), (112, 0x40)]) (inBoot .s4))
    (inBoot .s4).hkRuns = true ∧ AMap.wf 0x80000000 (inBoot .s4).hk.sensors = true ∧ t.hk.round = 1 ∧ t.hk.reading 95 = 0x30 ∧
    t.hk.reading 112 = 0x40 := by decide +kernel

/-- First use due, with bands 1, 2 and 4, hysteresis 3, and a power of the round. -/
def smoke (power budget level : Nat) : State :=
  { base with hk := { base.hk with firstUseDue := true, power := power, level := level },
              cfg := { base.cfg with smoker := { base.cfg.smoker with budget := budget } },
              regs := [(0x100018, BitVec.ofNat 64 (1 ||| (2 <<< 11) ||| (4 <<< 22) ||| (3 <<< 33)))] }

theorem test_smoker : let after := fun p b l => let h := (nx (exec .firstUseEnd (smoke p b l))).hk
      (h.level, h.down)
    (bits ((smoke 0 0 0).reg 0x100018).toNat 32 22 = 4) ∧ after 15 10 3 = (11, 0) ∧ after 15 10 9 = (15, 0) ∧ after 14 10 3 = (7, 0) ∧
    after 12 10 3 = (5, 0) ∧ after 11 10 3 = (4, 0) ∧ after 10 10 3 = (3, 0) ∧ after 8 10 3 = (3, 0) ∧ after 7 10 3 = (3, 1) := by
  decide +kernel

theorem test_step_down : let s := { base with hk := { base.hk with stepDownDue := true, level := 1, down := 9 } }
    (nx (exec .smokerStepDown s)).hk.level = 0 ∧ (nx (exec .smokerStepDown s)).hk.down = 0 := by decide +kernel

theorem test_multiplier : let s := base.setStack 7 { base.stack 7 with mult := 4, stepDue := true }
    s.canon = true ∧ (s.stack 7).stepDue = true ∧ ((nx (exec (.multiplierStepDown 7) s)).stack 7).mult = 2 := by decide +kernel

/-- Slot k has a failure due, and the slots of a mask have failed. -/
def failing (k mask : Nat) : State := { base with hk := { base.hk with failDue := 1 <<< k, failed := mask } }

/-- All slots of a unit but k. -/
def others (k : Nat) : Nat := (unitSlots k).foldl (fun a j => if j = k then a else a ||| (1 <<< j)) 0

theorem test_slot_failed : (failing 112 0).hk.failDue.testBit 112 = true ∧ (nx (exec (.slotFailed 112) (failing 112 0))).hk.failed = 1 <<< 112 ∧
    unitSlots 0 ≠ [] ∧ (unitSlots 0).all (fun j => (nx (exec (.slotFailed 0) (failing 0 (others 0)))).hk.failed.testBit j) = true ∧
    ((nx (exec (.slotFailed 0) (failing 0 (others 0)))).hk.shutDue.map (·.1)) = some 0 := by decide +kernel

theorem test_thermal : let s := { base with hk := { base.hk with shutDue := some (5, 99) } }
    (nx (exec .thermalShutdown s)).pins.thermtrip = true ∧
    ((nx (exec .thermalShutdown s)).nor.fatalQ.map fun e => (e.ty, e.slot, e.reading)) = [(1, 5, 99)] ∧
    (nx (exec (.railFault 114) base)).boot.failMod = 8 ∧ (nx (exec (.railFault 127) base)).boot.st = .hold := by decide +kernel

theorem test_self_test : (inBoot .s6).boot.st = .s6 ∧ (inBoot .s6).boot.s6Done = false ∧ (inBoot .s6).flt.fenced = [] ∧ (inBoot .s6).seqs = [] ∧
    (inBoot .s6).cfg.liveMask ≠ 0 ∧ (inBoot .s6).cfg.maxCores = 0 ∧ (inBoot .s6).pins.perst = true := by decide +kernel

theorem test_step : step State.reset = .next State.reset ∧ step { base with pending := [.norStat true, .perstHigh] } =
    exec (.norStat true) { base with pending := [.perstHigh] } := ⟨rfl, rfl⟩

/-! ## Sequencers -/

/-- Stream ME of sequencer 0 stands at these words. -/
def at' (ws : List Nat) : State := pm solo 0 ws

theorem test_control : let s := at' [hw 0x01 0 0 0 0]
    s.canon = true ∧ s.controlAt 0 .me 0x01 = some [hw 0x01 0 0 0 0] ∧ ((nx (exec (.nop 0 .me) s)).seq 0).pc.me = 8 ∧
    ((nx (exec (.nop 0 .me) s)).seq 0).slot.me = 1 ∧
    (at' [hw 0x07 0 0 0 ((3 <<< 37) ||| (63 <<< 31))]).controlAt 0 .me 0x07 = some [hw 0x07 0 0 0 ((3 <<< 37) ||| (63 <<< 31))] ∧
    ((nx (exec (.pace 0 .me) (at' [hw 0x07 0 0 0 ((3 <<< 37) ||| (63 <<< 31))]))).seq 0).wait.me = .pace .xe 63 := by decide +kernel

theorem test_step_begin : let s := at' [hw 0x04 0 0 0 0]
    s.controlAt 0 .me 0x04 = some [hw 0x04 0 0 0 0] ∧ ((nx (exec (.stepBegin 0 .me) s)).seq 0).wait.me = .stepBegin ∧
    ((nx (exec (.stepBegin 0 .me) (stepping s))).prog.halt.map fun h => h.cause) = some 6 := by decide +kernel

theorem test_step_end : let s := at' [hw 0x05 0 0 0 0]
    s.controlAt 0 .me 0x05 = some [hw 0x05 0 0 0 0] ∧ ((nx (exec (.stepEnd 0 .me) (stepping s))).seq 0).wait.me = .stepEnd false 0 ∧
    ((nx (exec (.stepEnd 0 .me) s)).prog.halt.map fun h => h.cause) = some 6 := by decide +kernel

/-- A BR that compares SX0 (0) with the extension word. -/
def brWords (cond ext target : Nat) : List Nat := [hw 0x02 0 0 0 ((cond <<< 36) ||| target), ext]

theorem test_br : let pc := fun c e => ((nx (exec (.br 0 .me) (at' (brWords c e 0x7FFFF)))).seq 0).pc.me
    (at' (brWords 2 1 0x7FFFF)).controlAt 0 .me 0x02 = some (brWords 2 1 0x7FFFF) ∧ pc 0 0 = 0x3FFFF8 ∧ pc 0 1 = 16 ∧ pc 1 1 = 0x3FFFF8 ∧
    pc 2 1 = 0x3FFFF8 ∧ pc 2 0xFFFFFFFFFFFFFFFF = 16 ∧ pc 3 0 = 0x3FFFF8 ∧ pc 4 0xFFFFFFFFFFFFFFFF = 0x3FFFF8 ∧ pc 4 0 = 16 ∧
    pc 5 0xFFFFFFFFFFFFFFFF = 16 ∧ pc 6 0 = 0x3FFFF8 := by decide +kernel

theorem test_lset : let s := at' [hw 0x03 0 0 0 (11 <<< 33), 7]
    let l := fun n => at' [hw 0x03 0 0 0 ((1 <<< 37) ||| (3 <<< 33)), n]
    s.controlAt 0 .me 0x03 = some [hw 0x03 0 0 0 (11 <<< 33), 7] ∧ AMap.get 0 ((nx (exec (.lset 0 .me) s)).seq 0).sx 11 = 7 ∧
    AMap.get 0 ((nx (exec (.lset 0 .me) (l 0xFFFFFF))).seq 0).lcnt.me 3 = 0xFFFFFF ∧
    (l 0x1000000).prog.halt = none ∧ ((nx (exec (.lset 0 .me) (l 0x1000000))).prog.halt.map fun h => h.cause) = some 6 := by decide +kernel

theorem test_halt : let s := at' [hw 0x08 0 0 0 0x7FFF]
    s.prog.halt = none ∧ s.controlAt 0 .me 0x08 = some [hw 0x08 0 0 0 0x7FFF] ∧
    ((nx (exec (.halt 0 .me) s)).prog.halt.map fun h => (h.cause, h.code)) = some (2, 0x7FFF) ∧ ((nx (exec (.halt 0 .me) s)).seq 0).st = .drain := by
  decide +kernel

/-- Every stream of sequencer 0 waits for the same. -/
def waiting (w : StreamWait) : State := solo.setSeq 0 { solo.seq 0 with wait := .all w }

theorem test_barrier : (waiting .stepBegin).allStreams (· == .stepBegin) = true ∧ (nx (exec .stepBeginBarrier (waiting .stepBegin))).prog.step = 1 ∧
    (nx (exec .stepBeginBarrier (waiting .stepBegin))).prog.inStep = true := by decide +kernel

/-- At the end of step 5 with a step limit. -/
def ending (limit : Nat) : State := { stepping (waiting (.stepEnd false 0)) with regs := [(0x180, BitVec.ofNat 64 limit)] }

theorem test_end_of_step : let s := ending 6
    s.canon = true ∧ s.prog.inStep = true ∧ s.allStreams (fun w => match w with | .stepEnd _ _ => true | _ => false) = true ∧
    s.enginesIdle = true ∧ s.prog.contribs = [] ∧ s.prog.halt = none ∧ s.flt.held = none ∧ (List.range 8).all (fun k => s.balanced k && !s.ledgUpset [] k) = true ∧
    (nx (exec (.endOfStep []) s)).prog.halt = none ∧ ((nx (exec (.endOfStep []) s)).seq 0).wait.me = .none ∧
    (nx (exec (.endOfStep []) (ending 0))).prog.halt = none ∧
    ((nx (exec (.endOfStep []) (ending 5))).prog.halt.map fun h => h.cause) = some 1 ∧ ((nx (exec (.endOfStep []) (ending 5))).seq 0).st = .drain := by
  decide +kernel

/-- A WTOK post of W63 at the head of core 0's XE queue. -/
def post : State := queued solo .xe (ent [hw 0x06 3 0 0 ((1 <<< 37) ||| (63 <<< 31))])

theorem test_waggle_post : post.canon = true ∧ post.engineOn 0 = true ∧
    (post.activeSeqs.all fun d => decide ((post.seq d).waggle 63 < 15)) = true ∧
    AMap.get 0 ((nx (exec (.wagglePost 0 .xe) post)).core 0).posted 63 = 1 ∧
    ((nx (exec (.wagglePost 0 .xe) post)).core 0).q.xe = [] := by decide +kernel

theorem test_waggle_completion : let s := solo.setCore 0 { solo.core 0 with posted := [(63, 2)] }
    let f := s.setSeq 0 { s.seq 0 with wcnt := [(63, 15)] }
    s.liveCores = [0] ∧ ((nx (exec (.waggleCompletion 63) s)).seq 3).waggle 63 = 1 ∧
    ((nx (exec (.waggleCompletion 63) f)).seq 0).waggle 63 = 15 ∧
    AMap.get 0 ((nx (exec (.waggleCompletion 63) s)).core 0).posted 63 = 1 := by decide +kernel

theorem test_waggle_release : let w := waiting (.waggle 63)
    let s := w.setSeq 0 { w.seq 0 with wcnt := [(63, 1)] }
    ((nx (exec (.waggleWaitRelease 0 .ve) s)).seq 0).waggle 63 = 0 ∧ ((nx (exec (.waggleWaitRelease 0 .ve) s)).seq 0).wait.ve = .none ∧
    (nx (exec (.waggleWaitRelease 0 .ve) w)) = w ∧
    ((nx (exec (.paceRelease 0 .me) (waiting (.pace .ve 0)))).seq 0).wait.me = .none := by decide +kernel

/-- AADD AX1, AX2, 5 in stream ME. -/
def aaddWord : Nat := hw 0x10 0 0 0 ((1 <<< 34) ||| (2 <<< 29) ||| (1 <<< 23) ||| 5)

theorem test_broadcast : let s := at' [aaddWord]
    (s.seq 0).fetching .me = true ∧ (s.seq 0).fetch .me = .ok [aaddWord] ∧ opGroup (headOf aaddWord).op ≠ .control ∧ s.queueFull 0 .me = false ∧
    s.liveOf 0 = [0] ∧ ((nx (exec (.broadcast 0 [.me]) s)).core 0).q.me.length = 1 ∧ ((nx (exec (.broadcast 0 [.me]) s)).core 1) = s.core 1 ∧
    ((nx (exec (.broadcast 0 [.me]) s)).seq 0).pc.me = 8 := by decide +kernel

theorem test_broadcast_full : let s := (at' [aaddWord]).setCore 0 { (at' [aaddWord]).core 0 with q := ⟨List.replicate 64 (ent [aaddWord]), [], [], []⟩ }
    s.queueFull 0 .me = true ∧ ((nx (exec (.broadcast 0 [.me]) s)).prog.halt.map fun h => h.cause) = some 3 := by decide +kernel

theorem test_broadcast_bad : let s := at' [hw 0x09 0 0 0 0]
    (s.seq 0).fetch .me = .bad ∧ ((nx (exec (.broadcast 0 [.me]) s)).prog.halt.map fun h => h.cause) = some 6 := by decide +kernel

theorem test_wtok : let w := hw 0x06 0 0 0 ((3 <<< 37) ||| (9 <<< 31))
    let s := at' [w]
    s.controlAt 0 .me 0x06 = some [w] ∧ ((nx (exec (.wtok 0 .me) s)).core 0).q.me.length = 1 ∧
    ((nx (exec (.wtok 0 .me) s)).seq 0).wait.me = .waggle 9 := by decide +kernel

/-- Segment 63 is pending, with one word in its shadow and one old word that it replaces. -/
def pendingSeg : State :=
  solo.setSeq 0 { solo.seq 0 with
    pmPending := 1 <<< 63, dirty := 1 <<< 63, pm := [(8192 * 63 - 1, encode 1 false), (8192 * 63 + 5, encode 2 false)],
    shadow := [(8192 * 63, encode 3 false), (2 ^ 19 - 1, encode 4 false)] }

theorem test_segment_swap : let t := nx (exec (.segmentSwap 0 63) pendingSeg)
    bitOf (pendingSeg.seq 0).pmPending 63 = true ∧ (pendingSeg.seq 0).segLive 63 = false ∧ AMap.wf zeroCw (pendingSeg.seq 0).pm = true ∧
    AMap.wf zeroCw (pendingSeg.seq 0).shadow = true ∧ bitOf (pendingSeg.seq 0).dirty 63 = true ∧ pendingSeg.atS7 = true ∧
    (t.seq 0).pm = [(8192 * 63 - 1, encode 1 false), (8192 * 63, encode 3 false), (2 ^ 19 - 1, encode 4 false)] ∧ (t.seq 0).pmPending = 0 := by
  decide +kernel

/-! ## Core engines -/

/-- AX2 is 7 and AX3 is 2^48 − 1 in stream VE. -/
def axs : State := solo.setCore 0 { solo.core 0 with ax := (solo.core 0).ax.set .ve [(2, 7), (3, BitVec.ofNat 48 (2 ^ 48 - 1))] }

/-- Opcode op with destination AX1, sources AX2 and AX3 or an immediate, in stream VE. -/
def axOp (op is imm : Nat) (ext : List Nat) : State :=
  run .ve axs (hw op 1 0 0 ((1 <<< 34) ||| (2 <<< 29) ||| (if is = 0 then 3 <<< 24 else 0) ||| (is <<< 23) ||| imm) :: ext)

/-- AX1 of stream VE. -/
def ax1 (s : State) : Nat := (AMap.get 0 ((s.core 0).ax.get .ve) 1).toNat

theorem test_aadd : (axOp 0x10 0 0 []).canon = true ∧ ((axOp 0x10 0 0 []).readyEntry 0 .ve 0x10).isSome = true ∧
    ax1 (nx (exec (.aadd 0 .ve) (axOp 0x10 0 0 []))) = 6 ∧ phases .ve (nx (exec (.aadd 0 .ve) (axOp 0x10 0 0 []))) = [.executed] ∧
    ax1 (nx (exec (.asub 0 .ve) (axOp 0x11 0 0 []))) = 8 ∧ ax1 (nx (exec (.amuli 0 .ve) (axOp 0x12 1 3 []))) = 21 := by decide +kernel

theorem test_ashl : ax1 (nx (exec (.ashl 0 .ve) (axOp 0x13 1 47 []))) = 2 ^ 47 ∧ ax1 (nx (exec (.ashl 0 .ve) (axOp 0x13 1 48 []))) = 0 ∧
    ax1 (nx (exec (.ashr 0 .ve) (axOp 0x14 1 1 []))) = 3 ∧ ax1 (nx (exec (.ashr 0 .ve) (axOp 0x14 1 64 []))) = 7 := by decide +kernel

theorem test_aand : ax1 (nx (exec (.aand 0 .ve) (axOp 0x15 1 5 []))) = 5 ∧ ax1 (nx (exec (.amin 0 .ve) (axOp 0x16 0 0 []))) = 7 ∧
    ax1 (nx (exec (.amax 0 .ve) (axOp 0x17 0 0 []))) = 2 ^ 48 - 1 ∧ ax1 (nx (exec (.asel 0 .ve) (axOp 0x18 0 9 []))) = 2 ^ 48 - 1 ∧
    ax1 (nx (exec (.amovi 0 .ve) (axOp 0x19 0 0 [2 ^ 48 - 1]))) = 2 ^ 48 - 1 := by decide +kernel

theorem test_arank : let s := axs.setCore 0 { axs.core 0 with liveCopy := 3, rank := 2 }
    let w := fun imm ab => [hw 0x1A 1 0 0 ((1 <<< 34) ||| (2 <<< 29) ||| (ab <<< 24) ||| imm)]
    ax1 (nx (exec (.arank 0 .ve) (run .ve s (w 0 0)))) = 23 ∧ ax1 (nx (exec (.arank 0 .ve) (run .ve s (w 1 3)))) = 1 ∧
    ax1 (nx (exec (.arank 0 .ve) (run .ve s (w 1 2)))) = 0 := by decide +kernel

theorem test_ax_view : let c := axs.core 0
    c.axUndo.get .ve = [] ∧ AMap.wf 0 (c.ax.get .ve) = true ∧ (c.axWrite .ve 4 2 (2 ^ 48 + 1)).axView .ve 6 2 = 7 ∧
    (c.axWrite .ve 4 2 (2 ^ 48 + 1)).axView .ve 7 2 = 1 := by decide +kernel

/-- A descriptor instruction on handle 5: opcode, MOD, extension word. -/
def descOp (s : State) (op md : Nat) (ext : List Nat) : State := run .xe s (hw op 3 0 0 (lo 5 0 0 md) :: ext)

/-- Handle 5 describes two bytes of the core store at 64. -/
def five : State := desc (cs solo 8 [0x0807060504030201]) 5 (dw 64 0 0 [2] [1] 0)

theorem test_dset : let s := descOp five 0x20 ((1 <<< 9) ||| 8) [0xFF000003]
    (s.readyEntry 0 .xe 0x20).isSome = true ∧ s.canon = true ∧ (ent [hw 0x20 3 0 0 (lo 5 0 0 0)]).intact = true ∧ AMap.get 0 (s.core 0).poisoned 5 = 0 ∧
    (s.core 0).isPoisoned .xe 0 5 = false ∧ AMap.wf zeroCw (s.core 0).desc = true ∧ AMap.wf zeroCw (s.core 0).store = true ∧
    at64 ((nx (exec (.dset 0 .xe) s)).core 0).desc 82 = 3 ∧ at64 ((nx (exec (.dset 0 .xe) s)).core 0).desc 81 = at64 (s.core 0).desc 81 := by
  decide +kernel

/-- AX4 of stream XE holds an address. -/
def axAt (s : State) (a : Nat) : State := s.setCore 0 { s.core 0 with ax := (s.core 0).ax.set .xe [(4, BitVec.ofNat 48 a)] }

theorem test_dload : let s := axAt (descOp (cs solo (2 ^ 17 - 16) (dw 64 0 0 [2] [1] 0)) 0x21 (4 <<< 4) []) (2 ^ 20 - 128)
    (s.readyEntry 0 .xe 0x21).isSome = true ∧ at64 ((nx (exec (.dload 0 .xe) s)).core 0).desc 81 = 64 ∧
    AMap.get 0 ((nx (exec (.dload 0 .xe) s)).core 0).poisoned 5 = 0 ∧ phases .xe (nx (exec (.dload 0 .xe) s)) = [.executed] := by decide +kernel

theorem test_dstore : let s := axAt (descOp five 0x22 (4 <<< 4) []) (2 ^ 20 - 128)
    (s.readyEntry 0 .xe 0x22).isSome = true ∧ ((s.core 0).descView .xe 0 5).length = 16 ∧
    at64 ((nx (exec (.dstore 0 .xe) s)).core 0).store (2 ^ 17 - 16) = 64 ∧ at64 ((nx (exec (.dstore 0 .xe) s)).core 0).store 8 = 0x0807060504030201 := by
  decide +kernel

theorem test_dadv : let s := desc five 5 (dw 64 0 0 [2] [1] 0 ++ [0xFFFFFFF0])
    let t := descOp s 0x23 ((1 <<< 12) ||| 5) []
    (t.readyEntry 0 .xe 0x23).isSome = true ∧ at64 ((nx (exec (.dadv 0 .xe) t)).core 0).desc 80 = 2 ^ 48 - 16 := by decide +kernel

theorem test_token_place : let s := solo.setCore 0 { solo.core 0 with
        q := ⟨[], [], [], [{ ent [hw 0x70 3 0 32 0] with phase := .executed, status := 1, sat := 9 }]⟩, lanes := [(31, { Lane.init with count := 62 })] }
    let n := solo.setCore 0 { solo.core 0 with q := ⟨[], [], [], [{ ent [hw 0x70 3 0 0 0] with phase := .executed, flush := 8 }]⟩ }
    s.canon = true ∧ (executedEntry (s.core 0).q.xe 0).isSome = true ∧ s.writesHeld 0x4000 = false ∧ AMap.wf Lane.init (s.core 0).lanes = true ∧
    ((nx (exec (.tokenPlace 0 .xe 0) s)).core 0).lane 31 = { Lane.init with count := 63, status := 1, placed := 1 } ∧
    ((nx (exec (.tokenPlace 0 .xe 0) s)).core 0).lastSat.xe = 9 ∧
    (executedEntry (n.core 0).q.xe 0).isSome = true ∧ ((nx (exec (.tokenPlace 0 .xe 0) n)).core 0).lastFlush.xe = 8 ∧ phases .xe (nx (exec (.tokenPlace 0 .xe 0) n)) = [] := by
  decide +kernel

theorem test_start : let s := solo.setCore 0 { solo.core 0 with lanes := [(31, { Lane.init with count := 1, status := 2 })] }
    let x := ent [hw 0x70 3 32 0 0]
    x.intact = true ∧ x.head.wv = true ∧ s.canon = true ∧ ((s.startOf 0 .xe x).core 0).lane 31 = { Lane.init with consumed := 1 } ∧
    ((s.startOf 0 .xe x).core 0).tokstat = 2 ∧ s.startOf 0 .xe (ent [hw 0x70 3 0 0 0]) = s := by decide +kernel

/-! ## Numbers -/

theorem test_scaled_partial : scaledPartial false 3 127 127 = (0x40400000, .none) ∧ scaledPartial true (-1) 127 143 = (0xBF800000, .none) ∧
    scaledPartial false 1 255 0 = (0x7FC00000, .none) ∧ scaledPartial false 0 254 254 = (0, .none) ∧
    scaledPartial false (-1) 254 254 = (0xFF7FFFFF, .satur) ∧ scaledPartial false (-1) 0 0 = (0x80000000, .flushed) := by decide +kernel

theorem test_int_accum : (intAccum 0 0 2147483647 [1, 1] [1, 0xFF]).1 = 2147483647 ∧ (intAccum 0 0 2147483647 [1] [1]).2.sat = true ∧
    (intAccum 0 0 2147483647 (List.replicate 32 1 ++ [1]) (List.replicate 32 1 ++ [0xFF])).1 = 2147483646 := by decide +kernel

/-! ## Matrix engine -/

/-- Two weights 3 and −1 in the batts, two activations 2 and 5 in the core store. -/
def mm : State :=
  let s := desc (desc (cs solo 0 [0x0502]) 1 (dw 0 3 0 [2, 1] [1, 2] 0)) 2 (dw 0 0 0 [2, 1] [1, 2] 0)
  let s := desc (desc s 3 (dw 128 0 8 [1, 1] [1, 1] 0)) 6 (dw 0 0 0 [2] [1] 0)
  s.setCore 0 { s.core 0 with batt := [(0, encode 0xFF03 false)] }

theorem test_mma : let s := run .me mm [hw 0x40 0 0 0 (lo 0 1 2 0)]
    let t := nx (exec (.mma 0 .clean) s)
    let c := (ent [hw 0x40 0 0 0 (lo 0 1 2 0)]).ctx 0 .me false
    s.canon = true ∧ s.quietCore 0 = true ∧ (s.readyEntry 0 .me 0x40).isSome = true ∧ mmaOk false c.its (s.opndAt c 1) (s.opndAt c 2) = true ∧
    (s.opndAt c 1).isLocal = true ∧ (s.opndAt c 1).poisoned c (s.core 0) = false ∧
    phases .me t = [.executed] ∧ (t.core 0).kind 0 = .int32 ∧ (t.core 0).kind 1 = .none ∧ t.peek 0 4 32 0 = 1 ∧
    (nx (exec (.mma 0 (.failed 0 0)) s)).flt.pend = [⟨1, 0x1000, 0⟩] := by decide +kernel

/-- Sixteen weights and activations in blocks of 16 with scales 2^1 each. -/
def ms : State :=
  let s := desc (desc (cs solo 0 [0x01, 0, 0, 0, 128]) 1 (dw 0 3 0 [16, 1] [1, 16] ((1 <<< 9) ||| (3 <<< 24)))) 2 (dw 0 0 0 [16, 1] [1, 16] ((1 <<< 9) ||| (4 <<< 24)))
  let s := desc (desc s 3 (dw 16 3 10 [1, 1] [1, 1] 0)) 4 (dw 32 0 10 [1, 1] [1, 1] 0)
  s.setCore 0 { s.core 0 with batt := [(0, encode 3 false), (2, encode 128 false)] }

theorem test_mmas : let s := run .me ms [hw 0x41 0 0 0 (lo 0 1 2 1)]
    let t := nx (exec (.mmas 0 .clean) s)
    let c := (ent [hw 0x41 0 0 0 (lo 0 1 2 1)]).ctx 0 .me false
    mmaOk true c.its (s.opndAt c 1) (s.opndAt c 2) = true ∧ phases .me t = [.executed] ∧ (t.core 0).kind 1 = .fp32 ∧
    t.peek 0 4 32 (64 * 512) = 0x41400000 := by decide +kernel

/-- Bank 0 holds INT32 values: 300 at (0, 0). -/
def banked : State := mm.setCore 0 { mm.core 0 with acc := [(0, encode 300 false)], kind0 := .int32 }

theorem test_mzero : let s := run .me banked [hw 0x42 0 0 0 3]
    s.canon = true ∧ s.quietCore 0 = true ∧ (s.readyEntry 0 .me 0x42).isSome = true ∧ (ent [hw 0x42 0 0 0 3]).lc = [0, 0, 0, 0] ∧
    (s.core 0).kind 0 = .int32 := by decide +kernel

theorem test_mdrain : let s := run .me banked [hw 0x43 0 0 0 (lo 3 0 0 0)]
    let t := nx (exec (.mdrain 0) s)
    let c := (ent [hw 0x43 0 0 0 (lo 3 0 0 0)]).ctx 0 .me false
    mdrainOk c.its (s.opndAt c 3) = true ∧ s.prog.inStep = false ∧ phases .me t = [.executed] ∧ t.peek 0 0 32 1024 = 300 ∧ (t.core 0).kind 0 = .int32 := by decide +kernel

theorem test_mv : let s := run .me (desc mm 1 (dw 0 0 0 [2, 1] [1, 2] 0)) [hw 0x44 0 0 0 (lo 3 1 6 0)]
    let t := nx (exec (.mv 0 .clean) s)
    let c := (ent [hw 0x44 0 0 0 (lo 3 1 6 0)]).ctx 0 .me false
    mvOk false false c.its (s.opndAt c 1) (s.opndAt c 6) (s.opndAt c 3) = true ∧ phases .me t = [.executed] ∧ t.peek 0 0 32 1024 = 29 := by
  decide +kernel

/-! ## Vector engine, mailboxes, forager, moves -/

/-- A stage word: function, source, immediate. -/
def stage (fn src imm : Nat) : Nat := (fn <<< 58) ||| (src <<< 56) ||| imm

/-- Core store: INT32 values 5 and −2 at 0 (handle 1), results at 64 (handle 2, two elements; handle 3, one); FP32 1.0 and 1.0 at 128
(handle 4), results at 192 (handle 5); a mask of 2 × 2 at 256 (handle 6). -/
def vv : State :=
  let s := cs (cs solo 0 [0xFFFFFFFE00000005]) 16 [0x3F8000003F800000]
  let s := desc (desc (desc s 1 (dw 0 0 8 [2] [1] 0)) 2 (dw 64 0 8 [2] [1] 0)) 3 (dw 64 0 8 [1] [1] 0)
  desc (desc (desc s 4 (dw 128 0 7 [2] [1] 0)) 5 (dw 192 0 7 [2] [1] 0)) 6 (dw 256 0 11 [2, 2] [1, 2] 0)

theorem test_card : let ws := [hw 0x50 1 0 0 (lo 2 1 0 1), stage 0x10 0 7]
    let s := run .ve vv ws
    let t := nx (exec (.card 0 .clean) s)
    s.canon = true ∧ s.quietCore 0 = true ∧ (s.readyEntry 0 .ve 0x50).isSome = true ∧ (ent ws).intact = true ∧
    cardOk 0 [stageOf (stage 0x10 0 7)] (cx .ve ws).its (s.opndAt (cx .ve ws) 2) (s.opndAt (cx .ve ws) 1) none = true ∧
    (cx .ve ws).its = [[]] ∧ ((s.opndAt (cx .ve ws) 2).d.addrs [] (tuples (s.opndAt (cx .ve ws) 2).d.used)).Nodup ∧
    phases .ve t = [.executed] ∧ t.peek 0 0 32 512 = 640 ∧ t.peek 0 0 32 544 = 0xFFFFFF00 ∧
    (nx (exec (.card 0 (.failed 0 0)) s)).flt.pend = [⟨1, 0x1000, 0⟩] := by decide +kernel

theorem test_red : let ws := [hw 0x51 1 0 0 (lo 3 1 0 0)]
    let s := run .ve vv ws
    let t := nx (exec (.red 0) s)
    (s.readyEntry 0 .ve 0x51).isSome = true ∧ redOk 0 (cx .ve ws).its (s.opndAt (cx .ve ws) 1) (some (s.opndAt (cx .ve ws) 3)) = true ∧
    phases .ve t = [.executed] ∧ t.peek 0 0 32 512 = 3 := by decide +kernel

theorem test_softmax : let ws := [hw 0x52 1 0 0 (lo 5 4 0 0), 0x3F800000]
    let s := run .ve vv ws
    let t := nx (exec (.softmax 0 .clean) s)
    (s.readyEntry 0 .ve 0x52).isSome = true ∧ softmaxOk (cx .ve ws).its (s.opndAt (cx .ve ws) 5) (s.opndAt (cx .ve ws) 4) = true ∧
    (s.opndAt (cx .ve ws) 4).d.rank = 1 ∧ phases .ve t = [.executed] ∧ t.peek 0 0 32 1536 = 0x3F000000 := by decide +kernel

theorem test_maskgen : let ws := [hw 0x53 1 0 0 (lo 6 0 0 0), 0]
    let s := run .ve vv ws
    let t := nx (exec (.maskgen 0) s)
    (s.readyEntry 0 .ve 0x53).isSome = true ∧ maskgenOk (cx .ve ws).its (s.opndAt (cx .ve ws) 6) = true ∧
    phases .ve t = [.executed] ∧ (List.range 4).map (fun i => t.peek 0 0 1 (2048 + i)) = [1, 0, 1, 1] := by decide +kernel

theorem test_red_mailbox : let ws := [hw 0x51 1 0 0 (lo 0 1 0 (8 ||| (15 <<< 4)))]
    let s := run .ve vv ws
    let t := nx (exec (.red 0) s)
    (s.readyEntry 0 .ve 0x51).isSome = true ∧ redOk 0 (cx .ve ws).its (s.opndAt (cx .ve ws) 1) none = true ∧
    (t.prog.contribs.map fun k => (k.core, k.mb, k.value)) = [(0, 15, 3)] ∧
    AMap.get 0 ((nx (exec (.mailboxReduction 15) t)).seq 3).mb 15 = 3 ∧ (nx (exec (.mailboxReduction 15) t)).prog.contribs = [] := by
  decide +kernel

/-- Contributions of COUNT from two tiles. -/
def count2 : List Contrib := [⟨1, 0, 4, 1, 5, false, true, false, 2 ^ 63, 0, false⟩, ⟨0, 0, 4, 0, 5, false, true, false, 2 ^ 63 + 3, 0, false⟩]

theorem test_mailbox_count : let s := { live1 with prog := { live1.prog with live := 3, admitted := 3, contribs := count2 } }
    s.liveCores = [0, 1] ∧ (s.firstContribs 4).length = 2 ∧ (count2.map fun k => (k.tile, k.core)).Nodup ∧
    AMap.get 0 ((nx (exec (.mailboxReduction 4) s)).seq 0).mb 4 = 3 := by decide +kernel

/-- Cluster store bytes 1, 2, 3, 4 as rows of one INT8 each (handle 1, indexed by handle 2: 3 and 0), results in the core store at 64
(handle 3); handle 4 is the rows unindexed as a source of 2, handle 5 the indexed rows as a destination. -/
def fe1 : State :=
  let s := cs solo 0 [0x0000000000000003, 0x0605]
  let s := desc (desc (desc s 1 (dw 0 1 0 [4] [1] (2 <<< 32))) 2 (dw 0 0 8 [2] [1] 0)) 3 (dw 64 0 0 [2] [1] 0)
  let s := desc (desc s 4 (dw 8 0 0 [2] [1] 0)) 5 (dw 0 1 0 [4] [1] (2 <<< 32))
  s.setCluster 0 { s.cluster 0 with store := [(0, encode 0x04030201 false)] }

theorem test_gidx : let ws := [hw 0x60 2 0 0 (lo 0 1 0 3)]
    let s := run .fe fe1 ws
    let t := nx (exec (.gidx 0) s)
    s.canon = true ∧ s.quietCore 0 = true ∧ (s.readyEntry 0 .fe 0x60).isSome = true ∧ (s.opndAt (cx .fe ws) 1).ok false none (cx .fe ws).its = true ∧
    (s.opndAt (cx .fe ws) 1).idx.isSome = true ∧ (AMap.get IdxStream.init (t.core 0).streams 3).bound = true ∧
    (AMap.get IdxStream.init (t.core 0).streams 3).total = 2 := by decide +kernel

theorem test_gather : let ws := [hw 0x61 2 0 0 (lo 3 1 0 0)]
    let s := run .fe fe1 ws
    let t := nx (exec (.gather 0) s)
    let a := s.opndAt (cx .fe ws) 1
    let d := s.opndAt (cx .fe ws) 3
    (s.readyEntry 0 .fe 0x61).isSome = true ∧ gatherShapes a d = true ∧ a.ok false none [[]] = true ∧ d.ok true none [[]] = true ∧ a.d.space = spCL ∧
    phases .fe t = [.executed] ∧ t.peek 0 0 8 512 = 4 ∧ t.peek 0 0 8 520 = 1 ∧ (decode (AMap.get zeroCw (s.memOf 0 spCS) 0)).p = false ∧
    (d.d.addrs [] (tuples d.d.used)).Nodup ∧ a.poisoned (cx .fe ws) (s.core 0) = false ∧ d.poisoned (cx .fe ws) (s.core 0) = false := by decide +kernel

theorem test_fcompat : let ws := [hw 0x63 2 0 0 (lo 3 1 0 0)]
    let s := run .fe fe1 ws
    let t := nx (exec (.fcompat 0) s)
    (s.readyEntry 0 .fe 0x63).isSome = true ∧ phases .fe t = [.executed] ∧ t.peek 0 0 8 512 = 4 ∧ t.peek 0 0 8 520 = 1 := by decide +kernel

theorem test_scatter : let ws := [hw 0x62 2 0 0 (lo 5 4 0 0)]
    let s := run .fe fe1 ws
    let t := nx (exec (.scatter 0) s)
    (s.readyEntry 0 .fe 0x62).isSome = true ∧ gatherShapes (s.opndAt (cx .fe ws) 5) (s.opndAt (cx .fe ws) 4) = true ∧
    (s.opndAt (cx .fe ws) 5).ok true none [[]] = true ∧ phases .fe t = [.executed] ∧ t.peek 0 1 32 0 = 0x05030206 := by decide +kernel

/-- Stream 3 of core 0 is bound over two indices, 3 and v, of a row dimension of 4. -/
def bound3 (v : Nat) : State :=
  let s := nx (exec (.gidx 0) (run .fe (cs fe1 0 [v <<< 32 ||| 3]) [hw 0x60 2 0 0 (lo 0 1 0 3)]))
  let r := AMap.get IdxStream.init (s.core 0).streams 3
  s.setCore 0 { s.core 0 with streams := [(3, { r with ahead := 1, vals := [(0, 4)] })] }

theorem test_run_ahead : let r := AMap.get IdxStream.init ((bound3 3).core 0).streams 3
    (bound3 3).engineOn 0 = true ∧ (bound3 3).quietCore 0 = true ∧ (bound3 3).cacheReset = false ∧ ((bound3 3).core 0).slots < 256 ∧
    (decode (AMap.get zeroCw ((bound3 3).memOf 0 r.x.space) (r.idxBit r.ahead / 64))).p = false ∧ r.bound = true ∧ r.stopped = false ∧ r.ahead < r.total ∧ r.ahead < r.drawn + 4096 ∧
    r.x.space ≠ 2 ∧ r.d.space ≠ 2 ∧ inExtent r.x.space (r.x.span (r.place r.ahead).1) = true ∧ inExtent r.d.space (r.d.span (r.place r.ahead).1) = true ∧
    (let z := fun v => AMap.get IdxStream.init ((nx (exec (.runAheadPrefetch 0 3) (bound3 v))).core 0).streams 3
     (z 3).ahead = 2 ∧ AMap.get 0 (z 3).vals 1 = 4 ∧ (z 3).stopped = false ∧ (z 4).stopped = true ∧ (z 4).ahead = 1 ∧
     (z 0xFFFFFFFF).stopped = true) := by decide +kernel

theorem test_move : let ws := [hw 0x70 3 0 0 (lo 2 1 0 0)]
    let s := run .xe vv ws
    let t := nx (exec (.move 0) s)
    s.canon = true ∧ (s.readyEntry 0 .xe 0x70).isSome = true ∧ (s.opndAt (cx .xe ws) 2).ok true none (cx .xe ws).its = true ∧
    (s.opndAt (cx .xe ws) 1).count = (s.opndAt (cx .xe ws) 2).count ∧ phases .xe t = [.executed] ∧ t.peek 0 0 32 544 = 0xFFFFFFFE := by
  decide +kernel

theorem test_move_none : let x := { ent [(hw 0x70 3 0 0 (lo 2 1 0 0)) ||| (1 <<< 51)] with lc := [0, 0, 0, 0] }
    let s := queued vv .xe x
    (s.readyEntry 0 .xe 0x70).isSome = true ∧ (x.ctx 0 .xe false).its = [] ∧ phases .xe (nx (exec (.move 0) s)) = [.executed] ∧
    ((nx (exec (.move 0) s)).core 0).store = (s.core 0).store := by decide +kernel

theorem test_fill_words : let ws := [hw 0x71 3 0 0 (lo 2 0 0 0), 0x1FFFFFFFF]
    let s := run .xe vv ws
    (s.readyEntry 0 .xe 0x71).isSome = true ∧ phases .xe (nx (exec (.fill 0) s)) = [.executed] ∧
    (nx (exec (.fill 0) s)).peek 0 0 64 512 = 0xFFFFFFFFFFFFFFFF := by decide +kernel

/-! ## Memory, comb tiles and peers -/

/-- Weights 3 and −1 in frame 0 (handle 1), activations 2 and 5 (handle 2), tile partials at 128 (handle 3). -/
def cmv0 : State :=
  let s := desc (desc (cs (mem0 4) 0 [0x0502]) 1 (dw 0 2 0 [2, 1] [1, 2] (1 <<< 13))) 2 (dw 0 0 0 [2] [1] 0)
  run .xe (desc s 3 (dw 128 0 8 [1, 1] [1, 1] 0)) [hw 0x72 3 0 0 (lo 3 1 2 0)]

/-- The CMV's words. -/
def cmvWs : List Nat := [hw 0x72 3 0 0 (lo 3 1 2 0)]

/-- A state after the CMV has started, with its comb unit fenced so that the tile is the ME's. -/
def cmv1 : State := nx (exec (.cmv 0) { cmv0 with flt := { cmv0.flt with fenced := [0x5000] }, units := [(0, { CUnit.init with st := .fenced })] })

theorem test_cmv : let t := nx (exec (.cmv 0) cmv0)
    cmv0.canon = true ∧ (cmv0.readyEntry 0 .xe 0x72).isSome = true ∧
    mvOk true false [[]] (cmv0.opndAt (cx .xe cmvWs) 1) (cmv0.opndAt (cx .xe cmvWs) 2) (cmv0.opndAt (cx .xe cmvWs) 3) = true ∧
    ((cmv0.opndAt (cx .xe cmvWs) 1).d.frames [[]]) = [0] ∧ (cmv0.cachedFte 0 0).isSome = true ∧
    phases .xe t = [.running] ∧ (AMap.get CmvRec.init (t.core 0).cmvs 0).left = 1 := by decide +kernel

theorem test_mv_fallback : let t := nx (exec (.mvFallback 0 .clean) cmv1)
    (cmv1.core 0).mvq.length = 1 ∧ cmv1.cacheReset = false ∧ executedEntry ((cmv1.core 0).q.get .me) 0 = none ∧ cmv1.engineOn 0 = true ∧ cmv1.quietCore 0 = true ∧ cmv1.cleanDram = true ∧ (cmv1.core 0).undisp = [] ∧
    (t.core 0).mvq = [] ∧ (AMap.get CmvRec.init (t.core 0).cmvs 0).left = 0 ∧ (t.core 0).cmvs.any (fun r => r.1 == 0) = true ∧
    AMap.rising (t.core 0).cmvs = true ∧ phases .xe (nx (exec (.cmvCompletion 0) t)) = [.executed] ∧
    ((nx (exec (.cmvCompletion 0) t)).core 0).cmvs = [] ∧ t.peek 0 0 32 1024 = 1 := by decide +kernel

/-- Handle 9 of the swarm table is the peer 77, reached by port 2; handle 1 of core 0 describes 8 bytes of frame 0, handle 2 of its store. -/
def peer0 (op ha hd md : Nat) : State :=
  let s := desc (desc (mem0 0) 1 (dw 0 2 0 [8] [1] 0)) 2 (dw 0 0 0 [8] [1] 0)
  let s := { s with swarm := { s.swarm with peers := [(9, ⟨77, true, [(2, 1)], false⟩)] } }
  run .xe s [hw op 3 0 0 (lo hd ha 0 md)]

theorem test_peerput : let s := peer0 0x73 2 1 9
    let t := nx (exec (.peerput 0) s)
    let c := cx .xe [hw 0x73 3 0 0 (lo 1 2 0 9)]
    s.canon = true ∧ s.quietCore 0 = true ∧ (s.core 0).xfers = [] ∧ (s.readyEntry 0 .xe 0x73).isSome = true ∧ peerOfIns c s = some 77 ∧
    remoteOk [[]] (s.opndAt c 1).d = true ∧ (s.opndAt c 2).ok false none [[]] = true ∧ (s.opndAt c 2).count = (s.opndAt c 1).count ∧
    phases .xe t = [.running] ∧ (AMap.get Xfer.init (t.core 0).xfers 0).len = 8 ∧ (AMap.get Xfer.init (t.core 0).xfers 0).peer = 77 ∧
    phases .xe (nx (exec (.peerTransferTimeout 0 0) t)) = [.executed] ∧ ((nx (exec (.peerTransferTimeout 0 0) t)).core 0).xfers = [] ∧
    (let r := t.setCore 0 { t.core 0 with xfers := [(0, { AMap.get Xfer.init (t.core 0).xfers 0 with rsp := 1 })] }
     ((nx (exec (.peerTransferTimeout 0 0) r)).core 0).xfers.length = 1) := by
  decide +kernel

theorem test_peerget : let s := peer0 0x74 1 2 (9 ||| (2 <<< 12))
    let t := nx (exec (.peerget 0) s)
    let c := cx .xe [hw 0x74 3 0 0 (lo 2 1 0 (9 ||| (2 <<< 12)))]
    (s.readyEntry 0 .xe 0x74).isSome = true ∧ remoteOk [[]] (s.opndAt c 1).d = true ∧ (s.opndAt c 2).ok true none [[]] = true ∧
    phases .xe t = [.running] ∧ (AMap.get Xfer.init (t.core 0).xfers 0).got = [0] ∧ (AMap.get Xfer.init (t.core 0).xfers 0).op = 3 := by
  decide +kernel

/-- MIRRORSYNC of frame 0, mirrored and stale or not. -/
def msync (f : Nat) : State := run .xe (desc (mem0 f) 1 (dw 0 2 0 [8] [1] (2 <<< 13))) [hw 0x75 3 0 0 (lo 0 1 0 0)]

theorem test_mirrorsync : let s := msync (8 ||| 64)
    let x := ent [hw 0x75 3 0 0 (lo 0 1 0 0)]
    s.canon = true ∧ (s.readyEntry 0 .xe 0x75).isSome = true ∧ (s.opndAt (x.ctx 0 .xe false) 1).ok false none [[]] = true ∧
    bitOf (s.opndAt (x.ctx 0 .xe false) 1).d.attr 1 = true ∧ s.mirrorWait 0 (x.ctx 0 .xe false) = false ∧ (s.cachedFte 0 0).isSome = true ∧
    ((nx (exec (.mirrorsync 0) s)).core 0).q.xe.map (fun y => (y.phase, y.status)) = [(.executed, 1)] ∧
    ((nx (exec (.mirrorsync 0) (msync 8))).core 0).q.xe.map (fun y => (y.phase, y.status)) = [(.executed, 0)] := by decide +kernel

/-- The tile of the CMV, waiting at unit 0. -/
def tiled : State := nx (exec (.cmv 0) cmv0)

theorem test_tile_sequence : (tiled.cunit 0).cur = none ∧ (tiled.cunit 0).waiting.length = 1 ∧ (tiled.cunit 0).st = .service ∧ tiled.combOn 0 = true ∧
    ((nx (exec (.tileSequence 0) tiled)).cunit 0).cur.isSome = true ∧ ((nx (exec (.tileSequence 0) tiled)).cunit 0).waiting = [] := by
  decide +kernel

theorem test_refresh : let s := ctl0 { Ctl.init with debt := [(95, 8)] }
    AMap.get 0 (s.ctl 0).debt 95 = 8 ∧ s.idxHeld 0 95 = false ∧ s.toRefresh 0 95 = [95] ∧ s.merging 0 95 = false ∧ (s.ctl 0).sr = 0 ∧ (s.ctl 0).pd = 0 ∧ (s.ctl 0).st = .run ∧ s.canon = true ∧
    AMap.get 0 ((nx (exec (.rowCommandIssue 0 0 .clean []) s)).ctl 0).debt 95 = 7 := by decide +kernel

theorem test_act_pre : let s := ctl0 { Ctl.init with q := [req 0 []] }
    let o := ctl0 { Ctl.init with q := [req 0 []], openRow := [(0, 9)] }
    (s.rowList 0)[0]? = some (.act 0 0) ∧ AMap.get 0 ((nx (exec (.rowCommandIssue 0 0 .clean []) s)).ctl 0).openRow 0 = 1 ∧
    (o.rowList 0)[0]? = some (.pre 0) ∧ AMap.get 0 ((nx (exec (.rowCommandIssue 0 0 .clean []) o)).ctl 0).openRow 0 = 0 := by decide +kernel

theorem test_column : let r := ctl0 { Ctl.init with q := [req 0 []], openRow := [(0, 1)] }
    let w : WUpd := ⟨3, fullMask, 9, false⟩
    let s := ctl0 { Ctl.init with q := [req 0 [w]], openRow := [(0, 1)] }
    (r.colList 0)[0]? = some (.serve (req 0 [])) ∧ ((nx (exec (.columnCommandIssue 0 0) r)).ctl 0).q = [] ∧
    ((nx (exec (.columnCommandIssue 0 0) r)).ctl 0).inflight.length = 1 ∧ (s.colList 0)[0]? = some (.serve (req 0 [w])) ∧
    (nx (exec (.columnCommandIssue 0 0) s)).dram = [(3, encode 9 false)] := by decide +kernel

/-- The unit's tile begun, at its first command after SELECT. -/
def begun : State := nx (exec (.tileSequence 0) tiled)

theorem test_comb_column : let b := begun.setUnit 0 { begun.cunit 0 with seq := (begun.cunit 0).seq.tail }
    let s := b.setCtl 0 { b.ctl 0 with select := [(0, 1)] }
    (s.colList 0)[0]? = some (.comb 0) ∧ AMap.get 0 (s.ctl 0).select (unitSid 0) = selectOf 0 ∧
    (match (s.cunit 0).seq with | .cfg mr _ :: _ => mr != 0 | _ => false) = true ∧
    ((nx (exec (.columnCommandIssue 0 0) s)).cunit 0).seq = (s.cunit 0).seq.tail := by decide +kernel

/-- Unit 0 stands before a run of kind 0 of one bank, or in it. -/
def running0 (r : Bool) : State :=
  begun.setUnit 0 { begun.cunit 0 with seq := [.run 0 1], running := r }

theorem test_run : ((running0 false).rowList 0)[0]? = some (.run 0) ∧
    ((nx (exec (.rowCommandIssue 0 0 .clean []) (running0 false))).cunit 0).running = true ∧
    (((running0 true).setCtl 0 { Ctl.init with debt := [(0, 8)] }).cunit 0).runNext = true ∧
    ((nx (exec (.runBoundary 0) ((running0 true).setCtl 0 { Ctl.init with debt := [(0, 8), (1, 2)] }))).cunit 0).owed = 1 ∧
    ((nx (exec (.runBoundary 0) (running0 true))).cunit 0).running = false := by decide +kernel

/-! ## Evacuation, homes, controllers -/

/-- Unit 5 of group 0 in a state, in its ring. -/
def evacuating (cur : Option Evac) (q : List Nat) : State :=
  { base with units := [(5, { CUnit.init with st := .evacuating })], rings := [(0, ⟨q, cur⟩)] }

theorem test_residue : let s := base.setUnit 5 { CUnit.init with limitDue := true }
    s.canon = true ∧ (s.ring (ringOf 5)).cur = none ∧ ((nx (exec (.residueLimit 5) s)).cunit 5).st = .evacuating ∧
    ((nx (exec (.residueLimit 5) s)).ring 0).queue = [5] ∧ (nx (exec (.residueLimit 5) s)).flt.pend = [⟨4, 0x5000, 5⟩] := by decide +kernel

theorem test_calert : let s := base.setUnit 47 { CUnit.init with faultDue := 3 }
    s.combOn 0 = true ∧ 47 ∈ groupUnits 0 ∧ ((nx (exec (.calert 0 []) s)).cunit 47).faultDue = 0 := by decide +kernel

theorem test_evacuation : let s := evacuating none [5]
    (s.cunit 5).st = .evacuating ∧ s.cacheReset = false ∧ s.ring (ringOf 5) = { queue := [5], cur := none } ∧ s.fteKeys = [] ∧ s.host.pend.length < 4095 := by decide +kernel

/-- The last frame, TVA 7 at DPA frame 1, is being copied to DPA frame 2. -/
def copying : State := { evacuating (some ⟨5, [], some (7, 0x101, 2), 0, none, 0, 0⟩) [] with dram := [(2 ^ 14 + 3, encode 6 false)] }

theorem test_frame_copy : (copying.ring (ringOf 5)).cur = some ⟨5, [], some (7, 0x101, 2), 0, none, 0, 0⟩ ∧ copying.heldWrites = [] ∧
    2 ≠ (fteOf 0x101).frame ∧ (fteOf 0x101).frame = 1 ∧ copying.cacheReset = false ∧ copying.cleanDram = true ∧ copying.memIdle = true ∧
    (List.range 4).all (fun d => (copying.die d).lines == []) = true ∧
    (nx (exec (.frameCopyDone 5 false) copying)).dram = copying.dram ∧
    ((nx (exec (.frameCopyDone 5 false) copying)).cunit 5).st = .fenced := by decide +kernel

/-- Every address of the copied frame has a place that its controller serves. -/
theorem test_frame_served (i : Nat) (h : i < 2 ^ 14) :
    ∃ pl, placeOf copying.cfg (8 * ((fteOf 0x101).frame * 2 ^ 14 + i)) = some pl ∧ copying.serves pl = true := by
  have e : (fteOf 0x101).frame = 1 := by decide
  rw [e]
  have t : inTierN (8 * (1 * 2 ^ 14 + i)) = true := by simp [inTierN]; omega
  have g : regionOfDpa copying.cfg (8 * (1 * 2 ^ 14 + i)) = ⟨0, 0, false, 0⟩ := rfl
  refine ⟨_, by simp only [placeOf, t, if_true, g]; rfl, ?_⟩
  rfl

theorem test_home_access : let s := (mem0 0).setDie 0 { (mem0 0).die 0 with inbox := [⟨0x3000, 0, .prefetch 0 3⟩] }
    s.canon = true ∧ s.asleep = false ∧ s.cacheReset = false ∧ s.flt.resetting.contains 0x9000 = false ∧ s.cleanDram = true ∧ ((nx (exec (.homeAccess 0 ⟨none, []⟩) s)).die 0).inbox = [] := by decide +kernel

/-- A duplicate of word 5 of frame 3 for the home of base die 0. -/
theorem test_duplicate : let s := (mem0 0).setDie 1 { BaseDie.init with dups := [⟨[⟨5, fullMask, 8, true⟩], 3, 0x4000, 1⟩] }
    (s.die 1).dups.length = 1 ∧ homeOf s.cfg 40 = 0 ∧ (s.line? 0 0).isSome = true ∧ combAddr s.cfg 40 = false ∧
    ((nx (exec (.mirrorDuplicate 1) s)).line? 0 0).map (fun l => (l.words.getD 5 0, l.dirty)) = some (encode 8 true, true) := by decide +kernel

theorem test_fte_read : let l := fun (w : Word) => (mem0 0).setDie 0 { (mem0 0).die 0 with
        lines := [(0, ⟨zeroCw :: encode w false :: List.replicate 14 zeroCw, false⟩)] }
    (placeOf (l 0).cfg 8).isSome = true ∧ (fteOf 0x301).consistent (l 0).cfg = true ∧ AMap.get [] ((l 0).die 1).ftc (ftcSet 1) = [] ∧
    (nx (exec (.fteRead 1 1) (l 0x301))).cachedFte 1 1 = some (fteOf 0x301) ∧ (nx (exec (.fteRead 1 1) (l 0x300))).cachedFte 1 1 = none := by
  decide +kernel

theorem test_memory_request : let w : WUpd := ⟨3, fullMask, 9, false⟩
    let s := { base with homeOut := [(0, [req 0 [w]])] }
    s.canon = true ∧ AMap.get [] s.homeOut 0 = [req 0 [w]] ∧ (placeOf s.cfg 0).map (fun p => (p.ctl, s.serves p, s.hasRoom p (req 0 [w]))) = some (0, true, true) ∧
    (nx (exec (.memoryRequest 0) s)).homeOut = [] ∧ ((nx (exec (.memoryRequest 0) s)).ctl 0).q.length = 1 := by decide +kernel

theorem test_dram_complete : let r : Req := { req 0 [] with why := .hostRead 1, src := 0x6000 }
    let s := { ctl0 { Ctl.init with inflight := [r] } with dram := [(8, encode 5 true)] }
    let w := ctl0 { Ctl.init with inflight := [req 0 [⟨15, 0xFF, 0x1234, false⟩]] }
    (s.ctl 0).st = .run ∧ (nx (exec (.dramAccessComplete 0 []) s)).host.out = [.memData 64 [5, 0, 0, 0, 0, 0, 0, 0] true] ∧
    (nx (exec (.dramAccessComplete 0 []) w)).dram = [(15, encode 0x34 false)] := by decide +kernel

theorem test_scrub : base.atS7 = true ∧ bitOf base.cfg.scrub.enable 0 = true ∧ (base.ctl 271).st = .run ∧
    (placeOf base.cfg (scrubLine base.cfg 271 0)).map (fun p => (p.ctl, base.serves p)) = some (271, true) ∧
    ((nx (exec (.patrolScrub 271) base)).ctl 271).scrubPos = 1 ∧ ((nx (exec (.patrolScrub 271) base)).ctl 271).q.length = 1 := by decide +kernel

theorem test_refresh_due : let s := base.setCtl 271 { Ctl.init with debt := [(1, 7)] }
    1 ∈ debtList 271 ∧ s.refreshing = true ∧ bitOf (s.ctl 271).sr (partOf 271 ((debtBanks 271 1).headD 0)) = false ∧ (s.ctl 271).refreshes = true ∧ 31 ∈ debtBanks 271 1 ∧ (s.ctl 271).pdOf 271 1 = false ∧
    AMap.get 0 ((nx (exec (.refreshDue 271 1) s)).ctl 271).debt 1 = 8 ∧ (nx (exec (.refreshDue 271 1) s)).ledgGet 3 0 = s.ledgGet 3 0 + 1 := by decide +kernel

theorem test_power_down : let s := base.setCtl 0 { Ctl.init with openRow := [(95, 3)] }
    let t := nx (exec (.powerDownTimer 0 2) s)
    let u := nx (exec (.rowCommandIssue 0 0 .clean []) t)
    2 ∈ partsOf 0 ∧ s.cfg.timers.pd ≠ 0 ∧ s.partIdle 0 2 = true ∧ (t.ctl 0).pdDue = 4 ∧ (t.rowList 0)[0]? = some (.pre 95) ∧
    (u.rowList 0)[0]? = some (.pde 2) ∧ bitOf ((nx (exec (.rowCommandIssue 0 0 .clean []) u)).ctl 0).pd 2 = true ∧
    ((nx (exec (.rowCommandIssue 0 0 .clean []) u)).ctl 0).pdDue = 0 := by decide +kernel

theorem test_caperr : base.asleep = false ∧ ((nx (exec (.caperr 255) base)).ctl 255).st = .frozen ∧ (nx (exec (.caperr 255) base)).flt.pend = [⟨5, 0x40FF, 0⟩] := by
  decide +kernel

/-- Controller 256 is frozen with one write of its first word. -/
def frozen : State :=
  base.setCtl 256 { Ctl.init with st := .frozen, q := [req (2 ^ 40) [⟨2 ^ 37, fullMask, 5, false⟩]] }

theorem test_frozen : frozen.canon = true ∧ frozen.busy = false ∧ frozen.flt.pend = [] ∧ ({ frozen with seqs := solo.seqs } : State).busy = true ∧
    ((nx (exec (.diagWindowExpiry 256 false) { frozen with seqs := solo.seqs })).flt.pend.map (·.row)) = [9] ∧ frozen.hostUp = true ∧ frozen.asleep = false ∧
    ((nx (exec (.release 256 true) frozen)).ctl 256).st = .run ∧ ((nx (exec (.diagWindowExpiry 256 false) frozen)).ctl 256).st = .fenced ∧
    (decode (AMap.get zeroCw (nx (exec (.release 256 true) frozen)).dram (2 ^ 37))).p = true ∧
    (decode (AMap.get zeroCw (nx (exec (.diagWindowExpiry 256 false) frozen)).dram (2 ^ 37))).p = true := by decide +kernel

theorem test_watchdog : let s := { stepping (queued solo .ve (ent [hw 0x51 1 0 0 0])) with regs := [(ledgOff + 0x18, 1)] }
    s.running = true ∧ s.reg (ledgOff + 0x18) ≠ 0 ∧ s.prog.halt = none ∧ s.isLive 0 = true ∧ s.canon = true ∧
    ((nx (exec (.stepWatchdog []) s)).prog.halt.map fun h => h.cause) = some 8 ∧
    s.mayStall 0 .ve = true ∧ s.mayStall 0 .me = false ∧ (nx (exec (.stepWatchdog [0]) s)).flt.pend = [⟨1, 0x1000, 0⟩] ∧ ((nx (exec (.stepWatchdog [0]) s)).seq 0).st = .replay := by decide +kernel

theorem test_losses : let s := solo.setCtl 0 { Ctl.init with ueRows := [(95, [(0, 0), (1, 0), (2, 0), (3, 0)])] }
    s.atS7 = true ∧ s.busy = true ∧ 95 ∈ banksOf 0 ∧ 4 ≤ s.badRows 0 95 ∧ (nx (exec (.bankLoss 0 95) s)).flt.pend = [⟨6, 0x4000, 95⟩] ∧
    AMap.get 0 ((nx (exec (.bankLoss 0 95) s)).ctl 0).lost 95 = 1 ∧ solo.isFenced 0x8003 = false ∧
    (nx (exec (.d2dLinkLoss 3) solo)).flt.pend = [⟨12, 0x8003, 0⟩] ∧ bitOf solo.pins.corePll 0 = true ∧ solo.dorm.st ≠ .entering ∧
    (nx (exec (.corePllLockLoss 0) solo)).flt.pend = [⟨3, 0x3000, 0⟩] ∧ (base.link 3).st ≠ 2 ∧ base.counter (d2dOff 3 + 0x10) < 2 ^ 48 ∧
    (nx (exec (.d2dRetrain 3) base)).counter (d2dOff 3 + 0x10) = 1 := by decide +kernel

/-- Sequencer 0 waits for replay, with a snapshot at PC 64. -/
def replaying (n : Nat) : State :=
  let s := stepping solo
  let x := s.seq 0
  let s := { s with prog := { s.prog with attempts := n } }
  s.setSeq 0 { x with st := .replay, snap := { x.snap with pc := .all 64 } }

theorem test_replay : let s := replaying 3
    s.canon = true ∧ s.flt.pend = [] ∧ s.flt.resetting = [] ∧ s.ctls = [] ∧ s.inReplay = true ∧ s.serviceRow = 0 ∧ s.memIdle = true ∧
    AMap.sum (fun c => c.slots) s.cores = 0 ∧ (List.range 8).all (fun k => s.balanced k && !s.ledgUpset [] k) = true ∧ s.prog.admitted = s.prog.live ∧ s.activeSeqs = [0] ∧ s.liveOf 0 = [0] ∧
    ((nx (exec (.faultReplay [] []) s)).seq 0).pc.xe = 64 ∧ ((nx (exec (.faultReplay [] []) s)).seq 0).st = .run ∧
    ((nx (exec (.faultReplay [] []) (replaying 4))).prog.halt.map fun h => h.cause) = some 8 := by decide +kernel

theorem test_reset_core : let s := solo.setCore 2047 { solo.core 2047 with store := [(1, encode 1 false)] }
    let s := { s with flt := { s.flt with busy := some (0x17FF, false), resetting := [0x17FF] } }
    s.inReplay = false ∧ s.flt.pend = [] ∧ s.flt.homeHeld = [] ∧ ((nx (exec (.perFunctionResetDone true []) s)).core 2047).store = [] ∧
    (nx (exec (.perFunctionResetDone true []) s)).flt.busy = none := by decide +kernel

theorem test_rehydration : let s := { base with flt := { base.flt with rehyd := [⟨1, 3, 5⟩, ⟨2, 3, 5⟩] } }
    (fteOf 3).tier = 1 ∧ s.inReplay = false ∧ s.cacheReset = false ∧ (nx (exec .rehydrationCopy s)).flt.rehyd = [⟨2, 3, 5⟩] ∧ (nx (exec .rehydrationCopy s)).flt.rehydLeft = 1 := by
  decide +kernel

theorem test_halt_complete : let s := { stepping solo with prog := { (stepping solo).prog with halt := some ⟨2, 3, 8, 9⟩ } }
    let s := s.setSeq 0 { s.seq 0 with st := .drain }
    s.enginesIdle = true ∧ s.flt.held = none ∧ s.flt.pend = [] ∧ ((nx (exec .haltComplete s)).seq 0).st = .halted ∧ ((nx (exec .haltComplete s)).seq 0).infoCode = 9 ∧
    (nx (exec .haltComplete s)).host.compl.getD 1 0 = 5 := by decide +kernel

theorem test_evacuated : ((nx (exec (.evacuation 5) (evacuating none [5]))).cunit 5).st = .fenced ∧
    ((nx (exec (.evacuation 5) (evacuating none [5]))).host.pend.map fun e => (e.ty, e.fid)) = [(6, 0x5000)] := by decide +kernel

/-! ## Host port, programs, security -/

theorem test_config_request : base.portUp = true ∧ base.host.pba = [] ∧ (nx (exec (.configRequest .command none) base)).host.out = [.cfgData (base.cfgValue .command)] ∧
    (nx (exec (.configRequest .command (some 2)) base)).host.out = [.cfgOk] ∧ (nx (exec (.configRequest .command (some 2)) base)).host.cs = base.host.cs.write .command 2 ∧
    (nx (exec (.configRequest .command none) (inBoot .s5))).host.out = [.cfgRetry] ∧
    (nx (exec (.configRequest .command none) { base with pins := { base.pins with perst := false } })).host.out = [] := by decide +kernel

theorem test_hdm : let k := nx (exec (.hdmCommit 0 0x1000 (768 * gib) 0 1) base)
    base.memActive = true ∧ k.host.hdm0 = ⟨true, false, 0x1000, 768 * gib, 0⟩ ∧
    (nx (exec (.hdmCommit 0 0 (768 * gib + 2 ^ 28) 0 1) base)).host.hdm0.err = true ∧
    (nx (exec (.hdmCommit 1 0 (512 * gib) (256 * gib) 1) k)).host.hdm1.committed = true ∧
    (nx (exec (.hdmCommit 1 0 (512 * gib) (256 * gib) 1) base)).host.hdm1.err = true := by decide +kernel

/-- An event queue of 2^6 entries at 0x1000, enabled, with one pending event and its producer at the last entry. -/
def eq0 : State :=
  let s := nx (exec (.eqEnable 6) { base with regs := [(hostOff + 8, 0x1000)] })
  { s with host := { s.host with pend := [⟨1, 1, 0x1000, 5, 6, 7⟩], eqProd := 63, eqCons := 9 } }

theorem test_event_write : base.eqOn = false ∧ eq0.eqOn = true ∧ eq0.eqSize = 6 ∧ (eq0.host.eqProd + 1) % 2 ^ eq0.eqSize ≠ eq0.host.eqCons ∧
    (nx (exec .eventWrite eq0)).host.eqProd = 0 ∧ (nx (exec .eventWrite eq0)).host.eqPhase = false ∧ (nx (exec .eventWrite eq0)).host.pend = [] ∧
    (nx (exec .eventWrite eq0)).host.out.length = 1 ∧
    (let v := { eq0 with host := { eq0.host with cs := { eq0.host.cs with msixOn := true }, msix := [(0, 0xFEE00000)] } }
     v.host.vectorOn 0 = true ∧ (nx (exec .eventWrite v)).host.out.length = 2) := by decide +kernel

theorem test_counter_read : let s := { base with cnt := [(0x610, 2 ^ 32 * 3 + 4)] }
    isCounter 0x610 = true ∧ s.counter 0x610 = 2 ^ 32 * 3 + 4 ∧ (nx (exec (.counterLowRead 0x610 0 4) s)).host.out = [.regData 0x610 4] ∧
    (nx (exec (.counterLowRead 0x614 0 4) (nx (exec (.counterLowRead 0x610 0 4) s)))).host.out = [.regData 0x610 4, .regData 0x614 3] ∧
    (nx (exec (.counterLowRead 0x610 0 8) s)).host.out = [.regData 0x610 (s.regValue 0x610)] ∧
    (nx (exec (.counterLowRead 1 0 8) s)).host.out = [.unsupported] := by decide +kernel

theorem test_register_write : let o := { base with unlocked := [ctlFid 271] }
    (nx (exec (.registerWrite 0 0x378 8 (2 ^ 64 - 1)) base)).reg 0x378 = BitVec.ofNat 64 (2 ^ 64 - 1) ∧
    nx (exec (.registerWrite 0 0x3FF8 8 7) base) = base ∧ o.unlocked.contains (ctlFid 271) = true ∧
    (nx (exec (.registerWrite 0 (ctlOff 271 + 0x10) 8 (2 ^ 64 - 1)) o)).reg (ctlOff 271 + 0x10) =
      ((o.reg (ctlOff 271 + 0x10) &&& ~~~(BitVec.ofNat 64 (2 ^ 40 - 1))) ||| BitVec.ofNat 64 (2 ^ 40 - 1)) ∧
    (nx (exec (.registerWrite 0 (ctlOff 271 + 0x10) 8 5) base)).counter 0x610 = 1 ∧
    (nx (exec (.registerWrite 4 1 8 5) base)).host.out = [.unsupported] ∧ (nx (exec (.registerWrite 0 8 2 5) base)).host.out = [.unsupported] := by
  decide +kernel

/-- Tier N is mapped at 0x10000000; the line at DPA 0 is in its home. -/
def mapped : State :=
  let s := mem0 0
  { s with host := { s.host with hdm0 := ⟨true, false, 0x10000000, 768 * gib, 0⟩ } }

/-- The outcome is the fault noDecoder. -/
def noDec (o : Out) : Bool := match o with | .fault .noDecoder => true | _ => false

theorem test_no_decoder : mapped.host.dpaOf 0x0FFFFFC0 = none ∧ noDec (exec (.memRd 0x0FFFFFC0) mapped) = true ∧
    mapped.host.dpaOf (0x10000000 + 768 * gib) = none ∧ noDec (exec (.memWr 0x10000001 [] false) mapped) = true := by decide +kernel

theorem test_mem_read : mapped.canon = true ∧ mapped.memActive = true ∧ mapped.host.dpaOf 0x10000000 = some 0 ∧ mapped.homeReset 0 = false ∧ (mapped.line? 0 0).isSome = true ∧
    (nx (exec (.memRd 0x10000000) mapped)).host.out = [.memData 0 [0xFF03, 0, 0, 0, 0, 0, 0, 0] true] ∧
    (nx (exec (.memRdData 0x10000040) mapped)).host.out = [.memData 64 [0, 0, 0, 0, 0, 0, 0, 0] false] ∧
    nx (exec (.memSpecRd 0x10000000) mapped) = mapped := by decide +kernel

theorem test_mem_read_miss : let r : Req := { id := 0, src := 0x6000, dpa := 128, len := 128, ws := [], keep := false, why := .hostRead 0 }
    mapped.host.dpaOf 0x10000080 = some 128 ∧ mapped.line? 0 1 = none ∧ mapped.homeOut = [] ∧ mapped.forwardable 0 r = none ∧
    (placeOf mapped.cfg 128).map (fun p => (p.ctl, mapped.serves p, mapped.hasRoom p r)) = some (0, true, true) ∧
    ((nx (exec (.memRd 0x10000080) mapped)).ctl 0).q = [{ r with id := (mapped.ctl 0).seq }] := by decide +kernel

theorem test_mem_write : mapped.memIdle = true ∧ mapped.rings = [] ∧ combAddr mapped.cfg 0 = false ∧ ((mapped.line? 0 0).map fun l => l.words.length) = some 16 ∧
    ((nx (exec (.memWr 0x10000040 [1, 2, 3, 4, 5, 6, 7, 8] true) mapped)).line? 0 0).map (fun l => (l.words.getD 15 0, l.words.getD 0 0, l.dirty)) =
      some (encode 8 true, encode 0xFF03 false, true) ∧
    ((nx (exec (.memWrPtl 0x10000000 [0xAABBCC11, 2, 3, 4, 5, 6, 7, 8] (2 ^ 63 + 1) false) mapped)).line? 0 0).map
      (fun l => (decode (l.words.getD 0 0)).d) = some 0xFF11 ∧
    (nx (exec (.memWrPtl 0x10000000 [1, 2, 3, 4, 5, 6, 7, 8] 0 false) mapped)).host.out = [.cmp 0] := by decide +kernel

theorem test_program_write : let bs : List Byte := [8, 7, 6, 5, 4, 3, 2, 1]
    let s := { solo with seqs := [(3, { Seq.init with st := .parked })] }
    (s.seq 3).st ≠ .run ∧ AMap.get zeroCw ((nx (exec (.programMemoryWrite (0x400000 * 3 + 8 * (2 ^ 19 - 1)) bs) s)).seq 3).pm (2 ^ 19 - 1) =
      encode 0x0102030405060708 false := by decide +kernel

/-- Ready for a launch on core 0, the other sequencers parked; MAXSTEP 0 with bit 1, SX11 is 9. -/
def ready : State :=
  { solo with seqs := [(1, { Seq.init with st := .parked }), (2, { Seq.init with st := .parked }), (3, { Seq.init with st := .parked })],
              regs := [(0x300, 2), (0x310, 64), (0x378, 9)] }

theorem test_launch : let t := nx (exec (.launchDb 1) ready)
    ready.busy = false ∧ ready.launchBad = false ∧ ready.flt.pend = [] ∧ ready.serviceRow = 0 ∧ ready.activeSeqs = [0] ∧ ready.liveOf 0 = [0] ∧
    ready.prog.admitted = ready.prog.live ∧ (t.seq 0).st = .run ∧ (t.seq 0).pc.me = 64 ∧ AMap.get 0 (t.seq 0).sx 11 = 9 ∧ t.prog.launchNo = 1 ∧
    solo.busy = true ∧ (nx (exec (.launchDb 1) solo)).host.launchStat % 2 ^ 32 = 1 ∧
    ({ ready with regs := [] } : State).launchBad = true ∧ (nx (exec (.launchDb 1) { ready with regs := [] })).host.launchStat = 3 := by decide +kernel

theorem test_resume : let s := solo.setSeq 0 { solo.seq 0 with st := .halted, cause := 1, pc := .all 72 }
    s.activeSeqs = [0] ∧ s.flt.ended = false ∧ ((nx (exec .resume s)).seq 0).st = .run ∧ ((nx (exec .resume s)).seq 0).pc.ve = 72 := by decide +kernel

/-- All cores are live and no program runs. -/
def full : State := { base with prog := { base.prog with live := BitVec.allOnes 2048, admitted := BitVec.allOnes 2048 } }

theorem test_frst : full.busy = false ∧ full.fnDown 0x17FF = false ∧ (full.fenceFn 0x17FF).serviceRow = 0 ∧
    (nx (exec (.frstFence 0x17FF) full)).flt.busy = some (0x17FF, true) ∧ (nx (exec (.frstReset 0x1000) full)).flt.resetting = [0x1000] ∧
    (nx (exec (.frstReset 0xFFFF) full)).flt.result = 1 ∧ validFid 0xFFFF = false := by decide +kernel

theorem test_frst_refused : let b := { full with flt := { full.flt with busy := some (0x1000, false) } }
    let f := { full with flt := { full.flt with fenced := [0x1001] } }
    (nx (exec (.frstReset 0xFFFF) b)).flt.result = 2 ∧ f.fnDown 0x1001 = true ∧ validFid 0x1001 = true ∧ (nx (exec (.frstFence 0x1001) f)).flt.result = 5 := by
  decide +kernel

theorem test_exp : let o := nx (exec (.expOpen 0x1000 0xC0DE) full)
    validFid 0x1000 = true ∧ bitOf full.cfg.allow 1 = true ∧ full.fnDown 0x1000 = false ∧ o.unlocked = [0x1000] ∧ o.expResult = 0 ∧
    (nx (exec (.expOpen 0x1000 0xC0DF) full)).expResult = 4 ∧
    full.flt.resetting.contains 0x1000 = false ∧ (nx (exec (.expClose 0x1000) o)).unlocked = [] ∧
    (nx (exec (.expClose 0x1000) o)).expResult = 1 := by decide +kernel

/-- SECVER 64 and an owner key in the image. -/
def owned : State := { base with cfg := { base.cfg with secver := 64, owner := true } }

theorem test_sec_cmd : owned.sec.busy = 0 ∧ owned.fuses.sv < min owned.cfg.secver 64 ∧ owned.fuses.ownerKh = 0 ∧ owned.fuses.serial % 2 ^ 32 = 0 ∧
    (nx (exec (.svCommit 0) owned)).sec.busy = 1 ∧ (nx (exec (.svCommit 1) owned)).sec.result = 1 ∧ (nx (exec (.ownerEnrol 0) owned)).sec.busy = 2 ∧
    (nx (exec (.ownerEnrol 0) base)).sec.result = 1 := by decide +kernel

theorem test_sec_done : let c := nx (exec (.svCommit 0) owned)
    c.sec.busy = 1 ∧ (nx (exec (.secCmdDone 63) c)).fuses.sv = 63 ∧ (nx (exec (.secCmdDone 63) c)).sec.busy = 1 ∧
    (nx (exec (.secCmdDone 70) c)).fuses.sv = 64 ∧ (nx (exec (.secCmdDone 70) c)).sec.busy = 0 ∧
    (nx (exec (.secCmdDone 0) (nx (exec (.ownerEnrol 0) owned)))).sec.busy = 0 := by decide +kernel

theorem test_reports : let n : List Byte := List.replicate 32 0
    base.sec.jfail = false ∧ base.sec.next < 1024 ∧ (base.seq 3).dirty = 0 ∧ n.length = 32 ∧ (nx (exec (.getReport 3 true n .kept .kept) base)).sec.next = base.sec.next + 1 ∧
    (nx (exec (.close .kept) base)).sec.closed = true ∧ (inBoot .s5).hostUp = false ∧ (inBoot .s5).host.link ≠ .down ∧
    base.portUp = true ∧ (nx (exec .getIdentity (inBoot .s5))).host.out.length = 1 := by decide +kernel

theorem test_segment_measurement : let s := base.setSeq 3 { base.seq 3 with dirty := 1 <<< 63 }
    bitOf (s.seq 3).dirty 63 = true ∧ s.atS7 = true ∧ s.canon = true ∧ goes (exec (.segmentMeasurement 3 63) s) = true := by decide +kernel

/-! ## Dormant state -/

/-- In L1 with nothing in progress. -/
def resting : State := { base with host := { base.host with link := .l1 }, dies := [(0, { BaseDie.init with lines := [(0, ⟨List.replicate 16 (encode 1 false), true⟩)] })] }

theorem test_dormant_entry : let t := nx (exec .dormantEntry resting)
    resting.canon = true ∧ resting.mayRest = true ∧ t.dorm.st = .entering ∧ t.pins.corePll = 0 ∧ (t.ctl 271).st = .entering ∧
    (placeOf resting.cfg 0).isSome = true ∧ (t.line? 0 0).map (·.dirty) = some false ∧ AMap.wf Line.init (resting.die 0).lines = true := by decide +kernel

theorem test_cancel : let t := nx (exec .dormantEntry resting)
    t.dorm.st = .entering ∧ (nx (exec .wakingEvent t)).dorm.st = .active ∧ ((nx (exec .wakingEvent t)).ctl 0).st = .run ∧
    nx (exec .wakingEvent base) = base := by decide +kernel

/-- Every controller has entered self-refresh. -/
def asleep (d : DormState) : State :=
  { resting with dorm := { resting.dorm with st := d, scrubStopped := true }, dies := [(3, { BaseDie.init with ftc := [(0, [(0, 1)])] })],
                 ctls := (List.range 272).map fun n => (n, { Ctl.init with st := .selfRefresh }) }

theorem test_dormant_entered : (asleep .entering).allAsleep = true ∧ (nx (exec .dormantEntered (asleep .entering))).dorm.st = .dormant ∧
    (nx (exec .dormantEntered (asleep .entering))).dies = [] := by decide +kernel

theorem test_dormant_dirty : let s := { asleep .entering with dies := resting.dies }
    s.allAsleep = true ∧ s.dies.any (fun d => d.2.lines.any fun l => l.2.dirty) = true ∧ (nx (exec .dormantEntered s)).dorm.st = .entering := by decide +kernel

theorem test_wake : let s := asleep .dormant
    s.asleep = true ∧ s.hostUp = true ∧ (nx (exec .wakingEvent s)).dorm.st = .waking ∧ (nx (exec .resume s)).dorm.held = [.resume] ∧
    (nx (exec .resume s)).dorm.st = .waking := by decide +kernel

theorem test_wake_complete : let s := asleep .waking
    s.dorm.held = [] ∧ (nx (exec (.wakeComplete []) s)).dorm.st = .active ∧ ((nx (exec (.wakeComplete []) s)).ctl 271).st = .run ∧
    (nx (exec (.wakeComplete []) s)).pins.corePll = s.pllMask := by decide +kernel

theorem test_gate : (clusterCores 63).all (fun g => !base.coreBusy g) = true ∧ ((nx (exec (.clusterClockGate 63) base)).cluster 63).gated = true := by
  decide +kernel

/-! ## Codes, identity, maps -/

theorem test_code : let w := encode 0xDEADBEEF true
    let o := decode (w ^^^ (1#80 <<< 0) ^^^ (1#80 <<< 79))
    (decode w).cls = .clean ∧ w ^^^ (1#80 <<< 0) ≠ 0 ∧ o.cls = .corrected 2 ∧ o.d = 0xDEADBEEF ∧ o.p = true ∧
    (decode (w ^^^ (1#80 <<< 79))).cls = .corrected 1 ∧ (decode (w ^^^ (1#80 <<< 0) ^^^ (1#80 <<< 1) ^^^ (1#80 <<< 79))).cls = .uncorrectable := by
  decide +kernel

theorem test_fuses_change : goes (exec (.secCmdDone 63) (nx (exec (.svCommit 0) owned))) = true ∧
    (nx (exec (.secCmdDone 63) (nx (exec (.svCommit 0) owned)))).fuses.sv ≠ owned.fuses.sv := by decide +kernel

theorem test_canon : State.reset.canon = true ∧ goes (step { State.reset with pending := [.inputOn] }) = true ∧
    (nx (step { State.reset with pending := [.inputOn] })).canon = true := by decide +kernel

/-! ## Peer links -/

/-- A flit head: VC and SEQ. -/
def fh (vc seq : Nat) : FlitHead := ⟨vc, seq, 0, 0, 0, 0⟩

/-- Port 0 is UP with full credits; the peer 77 is reached by it, the peer 88 by port 4, which is UP too. -/
def linked (s : State) : State :=
  let p : Port := { Port.init with st := .up, lanes := 15, credit := [512, 512, 8192], rxSeq := 4095 }
  { s with ports := [(0, { p with far := 77 }), (4, { p with far := 88 })],
           swarm := { s.swarm with peers := [(9, ⟨77, true, [(0, 1)], false⟩), (10, ⟨88, true, [(4, 2)], false⟩)] } }

/-- The flits port p has sent since, without their heads. -/
def sentBy (p : Nat) (s : State) : List Flit := (s.port p).sent.map (·.2)

/-- A RSP to a serial. -/
def rspTo (dst hops status : Nat) : RspBody := ⟨dst, 77, 3, status, hops⟩

theorem test_flit_order : let s := linked (mem0 0)
    s.canon = true ∧ s.dorm.st = .active ∧ s.hears 0 = true ∧ s.fuses.serial = 0 ∧ sentBy 0 (nx (exec (.rsp 0 (fh 1 0) (rspTo 0 7 0)) s)) = [.retry 4095] ∧
    (s.port 0).waitq = [] ∧ ((nx (exec (.rsp 0 (fh 1 4095) (rspTo 0 7 0)) s)).port 0).rxSeq = 0 ∧ s.xferAt 3 = none := by decide +kernel

/-- A head with every field set, and a DATA body of two words, the second poisoned. -/
def fh9 : FlitHead := ⟨2, 0xABC, 0x123, 1, 2, 3⟩
def data9 : DataBody := ⟨88, 77, 0xFFFF, 0xABCDEF, 6, [(2 ^ 63, false), (9, true)]⟩

theorem test_flit_words : let w0 := headWord 3 fh9
    w0 = 0x0003020100000000 ||| 3 ||| (2 <<< 4) ||| (0xABC <<< 6) ||| (0x123 <<< 18) ∧ headOfWords [w0] = fh9 ∧
    (Flit.data 2 data9).body = [88, 77, 0xFFFF ||| (0xABCDEF <<< 16) ||| (2 <<< 40) ||| (6 <<< 45), 2 ^ 63, 9] ∧
    (Flit.data 2 data9).tail = 2 ∧ (Flit.retry 0xFFF).ftype = 5 := by decide +kernel

/-- The CRC-32 of IEEE 802.3 over the digits 1 to 9, its published check value. -/
theorem test_crc : crc32 ((List.range 9).map fun i => BitVec.ofNat 8 (0x31 + i)) = 0xCBF43926 := by decide +kernel

theorem test_forward : let s := linked (mem0 0)
    s.portsTo 88 = [4] ∧ sentBy 4 (nx (exec (.rsp 0 (fh 1 4095) (rspTo 88 1 0)) s)) = [.rsp (rspTo 88 0 0)] ∧
    (nx (exec (.rsp 0 (fh 1 4095) (rspTo 88 0 0)) s)).counter (peerOff 0 + 0x40) = 1 ∧ s.portsTo 99 = [] ∧
    (nx (exec (.rsp 0 (fh 1 4095) (rspTo 99 7 0)) s)).counter (peerOff 0 + 0x40) = 1 := by decide +kernel

/-- Core 0 waits for a response in slot 3: a PUT, or a GET with a word to come. -/
def waits (op : Nat) (got : List Nat) : State :=
  let s := linked (mem0 0)
  let x : Xfer := { Xfer.init with active := true, qid := 0, op := op, peer := 77, space := 0, width := 32, places := [64 * 5 + 1, 64 * 5 + 33], got := got }
  (s.setCore 0 { s.core 0 with xfers := [(3, x)], q := ⟨[], [], [], [{ ent [hw 0x74 3 0 0 0] with phase := .running }]⟩ })

theorem test_rsp : let r := fun st s => nx (exec (.rsp 0 (fh 1 4095) (rspTo 0 7 st)) s)
    let q := fun s : State => (s.core 0).q.xe.map fun e => (e.phase, e.status)
    (waits 1 []).canon = true ∧ ((waits 1 []).xferAt 3).isSome = true ∧ q (r 0 (waits 1 [])) = [(.executed, 0)] ∧ q (r 1 (waits 1 [])) = [(.executed, 1)] ∧
    q (r 5 (waits 1 [])) = [(.executed, 1)] ∧ ((r 5 (waits 1 [])).core 0).xfers = [] ∧ q (r 1 (waits 2 [0])) = [(.running, 0)] ∧
    [2, 3, 4].map (fun st => (r st (waits 1 [])).prog.halt.map fun h => h.cause) = [some 5, some 4, some 6] := by decide +kernel

theorem test_get_data : let s := waits 2 [0]
    let t := nx (exec (.data 0 (fh 2 4095) ⟨0, 77, 3, 0, 7, [(0x5500000055, true)]⟩) s)
    s.quietCore 0 = true ∧ AMap.get zeroCw (t.memOf 0 0) 5 = encode 0x5500000055 true ∧ (AMap.get Xfer.init (t.core 0).xfers 3).got = [] := by decide +kernel

/-- The remote descriptor of 8 bytes of frame 0. -/
def remote (space : Nat) : List Word := (dw 0 space 0 [8] [1] 0).map (BitVec.ofNat 64) ++ List.replicate 6 0

/-- A REQ of the peer 77. -/
def reqOf (op len space : Nat) : ReqBody := ⟨0, 77, 5, op, 7, len, remote space⟩

theorem test_req_put : let s := linked (mem0 0)
    let t := nx (exec (.req 0 (fh 0 4095) (reqOf 1 8 2)) s)
    let d := reqDesc (reqOf 1 8 2)
    d.ok true [[]] = true ∧ d.space = spTVA ∧ d.plain = true ∧ d.packed = 8 ∧ d.frames [[]] = [0] ∧ (s.cachedFte 0 0).isSome = true ∧ s.swarm.early = [] ∧
    t.swarm.targets = [⟨77, 5, remote 2, 0, [0], 0, false, 0⟩] ∧
    s.portsTo 77 = [0] ∧ sentBy 0 (nx (exec (.req 0 (fh 0 4095) (reqOf 1 9 2)) s)) = [.idle, .rsp ⟨77, 0, 5, 4, 7⟩] ∧
    s.cacheReset = false ∧ (s.port 0).held.length = 3 := by decide +kernel

theorem test_req_get : let s := linked (mem0 0)
    s.prog.inStep = false ∧ sentBy 0 (nx (exec (.req 0 (fh 0 4095) (reqOf 2 8 2)) s)) =
      [.idle, .data 1 ⟨77, 0, 5, 0, 7, [(0xFF03, false)]⟩, .rsp ⟨77, 0, 5, 0, 7⟩] := by decide +kernel

theorem test_put_data : let s := linked (mem0 0)
    let tg : Target := ⟨77, 5, (dw 0 2 7 [2] [1] 0).map (BitVec.ofNat 64) ++ List.replicate 6 0, 0, [0], 0, false, 0⟩
    let b : DataBody := ⟨0, 77, 5, 0, 7, [(0x66, false)]⟩
    let r := { s with swarm := { s.swarm with targets := [{ tg with refused := 4 }] } }
    (nx (exec (.data 0 (fh 0 4095) b) s)).swarm.early = [⟨0, 0, b⟩] ∧ (nx (exec (.data 0 (fh 0 4095) b) r)).swarm.targets = [] ∧
    (let y := { s with swarm := { s.swarm with targets := [tg] } }
     let d := descOf (tg.desc.map (·.toNat))
     fmtWidth d.fmt = 32 ∧ ((d.addrs [] (tuples d.used)).drop 0).take 2 = [0, 32] ∧ (y.cachedFte 0 0).isSome = true ∧
     y.rings = [] ∧ y.homeOut = [] ∧ y.heldWrites = [] ∧ combAddr y.cfg 0 = false ∧ (placeOf y.cfg 0).isSome = true ∧
     ((nx (exec (.data 0 (fh 0 4095) b) y)).line? 0 0).map (fun l => (l.words.getD 0 0, l.dirty)) = some (encode 0x66 false, true) ∧
     (nx (exec (.data 0 (fh 0 4095) b) y)).swarm.targets = []) := by decide +kernel

theorem test_idle_retry : let s := linked (mem0 0)
    let q := { s.port 0 with replay := [(4, .retry 1), (5, .retry 2), (6, .retry 3)], retrySeq := 5, retryRun := 15 }
    let s := s.setPort 0 q
    ((nx (exec (.idle 0 ⟨0, 0, 5, 1, 2, 3⟩) s)).port 0).replay = [(6, .retry 3)] ∧ ((nx (exec (.idle 0 ⟨0, 0, 5, 1, 2, 3⟩) s)).port 0).credit = [513, 514, 8195] ∧
    sentBy 0 (nx (exec (.retry 0 5 (fh 0 0)) s)) = [.retry 2, .retry 3] ∧ ((nx (exec (.retry 0 5 (fh 0 0)) s)).port 0).retrainDue = true ∧
    ((nx (exec (.retry 0 6 (fh 0 0)) s)).port 0).retryRun = 1 ∧ sentBy 0 (nx (exec (.resync 0 ⟨6, 1, 2, 3, 15⟩ (fh 0 0)) s)) = [.retry 3] ∧
    ((nx (exec (.resync 0 ⟨6, 1, 2, 3, 15⟩ (fh 0 0)) s)).port 0).credit = [1, 2, 3] ∧ sentBy 0 (nx (exec (.flitCrcFail 0 true) s)) = [.retry 4095] ∧
    ((nx (exec (.flitCrcFail 0 true) s)).port 0).fecRun = 1 := by decide +kernel

/-- A HELLO of a serial in swarm w without a neighbour's entries. -/
def helloOf (src w : Nat) : HelloBody := ⟨src, 2, 15, 0, 0, 1, w, List.replicate 24 0, List.replicate 24 0⟩

theorem test_hello : let s := linked (mem0 0)
    1 ≤ s.hopLimit ∧ nx (exec (.hello 0 (helloOf 77 1) (fh 0 0)) s) = s ∧ ((nx (exec (.hello 0 (helloOf 0 0) (fh 0 0)) s)).port 0).st = .loop ∧
    s.handleOf 88 = some 10 ∧ (AMap.get Peer.init (nx (exec (.hello 0 (helloOf 88 0) (fh 0 0)) s)).swarm.peers 10).routes = [(4, 2), (0, 1)] ∧
    s.handleOf 99 = none ∧ ((nx (exec (.hello 0 (helloOf 99 0) (fh 0 0)) s)).handleOf 99).isSome = true ∧
    ((nx (exec (.hello 0 (helloOf 99 0) (fh 0 0)) s)).port 0).far = 99 := by decide +kernel

theorem test_hello_send : let s := linked (mem0 0)
    (s.port 0).st = .up ∧ (sentBy 0 (nx (exec (.helloSend 0) s))).length = 1 ∧ ((nx (exec (.helloSend 0) s)).port 0).page = 1 := by decide +kernel

theorem test_route_expiry : let s := linked (mem0 0)
    let t := s.setPeer 9 ⟨77, true, [(0, 1), (4, 3)], false⟩
    (AMap.get Peer.init (nx (exec (.routeExpiry 0 77) t)).swarm.peers 9).routes = [(4, 3)] ∧
    (AMap.get Peer.init (nx (exec (.routeExpiry 0 77) s)).swarm.peers 9).valid = false := by decide +kernel

theorem test_retrain : let s := linked (mem0 0)
    let q := { s.port 0 with retrainDue := true }
    let r := fun m rec => (nx (exec (.portRetrain 0 m 15) (s.setPort 0 { q with recent := rec }))).port 0
    (r 15 []).lanes = 15 ∧ (r 0 []).st = .down ∧ (r 15 [0, 0, 0]).lanes = 3 ∧ (r 8 []).lanes = 8 ∧ (r 15 []).sent.length = 1 := by decide +kernel

theorem test_cable : let s := linked (mem0 0)
    s.portOn 7 = true ∧ bitOf s.pins.pprsnt 7 ≠ false ∧ ((nx (exec (.pprsntChange 7 false) s)).port 7).st = .training ∧
    ((nx (exec (.pprsntChange 7 true) (nx (exec (.pprsntChange 7 false) s)))).port 7).st = .down ∧ (inBoot .s3).portOn 7 = false := by decide +kernel

theorem test_port_up : let s := base.setPort 7 { Port.init with st := .training }
    s.portOn 7 = true ∧ (s.port 7).waitq = [] ∧ ((nx (exec (.peerPortUp 7 12) s)).port 7).st = .up ∧ ((nx (exec (.peerPortUp 7 12) s)).port 7).lanes = 12 ∧
    ((nx (exec (.peerPortUp 7 12) s)).port 7).credit = [512, 512, 8192] ∧ ((nx (exec (.peerPortUp 7 0) s)).port 7).st = .down := by decide +kernel

end Sys2Proof.Tests
end

section
/-! PROOFS. Writes of BAR 0 registers (R10, R13, R404, R495, R498): what reaches a register, which bits take the written value, and where
the registers of the map stand. -/

namespace Sys2Proof.Machine

variable {s : State}

/-! ## From the command to the register -/

/-- While the module is active and its host port serves, a register write is performed at once. -/
theorem exec_registerWrite_active (hd : s.dorm.st = .active) (hu : s.hostUp = true) (bar off size v : Nat) :
    exec (.registerWrite bar off size v) s = .next (s.barWrite bar off size v) := by
  change execRegisterWrite bar off size v s = _
  rw [execRegisterWrite, State.barServe, if_pos hu, State.serve_active hd]

/-- BAR 0 and BAR 4 refuse a write of a size other than 4 and 8 bytes, and one that is not naturally aligned (R404). -/
theorem State.barWrite_refuse {bar off size : Nat} (hb : bar = 0 ∨ bar = 4) (h : (size ≠ 4 ∧ size ≠ 8) ∨ off % size ≠ 0) (v : Nat) :
    s.barWrite bar off size v = s.refuse := by
  have h2 : bar ≠ 2 := by omega
  simp only [State.barWrite, if_neg h2, if_pos (Or.inr h)]

/-- An aligned 8-byte write of BAR 0 covers every bit of one register. -/
theorem State.barWrite_word {off v : Nat} (ha : off % 8 = 0) (ho : off < 0x4000000) (hv : v < 2 ^ 64) :
    s.barWrite 0 off 8 v = s.regWrite off v allBits := by
  have hbase : off / 8 * 8 = off := by omega
  have hmod : v % 2 ^ (8 * 8) = v := Nat.mod_eq_of_lt hv
  have hsize : ¬((0 ≠ 0 ∧ 0 ≠ 4) ∨ (8 ≠ 4 ∧ 8 ≠ 8) ∨ off % 8 ≠ 0) := by omega
  simp only [State.barWrite, hbase, hmod, Nat.sub_self, Nat.mul_zero, Nat.shiftLeft_zero, if_neg hsize, if_pos ho]
  rfl

/-- A write of a register without WO fields, outside the event queue's, only changes its stored bits. -/
theorem State.regWrite_plain {off : Nat} (hq : off ≠ hostOff + 8 ∧ off ≠ hostOff + 0x10) (hw : (regDesc off).wo = 0) (v cover : Nat) :
    s.regWrite off v cover = s.plainWrite off v cover := by
  obtain ⟨hbase, hctrl⟩ := hq
  simp only [State.regWrite, if_neg hctrl, hbase, false_and, if_false, hw, Nat.zero_and, if_true]

/-! ## Stored bits -/

/-- All 64 bits, as a word. -/
theorem ofNat_allBits : BitVec.ofNat 64 allBits = BitVec.allOnes 64 := rfl

/-- The merge of a write, on words: covered RW bits, and EXP bits where the unlock is open, take v; covered W1C bits clear by a 1. -/
theorem ofNat_mergeReg (d : RegDesc) (openE : Bool) (old : Word) (v cover : Nat) :
    BitVec.ofNat 64 (mergeReg d openE old.toNat v cover) =
      let w := BitVec.ofNat 64 (cover &&& (d.rw ||| (if openE then d.exp else 0)))
      ((old &&& ~~~w) ||| (BitVec.ofNat 64 v &&& w)) &&& ~~~(BitVec.ofNat 64 (v &&& cover &&& d.w1c)) := by
  simp only [mergeReg, BitVec.ofNat_and, BitVec.ofNat_or, BitVec.ofNat_xor, ofNat_allBits, BitVec.allOnes_xor, BitVec.ofNat_toNat,
    BitVec.setWidth_eq]

/-- A full write of a register without W1C bits: w is what the write reaches. -/
theorem ofNat_mergeReg_full {d : RegDesc} (h : d.w1c = 0) (openE : Bool) (old : Word) (v : Nat) :
    BitVec.ofNat 64 (mergeReg d openE old.toNat v allBits) =
      let w := BitVec.ofNat 64 (d.rw ||| (if openE then d.exp else 0))
      (old &&& ~~~w) ||| (BitVec.ofNat 64 v &&& w) := by
  have hnot : ~~~(BitVec.ofNat 64 0) = BitVec.allOnes 64 := rfl
  simp only [ofNat_mergeReg, h, Nat.and_zero, hnot, BitVec.and_allOnes, BitVec.ofNat_and, ofNat_allBits, BitVec.allOnes_and]

/-- A full write of a register that is all RW stores the written value. -/
theorem ofNat_mergeReg_rw (openE : Bool) (old : Word) (v : Nat) :
    BitVec.ofNat 64 (mergeReg (.ofRw allBits) openE old.toNat v allBits) = BitVec.ofNat 64 v := by
  rw [ofNat_mergeReg_full rfl]
  simp only [RegDesc.ofRw, ite_self, Nat.or_zero, ofNat_allBits, BitVec.not_allOnes, BitVec.and_zero, BitVec.zero_or, BitVec.and_allOnes]

/-- A full write of a register with EXP bits m alone: m takes the value with the unlock open, and keeps its bits otherwise. -/
theorem ofNat_mergeReg_exp (openE : Bool) (old : Word) (m v : Nat) :
    BitVec.ofNat 64 (mergeReg (.ofExp m) openE old.toNat v allBits) =
      if openE then (old &&& ~~~(BitVec.ofNat 64 m)) ||| BitVec.ofNat 64 (v &&& m) else old := by
  rw [ofNat_mergeReg_full rfl]
  cases openE
  case true => simp only [RegDesc.ofExp, if_true, Nat.zero_or, BitVec.ofNat_and]
  case false =>
    simp only [RegDesc.ofExp, Bool.false_eq_true, if_false, Nat.or_zero, BitVec.not_zero, BitVec.and_allOnes, BitVec.and_zero,
      BitVec.or_zero]

/-- A register without RW, EXP and W1C bits is not changed by a write (R10, R13). -/
theorem State.plainWrite_ro {off : Nat} (h : regDesc off = .ro) (v cover : Nat) : s.plainWrite off v cover = s := by
  simp [State.plainWrite, h, RegDesc.ro]

/-- A full write of a register that is all RW sets it. -/
theorem State.plainWrite_rw {off : Nat} (h : regDesc off = .ofRw allBits) (hk : off ≠ hkOff + 0x18) (v : Nat) :
    s.plainWrite off v allBits = s.setReg off (BitVec.ofNat 64 v) := by
  have hst : (RegDesc.ofRw allBits).rw ||| (RegDesc.ofRw allBits).exp ||| (RegDesc.ofRw allBits).w1c ≠ 0 := by decide
  have hexp : (RegDesc.ofRw allBits).exp &&& allBits = 0 := by decide
  simp only [State.plainWrite, h, hexp, hk, hst, ne_eq, not_true_eq_false, false_and, if_false, ofNat_mergeReg_rw]

/-- A full write of a register with EXP bits alone stores their merge; with the owner's unlock closed it is counted first (R498). -/
theorem State.plainWrite_exp {off m : Nat} (h : regDesc off = .ofExp m) (hm : m &&& allBits ≠ 0) (hk : off ≠ hkOff + 0x18)
    {openE : Bool} (ho : s.unlocked.contains (expOwner off) = openE) (v : Nat) :
    s.plainWrite off v allBits =
      let t := if openE then s else s.bump 0x610
      t.setReg off (if openE then (t.reg off &&& ~~~(BitVec.ofNat 64 m)) ||| BitVec.ofNat 64 (v &&& m) else t.reg off) := by
  have hm0 : m ≠ 0 := fun e => hm (by rw [e, Nat.zero_and])
  have hst : (RegDesc.ofExp m).rw ||| (RegDesc.ofExp m).exp ||| (RegDesc.ofExp m).w1c ≠ 0 := by simpa [RegDesc.ofExp] using hm0
  have hexp : (RegDesc.ofExp m).exp &&& allBits ≠ 0 := hm
  simp only [State.plainWrite, h, ho, hk, hst, hexp, ne_eq, not_false_eq_true, true_and, false_and, if_false, ofNat_mergeReg_exp]
  cases openE <;> rfl

/-! ## Places of the register map (Table 17.5) -/

/-- The launch-descriptor words are RW in full. -/
theorem regDesc_launch {i : Nat} (hi : i < 16) : regDesc (0x300 + 8 * i) = .ofRw allBits := by
  have hb : blockAt (0x300 + 8 * i) = (.glb, 0x300 + 8 * i) := if_pos (by omega)
  simp only [regDesc, hb]
  rw [if_neg (by omega), if_neg (by omega), if_pos (by omega)]

/-- The blocks of the 272 controllers. -/
theorem blockAt_ctlOff {n r : Nat} (hn : n < 272) (hr : r < 0x1000) : blockAt (ctlOff n + r) = (.ctl n, r) := by
  have hdiv : (ctlOff n + r - 0x1400000) / 0x1000 = n := by unfold ctlOff; omega
  have hmod : (ctlOff n + r) % 0x1000 = r := by unfold ctlOff; omega
  have hlo : 0x1400000 ≤ ctlOff n + r := by unfold ctlOff; omega
  have hhi : ctlOff n + r < 0x1510000 := by unfold ctlOff; omega
  unfold blockAt
  rw [if_neg (by omega), if_neg (by omega), if_neg (by omega), if_neg (by omega), if_neg (by omega), if_pos hhi, hdiv, hmod]

/-- A controller's timing register has an EXP field, its low 40 bits. -/
theorem regDesc_timing {n : Nat} (hn : n < 272) : regDesc (ctlOff n + 0x10) = .ofExp (2 ^ 40 - 1) := by
  simp only [regDesc, blockAt_ctlOff hn (show 0x10 < 0x1000 by decide)]
  rfl

/-- The controller owns the EXP fields of its block. -/
theorem expOwner_ctlOff {n r : Nat} (hn : n < 272) (hr : r < 0x1000) : expOwner (ctlOff n + r) = ctlFid n := by
  simp only [expOwner, blockAt_ctlOff hn hr, blockFid]

/-! ## Writes of the registers -/

/-- A full write of a read-only or unassigned register of the GLB block changes nothing. -/
theorem exec_registerWrite_ro (hd : s.dorm.st = .active) (hu : s.hostUp = true) {off v : Nat} (hv : v < 2 ^ 64) (ha : off % 8 = 0)
    (ho : off < 0x100000) (h : regDesc off = .ro) : exec (.registerWrite 0 off 8 v) s = .next s := by
  rw [exec_registerWrite_active hd hu, State.barWrite_word ha (by omega) hv,
    State.regWrite_plain (by unfold hostOff; omega) (by rw [h]; rfl), State.plainWrite_ro h]

/-- A full write of a launch-descriptor word sets it. -/
theorem exec_registerWrite_launch (hd : s.dorm.st = .active) (hu : s.hostUp = true) {i v : Nat} (hv : v < 2 ^ 64) (hi : i < 16) :
    exec (.registerWrite 0 (0x300 + 8 * i) 8 v) s = .next (s.setReg (0x300 + 8 * i) (BitVec.ofNat 64 v)) := by
  have h := regDesc_launch hi
  rw [exec_registerWrite_active hd hu, State.barWrite_word (by omega) (by omega) hv,
    State.regWrite_plain (by unfold hostOff; omega) (by rw [h]; rfl), State.plainWrite_rw h (by unfold hkOff; omega)]

/-- A full write of a controller's timing register acts on its stored bits alone. -/
theorem exec_registerWrite_timing (hd : s.dorm.st = .active) (hu : s.hostUp = true) {n v : Nat} (hv : v < 2 ^ 64) (hn : n < 272) :
    exec (.registerWrite 0 (ctlOff n + 0x10) 8 v) s = .next (s.plainWrite (ctlOff n + 0x10) v allBits) := by
  have h := regDesc_timing hn
  rw [exec_registerWrite_active hd hu, State.barWrite_word (by unfold ctlOff; omega) (by unfold ctlOff; omega) hv,
    State.regWrite_plain (by unfold hostOff ctlOff; omega) (by rw [h]; rfl)]

/-- With the controller's unlock open, the timing register's field takes the written value. -/
theorem State.plainWrite_timing_open {n : Nat} (hn : n < 272) (ho : s.unlocked.contains (ctlFid n) = true) (v : Nat) :
    s.plainWrite (ctlOff n + 0x10) v allBits =
      s.setReg (ctlOff n + 0x10) ((s.reg (ctlOff n + 0x10) &&& ~~~(BitVec.ofNat 64 (2 ^ 40 - 1))) ||| BitVec.ofNat 64 (v % 2 ^ 40)) := by
  rw [← expOwner_ctlOff hn (r := 0x10) (by decide)] at ho
  rw [State.plainWrite_exp (regDesc_timing hn) (by decide) (by unfold ctlOff hkOff; omega) ho, Nat.and_two_pow_sub_one_eq_mod]
  rfl

/-- With the controller's unlock closed, a write of the timing register is counted and leaves what it held. -/
theorem State.plainWrite_timing_closed {n : Nat} (hn : n < 272) (ho : s.unlocked.contains (ctlFid n) = false) (v : Nat) :
    s.plainWrite (ctlOff n + 0x10) v allBits = (s.bump 0x610).setReg (ctlOff n + 0x10) ((s.bump 0x610).reg (ctlOff n + 0x10)) := by
  rw [← expOwner_ctlOff hn (r := 0x10) (by decide)] at ho
  rw [State.plainWrite_exp (regDesc_timing hn) (by decide) (by unfold ctlOff hkOff; omega) ho]
  rfl

/-- Writing a register back as it reads changes no register. -/
theorem State.reg_setReg_self (h : s.canon = true) (i j : Nat) : (s.setReg i (s.reg i)).reg j = s.reg j := by
  rw [State.reg_setReg h]
  split
  · next e => rw [e]
  · rfl

/-- Below the overflow, one more event adds one to its counter and changes no register. -/
theorem State.bump_small (h : s.canon = true) {off : Nat} (hc : s.counter off < 2 ^ 48) :
    (s.bump off).counter off = s.counter off + 1 ∧ ∀ i, (s.bump off).reg i = s.reg i := by
  have e : s.bump off = { s with cnt := AMap.set 0 s.cnt off (BitVec.ofNat 64 (s.counter off + 1)) } :=
    State.bumpN_small s off 1 (by omega)
  rw [e]
  refine ⟨?_, fun _ => rfl⟩
  show (AMap.get 0 (AMap.set 0 s.cnt off _) off).toNat = _
  rw [AMap.get_set_same 0 (AMap.rising_of_wf (State.canon_cnt h)), BitVec.toNat_ofNat]
  exact Nat.mod_eq_of_lt (by omega)

end Sys2Proof.Machine

open Sys2Proof Sys2Proof.Machine

/-- Settles O49: each register's description gives the bits a full write stores; the timing register's owner is its controller. -/
theorem registerWritesObeyTheirFields : Obligations.RegisterWritesObeyTheirFields := by
  unfold Obligations.RegisterWritesObeyTheirFields
  intro s v hc hd hu hv
  refine ⟨fun i hi => ?launch, exec_registerWrite_ro hd hu hv (by decide) (by decide) rfl,
    exec_registerWrite_ro hd hu hv (by decide) (by decide) rfl, fun n hn => ⟨fun ho => ?unlocked, fun ho hsmall => ?locked⟩,
    fun bar off hb => ⟨?unaligned, ?odd⟩⟩
  case launch =>
    refine ⟨_, exec_registerWrite_launch hd hu hv hi, ?_, fun off hoff => ?_, rfl⟩
    · rw [State.reg_setReg hc, if_pos rfl]
    · rw [State.reg_setReg hc, if_neg hoff]
  case unlocked =>
    refine ⟨_, exec_registerWrite_timing hd hu hv hn, ?_⟩
    rw [State.plainWrite_timing_open hn ho]
    exact ⟨by rw [State.reg_setReg hc, if_pos rfl], rfl⟩
  case locked =>
    obtain ⟨hcount, hregs⟩ := State.bump_small hc hsmall
    refine ⟨_, exec_registerWrite_timing hd hu hv hn, ?_⟩
    rw [State.plainWrite_timing_closed hn ho]
    exact ⟨fun off => by rw [State.reg_setReg_self (State.canon_bump hc _), hregs], hcount⟩
  case unaligned =>
    rw [exec_registerWrite_active hd hu, State.barWrite_refuse hb (Or.inr (by omega))]
    rfl
  case odd =>
    rw [exec_registerWrite_active hd hu, State.barWrite_refuse hb (Or.inl (by decide))]
    rfl

end

section
/-! SUPPORT. Folds over the state that keep a property or leave a part alone, and the entries of a sparse map: what a listed key reads as,
and a fold in which one entry alone acts. -/

namespace Sys2Proof.Machine

/-! ## Folds over the state -/

/-- What holds of a state and is kept by each application to an element of the list holds after a fold over it. -/
theorem foldl_keeps_mem {β : Type} {P : State → Prop} {f : State → β → State} :
    ∀ (xs : List β) (t : State), (∀ t x, x ∈ xs → P t → P (f t x)) → P t → P (xs.foldl f t)
  | [], _, _, h => h
  | x :: xs, t, hf, h =>
    foldl_keeps_mem xs (f t x) (fun t y hy => hf t y (List.mem_cons_of_mem x hy)) (hf t x (List.mem_cons_self ..) h)

/-- What no application changes in a state, no fold changes. -/
theorem foldl_view {α β : Type} (v : State → α) {f : State → β → State} (hf : ∀ t x, v (f t x) = v t) (xs : List β) (t : State) :
    v (xs.foldl f t) = v t :=
  foldl_keeps (P := fun u => v u = v t) (fun u x hu => (hf u x).trans hu) xs t rfl

/-- A fold whose steps all leave the state is no change. -/
theorem foldl_fixed {β : Type} {f : State → β → State} (xs : List β) (t : State) (h : ∀ x ∈ xs, f t x = t) : xs.foldl f t = t :=
  foldl_keeps_mem (P := (· = t)) xs t (fun u x hx hu => by rw [hu]; exact h x hx) rfl

/-- What holds of a state and is kept by each step of a fold that also gathers values holds after it. -/
theorem foldl_keeps_snd {β γ : Type} {P : State → Prop} {f : γ × State → β → γ × State} (hf : ∀ c t x, P t → P (f (c, t) x).2) :
    ∀ (xs : List β) (c : γ) (t : State), P t → P (xs.foldl f (c, t)).2
  | [], _, _, h => h
  | x :: xs, c, t, h => foldl_keeps_snd hf xs (f (c, t) x).1 (f (c, t) x).2 (hf c t x h)

/-- A fold that also gathers values leaves alone what each of its steps does. -/
theorem foldl_view_snd {α β γ : Type} (v : State → α) {f : γ × State → β → γ × State} (hf : ∀ c t x, v (f (c, t) x).2 = v t)
    (xs : List β) (c : γ) (t : State) : v (xs.foldl f (c, t)).2 = v t :=
  foldl_keeps_snd (P := fun u => v u = v t) (fun c u x hu => (hf c u x).trans hu) xs c t rfl

/-! ## Entries of a map -/

/-- Every key listed in a map above b is above b. -/
theorem AMap.lt_of_mem_above {α : Type} {b : Nat} {e : Nat × α} : ∀ {m : AMap α}, AMap.above b m = true → e ∈ m → b < e.1
  | (j, v) :: m, h, he => by
    simp only [AMap.above, Bool.and_eq_true, decide_eq_true_eq] at h
    obtain rfl | he := List.mem_cons.mp he
    · exact h.1
    · exact AMap.lt_of_mem_above h.2 he

/-- A listed entry is what its key reads as. -/
theorem AMap.get_of_mem {α : Type} (d : α) {e : Nat × α} : ∀ {m : AMap α}, AMap.rising m = true → e ∈ m → AMap.get d m e.1 = e.2
  | (j, v) :: m, h, he => by
    simp only [AMap.rising, Bool.and_eq_true] at h
    obtain ⟨hj, hm⟩ := h
    obtain rfl | he := List.mem_cons.mp he
    · exact if_pos rfl
    · have hlt := AMap.lt_of_mem_above hj he
      rw [AMap.get, if_neg (by omega), if_neg (by omega)]
      exact AMap.get_of_mem d hm he

/-- A key that does not read as the default is listed with what it reads as. -/
theorem AMap.mem_of_get_ne {α : Type} {d : α} {k : Nat} : ∀ {m : AMap α}, AMap.get d m k ≠ d → (k, AMap.get d m k) ∈ m
  | [], h => absurd rfl h
  | (j, v) :: m, h => by
    unfold AMap.get at h ⊢
    split at h
    · next e => rw [if_pos e, e]; exact List.mem_cons_self ..
    · next e =>
      rw [if_neg e]
      split at h
      · exact absurd rfl h
      · next e' => rw [if_neg e']; exact List.mem_cons_of_mem _ (AMap.mem_of_get_ne h)

/-- A fold over a map in which only the entry of one key acts is that entry's step. -/
theorem AMap.foldl_only {α : Type} {f : State → Nat × α → State} {k : Nat} {v : α} :
    ∀ {m : AMap α}, AMap.rising m = true → (k, v) ∈ m → (∀ t, ∀ x ∈ m, x.1 ≠ k → f t x = t) → ∀ t, m.foldl f t = f t (k, v)
  | (j, w) :: m, hr, hm, hf, t => by
    simp only [AMap.rising, Bool.and_eq_true] at hr
    obtain ⟨hj, hr⟩ := hr
    obtain he | hm := List.mem_cons.mp hm
    · rw [he, List.foldl_cons]
      refine foldl_fixed m _ fun x hx => hf _ x (List.mem_cons_of_mem _ hx) ?_
      have hlt := AMap.lt_of_mem_above hj hx
      have hk : k = j := congrArg Prod.fst he
      omega
    · have hlt := AMap.lt_of_mem_above hj hm
      rw [List.foldl_cons, hf t (j, w) (List.mem_cons_self ..) (Nat.ne_of_lt hlt)]
      exact AMap.foldl_only hr hm (fun t x hx => hf t x (List.mem_cons_of_mem _ hx)) t

end Sys2Proof.Machine
end

section
/-! PROOFS. Pins, power and the first states of start-up (R19 to R29, R36, R42, R50, R443): what the removal of rails and a start leave,
what MRST#, the input and PERST# do, and which state the straps, the slot headers and the rails choose. -/

namespace Sys2Proof.Machine

variable {s : State}

/-! ## The removal of rails and the start (R35, R444) -/

/-- The removal of rails leaves everything outside the AON domain as cleared. -/
theorem State.discarded_removeRails (s : State) : s.removeRails.discarded := by
  simp [State.discarded, State.removeRails, State.reset]

/-- A start begins fresh. -/
theorem State.freshStart_startUp (s : State) : s.startUp.freshStart := by
  simp [State.freshStart, State.discarded, State.startUp, State.removeRails, State.reset, Boot.init]

/-- HOLD has no rail on, and everything outside the AON domain is as cleared. -/
theorem State.discarded_hold (s : State) (cause : Nat) : (s.hold cause).discarded := s.discarded_removeRails

/-! ## MRST# (R22) -/

/-- Without a thermal shutdown, MRST# low removes the rails. -/
theorem exec_mrstLow_rails (ha : s.pins.aonOn = true) (hi : s.pins.inputOn = true) (hs : s.hk.shutdown = false) :
    exec .mrstLow s = .next (State.removeRails { s with pins := { s.pins with mrst := false } }) := by
  change execMrstLow s = _
  simp [execMrstLow, ha, hi, hs]

/-- While a thermal shutdown holds, MRST# low changes the pin's level alone. -/
theorem exec_mrstLow_shutdown (hs : s.hk.shutdown = true) :
    exec .mrstLow s = .next { s with pins := { s.pins with mrst := false } } := by
  change execMrstLow s = _
  simp [execMrstLow, hs]

/-- MRST# going high with power and no thermal shutdown begins the start. -/
theorem exec_mrstHigh_starts (hm : s.pins.mrst = false) (ha : s.pins.aonOn = true) (hi : s.pins.inputOn = true)
    (hs : s.hk.shutdown = false) : exec .mrstHigh s = .next (State.startUp { s with pins := { s.pins with mrst := true } }) := by
  change execMrstHigh s = _
  simp [execMrstHigh, hm, ha, State.mayStart, hi, hs]

/-- While a thermal shutdown holds, MRST# high changes the pin's level alone. -/
theorem exec_mrstHigh_shutdown (hs : s.hk.shutdown = true) :
    exec .mrstHigh s = .next { s with pins := { s.pins with mrst := true } } := by
  change execMrstHigh s = _
  simp [execMrstHigh, State.mayStart, hs]

/-- The state of a thermal restart before the start: the shutdown and THERMTRIP# released (R454). -/
def State.released (s : State) : State :=
  { s with hk := { s.hk with shutdown := false }, boot := { s.boot with thermRestart := true }, pins := { s.pins with thermtrip := false } }

/-- A thermal restart after 16 cool rounds starts with MRST# high, and only releases the shutdown with it low. -/
theorem exec_thermalRestart_cool (hs : s.hk.shutdown = true) (hr : 16 ≤ s.hk.coolRounds) (hi : s.pins.inputOn = true) :
    exec .thermalRestart s = .next (if s.pins.mrst then s.released.startUp else s.released) := by
  change execThermalRestart s = _
  simp [execThermalRestart, hs, hr, hi, State.mayStart, State.released]

/-! ## The input (R28, R29) -/

/-- The input meets an off condition: what the module keeps, and what is lost. -/
theorem State.inputOff_keeps (hi : s.pins.inputOn = true) :
    s.inputOff.pins.inputOn = false ∧ s.inputOff.pins.rails = 0 ∧ s.inputOff.pins.aonOn = s.pins.aonOn ∧
    s.inputOff.pins.unclean = true ∧ s.inputOff.boot.st = .off ∧ s.inputOff.discarded ∧ s.inputOff.nor.mem = s.nor.mem ∧
    s.inputOff.nor.busy = s.nor.busy ∧ s.inputOff.nor.queue = [] ∧ s.inputOff.fuses = s.fuses := by
  have h : s.inputOff = { (s.fatal 3 0 0).removeRails with
      pins := { (s.fatal 3 0 0).removeRails.pins with inputOn := false, holdUp := true, unclean := true },
      nor := { (s.fatal 3 0 0).removeRails.nor with queue := [] } } := by
    simp [State.inputOff, hi]
  rw [h]
  exact ⟨rfl, rfl, rfl, rfl, rfl, (s.fatal 3 0 0).discarded_removeRails, rfl, rfl, rfl, rfl⟩

/-- The NOR as the hold-up leaves it: a page program in progress carried out, an erase left where it stood. -/
def State.heldUp (s : State) : State :=
  match s.nor.busy with
  | some (.prog a d w) => s.norApply (.prog a d w)
  | some op => s.norPartial op
  | none => s

/-- An operation left where it stood touches the NOR and the use of free values alone. -/
theorem State.norPartial_keeps (s : State) (op : NorOp) : (s.norPartial op).pins = s.pins ∧ (s.norPartial op).fuses = s.fuses ∧
    (s.norPartial op).host = s.host ∧ (s.norPartial op).pending = s.pending := by
  fun_cases State.norPartial s op
  · exact ⟨rfl, rfl, rfl, rfl⟩
  · exact ⟨rfl, rfl, rfl, rfl⟩

/-- The hold-up touches the NOR and the use of free values alone. -/
theorem State.heldUp_keeps (s : State) : s.heldUp.pins = s.pins ∧ s.heldUp.fuses = s.fuses ∧ s.heldUp.host = s.host ∧
    s.heldUp.pending = s.pending := by
  unfold State.heldUp
  split
  · exact ⟨rfl, rfl, rfl, rfl⟩
  · exact s.norPartial_keeps _
  · exact ⟨rfl, rfl, rfl, rfl⟩

/-- What the hold-up's expiry answers. -/
theorem exec_holdUpExpiry_off (hh : s.pins.holdUp = true) (hi : s.pins.inputOn = false) :
    exec .holdUpExpiry s = .next { State.reset with
      pins := { s.pins with aonOn := false, holdUp := false, thermtrip := false }, nor := { Nor.init with mem := s.heldUp.nor.mem },
      fuses := s.fuses, host := { HostPort.init with out := s.host.out }, freeCtr := s.heldUp.freeCtr, pending := s.pending } := by
  obtain ⟨hp, hf, ho, hq⟩ := s.heldUp_keeps
  rw [← hp, ← hf, ← ho, ← hq]
  change execHoldUpExpiry s = _
  simp only [execHoldUpExpiry, hh, hi, and_self, if_true]
  rfl

/-! ## Straps and rails (R19, R36, R443) -/

/-- The straps as S0 samples them choose boundary scan, S1 or HOLD, in that order. -/
theorem exec_strapSample_s0 (h : s.boot.st = .s0) (mhold bscan : Bool) :
    let t := { s with pins := { s.pins with mhold := mhold, bscan := bscan } }
    exec (.strapSample mhold bscan) s = .next (
      if bscan then { t with boot := { t.boot with st := .bscan }, pins := { t.pins with rails := vioRail } }
      else if mhold then { t with boot := { t.boot with st := .s1 } }
      else t.hold 0x0B) := by
  change execStrapSample mhold bscan s = _
  simp only [execStrapSample, h, if_true]

/-- In S3 rails and PLLs in order lead to S4; a fault leads to HOLD. -/
theorem exec_railSequence_s3 (h : s.boot.st = .s3) (ok : Bool) :
    exec (.railSequence ok) s = .next (
      if ok then { s with boot := { s.boot with st := .s4 }, pins := { s.pins with rails := allRails } } else s.hold 8) := by
  change execRailSequence ok s = _
  simp only [execRailSequence, h, if_true]

/-! ## Slot headers (R42, R50) -/

/-- The state that has taken what the slots' headers say: each slot's cause, and the candidates in their rank. -/
def State.headersTaken (s : State) : State :=
  { s with boot := { s.boot with headersRead := true, cands := s.rankSlots, failA := s.slotCause 0, failB := s.slotCause 1 } }

/-- What S1 answers before the headers are read: HOLD for a NOR that does not answer or has no usable table, else the headers are taken,
and with no candidate HOLD. -/
theorem exec_slotHeadersRead_s1 (hst : s.boot.st = .s1) (hr : s.boot.headersRead = false) (j f : Nat) (q : QuadForm) :
    exec (.slotHeadersRead j f q) s = .next (
      if j = 0 ∨ j = 0xFFFFFF then s.hold 1 else if f ≠ 0x50444653 ∨ q = .absent then s.hold 2
      else if s.rankSlots = [] then s.headersTaken.hold 0 else s.headersTaken) := by
  change execSlotHeadersRead j f q s = _
  rw [execSlotHeadersRead, if_pos ⟨hst, hr⟩]
  rfl

/-- With neither slot excluded, the ranking goes by SECVER, then SEQ, then slot A first. -/
theorem State.rankSlots_both (ha : s.slotCause 0 = 0) (hb : s.slotCause 1 = 0) :
    s.rankSlots = if s.hdr 0 0x10 8 < s.hdr 1 0x10 8 ∨ (s.hdr 0 0x10 8 = s.hdr 1 0x10 8 ∧ s.hdr 0 0x18 8 < s.hdr 1 0x18 8)
      then [1, 0] else [0, 1] := by
  simp [State.rankSlots, ha, hb]

/-- Slot B excluded leaves slot A alone. -/
theorem State.rankSlots_a (ha : s.slotCause 0 = 0) (hb : s.slotCause 1 ≠ 0) : s.rankSlots = [0] := by
  simp [State.rankSlots, ha, hb]

/-- Slot A excluded leaves slot B alone. -/
theorem State.rankSlots_b (ha : s.slotCause 0 ≠ 0) (hb : s.slotCause 1 = 0) : s.rankSlots = [1] := by
  simp [State.rankSlots, ha, hb]

/-- Both slots excluded leave none. -/
theorem State.rankSlots_none (ha : s.slotCause 0 ≠ 0) (hb : s.slotCause 1 ≠ 0) : s.rankSlots = [] := by
  simp [State.rankSlots, ha, hb]

end Sys2Proof.Machine

open Sys2Proof Sys2Proof.Machine

/-- Settles O3: MRST# low removes the rails and its return starts, unless a thermal shutdown holds. -/
theorem mrstLowRemovesRails : Obligations.MrstLowRemovesRails := by
  unfold Obligations.MrstLowRemovesRails
  intro s ha hi
  refine ⟨fun hs => ⟨_, _, exec_mrstLow_rails ha hi hs, rfl, ha, rfl, State.discarded_removeRails _, rfl, rfl, rfl,
    exec_mrstHigh_starts rfl ha hi hs, State.freshStart_startUp _, rfl⟩,
    fun hs => ⟨exec_mrstLow_shutdown hs, exec_mrstHigh_shutdown hs, fun hr => ⟨_, exec_thermalRestart_cool hs hr hi, ?_⟩⟩⟩
  cases hm : s.pins.mrst
  case true => exact ⟨rfl, rfl, fun _ => State.freshStart_startUp _, nofun⟩
  case false => exact ⟨rfl, rfl, nofun, fun _ => ⟨rfl, rfl⟩⟩

/-- Settles O4: the removal of rails keeps the NOR, and the hold-up completes a page program. -/
theorem inputOffKeepsAonAndNor : Obligations.InputOffKeepsAonAndNor := by
  unfold Obligations.InputOffKeepsAonAndNor
  refine fun s => ⟨fun hi c hc => ⟨s.inputOff, ?_, State.inputOff_keeps hi⟩, fun hh hi => ⟨_, exec_holdUpExpiry_off hh hi, rfl, rfl, ?_, rfl,
    fun a ds w hb => ?_, fun hb => ?_⟩⟩
  · obtain rfl | rfl : c = .undervoltageOff ∨ c = .overvoltageOff := by simpa using hc
    · rfl
    · rfl
  · exact State.discarded_removeRails State.reset
  · simp only [State.heldUp, hb, State.norApply]
  · simp only [State.heldUp, hb]

/-- Settles O6: the straps by cases, the headers by the causes and ranks of the two slots, the rails by their one outcome. -/
theorem strapsHeadersAndRailsChooseTheNextState : Obligations.StrapsHeadersAndRailsChooseTheNextState := by
  unfold Obligations.StrapsHeadersAndRailsChooseTheNextState
  refine ⟨fun s => ⟨fun h => ⟨fun mh => ⟨_, exec_strapSample_s0 h mh true, rfl, rfl⟩, ⟨_, exec_strapSample_s0 h false false, rfl, rfl, rfl⟩,
      ⟨_, exec_strapSample_s0 h true false, rfl, rfl⟩⟩,
    fun h => ⟨⟨_, exec_railSequence_s3 h true, rfl, rfl⟩, ⟨_, exec_railSequence_s3 h false, rfl, rfl, rfl, s.discarded_hold 8⟩⟩⟩,
    fun s j f q hst hr => ?_⟩
  have hx := exec_slotHeadersRead_s1 hst hr j f q
  refine ⟨fun hj => ⟨s.hold 1, ?_, rfl, rfl⟩, fun h0 h1 hf => ⟨s.hold 2, ?_, rfl, rfl⟩, fun h0 h1 hf hq => ?_⟩
  · rw [hx, if_pos hj]
  · rw [hx, if_neg (by simp [h0, h1]), if_pos hf]
  rw [if_neg (by simp [h0, h1]), if_neg (by simp [hf, hq])] at hx
  by_cases ha : s.slotCause 0 = 0
  · by_cases hb : s.slotCause 1 = 0
    · have hc := State.rankSlots_both ha hb
      rw [if_neg (by rw [hc]; split <;> simp)] at hx
      refine ⟨_, hx, rfl, rfl, fun h => absurd ha h, fun _ h => absurd hb h, fun h => absurd ha h, fun _ _ => ⟨hst, fun hv => ?_, fun hv => ?_,
        fun hv hs => ?_, fun hv hs => ?_⟩⟩
      · exact hc.trans (if_pos (Or.inl hv))
      · exact hc.trans (if_neg (by omega))
      · exact hc.trans (if_pos (Or.inr ⟨hv, hs⟩))
      · exact hc.trans (if_neg (by omega))
    · have hc := State.rankSlots_a ha hb
      rw [if_neg (by simp [hc])] at hx
      exact ⟨_, hx, rfl, rfl, fun h => absurd ha h, fun _ _ => ⟨hst, hc⟩, fun h => absurd ha h, fun _ h => absurd h hb⟩
  · by_cases hb : s.slotCause 1 = 0
    · have hc := State.rankSlots_b ha hb
      rw [if_neg (by simp [hc])] at hx
      exact ⟨_, hx, rfl, rfl, fun _ h => absurd hb h, fun h => absurd h ha, fun _ _ => ⟨hst, hc⟩, fun h => absurd h ha⟩
    · rw [if_pos (State.rankSlots_none ha hb)] at hx
      exact ⟨_, hx, rfl, rfl, fun _ _ => rfl, fun h => absurd h ha, fun _ h => absurd h hb, fun h => absurd h ha⟩
end

section
/-! PROOFS. The reset of the host port (R21, R415): what it touches, and that EQ_CTRL.EN stays clear. -/

namespace Sys2Proof.Machine

variable {s : State}

/-! ## Registers returned to their image values (R10, R500) -/

/-- The return of a function's EXP fields keeps the form, and a register without EXP bits reads as before. -/
theorem State.revertExp_plain (h : s.canon = true) (fid : Nat) {off : Nat} (hx : (regDesc off).exp = 0) :
    (s.revertExp fid).canon = true ∧ (s.revertExp fid).reg off = s.reg off := by
  unfold State.revertExp
  refine foldl_keeps_mem (P := fun t => t.canon = true ∧ t.reg off = s.reg off) _ s (fun t e he ht => ?_) ⟨h, rfl⟩
  obtain ⟨hc, hr⟩ := ht
  refine ⟨State.canon_setReg hc _ _, ?_⟩
  rw [State.reg_setReg hc]
  split
  · next heq =>
    have hget : s.reg e.1 = e.2 := AMap.get_of_mem _ (State.canon_regs h) (List.mem_filter.mp he).1
    have hm : ~~~(BitVec.ofNat 64 0) = BitVec.allOnes 64 := rfl
    rw [heq, hget, ← heq, hx, hm, BitVec.and_allOnes]
    exact (congrArg (e.2 ||| ·) BitVec.and_zero).trans BitVec.or_zero
  · exact hr

/-! ## What the reset of the host port touches (R415) -/

/-- The state without what the port's reset may change beside the port itself: registers, the requests in flight, held requests, the
unlocks and the use of free values. -/
def State.besideHostReset (s : State) : State :=
  { s with regs := [], freeCtr := 0, ctls := [], dies := [], homeOut := [], heldWrites := [], dorm := .init, unlocked := [] }

theorem State.besideHostReset_setReg (s : State) (i : Nat) (v : Word) : (s.setReg i v).besideHostReset = s.besideHostReset := rfl

theorem State.besideHostReset_closeUnlock (s : State) (fid : Nat) : (s.closeUnlock fid).besideHostReset = s.besideHostReset := rfl

theorem State.besideHostReset_lpgResult (s : State) (base lanes : Nat) (ok : Bool) :
    (s.lpgResult base lanes ok).besideHostReset = s.besideHostReset := by
  unfold State.lpgResult
  simp only
  rw [foldl_view State.besideHostReset fun t i => ?_, State.besideHostReset_setReg]
  split
  · rw [State.besideHostReset_setReg]
  · rw [State.besideHostReset_setReg]
    rfl

theorem State.besideHostReset_lpgRun (s : State) (base lanes : Nat) : (s.lpgRun base lanes).besideHostReset = s.besideHostReset := by
  unfold State.lpgRun
  simp only
  split
  · rw [State.besideHostReset_setReg, State.besideHostReset_lpgResult]
    rfl
  · rfl

theorem State.besideHostReset_revertExp (s : State) (fid : Nat) : (s.revertExp fid).besideHostReset = s.besideHostReset := by
  unfold State.revertExp
  rw [foldl_view State.besideHostReset fun t e => State.besideHostReset_setReg ..]

theorem State.besideHostReset_putLine (s : State) (d la : Nat) (l : Line) : (s.putLine d la l).besideHostReset = s.besideHostReset := rfl

theorem State.besideHostReset_dropHostReqs (s : State) : s.dropHostReqs.besideHostReset = s.besideHostReset := by
  rw [← foldl_view State.besideHostReset (fun t (r : Req) => State.besideHostReset_putLine t (homeOf t.cfg r.dpa) (r.dpa / 128) Line.init)
    ((s.homeOut.flatMap (·.2)).filter fun r => r.src == 0x6000 && r.ws != []) s]
  rfl

/-- The reset as far as the port's requests and its unlock: those in flight are discarded, the unlock is closed. -/
def State.hostStopped (s : State) : State := ((s.lpgRun hostOff 16).dropHostReqs).closeUnlock 0xA000

/-- The reset as far as the port's registers: EQ_CTRL.EN is clear, the EXP fields at their image values. -/
def State.hostRegsCleared (s : State) : State :=
  (s.hostStopped.setReg (hostOff + 0x10) (s.hostStopped.reg (hostOff + 0x10) &&& ~~~(1 : Word))).revertExp 0xA000

/-- The port's own fields as the reset leaves them. -/
def HostPort.afterReset (h : HostPort) : HostPort :=
  { h with hdm0 := .init, hdm1 := .init, cs := .init, eqGroup := false, msix := [], pba := [] }

theorem State.resetHost_eq (s : State) : s.resetHost = { s.hostRegsCleared with host := s.hostRegsCleared.host.afterReset } := rfl

theorem State.besideHostReset_hostStopped (s : State) : s.hostStopped.besideHostReset = s.besideHostReset := by
  rw [State.hostStopped, State.besideHostReset_closeUnlock, State.besideHostReset_dropHostReqs, State.besideHostReset_lpgRun]

theorem State.besideHostReset_hostRegsCleared (s : State) : s.hostRegsCleared.besideHostReset = s.besideHostReset := by
  rw [State.hostRegsCleared, State.besideHostReset_revertExp, State.besideHostReset_setReg, State.besideHostReset_hostStopped]

/-- Beside those, the reset changes the host port alone. -/
theorem State.besideHostReset_resetHost (s : State) :
    s.resetHost.besideHostReset = { s.besideHostReset with host := s.host.afterReset } := by
  have h := s.besideHostReset_hostRegsCleared
  have hh : s.hostRegsCleared.host = s.host := (congrArg State.host h :)
  rw [State.resetHost_eq, hh, ← h]
  rfl

/-! ## The requests of the port that are discarded keep the form -/

/-- New queues of the controllers and homes in canonical form keep the form, whatever else waits. -/
theorem State.canon_with_requests (h : s.canon = true) {m : AMap Ctl} {n : AMap (List Req)} (ws : List HeldWrite) (d : Dormant)
    (hm : AMap.wf Ctl.init m = true) (hn : AMap.wf [] n = true) :
    State.canon { s with ctls := m, homeOut := n, heldWrites := ws, dorm := d } = true := by
  simp only [State.canon, State.canonUnits, State.canonRest, Bool.and_eq_true] at h ⊢
  simp only [h, hm, hn, and_self]

theorem State.canon_with_freeCtr (h : s.canon = true) (n : Nat) : State.canon { s with freeCtr := n } = true := h

theorem State.canon_lpgResult (h : s.canon = true) (base lanes : Nat) (ok : Bool) : (s.lpgResult base lanes ok).canon = true := by
  unfold State.lpgResult
  simp only
  apply foldl_keeps (P := fun t => t.canon = true)
  · intro t i ht
    split
    · exact State.canon_setReg ht _ _
    · exact State.canon_setReg (State.canon_with_freeCtr ht _) _ _
  · exact State.canon_setReg h _ _

theorem State.canon_lpgRun (h : s.canon = true) (base lanes : Nat) : (s.lpgRun base lanes).canon = true := by
  unfold State.lpgRun
  simp only
  split
  · exact State.canon_setReg (State.canon_lpgResult (State.canon_with_freeCtr h _) ..) _ _
  · exact h

theorem State.canon_putLine (h : s.canon = true) (d la : Nat) (l : Line) : (s.putLine d la l).canon = true := State.canon_setDie h _ _

theorem State.canon_dropHostReqs (h : s.canon = true) : s.dropHostReqs.canon = true := by
  unfold State.dropHostReqs
  extract_lets lost u
  have hu : u.canon = true := foldl_keeps (P := fun t => t.canon = true) (fun t r ht => State.canon_putLine ht _ _ _) lost s h
  clear_value u
  exact State.canon_with_requests hu _ _ (AMap.wf_mapVals (State.canon_ctls hu)) (AMap.wf_mapVals (State.canon_homeOut hu))

theorem State.canon_closeUnlock (h : s.canon = true) (fid : Nat) : (s.closeUnlock fid).canon = true := h

theorem State.canon_hostStopped (h : s.canon = true) : s.hostStopped.canon = true :=
  State.canon_closeUnlock (State.canon_dropHostReqs (State.canon_lpgRun h _ _)) _


/-- EQ_CTRL.EN is clear once the port has been reset. -/
theorem State.eqOn_resetHost (h : s.canon = true) : s.resetHost.eqOn = false := by
  have hu := State.canon_hostStopped h
  have hr : s.hostRegsCleared.reg (hostOff + 0x10) = s.hostStopped.reg (hostOff + 0x10) &&& ~~~(1 : Word) := by
    rw [State.hostRegsCleared, (State.revertExp_plain (State.canon_setReg hu _ _) 0xA000 (by decide)).2, State.reg_setReg hu, if_pos rfl]
  have hb : ∀ w : Word, bitOf w.toNat 0 = w.getLsbD 0 := fun w => by
    rw [BitVec.getLsbD, Nat.testBit_zero]
    rfl
  have he : s.resetHost.eqOn = bitOf (s.hostRegsCleared.reg (hostOff + 0x10)).toNat 0 := rfl
  rw [he, hr, hb]
  simp

theorem State.unlocked_revertExp (s : State) (fid : Nat) : (s.revertExp fid).unlocked = s.unlocked :=
  foldl_view State.unlocked (fun _ _ => State.setReg_unlocked ..) _ s

/-- The port's unlock is closed once the port has been reset. -/
theorem State.unlocked_resetHost (s : State) : 0xA000 ∉ s.resetHost.unlocked := by
  have h : s.resetHost.unlocked = s.hostStopped.unlocked := State.unlocked_revertExp _ 0xA000
  rw [h, State.hostStopped, State.closeUnlock]
  simp

/-! ## PERST# and the host link (R20, R21, R24) -/

/-- The state with PERST# low. -/
def State.perstIsLow (s : State) : State := { s with pins := { s.pins with perst := false } }

/-- The state with the host link down. -/
def State.hostLinkDown (s : State) : State := { s with host := { s.host with link := .down, width := 0, rate := 0, degraded := false } }

/-- After S7, PERST# going low resets the host port, and its link is down. -/
theorem exec_perstLow_s7 (h7 : s.atS7 = true) (h : s.pins.perst = true) :
    exec .perstLow s = .next s.perstIsLow.resetHost.hostLinkDown := by
  have h7' : s.perstIsLow.atS7 = true := h7
  change execPerstLow s = _
  rw [execPerstLow, h, if_pos rfl, ← State.perstIsLow, if_pos h7']
  rfl

/-- Before S7, PERST# going low takes the host link down. -/
theorem exec_perstLow_before (h7 : s.atS7 = false) (h : s.pins.perst = true) :
    exec .perstLow s = .next s.perstIsLow.hostLinkDown := by
  have h7' : ¬s.perstIsLow.atS7 = true := by rw [show s.perstIsLow.atS7 = false from h7]; decide
  change execPerstLow s = _
  rw [execPerstLow, h, if_pos rfl, ← State.perstIsLow, if_neg h7']
  rfl

/-- From S4 on with PERST# high, what a change of the host link's state answers. -/
theorem exec_hostLinkStateChange_s4 (st : LinkState) (w r : Nat)
    (hb : s.boot.st = .s4 ∨ s.boot.st = .s5 ∨ s.boot.st = .s6 ∨ s.boot.st = .s7) (hp : s.pins.perst = true) :
    let up := st != .down
    let msg := if st = .l0 then false else s.host.msgWaiting
    exec (.hostLinkStateChange st w r) s = .next { s with
      host := { s.host with link := st, width := if up then w else 0, rate := if up then r else 0,
                            degraded := up && (decide (w < 4) || decide (r < 4)), msgWaiting := msg },
      pins := { s.pins with wake := if st = .l0 then false else if st = .l2 then msg else s.pins.wake } } := by
  change execHostLinkStateChange st w r s = _
  rw [execHostLinkStateChange, if_pos ⟨hp, hb⟩]

end Sys2Proof.Machine

open Sys2Proof Sys2Proof.Machine

/-- Settles O5: the port's reset by what it touches and what it clears, the pins and the link by the one state each command answers. -/
theorem perstResetsOnlyTheHostPort : Obligations.PerstResetsOnlyTheHostPort := by
  unfold Obligations.PerstResetsOnlyTheHostPort
  refine fun s => ⟨fun h7 hp hc => ?_, fun h7 hp => ?_, rfl, fun st w r hb hp => ⟨_, exec_hostLinkStateChange_s4 st w r hb hp, rfl, ?_, ?_, ?_,
    rfl, rfl⟩⟩
  · have hf := State.besideHostReset_resetHost s.perstIsLow
    have hh := congrArg State.host hf
    exact ⟨_, exec_perstLow_s7 h7 hp, (congrArg (·.pins.perst) hf :), rfl, (congrArg HostPort.hdm0 hh :), (congrArg HostPort.hdm1 hh :),
      (congrArg HostPort.cs hh :), (congrArg HostPort.msix hh :), (congrArg HostPort.pba hh :),
      State.eqOn_resetHost (s := s.perstIsLow) hc, State.unlocked_resetHost s.perstIsLow, (congrArg HostPort.pend hh :),
      (congrArg State.seqs hf :), (congrArg State.prog hf :), (congrArg State.cores hf :), (congrArg State.clusters hf :),
      (congrArg State.units hf :), (congrArg State.dram hf :), (congrArg State.nor hf :), (congrArg State.boot hf :)⟩
  · exact ⟨_, exec_perstLow_before h7 hp, rfl, rfl, rfl⟩
  · intro hst
    have hup : (st != .down) = true := by simpa using hst
    simp [hup]
  · intro hst
    simp [hst]
  · intro hst
    simp [hst]
end

section
/-! PROOFS. What an access to memory leaves alone: reads and writes of the four spaces, through the die caches, the frame translation and
the controllers, change counters, events, faults and the memories themselves, and nothing of the links, the pins' levels, start-up, the
AON domain, the fuses or the configuration. -/

namespace Sys2Proof.Machine

variable {s : State}

/-- The state without what an access to memory may change: the memories with their controllers, counters and registers, the pending
store, the faults met and what a fault stops. -/
def State.offMemory (s : State) : State :=
  { s with pins := { s.pins with corePll := 0 }, host := .init, ledg := [], freeCtr := 0, cnt := [], regs := [], firstOvf := 0, novf := 0,
           flt := { s.flt with pend := [] }, seqs := [], prog := .init, cores := [], clusters := [], units := [], dies := [], ctls := [], dram := [],
           homeOut := [], heldWrites := [], dorm := .init }

/-! ## The shared operations -/

@[simp] theorem State.offMemory_setReg (s : State) (i : Nat) (v : Word) : (s.setReg i v).offMemory = s.offMemory := rfl
@[simp] theorem State.offMemory_setCore (s : State) (i : Nat) (v : Core) : (s.setCore i v).offMemory = s.offMemory := rfl
@[simp] theorem State.offMemory_setCluster (s : State) (i : Nat) (v : Cluster) : (s.setCluster i v).offMemory = s.offMemory := rfl
@[simp] theorem State.offMemory_setCtl (s : State) (i : Nat) (v : Ctl) : (s.setCtl i v).offMemory = s.offMemory := rfl
@[simp] theorem State.offMemory_setDie (s : State) (i : Nat) (v : BaseDie) : (s.setDie i v).offMemory = s.offMemory := rfl
@[simp] theorem State.offMemory_setEntry (s : State) (g : Nat) (e : Eng) (x : QEntry) : (s.setEntry g e x).offMemory = s.offMemory := rfl
@[simp] theorem State.offMemory_putLine (s : State) (d la : Nat) (l : Line) : (s.putLine d la l).offMemory = s.offMemory := rfl
@[simp] theorem State.offMemory_ledgIn (s : State) (k n : Nat) : (s.ledgIn k n).offMemory = s.offMemory :=
  (congrArg State.offMemory (s.ledgIn_frame k n) :)
@[simp] theorem State.offMemory_ledgOut (s : State) (k n : Nat) : (s.ledgOut k n).offMemory = s.offMemory :=
  (congrArg State.offMemory (s.ledgOut_frame k n) :)
@[simp] theorem State.offMemory_ledgAlt (s : State) (k n : Nat) : (s.ledgAlt k n).offMemory = s.offMemory :=
  (congrArg State.offMemory (s.ledgAlt_frame k n) :)
@[simp] theorem State.offMemory_raise (s : State) (ty fid d0 d1 : Nat) : (s.raise ty fid d0 d1).offMemory = s.offMemory :=
  (congrArg State.offMemory (s.raise_frame ty fid d0 d1) :)
@[simp] theorem State.offMemory_with_homeOut (s : State) (m : AMap (List Req)) : State.offMemory { s with homeOut := m } = s.offMemory := rfl
@[simp] theorem State.offMemory_freshData (s : State) : s.freshData.2.offMemory = s.offMemory := rfl
@[simp] theorem State.offMemory_freshTime (s : State) (n : Nat) : (s.freshTime n).2.offMemory = s.offMemory := rfl

@[simp] theorem State.offMemory_bumpN (s : State) (off k : Nat) : (s.bumpN off k).offMemory = s.offMemory :=
  (congrArg State.offMemory (s.bumpN_frame off k) :)
@[simp] theorem State.offMemory_bump (s : State) (off : Nat) : (s.bump off).offMemory = s.offMemory := s.offMemory_bumpN off 1

@[simp] theorem State.offMemory_cancelEntry (s : State) : s.cancelEntry.offMemory = s.offMemory := by
  unfold State.cancelEntry
  split
  · rw [State.offMemory_bump]
    rfl
  · rfl

@[simp] theorem State.offMemory_flushAll (s : State) : s.flushAll.offMemory = s.offMemory := rfl

@[simp] theorem State.offMemory_beginHalt (s : State) (cause stream pc code : Nat) :
    (s.beginHalt cause stream pc code).offMemory = s.offMemory := by
  unfold State.beginHalt
  simp only
  split
  · rw [State.offMemory_flushAll]
    rfl
  · rfl

@[simp] theorem State.offMemory_fault (s : State) (row fid arg : Nat) : (s.fault row fid arg).offMemory = s.offMemory := by
  unfold State.fault
  rw [← State.offMemory_cancelEntry s]
  generalize s.cancelEntry = u
  simp only
  split
  · split
    · rfl
    · rw [State.offMemory_beginHalt]
      rfl
  · split
    · rw [State.offMemory_beginHalt]
      rfl
    · rfl

/-! ## Controllers -/

@[simp] theorem State.offMemory_freeze (s : State) (n cause req dpa : Nat) (cw : Codeword) (synd : Nat) :
    (s.freeze n cause req dpa cw synd).offMemory = s.offMemory := by
  simp [State.freeze, apply_ite State.offMemory]

/-- The record of the first word of its kind. -/
theorem State.offMemory_firstOf (s : State) (off : Nat) (v : Word) :
    (if s.reg off = 0 then s.setReg off v else s).offMemory = s.offMemory := by
  split
  · exact s.offMemory_setReg off v
  · rfl

@[simp] theorem State.offMemory_dramEcc (s : State) (pl : Place) (w src : Nat) (cw : Codeword) (o : Decoded) :
    (s.dramEcc pl w src cw o).offMemory = s.offMemory := by
  unfold State.dramEcc
  extract_lets b u v x y z
  have hu : u.offMemory = s.offMemory := s.offMemory_bump _
  have hx : x.offMemory = s.offMemory := (v.offMemory_firstOf _ _).trans (s.offMemory_bump _)
  have hy : y.offMemory = s.offMemory := (x.offMemory_setCtl _ _).trans hx
  have hz : z.offMemory = s.offMemory := by
    clear_value y u
    unfold z
    split
    · rfl
    · rw [State.offMemory_setReg, State.offMemory_setReg]
      split
      · exact (u.offMemory_bump _).trans hu
      · exact hu
    · rw [State.offMemory_freeze, State.offMemory_raise, hy]
  clear_value z
  split
  · exact (z.offMemory_bump _).trans hz
  · exact hz

@[simp] theorem State.offMemory_readWord (s : State) (pl : Place) (src w : Nat) : (s.readWord pl src w).2.offMemory = s.offMemory :=
  s.offMemory_dramEcc pl w src _ _

@[simp] theorem State.offMemory_logCmd (s : State) (n bus : Nat) (word : Option Nat) : (s.logCmd n bus word).offMemory = s.offMemory := by
  cases word
  · rfl
  · rfl

@[simp] theorem State.offMemory_closeRow (s : State) (n bank : Nat) : (s.closeRow n bank).offMemory = s.offMemory := by
  simp [State.closeRow]

@[simp] theorem State.offMemory_openRowOf (s : State) (n bank row : Nat) : (s.openRowOf n bank row).offMemory = s.offMemory := by
  simp [State.openRowOf, apply_ite State.offMemory]

@[simp] theorem State.offMemory_exitPart (s : State) (n p : Nat) : (s.exitPart n p).offMemory = s.offMemory := by
  simp [State.exitPart]

@[simp] theorem State.offMemory_wakePart (s : State) (n p : Nat) : (s.wakePart n p).offMemory = s.offMemory := by
  simp [State.wakePart]

@[simp] theorem State.offMemory_startWck (s : State) (n p : Nat) : (s.startWck n p).offMemory = s.offMemory := by
  simp [State.startWck, apply_ite State.offMemory]

@[simp] theorem State.offMemory_column (s : State) (n bank : Nat) (keep : Bool) : (s.column n bank keep).offMemory = s.offMemory := by
  simp [State.column, apply_ite State.offMemory]

@[simp] theorem State.offMemory_fillRequest (s : State) (pl : Place) (ws : List Nat) (keep : Bool) :
    (s.fillRequest pl ws keep).offMemory = s.offMemory := by
  unfold State.fillRequest
  simp only
  split
  · simp
  · simp [apply_ite State.offMemory]

@[simp] theorem State.offMemory_ctlOffer (s : State) (n : Nat) (r : Req) : (s.ctlOffer n r).2.offMemory = s.offMemory := by
  unfold State.ctlOffer
  split
  · rfl
  · simp only
    split
    · rfl
    · split
      · simp [apply_ite State.offMemory]
      · split
        · simp
        · split
          · simp [apply_ite State.offMemory]
          · simp

@[simp] theorem State.offMemory_ctlSubmit (s : State) (n : Nat) (r : Req) : (s.ctlSubmit n r).2.offMemory = s.offMemory := by
  unfold State.ctlSubmit
  simp only
  split
  · rfl
  · have h := s.offMemory_ctlOffer n r
    split
    · next t heq =>
      rw [heq] at h
      exact h
    · exact h

/-! ## Die caches -/

@[simp] theorem State.offMemory_dieFlip (s : State) (d tgt w : Nat) (cw : Codeword) : (s.dieFlip d tgt w cw).2.offMemory = s.offMemory := by
  simp [State.dieFlip, apply_ite Prod.snd, apply_ite State.offMemory]

@[simp] theorem State.offMemory_lineStore (s : State) (d la i : Nat) (cw : Codeword) (dirty : Bool) :
    (s.lineStore d la i cw dirty).offMemory = s.offMemory := by
  unfold State.lineStore
  split
  · rfl
  · simp

@[simp] theorem State.offMemory_dieEcc (s : State) (d w cause : Nat) (o : Decoded) : (s.dieEcc d w cause o).offMemory = s.offMemory := by
  unfold State.dieEcc
  cases o.cls <;> simp

@[simp] theorem State.offMemory_writeBack (s : State) (d la : Nat) : (s.writeBack d la).offMemory = s.offMemory := by
  unfold State.writeBack
  split
  · rfl
  · split
    · split
      · rfl
      · simp [foldl_view State.offMemory]
    · rfl

@[simp] theorem State.offMemory_makeRoom (s : State) (d la : Nat) : (s.makeRoom d la).offMemory = s.offMemory := by
  simp [State.makeRoom, apply_ite State.offMemory]

@[simp] theorem State.offMemory_storeLine (s : State) (d la : Nat) (vs : List (Word × Bool)) :
    (s.storeLine d la vs).offMemory = s.offMemory := by
  unfold State.storeLine
  simp only [State.offMemory_putLine]
  rw [foldl_view_snd State.offMemory fun c t e => State.offMemory_dieFlip .., State.offMemory_makeRoom]

@[simp] theorem State.offMemory_readLine (s : State) (pl : Place) (la src : Nat) (keep : Bool) (skip : List Nat) :
    (s.readLine pl la src keep skip).2.offMemory = s.offMemory := by
  unfold State.readLine
  simp only [apply_ite Prod.snd, ite_self]
  rw [foldl_view_snd State.offMemory fun c t i => ?_, State.offMemory_fillRequest]
  split
  · rfl
  · exact State.offMemory_readWord ..

@[simp] theorem State.offMemory_fillLine (s : State) (pl : Place) (d la src : Nat) (keep : Bool) :
    (s.fillLine pl d la src keep).2.offMemory = s.offMemory := by
  simp [State.fillLine, apply_ite State.offMemory]

@[simp] theorem State.offMemory_noWord (s : State) : s.noWord.2.offMemory = s.offMemory := s.offMemory_freshData

@[simp] theorem State.offMemory_fillWord (s : State) (d la i src : Nat) (keep : Bool) :
    (s.fillWord d la i src keep).2.offMemory = s.offMemory := by
  unfold State.fillWord
  split
  · exact s.offMemory_noWord
  · split
    · simp only [State.offMemory_fillLine]
    · exact s.offMemory_noWord

@[simp] theorem State.offMemory_lineRead (s : State) (d la i src : Nat) : (s.lineRead d la i src).2.offMemory = s.offMemory := by
  unfold State.lineRead
  split
  · rfl
  · simp only
    split
    · simp
    · simp
    · split
      · simp
      · simp

@[simp] theorem State.offMemory_homeRead (s : State) (src w : Nat) (keep : Bool) : (s.homeRead src w keep).2.offMemory = s.offMemory := by
  unfold State.homeRead
  simp only
  split
  · simp
  · simp

@[simp] theorem State.offMemory_dropFte (s : State) (frame : Nat) : (s.dropFte frame).offMemory = s.offMemory :=
  foldl_view State.offMemory (fun t d => t.offMemory_setDie d _) fourDies s

@[simp] theorem State.offMemory_homeWrite (s : State) (src : Nat) (keep : Bool) (why : ReqFor) (ws : List WUpd) :
    (s.homeWrite src keep why ws).2.offMemory = s.offMemory := by
  unfold State.homeWrite
  split
  · rfl
  · next ws u0 rest =>
    extract_lets dpa d la u upd
    split
    · rfl
    · next pl heq =>
      have hu : u.offMemory = s.offMemory := by
        unfold u
        rw [foldl_view State.offMemory fun t x => ?_]
        split
        · exact t.offMemory_dropFte _
        · rfl
      have hupd : ∀ t dirty, (upd t dirty).offMemory = t.offMemory := fun t dirty => by
        unfold upd
        rw [foldl_view State.offMemory fun t x => ?_]
        split
        · rfl
        · simp only [State.offMemory_lineStore]
          split
          · exact t.offMemory_dieEcc ..
          · rfl
      clear_value u upd
      rw [← hu]
      split
      · have hsub := u.offMemory_ctlSubmit pl.ctl
          { id := 0, src := src, dpa := dpa, len := 8 * (u0 :: rest).length, ws := u0 :: rest, keep := keep, why := why }
        split
        · next t hs => rw [hs] at hsub; exact hsub
        · next t _ hs => rw [hs] at hsub; exact (hupd t false).trans hsub
      · split
        · simp only [State.offMemory_ledgOut, State.offMemory_ledgIn, hupd]
        · split
          · simp only [State.offMemory_ledgOut, State.offMemory_ledgIn, hupd, State.offMemory_storeLine, State.offMemory_readLine]
          · simp only [State.offMemory_ledgAlt, State.offMemory_ledgIn]

/-! ## Frame translation -/

@[simp] theorem State.offMemory_ftcLook (s : State) (d frame : Nat) : (s.ftcLook d frame).2.offMemory = s.offMemory := by
  unfold State.ftcLook
  simp only
  split
  · rfl
  · split
    · simp
    · simp
    · simp

@[simp] theorem State.offMemory_ftcPut (s : State) (d frame : Nat) (w : Word) : (s.ftcPut d frame w).offMemory = s.offMemory := by
  simp [State.ftcPut]

@[simp] theorem State.offMemory_translate (s : State) (d frame : Nat) : (s.translate d frame).2.offMemory = s.offMemory := by
  unfold State.translate
  have h := s.offMemory_ftcLook d frame
  split
  · next t hs =>
    rw [hs] at h
    simpa using h
  · next t hs =>
    rw [hs] at h
    simp only [apply_ite Prod.snd, apply_ite State.offMemory, State.offMemory_bump, State.offMemory_ftcPut, State.offMemory_homeRead, ite_self]
    exact h

@[simp] theorem State.offMemory_frameWrite (s : State) (src tvaFrame : Nat) (f : Fte) (keep : Bool) (why : ReqFor) (ws : List WUpd) :
    (s.frameWrite src tvaFrame f keep why ws).2.offMemory = s.offMemory := by
  unfold State.frameWrite
  split
  · rfl
  · simp [apply_ite Prod.snd, apply_ite State.offMemory]

/-! ## The SRAMs of cores and clusters -/

@[simp] theorem State.offMemory_sflip (s : State) (base tgt idx : Nat) (any : Bool) (cw : Codeword) :
    (s.sflip base tgt idx any cw).2.offMemory = s.offMemory := by
  unfold State.sflip
  extract_lets lo hi ct t m
  split
  · rfl
  · simp only [State.offMemory_setReg]

@[simp] theorem State.offMemory_coreStore (s : State) (g tgt idx : Nat) (cw : Codeword) :
    (s.coreStore g tgt idx cw).offMemory = s.offMemory := by
  simp [State.coreStore]

@[simp] theorem State.offMemory_coreWrite (s : State) (g tgt idx : Nat) (d mask : Word) (p : Bool) :
    (s.coreWrite g tgt idx d mask p).offMemory = s.offMemory := by
  unfold State.coreWrite
  simp only [State.offMemory_coreStore]
  split
  · split
    · rfl
    · simp
    · simp
  · rfl

@[simp] theorem State.offMemory_clusterStore (s : State) (k idx : Nat) (cw : Codeword) :
    (s.clusterStore k idx cw).offMemory = s.offMemory := by
  simp [State.clusterStore]

@[simp] theorem State.offMemory_clusterWrite (s : State) (k idx : Nat) (d mask : Word) (p : Bool) :
    (s.clusterWrite k idx d mask p).offMemory = s.offMemory := by
  unfold State.clusterWrite
  simp only [State.offMemory_clusterStore]
  split
  · split
    · rfl
    · simp
    · simp
  · rfl

/-! ## Computations that may stop -/

/-- Whatever it answers, a computation keeps a property of the state. -/
def M.Keeps {α : Type} (P : State → Prop) (m : M α) : Prop := ∀ s r t, m.run s = (r, t) → P s → P t

section
variable {α β : Type} {P : State → Prop}

theorem M.keeps_pure (a : α) : M.Keeps P (pure a : M α) := by
  intro s r t h hs
  cases h
  exact hs

theorem M.keeps_throw (k : Nat) : M.Keeps P (throw k : M α) := by
  intro s r t h hs
  cases h
  exact hs

theorem M.keeps_get : M.Keeps P (get : M State) := by
  intro s r t h hs
  cases h
  exact hs

theorem M.keeps_act {f : State → α × State} (hf : ∀ s, P s → P (f s).2) : M.Keeps P (act f) := by
  intro s r t h hs
  cases h
  exact hf s hs

theorem M.keeps_bind {m : M α} {f : α → M β} (hm : M.Keeps P m) (hf : ∀ a, M.Keeps P (f a)) : M.Keeps P (m >>= f) := by
  intro s r t h hs
  have e : (m >>= f).run s = ExceptT.bindCont f (m.run s).1 (m.run s).2 := rfl
  have hu : P (m.run s).2 := hm s _ _ rfl hs
  rw [e] at h
  cases hr : (m.run s).1 with
  | ok a =>
    rw [hr] at h
    exact hf a _ r t h hu
  | error k =>
    rw [hr] at h
    cases h
    exact hu

theorem M.keeps_ite {p : Prop} [Decidable p] {a b : M α} (ha : M.Keeps P a) (hb : M.Keeps P b) : M.Keeps P (if p then a else b) := by
  split
  · exact ha
  · exact hb

theorem M.keeps_forIn {f : α → β → M (ForInStep β)} (hf : ∀ a b, M.Keeps P (f a b)) :
    ∀ (xs : List α) (b : β), M.Keeps P (forIn xs b f)
  | [], b => by
    rw [List.forIn_nil]
    exact M.keeps_pure b
  | x :: xs, b => by
    rw [List.forIn_cons]
    refine M.keeps_bind (hf x b) fun r => ?_
    cases r
    · exact M.keeps_pure _
    · exact M.keeps_forIn hf xs _

/-- The check of a write through an FTE touches nothing. -/
theorem M.keeps_fteWritable (inStep : Bool) (f : Fte) : M.Keeps P (fteWritable inStep f) := by
  have hs : M.Keeps P (if f.sin && inStep then throw 4 else pure () : M Unit) := M.keeps_ite (M.keeps_throw 4) (M.keeps_pure ())
  exact M.keeps_ite (M.keeps_bind (M.keeps_throw 6) fun _ => hs) hs

end

/-! ## Writes of elements -/

theorem writeLocal_offMemory (c : Ctx) (space : Nat) (u : WUpd) : M.Keeps (fun t => t.offMemory = s.offMemory) (writeLocal c space u) := by
  refine M.keeps_act fun t ht => ?_
  simp only [apply_ite State.offMemory, State.offMemory_ledgAlt, State.offMemory_ledgOut, State.offMemory_ledgIn,
    State.offMemory_clusterWrite, State.offMemory_coreWrite, ite_self]
  exact ht

theorem writeLine_offMemory (c : Ctx) (ws : List WUpd) : M.Keeps (fun t => t.offMemory = s.offMemory) (writeLine c ws) := by
  unfold writeLine
  split
  · exact M.keeps_pure true
  · refine M.keeps_bind (M.keeps_act fun t ht => (t.offMemory_translate ..).trans ht) fun f => ?_
    cases f with
    | none => exact M.keeps_throw 5
    | some f =>
      exact M.keeps_bind M.keeps_get fun u => M.keeps_bind (M.keeps_fteWritable _ _) fun _ =>
        M.keeps_act fun t ht => (t.offMemory_frameWrite ..).trans ht

theorem writeWords_offMemory (c : Ctx) (space : Nat) (us : List WUpd) :
    M.Keeps (fun t => t.offMemory = s.offMemory) (writeWords c space us) := by
  unfold writeWords
  refine M.keeps_ite (M.keeps_bind (M.keeps_forIn (fun ws st => ?_) _ _) fun st => M.keeps_pure st)
    (M.keeps_bind (M.keeps_forIn (fun u st => ?_) _ _) fun _ => M.keeps_pure _)
  · exact M.keeps_bind (writeLine_offMemory c ws) fun ok => M.keeps_ite (M.keeps_pure _) (M.keeps_pure _)
  · exact M.keeps_bind (writeLocal_offMemory c space u) fun _ => M.keeps_pure _

/-- Writing elements leaves the rest alone, whether or not it stops. -/
theorem writeElems_offMemory {c : Ctx} {space w : Nat} {xs : List Put} {r : Except Nat Nat} {t : State}
    (h : (writeElems c space w xs).run s = (r, t)) : t.offMemory = s.offMemory :=
  writeWords_offMemory c space (putsToUpds w xs) s r t h rfl

end Sys2Proof.Machine
end

section
/-! PROOFS. What the traffic of the peer ports leaves alone (R419, R420, R423, R429): sending, waiting, credits and the end of transfers keep
every port's state, the swarm table and the cables' pins; the loss of a route keeps every port's state. -/

namespace Sys2Proof.Machine

variable {s t : State}

/-! ## The two relations -/

/-- In t the ports are in canonical form and each is in the state it has in s; cables, image, fuses and fences are those of s. -/
structure State.SamePorts (s t : State) : Prop where
  wf : AMap.wf Port.init t.ports = true
  st : ∀ p, (t.port p).st = (s.port p).st
  pprsnt : t.pins.pprsnt = s.pins.pprsnt
  cfg : t.cfg = s.cfg
  fuses : t.fuses = s.fuses
  fenced : t.flt.fenced = s.flt.fenced

/-- And the swarm table is that of s. -/
structure State.SameLinks (s t : State) : Prop extends s.SamePorts t where
  peers : t.swarm.peers = s.swarm.peers

theorem State.SamePorts.refl (h : AMap.wf Port.init s.ports = true) : s.SamePorts s := ⟨h, fun _ => rfl, rfl, rfl, rfl, rfl⟩

theorem State.SameLinks.refl (h : AMap.wf Port.init s.ports = true) : s.SameLinks s := ⟨.refl h, rfl⟩

theorem State.SamePorts.trans {u : State} (h : s.SamePorts t) (h' : t.SamePorts u) : s.SamePorts u :=
  ⟨h'.wf, fun p => (h'.st p).trans (h.st p), h'.pprsnt.trans h.pprsnt, h'.cfg.trans h.cfg, h'.fuses.trans h.fuses,
    h'.fenced.trans h.fenced⟩

theorem State.SameLinks.trans {u : State} (h : s.SameLinks t) (h' : t.SameLinks u) : s.SameLinks u :=
  ⟨h.toSamePorts.trans h'.toSamePorts, h'.peers.trans h.peers⟩

/-- An access to memory keeps the links. -/
theorem State.SameLinks.of_offMemory {u : State} (h : s.SameLinks t) (e : u.offMemory = t.offMemory) : s.SameLinks u := by
  have hp : u.ports = t.ports := (congrArg State.ports e :)
  have hport : ∀ p, u.port p = t.port p := fun p => by rw [State.port, State.port, hp]
  exact ⟨⟨hp ▸ h.wf, fun p => (congrArg Port.st (hport p)).trans (h.st p), (congrArg (·.pins.pprsnt) e :).trans h.pprsnt,
    (congrArg State.cfg e :).trans h.cfg, (congrArg State.fuses e :).trans h.fuses, (congrArg (·.flt.fenced) e :).trans h.fenced⟩,
    (congrArg (·.swarm.peers) e :).trans h.peers⟩

/-- Where the ports are canonical, a port reads as it was last set, and the others as before. -/
theorem State.port_setPort_of_wf (h : AMap.wf Port.init s.ports = true) (i j : Nat) (x : Port) :
    (s.setPort i x).port j = if j = i then x else s.port j :=
  AMap.get_set _ (AMap.rising_of_wf h) i j x

/-- A port set without a change of its state keeps the links. -/
theorem State.SameLinks.setPort (h : s.SameLinks t) (p : Nat) {q : Port} (hq : q.st = (t.port p).st) : s.SameLinks (t.setPort p q) := by
  refine ⟨⟨AMap.wf_set h.wf, fun j => ?_, h.pprsnt, h.cfg, h.fuses, h.fenced⟩, h.peers⟩
  rw [State.port_setPort_of_wf h.wf]
  split
  · next e => rw [hq, ← e, h.st]
  · exact h.st j

/-- A port hears as it did. -/
theorem State.SamePorts.hears (h : s.SamePorts t) (p : Nat) : t.hears p = s.hears p := by
  rw [State.hears, State.hears, h.st, State.isFenced, State.isFenced, h.fenced]

/-! ## Sending -/

theorem State.SameLinks.sendCtl (h : s.SameLinks t) (p : Nat) (f : Flit) : s.SameLinks (t.sendCtl p f) := h.setPort p rfl

theorem State.SameLinks.rtTake (h : s.SameLinks t) (d n : Nat) : s.SameLinks (t.rtTake d n) :=
  ⟨⟨h.wf, h.st, h.pprsnt, h.cfg, h.fuses, h.fenced⟩, h.peers⟩

/-- Whichever of two states is taken, the links are kept. -/
theorem State.SameLinks.ite {p : Prop} [Decidable p] {u : State} (h : s.SameLinks t) (h' : s.SameLinks u) :
    s.SameLinks (if p then t else u) := by
  split
  · exact h
  · exact h'

theorem State.SameLinks.tryFlit (h : s.SameLinks t) {p : Nat} {f : Flit} {u : State} (e : t.tryFlit p f = some u) : s.SameLinks u := by
  unfold State.tryFlit at e
  extract_lets q at e
  split at e
  · cases e
    exact h.sendCtl p f
  · split at e
    · next vc _ hup =>
      extract_lets q' at e
      cases e
      refine State.SameLinks.of_offMemory (h.setPort p (q := q') rfl) ?_
      rw [State.offMemory_ledgOut, State.offMemory_bump]
    · cases e

theorem State.SameLinks.creditBack (h : s.SameLinks t) (p vc : Nat) : s.SameLinks (t.creditBack p vc) := by
  unfold State.creditBack
  extract_lets u q n v
  have hu : s.SameLinks u := State.SameLinks.ite (h.rtTake _ _) h
  have hv : s.SameLinks v := hu.setPort p rfl
  exact State.SameLinks.ite hu (State.SameLinks.ite (hv.sendCtl p .idle) hv)

theorem State.SameLinks.leave (h : s.SameLinks t) (f : Flit) (src : Nat) : s.SameLinks (t.leave f src) := by
  unfold State.leave
  split
  · exact State.SameLinks.ite h (h.creditBack _ _)
  · exact h

theorem State.SameLinks.pump (h : s.SameLinks t) (p : Nat) : s.SameLinks (t.pump p) := by
  unfold State.pump
  extract_lets q go
  have hgo : s.SameLinks go.2 := by
    refine foldl_keeps_snd (P := s.SameLinks) (fun c u f hu => ?_) q.waitq [] _ (h.setPort p rfl)
    simp only
    split
    · exact hu
    · split
      · next v hv => exact (hu.tryFlit hv).leave _ _
      · exact hu
  exact hgo.setPort p rfl

theorem State.SameLinks.sendFlit (h : s.SameLinks t) (p : Nat) (f : Flit) (src : Nat) : s.SameLinks (t.sendFlit p f src) := by
  refine State.SameLinks.pump ?_ p
  exact h.setPort p rfl

theorem State.SameLinks.sendTo (h : s.SameLinks t) {serial i : Nat} {f : Flit} {src : Nat} {u : State}
    (e : t.sendTo serial i f src = some u) : s.SameLinks u := by
  unfold State.sendTo at e
  split at e
  · cases e
  · cases e
    exact h.sendFlit _ _ _

/-- A flit sent toward a serial, or what is done where no entry reaches it. -/
theorem State.SameLinks.sendTo_getD {u : State} (h : s.SameLinks t) (h' : s.SameLinks u) (serial i : Nat) (f : Flit) (src : Nat) :
    s.SameLinks ((t.sendTo serial i f src).getD u) := by
  cases e : t.sendTo serial i f src with
  | none => exact h'
  | some v => exact h.sendTo e

/-! ## Transfers -/

theorem State.SameLinks.xferFlag (h : s.SameLinks t) (g qid st : Nat) : s.SameLinks (t.xferFlag g qid st) := by
  unfold State.xferFlag
  split
  · exact h.of_offMemory (State.offMemory_setEntry ..)
  · exact h

theorem State.SameLinks.placeWord (h : s.SameLinks t) (g : Nat) (x : Xfer) (rt : Option Nat) (k : Nat) (v : Word) (p : Bool) :
    s.SameLinks (t.placeWord g x rt k v p) := by
  unfold State.placeWord
  extract_lets per puts
  split
  · next st u hu => exact (h.of_offMemory (writeElems_offMemory hu)).xferFlag _ _ _
  · next cause u hu => exact (h.of_offMemory (writeElems_offMemory hu)).of_offMemory (State.offMemory_beginHalt ..)

theorem State.SameLinks.sendXfer (h : s.SameLinks t) (g slot : Nat) (x : Xfer) : s.SameLinks (t.sendXfer g slot x) := by
  unfold State.sendXfer
  extract_lets tag me u
  have hu : s.SameLinks u := h.sendTo_getD h _ _ _ _
  exact foldl_keeps (P := s.SameLinks) (fun v c hv => hv.sendTo_getD hv _ _ _ _) _ u hu

theorem State.SameLinks.startXfers (h : s.SameLinks t) (g : Nat) : s.SameLinks (t.startXfers g) := by
  unfold State.startXfers
  extract_lets c waiting freeSlots
  refine foldl_keeps (P := s.SameLinks) (fun v x hv => ?_) _ t h
  exact (hv.of_offMemory (State.offMemory_setCore ..)).sendXfer _ _ _

theorem State.SameLinks.endXfer (h : s.SameLinks t) (g slot st : Nat) : s.SameLinks (t.endXfer g slot st) := by
  unfold State.endXfer
  extract_lets c x xs u v
  have hu : s.SameLinks u := (h.of_offMemory (State.offMemory_setCore ..)).xferFlag _ _ _
  have hv : s.SameLinks v := by
    unfold v
    split
    · exact hu
    · split
      · exact hu.of_offMemory (State.offMemory_setEntry ..)
      · exact hu
  exact hv.startXfers g

theorem State.SameLinks.absentXfer (h : s.SameLinks t) (g slot : Nat) : s.SameLinks (t.absentXfer g slot) := by
  unfold State.absentXfer
  split
  · extract_lets x u
    have hu : s.SameLinks u := by
      refine foldl_keeps (P := s.SameLinks) (fun v k hv => ?_) _ t h
      exact (hv.of_offMemory (State.offMemory_freshData v)).placeWord _ _ _ _ _ _
    exact hu.endXfer _ _ _
  · exact h

/-! ## Routes and ports that go -/

/-- A change of the swarm table keeps the ports. -/
theorem State.SamePorts.setPeer (h : s.SamePorts t) (k : Nat) (e : Peer) : s.SamePorts (t.setPeer k e) :=
  ⟨h.wf, h.st, h.pprsnt, h.cfg, h.fuses, h.fenced⟩

/-- What keeps the links of a state keeps its ports. -/
theorem State.SamePorts.and_links {u : State} (h : s.SamePorts t) (h' : t.SameLinks t → t.SameLinks u) : s.SamePorts u :=
  h.trans (h' (.refl h.wf)).toSamePorts

/-- A peer that leaves frees its handle, and the end of its transfers keeps the links. -/
theorem State.depart_links (h : AMap.wf Port.init s.ports = true) (p k : Nat) :
    (s.setPeer k { AMap.get Peer.init s.swarm.peers k with valid := false, routes := [], freed := true }).SameLinks (s.depart p k) := by
  unfold State.depart
  extract_lets e u v
  have hu : u.SameLinks u := .refl h
  have hv : u.SameLinks v := hu.of_offMemory (State.offMemory_raise ..)
  refine foldl_keeps (P := u.SameLinks) (fun w c hw => ?_) _ v hv
  exact foldl_keeps (P := u.SameLinks) (fun w x hw => hw.absentXfer _ _) _ w hw

theorem State.SamePorts.depart (h : s.SamePorts t) (p k : Nat) : s.SamePorts (t.depart p k) :=
  (h.setPeer _ _).trans (State.depart_links h.wf p k).toSamePorts

theorem State.SamePorts.dropRoutes (h : s.SamePorts t) (p : Nat) (q : Nat → Bool) : s.SamePorts (t.dropRoutes p q) := by
  refine foldl_keeps (P := s.SamePorts) (fun u e hu => ?_) t.swarm.peers t h
  simp only
  split
  · split
    · exact hu.depart _ _
    · exact hu.setPeer _ _
  · exact hu

theorem State.offMemory_portEvent (s : State) (p : Nat) : (s.portEvent p).offMemory = s.offMemory := by
  simp [State.portEvent, apply_ite State.offMemory]

/-- A port as it goes: without lanes, far end, flits held and waiting, and counts of its training. -/
def Port.gone (q : Port) (st : PortState) : Port :=
  { q with st := st, lanes := 0, far := 0, held := [0, 0, 0], waitq := [], replay := [], retryRun := 0, fecRun := 0, retrainDue := false }

/-- Once a port has gone, the loss of its routes and what its waiting flits do keep every port's state. -/
theorem State.portDown_ports (h : AMap.wf Port.init s.ports = true) (p : Nat) (st : PortState) :
    (s.setPort p ((s.port p).gone st)).SamePorts (s.portDown p st) := by
  unfold State.portDown
  extract_lets q u v
  have hu : u.SamePorts u := .refl (AMap.wf_set h)
  have hv : u.SamePorts v :=
    (hu.and_links fun hl => hl.of_offMemory (u.offMemory_portEvent p)).dropRoutes p _
  refine foldl_keeps (P := u.SamePorts) (fun w f hw => ?_) q.waitq v hv
  exact hw.and_links fun hl => hl.sendTo_getD (hl.leave _ _) _ _ _ _

/-- A port that goes is in the state it goes to. -/
theorem State.portDown_st (h : AMap.wf Port.init s.ports = true) (p : Nat) (st : PortState) : ((s.portDown p st).port p).st = st := by
  rw [(s.portDown_ports h p st).st p, State.port_setPort_of_wf h, if_pos rfl]
  rfl

end Sys2Proof.Machine
end

section
/-! PROOFS. Link control at a peer port (R417 to R422, R427 to R429, R26): what each command answers, as one state, and what that state says
of the port. -/

namespace Sys2Proof.Machine

variable {s : State}

/-! ## What sending and counting change beside the ports -/

/-- The state without its ports and what counting and raising events change. -/
def State.besidePorts (s : State) : State :=
  { s with ports := [], host := .init, ledg := [], freeCtr := 0, cnt := [], regs := [], firstOvf := 0, novf := 0 }

@[simp] theorem State.besidePorts_setPort (s : State) (p : Nat) (q : Port) : (s.setPort p q).besidePorts = s.besidePorts := rfl
@[simp] theorem State.besidePorts_sendCtl (s : State) (p : Nat) (f : Flit) : (s.sendCtl p f).besidePorts = s.besidePorts := rfl
@[simp] theorem State.besidePorts_ledgIn (s : State) (k n : Nat) : (s.ledgIn k n).besidePorts = s.besidePorts :=
  (congrArg State.besidePorts (s.ledgIn_frame k n) :)
@[simp] theorem State.besidePorts_raise (s : State) (ty fid d0 d1 : Nat) : (s.raise ty fid d0 d1).besidePorts = s.besidePorts :=
  (congrArg State.besidePorts (s.raise_frame ty fid d0 d1) :)
@[simp] theorem State.besidePorts_freshData (s : State) : s.freshData.2.besidePorts = s.besidePorts := rfl
@[simp] theorem State.besidePorts_bumpN (s : State) (off k : Nat) : (s.bumpN off k).besidePorts = s.besidePorts :=
  (congrArg State.besidePorts (s.bumpN_frame off k) :)
@[simp] theorem State.besidePorts_bump (s : State) (off : Nat) : (s.bump off).besidePorts = s.besidePorts := s.besidePorts_bumpN off 1
@[simp] theorem State.besidePorts_portEvent (s : State) (p : Nat) : (s.portEvent p).besidePorts = s.besidePorts := by
  simp [State.portEvent, apply_ite State.besidePorts]
@[simp] theorem State.besidePorts_resend (s : State) (p seq : Nat) : (s.resend p seq).besidePorts = s.besidePorts := by
  simp [State.resend]
@[simp] theorem State.besidePorts_rxTake (s : State) (p : Nat) (h : FlitHead) : (s.rxTake p h).besidePorts = s.besidePorts := by
  simp [State.rxTake]
@[simp] theorem State.besidePorts_setCredits (s : State) (p : Nat) (cs : List Nat) : (s.setCredits p cs).besidePorts = s.besidePorts := by
  unfold State.setCredits
  extract_lets q old new u
  split
  · rw [State.besidePorts_ledgIn, State.besidePorts_setPort]
  · rfl

/-- What changes nothing beside the ports keeps cores, memory, die caches and the swarm table. -/
theorem State.kept_of_besidePorts {t : State} (h : t.besidePorts = s.besidePorts) :
    t.cores = s.cores ∧ t.dram = s.dram ∧ t.dies = s.dies ∧ t.swarm = s.swarm :=
  ⟨(congrArg State.cores h :), (congrArg State.dram h :), (congrArg State.dies h :), (congrArg State.swarm h :)⟩

/-! ## Reading a port after sending and counting -/

theorem State.port_setPort_same (h : s.canon = true) (p : Nat) (q : Port) : (s.setPort p q).port p = q := by
  rw [State.port_setPort h, if_pos rfl]

@[simp] theorem State.port_bumpN (s : State) (off k p : Nat) : (s.bumpN off k).port p = s.port p :=
  congrArg (AMap.get Port.init · p) (congrArg State.ports (s.bumpN_frame off k) :)
@[simp] theorem State.port_bump (s : State) (off p : Nat) : (s.bump off).port p = s.port p := s.port_bumpN off 1 p
@[simp] theorem State.port_raise (s : State) (ty fid d0 d1 p : Nat) : (s.raise ty fid d0 d1).port p = s.port p :=
  congrArg (AMap.get Port.init · p) (congrArg State.ports (s.raise_frame ty fid d0 d1) :)
@[simp] theorem State.port_ledgIn (s : State) (k n p : Nat) : (s.ledgIn k n).port p = s.port p :=
  congrArg (AMap.get Port.init · p) (congrArg State.ports (s.ledgIn_frame k n) :)
@[simp] theorem State.port_freshData (s : State) (p : Nat) : s.freshData.2.port p = s.port p := rfl
@[simp] theorem State.port_portEvent (s : State) (p r : Nat) : (s.portEvent p).port r = s.port r := by
  simp [State.portEvent, apply_ite fun t : State => t.port r]

/-- A port that has sent a link-control flit (R419). -/
def Port.sentCtl (q : Port) (f : Flit) : Port := { q.paid with sent := q.sent ++ [(q.head 3 0, f)] }

theorem State.port_sendCtl (h : s.canon = true) (p : Nat) (f : Flit) : (s.sendCtl p f).port p = (s.port p).sentCtl f :=
  State.port_setPort_same h p _

theorem State.port_setCredits (h : s.canon = true) (p : Nat) (cs : List Nat) :
    (s.setCredits p cs).port p = { s.port p with credit := cs } := by
  unfold State.setCredits
  extract_lets q old new u
  have hu : u.port p = { q with credit := cs } := State.port_setPort_same h p _
  split
  · rw [State.port_ledgIn, hu]
  · exact hu

/-! ## The canonical form under them -/

theorem State.canon_sendCtl (h : s.canon = true) (p : Nat) (f : Flit) : (s.sendCtl p f).canon = true := State.canon_setPort h p _

theorem State.canon_portEvent (h : s.canon = true) (p : Nat) : (s.portEvent p).canon = true := by
  unfold State.portEvent
  split
  · exact State.canon_raise (s := s.freshData.2) (State.canon_with_freeCtr h _) _ _ _ _
  · exact h

theorem State.canon_setCredits (h : s.canon = true) (p : Nat) (cs : List Nat) : (s.setCredits p cs).canon = true := by
  unfold State.setCredits
  extract_lets q old new u
  have hu : u.canon = true := State.canon_setPort h p _
  split
  · exact State.canon_ledgIn hu _ _
  · exact State.canon_with_ledg hu (AMap.wf_upd (AMap.wf_upd (State.canon_ledg hu)))

/-- With nothing waiting, a port's pump does nothing. -/
theorem State.pump_idle (h : s.canon = true) {p : Nat} (hq : (s.port p).waitq = []) : s.pump p = s :=
  (State.pump_nil h hq).trans (State.setPort_self h p)

/-! ## The head of a flit (R419, R420) -/

/-- The replay buffer once a head's ACK is taken. -/
def Port.acked (q : Port) (h : FlitHead) : List (Nat × Flit) :=
  if q.replay.any (fun e => e.1 == h.ack) then (q.replay.dropWhile fun e => e.1 != h.ack).tail else q.replay

/-- The credits once a head's are taken. -/
def Port.given (q : Port) (h : FlitHead) : List Nat := [q.credit.getD 0 0 + h.cr0, q.credit.getD 1 0 + h.cr1, q.credit.getD 2 0 + h.cr2]

/-- A port that has taken a head's ACK and credits. -/
def Port.taken (q : Port) (h : FlitHead) : Port := { q with replay := q.acked h, credit := q.given h }

theorem State.port_rxTake (hc : s.canon = true) (p : Nat) (h : FlitHead) : (s.rxTake p h).port p = (s.port p).taken h := by
  unfold State.rxTake
  simp only [State.port_ledgIn]
  exact State.port_setPort_same hc p _

theorem State.canon_rxTake (hc : s.canon = true) (p : Nat) (h : FlitHead) : (s.rxTake p h).canon = true :=
  State.canon_ledgIn (State.canon_setPort hc _ _) _ _

/-- With none waiting for credit, a head is taken and nothing is sent. -/
theorem State.rxHead_idle (hc : s.canon = true) {p : Nat} (hq : (s.port p).waitq = []) (h : FlitHead) : s.rxHead p h = s.rxTake p h :=
  State.pump_idle (State.canon_rxTake hc p h) (by rw [State.port_rxTake hc]; exact hq)

/-! ## Flits sent again (R420) -/

/-- A port that has sent flits of its replay buffer again. -/
def Port.again (q : Port) (fs : List (Nat × Flit)) : Port :=
  fs.foldl (fun q e => { q.paid with sent := q.sent ++ [(q.head (e.2.vc.getD 3) e.1, e.2)] }) q

/-- Sending again adds those flits to what is sent. -/
theorem Port.again_sent : ∀ (fs : List (Nat × Flit)) (q : Port), (q.again fs).sent.map (·.2) = q.sent.map (·.2) ++ fs.map (·.2)
  | [], q => (List.append_nil _).symm
  | e :: fs, q => by
    have h := Port.again_sent fs { q.paid with sent := q.sent ++ [(q.head (e.2.vc.getD 3) e.1, e.2)] }
    rw [List.map_append, List.append_assoc] at h
    exact h

/-- Sending again changes what is sent and the credits owed, and nothing else. -/
theorem Port.again_frame : ∀ (fs : List (Nat × Flit)) (q : Port), { q.again fs with sent := q.sent, owed := q.owed } = q
  | [], _ => rfl
  | e :: fs, q =>
    congrArg (fun r : Port => { r with sent := q.sent, owed := q.owed })
      (Port.again_frame fs { q.paid with sent := q.sent ++ [(q.head (e.2.vc.getD 3) e.1, e.2)] })

theorem State.port_resend (hc : s.canon = true) (p seq : Nat) :
    (s.resend p seq).port p = (s.port p).again ((s.port p).replay.dropWhile fun e => e.1 != seq) := by
  unfold State.resend
  simp only [State.port_bumpN]
  exact State.port_setPort_same hc p _

theorem State.canon_resend (hc : s.canon = true) (p seq : Nat) : (s.resend p seq).canon = true :=
  State.canon_bumpN (State.canon_setPort hc _ _) _ _

/-- With none waiting for credit, what is sent again is all that is sent. -/
theorem State.pump_resend (hc : s.canon = true) {p : Nat} (hq : (s.port p).waitq = []) (seq : Nat) :
    (s.resend p seq).pump p = s.resend p seq := by
  refine State.pump_idle (State.canon_resend hc p seq) ?_
  rw [State.port_resend hc]
  exact (congrArg Port.waitq (Port.again_frame _ _) :).trans hq

/-- A port that has met a RETRY for a SEQ: the 16th in a row makes a retrain due. -/
def Port.retried (q : Port) (seq : Nat) : Port :=
  let run := if q.retrySeq = seq then q.retryRun + 1 else 1
  { q with retrySeq := seq, retryRun := run, retrainDue := q.retrainDue || decide (16 ≤ run) }

/-- A port that has met a RESYNC: its replay buffer begins at the SEQ expected. -/
def Port.resynced (q : Port) (seq : Nat) : Port :=
  { q with replay := if q.replay.any (fun e => e.1 == seq) then q.replay.dropWhile (fun e => e.1 != seq)
      else if q.txSeq = seq then [] else q.replay }

section
variable {p : Nat}

/-! ## IDLE, RETRY, RESYNC and a failed CRC (R417 to R421) -/

/-- With none waiting for credit, IDLE takes its head. -/
theorem exec_idle_hears (hc : s.canon = true) (hh : s.hears p = true) (hq : (s.port p).waitq = []) (h : FlitHead) :
    exec (.idle p h) s = .next (s.rxTake p h) := by
  rw [← State.rxHead_idle hc hq h]
  exact congrArg Host.Outcome.next (if_pos hh)

/-- The state that has met a RETRY, before it sends again. -/
def State.retryTaken (s : State) (p seq : Nat) (h : FlitHead) : State :=
  ((s.rxTake p h).setPort p (((s.port p).taken h).retried seq)).bump (peerOff p + 0x28)

theorem State.canon_retryTaken (hc : s.canon = true) (p seq : Nat) (h : FlitHead) : (s.retryTaken p seq h).canon = true :=
  State.canon_bump (State.canon_setPort (State.canon_rxTake hc p h) _ _) _

theorem State.port_retryTaken (hc : s.canon = true) (p seq : Nat) (h : FlitHead) :
    (s.retryTaken p seq h).port p = ((s.port p).taken h).retried seq := by
  rw [State.retryTaken, State.port_bump, State.port_setPort_same (State.canon_rxTake hc p h)]

/-- With none waiting for credit, RETRY takes its head and has the port send again. -/
theorem exec_retry_hears (hc : s.canon = true) (hh : s.hears p = true) (hq : (s.port p).waitq = []) (seq : Nat) (h : FlitHead) :
    exec (.retry p seq h) s = .next ((s.retryTaken p seq h).resend p seq) := by
  have hw : ((s.retryTaken p seq h).port p).waitq = [] := by rw [State.port_retryTaken hc]; exact hq
  rw [← State.pump_resend (State.canon_retryTaken hc p seq h) hw seq]
  unfold State.retryTaken
  rw [← State.port_rxTake hc p h]
  exact congrArg Host.Outcome.next (if_pos hh)

/-- What RETRY leaves of the port, and beside it. -/
theorem State.retry_port (hc : s.canon = true) (p seq : Nat) (h : FlitHead) :
    let t := (s.retryTaken p seq h).resend p seq
    t.besidePorts = s.besidePorts ∧
      t.port p = (((s.port p).taken h).retried seq).again (((s.port p).acked h).dropWhile fun e => e.1 != seq) := by
  refine ⟨by simp [State.retryTaken], ?_⟩
  rw [State.port_resend (State.canon_retryTaken hc p seq h), State.port_retryTaken hc]
  rfl

/-- On a port without flits waiting, RETRY takes its head, sends again from the SEQ expected and counts the run; the 16th makes a retrain
due. -/
theorem exec_retry_spec (hc : s.canon = true) (hh : s.hears p = true) (hq : (s.port p).waitq = []) (seq : Nat) (h : FlitHead) :
    ∃ t, exec (.retry p seq h) s = .next t ∧ t.besidePorts = s.besidePorts ∧ (t.port p).replay = (s.port p).acked h ∧
      (t.port p).credit = (s.port p).given h ∧
      (t.port p).sent.map (·.2) = (s.port p).sent.map (·.2) ++ (((s.port p).acked h).dropWhile fun e => e.1 != seq).map (·.2) ∧
      (t.port p).retryRun = (if (s.port p).retrySeq = seq then (s.port p).retryRun + 1 else 1) ∧
      (16 ≤ (t.port p).retryRun → (t.port p).retrainDue = true) := by
  obtain ⟨hb, hp⟩ := State.retry_port hc p seq h
  have hf := Port.again_frame (((s.port p).acked h).dropWhile fun e => e.1 != seq) (((s.port p).taken h).retried seq)
  have hrun := congrArg Port.retryRun hf
  have hdue := congrArg Port.retrainDue hf
  rw [← hp] at hf hrun hdue
  refine ⟨_, exec_retry_hears hc hh hq seq h, hb, (congrArg Port.replay hf :), (congrArg Port.credit hf :), ?_, hrun, fun h16 => ?_⟩
  · rw [hp, Port.again_sent]
    rfl
  · refine hdue.trans ?_
    rw [Port.retried, Bool.or_eq_true]
    exact Or.inr (decide_eq_true (Nat.le_trans h16 (Nat.le_of_eq hrun)))

/-- The receiver's absolute credits of a RESYNC, less those the flits of the replay buffer take. -/
def Port.resyncCredit (q : Port) (b : ResyncBody) : List Nat :=
  let n := fun vc => (q.replay.filter fun e => e.2.vc == some vc).length
  [b.cr0 - n 0, b.cr1 - n 1, b.cr2 - n 2]

/-- The port that has met a RESYNC, before it sends again. -/
def Port.atResync (q : Port) (b : ResyncBody) (h : FlitHead) : Port :=
  { (q.taken h).resynced b.seq with credit := ((q.taken h).resynced b.seq).resyncCredit b }

/-- The state that has met a RESYNC, before it sends again. -/
def State.resyncTaken (s : State) (p : Nat) (b : ResyncBody) (h : FlitHead) : State :=
  ((s.rxTake p h).setPort p (((s.port p).taken h).resynced b.seq)).setCredits p ((s.port p).atResync b h).credit

theorem State.canon_resyncTaken (hc : s.canon = true) (p : Nat) (b : ResyncBody) (h : FlitHead) : (s.resyncTaken p b h).canon = true :=
  State.canon_setCredits (State.canon_setPort (State.canon_rxTake hc p h) _ _) _ _

theorem State.port_resyncTaken (hc : s.canon = true) (p : Nat) (b : ResyncBody) (h : FlitHead) :
    (s.resyncTaken p b h).port p = (s.port p).atResync b h := by
  have hr := State.canon_rxTake hc p h
  rw [State.resyncTaken, State.port_setCredits (State.canon_setPort hr _ _), State.port_setPort_same hr]
  rfl

/-- With none waiting for credit, RESYNC takes its head and the receiver's credits and has the port send again. -/
theorem exec_resync_hears (hc : s.canon = true) (hh : s.hears p = true) (hq : (s.port p).waitq = []) (b : ResyncBody) (h : FlitHead) :
    exec (.resync p b h) s = .next ((s.resyncTaken p b h).resend p b.seq) := by
  have hw : ((s.resyncTaken p b h).port p).waitq = [] := by rw [State.port_resyncTaken hc]; exact hq
  have hr := State.canon_rxTake hc p h
  rw [← State.pump_resend (State.canon_resyncTaken hc p b h) hw b.seq]
  have hx : exec (.resync p b h) s = .next (
      ((((s.rxTake p h).setPort p (((s.rxTake p h).port p).resynced b.seq)).setCredits p
        ((((s.rxTake p h).setPort p (((s.rxTake p h).port p).resynced b.seq)).port p).resyncCredit b)).resend p b.seq).pump p) :=
    congrArg Host.Outcome.next (if_pos hh)
  rw [hx, State.port_rxTake hc, State.port_setPort_same hr]
  rfl

/-- What RESYNC leaves of the port, and beside it. -/
theorem State.resync_port (hc : s.canon = true) (p : Nat) (b : ResyncBody) (h : FlitHead) :
    let t := (s.resyncTaken p b h).resend p b.seq
    t.besidePorts = s.besidePorts ∧
      t.port p = ((s.port p).atResync b h).again (((s.port p).atResync b h).replay.dropWhile fun e => e.1 != b.seq) := by
  refine ⟨by simp [State.resyncTaken], ?_⟩
  rw [State.port_resend (State.canon_resyncTaken hc p b h), State.port_resyncTaken hc]

/-- On a port without flits waiting, RESYNC takes the receiver's credits and sends again from the SEQ expected. -/
theorem exec_resync_spec (hc : s.canon = true) (hh : s.hears p = true) (hq : (s.port p).waitq = []) (b : ResyncBody) (h : FlitHead) :
    ∃ t, exec (.resync p b h) s = .next t ∧ t.besidePorts = s.besidePorts ∧ (t.port p).credit = ((s.port p).atResync b h).credit ∧
      (t.port p).sent.map (·.2) =
        (s.port p).sent.map (·.2) ++ (((s.port p).atResync b h).replay.dropWhile fun e => e.1 != b.seq).map (·.2) := by
  obtain ⟨hb, hp⟩ := State.resync_port hc p b h
  have hf := Port.again_frame (((s.port p).atResync b h).replay.dropWhile fun e => e.1 != b.seq) ((s.port p).atResync b h)
  rw [← hp] at hf
  refine ⟨_, exec_resync_hears hc hh hq b h, hb, (congrArg Port.credit hf :), ?_⟩
  rw [hp, Port.again_sent]
  rfl

/-- A port that has noted a corrected codeword in the flit that failed: more than 8 make a retrain due. -/
def Port.fecNoted (q : Port) : Port := { q with fecRun := q.fecRun + 1, retrainDue := q.retrainDue || decide (8 < q.fecRun + 1) }

/-- A flit whose CRC fails is counted, and RETRY asks for it. -/
theorem exec_flitCrcFail_hears (hc : s.canon = true) (hh : s.hears p = true) (fec : Bool) :
    ∃ t : State, exec (.flitCrcFail p fec) s = .next (t.sendCtl p (.retry (s.port p).rxSeq)) ∧ t.canon = true ∧
      t.besidePorts = s.besidePorts ∧ t.port p = if fec then (s.port p).fecNoted else s.port p := by
  have hx : exec (.flitCrcFail p fec) s = _ := congrArg Host.Outcome.next (if_pos hh)
  have hc1 := State.canon_bump hc (peerOff p + 0x20)
  cases fec with
  | false =>
    refine ⟨s.bump (peerOff p + 0x20), ?_, hc1, s.besidePorts_bump _, s.port_bump _ p⟩
    rw [hx, ← s.port_bump (peerOff p + 0x20) p]
    rfl
  | true =>
    have hc2 := State.canon_bump hc1 (peerOff p + 0x38)
    have hp : ((s.bump (peerOff p + 0x20)).bump (peerOff p + 0x38)).port p = s.port p := by simp
    refine ⟨((s.bump (peerOff p + 0x20)).bump (peerOff p + 0x38)).setPort p (s.port p).fecNoted, ?_, State.canon_setPort hc2 _ _, by simp,
      State.port_setPort_same hc2 _ _⟩
    rw [hx]
    simp only [if_true, hp]
    rw [State.port_setPort_same hc2]
    rfl

/-! ## Discovery (R427, R428) -/

theorem State.raise_swarm (s : State) (ty fid d0 d1 : Nat) : (s.raise ty fid d0 d1).swarm = s.swarm :=
  (congrArg State.swarm (s.raise_frame ty fid d0 d1) :)

theorem State.handleOf_of_peers {t : State} (h : t.swarm.peers = s.swarm.peers) (serial : Nat) : t.handleOf serial = s.handleOf serial := by
  unfold State.handleOf
  rw [h]

theorem State.peer_setPeer_same (h : AMap.wf Peer.init s.swarm.peers = true) (k : Nat) (e : Peer) :
    AMap.get Peer.init (s.setPeer k e).swarm.peers k = e :=
  AMap.get_set_same _ (AMap.rising_of_wf h) k e

/-- A route of one hop to a peer the table has replaces its route through the port. -/
theorem State.addRoute_known {serial k : Nat} (h1 : 1 ≤ s.hopLimit) (hs : serial ≠ s.fuses.serial) (hk : s.handleOf serial = some k) :
    s.addRoute p serial 1 = s.setPeer k { AMap.get Peer.init s.swarm.peers k with
      routes := ((AMap.get Peer.init s.swarm.peers k).routes.filter fun r => r.1 != p) ++ [(p, 1)] } := by
  unfold State.addRoute
  rw [if_neg (by simp only [not_or]; exact ⟨by omega, hs⟩), hk]

/-- The handle a new peer takes is a free one. -/
theorem firstFree_spec {f : Nat → Bool} {g : Nat → Bool} (h : ∃ k, k < 64 ∧ f k = false) :
    ∃ k, (let free := (List.range 64).filter fun k => !f k
      free.find? g <|> free.head?) = some k ∧ k < 64 ∧ f k = false := by
  have hmem : ∀ k, k ∈ (List.range 64).filter (fun k => !f k) ↔ k < 64 ∧ f k = false := by simp
  generalize (List.range 64).filter (fun k => !f k) = free at hmem ⊢
  obtain ⟨j, hj⟩ := h
  cases hx : free.find? g with
  | some k => exact ⟨k, by simp [hx], (hmem k).mp (List.mem_of_find?_eq_some hx)⟩
  | none =>
    cases free with
    | nil => exact absurd ((hmem j).mpr hj) (List.not_mem_nil)
    | cons k ks => exact ⟨k, by simp [hx], (hmem k).mp (List.mem_cons_self ..)⟩

/-- A route of one hop to a new peer takes a free handle, with its event. -/
theorem State.addRoute_new {serial : Nat} (h1 : 1 ≤ s.hopLimit) (hs : serial ≠ s.fuses.serial) (hk : s.handleOf serial = none)
    (hf : ∃ k, k < 64 ∧ (AMap.get Peer.init s.swarm.peers k).valid = false) :
    ∃ k, k < 64 ∧ (AMap.get Peer.init s.swarm.peers k).valid = false ∧ s.addRoute p serial 1 =
      (s.setPeer k { serial := serial, valid := true, routes := [(p, 1)], freed := false }).raise 0xA (0x7000 + p) serial k := by
  obtain ⟨k, hx, hlt, hv⟩ := firstFree_spec (g := fun k => !(AMap.get Peer.init s.swarm.peers k).freed) hf
  refine ⟨k, hlt, hv, ?_⟩
  unfold State.addRoute
  rw [if_neg (by simp only [not_or]; exact ⟨by omega, hs⟩), hk]
  simp only at hx ⊢
  rw [hx]

/-- Taking a head, and sending what it allows, keeps the links. -/
theorem State.rxHead_links (hc : s.canon = true) (p : Nat) (h : FlitHead) : s.SameLinks (s.rxHead p h) := by
  have h0 : s.SameLinks s := .refl (State.canon_ports hc)
  refine State.SameLinks.pump ?_ p
  exact (h0.setPort p (q := (s.port p).taken h) rfl).of_offMemory (State.offMemory_ledgIn ..)

/-- What a HELLO heard answers: its head is taken; the module's own serial in its own swarm closes a loop, a neighbour there sets the far
end and its routes. -/
theorem exec_hello_hears (hc : s.canon = true) (hh : s.hears p = true) (b : HelloBody) (h : FlitHead) :
    exec (.hello p b h) s = .next (
      let u := s.rxHead p h
      if b.swarmId = s.cfg.peer.swarmId then
        if b.src = s.fuses.serial then (u.portDown p .loop).raise 0xD (0x7000 + p) b.src 2
        else ((b.hops.zip b.serials).take 24).foldl (fun s e => if e.1 = 0 then s else s.addRoute p e.2 (e.1 + 1))
          ((u.setPort p { u.port p with far := b.src }).addRoute p b.src 1)
      else u) := by
  have hl := State.rxHead_links hc p h
  change execHello p b s h = _
  unfold execHello
  simp only [hh, if_true, hl.hears, hl.cfg, true_and]
  split
  · rw [hl.fuses]
  · rfl

/-- A HELLO of another swarm gives only its head. -/
theorem exec_hello_other (hc : s.canon = true) (hh : s.hears p = true) (hq : (s.port p).waitq = []) {b : HelloBody}
    (hs : b.swarmId ≠ s.cfg.peer.swarmId) (h : FlitHead) : exec (.hello p b h) s = .next (s.rxTake p h) := by
  rw [exec_hello_hears hc hh, State.rxHead_idle hc hq]
  exact congrArg Host.Outcome.next (if_neg hs)

/-- A HELLO of this module's own serial closes a loop. -/
theorem exec_hello_own (hc : s.canon = true) (hh : s.hears p = true) {b : HelloBody} (hs : b.swarmId = s.cfg.peer.swarmId)
    (ho : b.src = s.fuses.serial) (h : FlitHead) :
    exec (.hello p b h) s = .next (((s.rxHead p h).portDown p .loop).raise 0xD (0x7000 + p) b.src 2) := by
  rw [exec_hello_hears hc hh]
  exact congrArg Host.Outcome.next ((if_pos hs).trans (if_pos ho))

/-- The state that has heard its neighbour: its head taken, the port's far end set. -/
def State.helloHeard (s : State) (p : Nat) (b : HelloBody) (h : FlitHead) : State :=
  (s.rxHead p h).setPort p { (s.rxHead p h).port p with far := b.src }

theorem State.helloHeard_links (hc : s.canon = true) (p : Nat) (b : HelloBody) (h : FlitHead) : s.SameLinks (s.helloHeard p b h) :=
  (State.rxHead_links hc p h).setPort p rfl

theorem State.helloHeard_far (hc : s.canon = true) (p : Nat) (b : HelloBody) (h : FlitHead) : ((s.helloHeard p b h).port p).far = b.src := by
  rw [State.helloHeard, State.port_setPort_of_wf (State.rxHead_links hc p h).wf, if_pos rfl]

/-- A neighbour's HELLO that tells of no other peer adds the route to it. -/
theorem exec_hello_neighbour (hc : s.canon = true) (hh : s.hears p = true) {b : HelloBody} (hs : b.swarmId = s.cfg.peer.swarmId)
    (ho : b.src ≠ s.fuses.serial) (h0 : ∀ n ∈ b.hops, n = 0) (h : FlitHead) :
    exec (.hello p b h) s = .next ((s.helloHeard p b h).addRoute p b.src 1) := by
  rw [exec_hello_hears hc hh]
  refine congrArg Host.Outcome.next (((if_pos hs).trans (if_neg ho)).trans (foldl_fixed _ _ fun x hx => ?_))
  exact if_pos (h0 _ (List.of_mem_zip (List.mem_of_mem_take hx)).1)

@[simp] theorem State.port_setPeer (s : State) (k : Nat) (e : Peer) (p : Nat) : (s.setPeer k e).port p = s.port p := rfl

/-- A neighbour the table has: its route through the port is of one hop. -/
theorem exec_hello_known (hc : s.canon = true) (hh : s.hears p = true) {b : HelloBody} (hs : b.swarmId = s.cfg.peer.swarmId)
    (ho : b.src ≠ s.fuses.serial) (h1 : 1 ≤ s.hopLimit) (h0 : ∀ n ∈ b.hops, n = 0) (h : FlitHead) {k : Nat}
    (hk : s.handleOf b.src = some k) :
    ∃ t, exec (.hello p b h) s = .next t ∧ (t.port p).far = b.src ∧ AMap.get Peer.init t.swarm.peers k =
      { AMap.get Peer.init s.swarm.peers k with
        routes := ((AMap.get Peer.init s.swarm.peers k).routes.filter fun r => r.1 != p) ++ [(p, 1)] } := by
  have hl := State.helloHeard_links hc p b h
  have h1' : 1 ≤ (s.helloHeard p b h).hopLimit := by rw [State.hopLimit, hl.cfg]; exact h1
  have hw : AMap.wf Peer.init (s.helloHeard p b h).swarm.peers = true := by rw [hl.peers]; exact State.canon_swarm_peers hc
  refine ⟨_, exec_hello_neighbour hc hh hs ho h0 h, ?_⟩
  rw [State.addRoute_known h1' (by rw [hl.fuses]; exact ho) ((State.handleOf_of_peers hl.peers _).trans hk), State.port_setPeer,
    State.peer_setPeer_same hw, hl.peers]
  exact ⟨State.helloHeard_far hc p b h, rfl⟩

/-- A neighbour new to the table takes a free handle. -/
theorem exec_hello_new (hc : s.canon = true) (hh : s.hears p = true) {b : HelloBody} (hs : b.swarmId = s.cfg.peer.swarmId)
    (ho : b.src ≠ s.fuses.serial) (h1 : 1 ≤ s.hopLimit) (h0 : ∀ n ∈ b.hops, n = 0) (h : FlitHead)
    (hk : s.handleOf b.src = none) (hf : ∃ k, k < 64 ∧ (AMap.get Peer.init s.swarm.peers k).valid = false) :
    ∃ t k, exec (.hello p b h) s = .next t ∧ (t.port p).far = b.src ∧ k < 64 ∧ (AMap.get Peer.init s.swarm.peers k).valid = false ∧
      AMap.get Peer.init t.swarm.peers k = { serial := b.src, valid := true, routes := [(p, 1)], freed := false } := by
  have hl := State.helloHeard_links hc p b h
  have h1' : 1 ≤ (s.helloHeard p b h).hopLimit := by rw [State.hopLimit, hl.cfg]; exact h1
  have hw : AMap.wf Peer.init (s.helloHeard p b h).swarm.peers = true := by rw [hl.peers]; exact State.canon_swarm_peers hc
  have hnew := State.addRoute_new (p := p) h1' (by rw [hl.fuses]; exact ho) ((State.handleOf_of_peers hl.peers _).trans hk)
    (by rw [hl.peers]; exact hf)
  obtain ⟨k, hlt, hv, hx⟩ := hnew
  rw [hl.peers] at hv
  refine ⟨_, k, exec_hello_neighbour hc hh hs ho h0 h, ?_, hlt, hv, ?_⟩
  · rw [hx, State.port_raise, State.port_setPeer]
    exact State.helloHeard_far hc p b h
  · rw [hx, State.raise_swarm]
    exact State.peer_setPeer_same hw _ _

/-- HELLO_SEND on a port that is UP sends the page and goes to the next. -/
theorem exec_helloSend_up (hc : s.canon = true) (hup : (s.port p).st = .up) :
    ∃ t, exec (.helloSend p) s = .next t ∧ t.besidePorts = s.besidePorts ∧
      t.port p = { (s.port p).sentCtl (.hello (s.helloBody p)) with page := ((s.port p).page + 1) % 3 } := by
  have hp := State.port_sendCtl hc p (.hello (s.helloBody p))
  refine ⟨(s.sendCtl p (.hello (s.helloBody p))).setPort p { (s.sendCtl p (.hello (s.helloBody p))).port p with
    page := (((s.sendCtl p (.hello (s.helloBody p))).port p).page + 1) % 3 }, congrArg Host.Outcome.next (if_pos hup), ?_, ?_⟩
  · rw [State.besidePorts_setPort, State.besidePorts_sendCtl]
  · rw [State.port_setPort_same (State.canon_sendCtl hc p _), hp]
    rfl

/-! ## Routes (R429) -/

/-- One entry of the table loses its route through a port, and leaves the table with its last one. -/
def State.dropRoute (p : Nat) (q : Nat → Bool) (s : State) (e : Nat × Peer) : State :=
  if e.2.valid && q e.2.serial && e.2.routes.any (fun r => r.1 == p) then
    let rs := e.2.routes.filter fun r => r.1 != p
    if rs = [] then s.depart p e.1 else s.setPeer e.1 { e.2 with routes := rs }
  else s

theorem State.dropRoutes_eq (s : State) (p : Nat) (q : Nat → Bool) : s.dropRoutes p q = s.swarm.peers.foldl (State.dropRoute p q) s := rfl

/-- Where one entry alone has the serial, and a route through the port, ROUTE_EXPIRY acts on it alone. -/
theorem exec_routeExpiry_one (hc : s.canon = true) {serial k : Nat} (hv : (AMap.get Peer.init s.swarm.peers k).valid = true)
    (hs : (AMap.get Peer.init s.swarm.peers k).serial = serial)
    (hr : ((AMap.get Peer.init s.swarm.peers k).routes.filter fun r => r.1 != p) ≠ (AMap.get Peer.init s.swarm.peers k).routes)
    (hj : ∀ j, j ≠ k → (AMap.get Peer.init s.swarm.peers j).valid = true → (AMap.get Peer.init s.swarm.peers j).serial ≠ serial) :
    exec (.routeExpiry p serial) s = .next (
      let e := AMap.get Peer.init s.swarm.peers k
      let rs := e.routes.filter fun r => r.1 != p
      if rs = [] then s.depart p k else s.setPeer k { e with routes := rs }) := by
  have hrise := AMap.rising_of_wf (State.canon_swarm_peers hc)
  have hmem : (k, AMap.get Peer.init s.swarm.peers k) ∈ s.swarm.peers :=
    AMap.mem_of_get_ne fun e => by rw [e] at hv; exact absurd hv (by decide)
  have hany : (AMap.get Peer.init s.swarm.peers k).routes.any (fun r => r.1 == p) = true := by
    by_contra hn
    refine hr (List.filter_eq_self.mpr fun r hm => ?_)
    rw [List.any_eq_true] at hn
    simp only [bne_iff_ne, ne_eq]
    exact fun e => hn ⟨r, hm, by simp [e]⟩
  have hother : ∀ u, ∀ x ∈ s.swarm.peers, x.1 ≠ k → State.dropRoute p (· == serial) u x = u := fun u x hx hne => by
    have hget := AMap.get_of_mem Peer.init hrise hx
    have hxs := hj x.1 hne
    rw [hget] at hxs
    refine if_neg fun hcond => ?_
    simp only [Bool.and_eq_true, beq_iff_eq] at hcond
    exact hxs hcond.1.1 hcond.1.2
  change Host.Outcome.next (s.dropRoutes p (· == serial)) = _
  rw [State.dropRoutes_eq, AMap.foldl_only hrise hmem hother]
  exact congrArg Host.Outcome.next (if_pos (by simp [hv, hs, hany]))

/-- The peer that leaves with its last route keeps its handle, freed. -/
theorem State.depart_peer (hc : s.canon = true) (p k : Nat) :
    AMap.get Peer.init (s.depart p k).swarm.peers k =
      { AMap.get Peer.init s.swarm.peers k with valid := false, routes := [], freed := true } := by
  rw [(State.depart_links (State.canon_ports hc) p k).peers]
  exact State.peer_setPeer_same (State.canon_swarm_peers hc) _ _

/-! ## Retrains (R421, R422) -/

/-- The retrains of a port within a second of a round. -/
def Port.recentAt (q : Port) (round : Nat) : List Nat := q.recent.filter fun r => decide (round < r + 977)

/-- The lanes a retrain carries on with: the widest set good at both ends, one width less after three retrains within a second. -/
def Port.retrainLanes (q : Port) (round good far : Nat) : Nat :=
  if 3 ≤ (q.recentAt round).length then narrower (good &&& far &&& (15 ^^^ q.badLanes)) else laneSet (good &&& far &&& (15 ^^^ q.badLanes))

/-- A port as a retrain leaves it. -/
def Port.retrained (q : Port) (recent : List Nat) (lanes : Nat) : Port :=
  { q with lanes := lanes, recent := recent, retryRun := 0, fecRun := 0, retrainDue := false, owed := [0, 0, 0] }

/-- What RESYNC tells after a retrain: the SEQ expected, the credits free and the good lanes. -/
def Port.resyncBody (q : Port) (good : Nat) : ResyncBody :=
  ⟨q.rxSeq, q.room 0, q.room 1, q.room 2, good % 16 &&& (15 ^^^ q.badLanes)⟩

/-- On a port that is UP with flits to acknowledge or a retrain due, what PORT_RETRAIN answers. -/
theorem exec_portRetrain_due (hup : (s.port p).st = .up) (hd : (s.port p).retrainDue = true ∨ (s.port p).replay ≠ []) (good far : Nat) :
    exec (.portRetrain p good far) s = .next (
      let lanes := (s.port p).retrainLanes s.hk.round good far
      let u := s.bump (peerOff p + 0x30)
      if lanes = 0 then u.portDown p .down
      else
        let v := u.setPort p ((s.port p).retrained ((s.port p).recentAt s.hk.round ++ [u.hk.round]) lanes)
        (if lanes = (s.port p).lanes then v else v.portEvent p).sendCtl p (.resync ((s.port p).resyncBody good))) := by
  have hcond : (s.port p).st = .up ∧ ((s.port p).retrainDue = true ∨ (s.port p).replay ≠ []) := ⟨hup, hd⟩
  exact (congrArg Host.Outcome.next (if_pos hcond)).trans rfl

/-- A retrain without usable lanes leaves the port DOWN. -/
theorem exec_portRetrain_down (hc : s.canon = true) (hup : (s.port p).st = .up)
    (hd : (s.port p).retrainDue = true ∨ (s.port p).replay ≠ []) {good far : Nat}
    (hl : (s.port p).retrainLanes s.hk.round good far = 0) :
    ∃ t, exec (.portRetrain p good far) s = .next t ∧ (t.port p).st = .down := by
  refine ⟨(s.bump (peerOff p + 0x30)).portDown p .down, ?_, State.portDown_st (State.canon_ports (State.canon_bump hc _)) p .down⟩
  rw [exec_portRetrain_due hup hd]
  exact congrArg Host.Outcome.next (if_pos hl)

/-- A retrain with usable lanes carries on with them and tells its state with RESYNC. -/
theorem exec_portRetrain_up (hc : s.canon = true) (hup : (s.port p).st = .up)
    (hd : (s.port p).retrainDue = true ∨ (s.port p).replay ≠ []) {good far : Nat}
    (hl : (s.port p).retrainLanes s.hk.round good far ≠ 0) :
    ∃ t recent, exec (.portRetrain p good far) s = .next t ∧ t.besidePorts = s.besidePorts ∧
      t.port p = ((s.port p).retrained recent ((s.port p).retrainLanes s.hk.round good far)).sentCtl
        (.resync ((s.port p).resyncBody good)) := by
  have hx := exec_portRetrain_due hup hd good far
  extract_lets lanes u v at hx
  rw [if_neg hl] at hx
  have hu : u.canon = true := State.canon_bump hc _
  have hv : v.canon = true := State.canon_setPort hu _ _
  have hvp : v.port p = _ := State.port_setPort_same hu p _
  have hvb : v.besidePorts = s.besidePorts := (u.besidePorts_setPort ..).trans (s.besidePorts_bump _)
  refine ⟨_, (s.port p).recentAt s.hk.round ++ [u.hk.round], hx, ?_, ?_⟩
  · rw [State.besidePorts_sendCtl]
    split
    · exact hvb
    · exact (v.besidePorts_portEvent p).trans hvb
  · split
    · rw [State.port_sendCtl hv, hvp]
    · rw [State.port_sendCtl (State.canon_portEvent hv p), State.port_portEvent, hvp]

/-! ## Cables and bring-up (R26, R419) -/

/-- The pins with the level of a cable's pin. -/
def Pins.withCable (x : Pins) (p : Nat) (level : Bool) : Pins :=
  { x with pprsnt := if level then x.pprsnt ||| (1 <<< p) else x.pprsnt &&& (0xFF ^^^ (1 <<< p)) }

theorem bitOf_eq_testBit (w i : Nat) : bitOf w i = w.testBit i := by
  rw [Nat.testBit_eq_decide_div_mod_eq, bitOf, Nat.shiftRight_eq_div_pow]
  rfl

theorem Pins.withCable_bit (x : Pins) (hp : p < 8) (level : Bool) : bitOf (x.withCable p level).pprsnt p = level := by
  rw [bitOf_eq_testBit]
  cases level with
  | true => simp [Pins.withCable, Nat.shiftLeft_eq, Nat.testBit_two_pow_self]
  | false =>
    have h : (0xFF ^^^ (1 <<< p)).testBit p = false := by
      rw [Nat.testBit_xor, Nat.shiftLeft_eq, Nat.one_mul, Nat.testBit_two_pow_self, show 0xFF = 2 ^ 8 - 1 from rfl,
        Nat.testBit_two_pow_sub_one]
      simp [hp]
    simp [Pins.withCable, h]

/-- A cable's change at a port that takes no part is seen at its pin alone. -/
theorem exec_pprsntChange_off {level : Bool} (ho : s.portOn p = false) :
    exec (.pprsntChange p level) s = .next { s with pins := s.pins.withCable p level } :=
  congrArg Host.Outcome.next (if_pos (Or.inr ho))

/-- A cable's change at a port that takes part: it goes where it was UP or in LOOP, and is DOWN or trains. -/
theorem exec_pprsntChange_on {level : Bool} (hb : bitOf s.pins.pprsnt p ≠ level) (ho : s.portOn p = true) :
    exec (.pprsntChange p level) s = .next (
      let u := { s with pins := s.pins.withCable p level }
      (if (u.port p).st = .up ∨ (u.port p).st = .loop then u.portDown p .down else u).portMove p (if level then .down else .training)) := by
  have hn : ¬(bitOf s.pins.pprsnt p = level ∨ State.portOn { s with pins := s.pins.withCable p level } p = false) :=
    not_or.mpr ⟨hb, by rw [show State.portOn { s with pins := s.pins.withCable p level } p = true from ho]; decide⟩
  exact congrArg Host.Outcome.next (if_neg hn)

/-- A port that moves to a state is in it, and the cables' pins are as before. -/
theorem State.portMove_st (h : AMap.wf Port.init s.ports = true) (p : Nat) (st : PortState) :
    ((s.portMove p st).port p).st = st ∧ (s.portMove p st).pins = s.pins := by
  unfold State.portMove
  extract_lets q u
  have hu : (u.port p).st = st := by rw [State.port_setPort_of_wf h, if_pos rfl]
  split
  · exact ⟨hu, rfl⟩
  · exact ⟨(congrArg Port.st (u.port_portEvent p p)).trans hu, (congrArg State.pins (u.besidePorts_portEvent p) :)⟩

/-- A cable that arrives at a port that takes part makes it train, one that leaves has it DOWN. -/
theorem pprsntChange_on_spec (hc : s.canon = true) {level : Bool} (hb : bitOf s.pins.pprsnt p ≠ level) (ho : s.portOn p = true)
    (hp : p < 8) : ∃ t, exec (.pprsntChange p level) s = .next t ∧ bitOf t.pins.pprsnt p = level ∧
      (t.port p).st = if level then .down else .training := by
  have hx := exec_pprsntChange_on hb ho
  extract_lets u at hx
  have hw : AMap.wf Port.init u.ports = true := State.canon_ports hc
  have hd := State.portDown_ports hw p .down
  have key : ∀ v : State, AMap.wf Port.init v.ports = true → v.pins.pprsnt = u.pins.pprsnt →
      bitOf (v.portMove p (if level then .down else .training)).pins.pprsnt p = level ∧
        ((v.portMove p (if level then .down else .training)).port p).st = if level then .down else .training := fun v hv he => by
    obtain ⟨hst, hpins⟩ := State.portMove_st hv p (if level then .down else .training)
    refine ⟨?_, hst⟩
    rw [hpins, he]
    exact Pins.withCable_bit s.pins hp level
  refine ⟨_, hx, ?_⟩
  split
  · exact key _ hd.wf hd.pprsnt
  · exact key u hw rfl

/-- A port that has come up: SEQ 0 and full credits. -/
def Port.cameUp (q : Port) (lanes : Nat) : Port :=
  { q with st := .up, lanes := lanes, txSeq := 0, rxSeq := 0, credit := [512, 512, 8192], owed := [0, 0, 0], held := [0, 0, 0], replay := [],
           retrySeq := 0, retryRun := 0, recent := [], fecRun := 0, retrainDue := false, page := 0 }

/-- Bring-up without a usable lane leaves the port DOWN. -/
theorem exec_peerPortUp_down (hc : s.canon = true) {ls : Nat} (ht : (s.port p).st = .training) (ho : s.portOn p = true) (h7 : s.atS7 = true)
    (hl : laneSet (ls &&& (15 ^^^ (s.port p).badLanes)) = 0) :
    ∃ t, exec (.peerPortUp p ls) s = .next t ∧ (t.port p).st = .down := by
  refine ⟨s.portDown p .down, ?_, State.portDown_st (State.canon_ports hc) p .down⟩
  have hcond : (s.port p).st = .training ∧ s.portOn p = true ∧ s.atS7 = true := ⟨ht, ho, h7⟩
  exact congrArg Host.Outcome.next ((if_pos hcond).trans (if_pos hl))

/-- Bring-up on some usable lane, with none waiting for credit, has the port UP. -/
theorem exec_peerPortUp_up (hc : s.canon = true) {ls : Nat} (ht : (s.port p).st = .training) (ho : s.portOn p = true) (h7 : s.atS7 = true)
    (hl : laneSet (ls &&& (15 ^^^ (s.port p).badLanes)) ≠ 0) (hq : (s.port p).waitq = []) :
    ∃ t, exec (.peerPortUp p ls) s = .next t ∧ t.besidePorts = s.besidePorts ∧
      t.port p = (s.port p).cameUp (laneSet (ls &&& (15 ^^^ (s.port p).badLanes))) := by
  have hcond : (s.port p).st = .training ∧ s.portOn p = true ∧ s.atS7 = true := ⟨ht, ho, h7⟩
  generalize hlanes : laneSet (ls &&& (15 ^^^ (s.port p).badLanes)) = lanes at hl
  have hx : exec (.peerPortUp p ls) s = .next ((((s.setPort p { (s.port p).cameUp lanes with credit := (s.port p).credit }).setCredits p
      [512, 512, 8192]).portEvent p).pump p) := by
    rw [← hlanes]
    rw [← hlanes] at hl
    exact congrArg Host.Outcome.next ((if_pos hcond).trans (if_neg hl))
  have hu := State.canon_setPort hc p { (s.port p).cameUp lanes with credit := (s.port p).credit }
  have hv := State.canon_portEvent (State.canon_setCredits hu p [512, 512, 8192]) p
  have hp : ((((s.setPort p { (s.port p).cameUp lanes with credit := (s.port p).credit }).setCredits p
      [512, 512, 8192]).portEvent p)).port p = (s.port p).cameUp lanes := by
    rw [State.port_portEvent, State.port_setCredits hu, State.port_setPort_same hc]
    rfl
  rw [State.pump_idle hv (by rw [hp]; exact hq)] at hx
  exact ⟨_, hx, by simp, hp⟩

end

end Sys2Proof.Machine

open Sys2Proof Sys2Proof.Machine

/-- Settles O55: one clause per command, each read off the state that command answers. -/
theorem peerLinksAreKept : Obligations.PeerLinksAreKept := by
  unfold Obligations.PeerLinksAreKept
  intro s p hc q acked given kept
  refine ⟨fun hh => ⟨fun hq h => ⟨?idle, ?retry, ?resync⟩, ?crc, fun h b => ⟨?other, fun hs => ⟨?own, fun ho h1 h0 => ⟨?known, ?new⟩⟩⟩⟩, ?send,
    ?expiry, ?retrain, ?cable, ?bringup⟩
  case idle =>
    exact ⟨_, exec_idle_hears hc hh hq h, State.kept_of_besidePorts (s.besidePorts_rxTake p h), State.port_rxTake hc p h⟩
  case retry =>
    intro seq
    obtain ⟨t, hx, hb, hport⟩ := exec_retry_spec hc hh hq seq h
    exact ⟨t, hx, State.kept_of_besidePorts hb, hport⟩
  case resync =>
    intro b again n
    obtain ⟨t, hx, hb, hport⟩ := exec_resync_spec hc hh hq b h
    exact ⟨t, hx, State.kept_of_besidePorts hb, hport⟩
  case crc =>
    intro fec
    obtain ⟨t, hx, htc, hb, hp⟩ := exec_flitCrcFail_hears hc hh fec
    refine ⟨_, (t.port p).head 3 0, hx, State.kept_of_besidePorts ((t.besidePorts_sendCtl ..).trans hb), ?_⟩
    rw [State.port_sendCtl htc, hp]
    cases fec
    · exact ⟨rfl, rfl, rfl⟩
    · exact ⟨rfl, rfl, rfl⟩
  case other =>
    exact fun hs hq => ⟨_, exec_hello_other hc hh hq hs h, State.kept_of_besidePorts (s.besidePorts_rxTake p h), State.port_rxTake hc p h⟩
  case own =>
    refine fun ho => ⟨_, exec_hello_own hc hh hs ho h, ?_⟩
    rw [State.port_raise]
    exact State.portDown_st (State.rxHead_links hc p h).wf p .loop
  case known => exact fun k hk => exec_hello_known hc hh hs ho h1 h0 h hk
  case new => exact exec_hello_new hc hh hs ho h1 h0 h
  case send =>
    intro hup
    obtain ⟨t, hx, hb, hp⟩ := exec_helloSend_up hc hup
    exact ⟨t, (s.port p).head 3 0, hx, State.kept_of_besidePorts hb, by rw [hp]; rfl, by rw [hp]⟩
  case expiry =>
    intro serial k e rs hv hs hr hj
    have hx := exec_routeExpiry_one hc hv hs hr hj
    refine ⟨fun hne => ⟨_, hx, if_neg hne⟩, fun he => ⟨_, hx, ?_⟩⟩
    rw [if_pos he]
    exact State.depart_peer hc p k
  case retrain =>
    intro good far hup hd recent m lanes
    refine ⟨fun hl => exec_portRetrain_down hc hup hd hl, fun hl => ?_⟩
    obtain ⟨t, recent, hx, hb, hp⟩ := exec_portRetrain_up hc hup hd hl
    refine ⟨t, (q.retrained recent lanes).head 3 0, hx, State.kept_of_besidePorts hb, ?_⟩
    rw [hp]
    exact ⟨hup, rfl, rfl, rfl⟩
  case cable =>
    intro level hp hb
    cases ho : s.portOn p with
    | true =>
      obtain ⟨t, hx, hbit, hst⟩ := pprsntChange_on_spec hc hb ho hp
      exact ⟨t, hx, hbit, fun _ => hst, nofun⟩
    | false => exact ⟨_, exec_pprsntChange_off ho, Pins.withCable_bit s.pins hp level, nofun, fun _ => rfl⟩
  case bringup =>
    intro ls ht ho h7 lanes
    refine ⟨fun hl => exec_peerPortUp_down hc ht ho h7 hl, fun hl hq => ?_⟩
    obtain ⟨t, hx, hb, hp⟩ := exec_peerPortUp_up hc ht ho h7 hl hq
    exact ⟨t, hx, State.kept_of_besidePorts hb, hp⟩
end

section
/-! PROOFS. The AON domain and the start (R35, R41, R43, R67, R435 to R437, R456, R457): the reset state, the events that begin a start-up,
the end of NOR operations, and what the management commands answer. -/

namespace Sys2Proof.Machine

variable {s : State}

/-! ## The start (R35) -/

/-- The state of a start that the input begins, before anything is discarded. -/
def State.powered (s : State) : State :=
  { s with pins := { s.pins with inputOn := true, aonOn := true, holdUp := false, thermtrip := false },
           hk := { s.hk with shutdown := false, shutDue := none, coolRounds := 0 } }

/-- The input coming on with MRST# high begins the start. -/
theorem exec_inputOn_starts (hi : s.pins.inputOn = false) (hm : s.pins.mrst = true) : exec .inputOn s = .next s.powered.startUp := by
  change execInputOn s = _
  simp [execInputOn, hi, hm, State.mayStart, State.powered]

/-- The input coming on again changes nothing. -/
theorem exec_inputOn_on (hi : s.pins.inputOn = true) : exec .inputOn s = .next s := by
  change execInputOn s = _
  simp [execInputOn, hi]

/-! ## The NOR (R41, R43, R457) -/

/-- The operation in progress ends as asked, and the next one starts. -/
theorem exec_norOperationDone_busy {op : NorOp} (hb : s.nor.busy = some op) :
    exec .norOperationDone s = .next (((s.norApply op).norAfter op true).norNext false) := by
  change execNorOperationDone s = _
  simp only [execNorOperationDone, hb]

/-- The operation in progress is abandoned, which is a fatal event of type 4. -/
theorem exec_norTimeout_busy {op : NorOp} (hb : s.nor.busy = some op) :
    exec .norTimeout s = .next ((((s.norPartial op).norAfter op false).norNext true).fatal 4 0 0) := by
  change execNorTimeout s = _
  simp only [execNorTimeout, hb]

/-- With the NOR idle an operation starts at once. -/
theorem State.norRequest_idle (hb : s.nor.busy = none) (op : NorOp) :
    s.norRequest op = { s with nor := { s.nor with busy := some op } } := by
  simp only [State.norRequest, hb]

/-- The start of the next operation touches the NOR alone, and there neither the bytes nor the fatal events. -/
theorem State.norNext_keeps (s : State) (b : Bool) : { s.norNext b with nor := s.nor } = s ∧ (s.norNext b).nor.mem = s.nor.mem ∧
    (s.norNext b).nor.fatalQ = s.nor.fatalQ ∧ (s.norNext b).nor.timedOut = b := by
  unfold State.norNext
  split
  · split
    · exact ⟨rfl, rfl, rfl, rfl⟩
    · exact ⟨rfl, rfl, rfl, rfl⟩
  · exact ⟨rfl, rfl, rfl, rfl⟩

/-- With the input on the oldest operation requested starts. -/
theorem State.norNext_cons {op : NorOp} {rest : List NorOp} (hi : s.pins.inputOn = true) (hq : s.nor.queue = op :: rest) (b : Bool) :
    s.norNext b = { s with nor := { s.nor with busy := some op, queue := rest, timedOut := b } } := by
  simp only [State.norNext, hq, hi, if_true]

/-- With none requested the NOR is idle. -/
theorem State.norNext_nil (hq : s.nor.queue = []) (b : Bool) :
    s.norNext b = { s with nor := { s.nor with busy := none, timedOut := b } } := by
  simp only [State.norNext, hq]

/-- The oldest fatal event is programmed at the log's place when the NOR is idle and the place is known. -/
theorem exec_fatalLogWrite_starts {e : FatalEvent} {rest : List FatalEvent} (ha : s.pins.aonOn = true) (hi : s.pins.inputOn = true)
    (hq : s.nor.fatalQ = e :: rest) (hb : s.nor.busy = none) (hs : s.nor.fatalSeq ≠ 0) :
    exec .fatalLogWrite s =
      .next ((s.fatalPage e).2.norRequest (.prog (fatalBase + 256 * s.nor.fatalPos) (s.fatalPage e).1 .fatal)) := by
  change execFatalLogWrite s = _
  simp only [execFatalLogWrite, hq, ha, hi, hb, Option.isNone_none, and_self, if_true, hs, if_false]
  rfl

@[simp] theorem length_leBytes (n v : Nat) : (leBytes n v).length = n := by simp [leBytes]

/-- A fatal entry is a page that begins with the next SEQ. -/
theorem State.fatalPage_bytes (s : State) (e : FatalEvent) :
    (s.fatalPage e).1.length = 256 ∧ (s.fatalPage e).1.take 8 = leBytes 8 (s.nor.fatalSeq + 1) := by
  have hseq : (s.freshTime 64).2.nor.fatalSeq = s.nor.fatalSeq := rfl
  simp only [State.fatalPage, List.flatMap_cons, List.flatMap_nil, List.append_assoc, hseq]
  refine ⟨?_, List.take_left' (length_leBytes 8 _)⟩
  simp only [List.length_append, length_leBytes, List.length_replicate, List.length_nil]

/-! ## Management commands (R435 to R437) -/

/-- With AON power and a good PEC, in a state that serves it, a command does what it says. -/
theorem State.mgCommand_serves (ha : s.pins.aonOn = true) (f : State → State) : s.mgCommand true true f = f s := by
  simp [State.mgCommand, ha]

/-- A bad PEC is answered with status 4. -/
theorem State.mgCommand_badPec (ha : s.pins.aonOn = true) (b : Bool) (f : State → State) : s.mgCommand false b f = s.mgAnswer 4 [] := by
  simp [State.mgCommand, ha]

/-- A state that does not serve the command is answered with status 2. -/
theorem State.mgCommand_badState (ha : s.pins.aonOn = true) (f : State → State) : s.mgCommand true false f = s.mgAnswer 2 [] := by
  simp [State.mgCommand, ha]

/-- With the NOR idle a NOR command does what it says. -/
theorem State.norCommand_idle (ha : s.pins.aonOn = true) (hb : s.nor.busy = none) (f : State → State) :
    s.norCommand true true f = f s := by
  simp [State.norCommand, State.mgCommand_serves ha, hb]

/-- With a NOR operation in progress it is answered with status 1. -/
theorem State.norCommand_busy (ha : s.pins.aonOn = true) (hb : s.nor.busy.isSome = true) (f : State → State) :
    s.norCommand true true f = s.mgAnswer 1 [] := by
  simp [State.norCommand, State.mgCommand_serves ha, hb]

theorem State.norCommand_badState (ha : s.pins.aonOn = true) (f : State → State) : s.norCommand true false f = s.mgAnswer 2 [] :=
  State.mgCommand_badState ha _

/-- MG_ALERT after CLEAR_ALERT: the bits of Table 14.15 that the mask does not name. -/
theorem testBit_clearAlert (alert m i : Nat) :
    (alert &&& (0xE &&& (0xF ^^^ (m % 16)))).testBit i = (alert.testBit i && decide (1 ≤ i ∧ i ≤ 3) && !m.testBit i) := by
  have h16 : m % 16 = m % 2 ^ 4 := rfl
  rw [Nat.testBit_and, Nat.testBit_and, Nat.testBit_xor, h16, Nat.testBit_mod_two_pow]
  by_cases hi : i < 4
  · interval_cases i <;> simp [Nat.testBit]
  · have hE : Nat.testBit 0xE i = false := Nat.testBit_lt_two_pow (Nat.lt_of_lt_of_le (by decide) (Nat.pow_le_pow_right (by decide) (by omega : 4 ≤ i)))
    have hd : ¬ (1 ≤ i ∧ i ≤ 3) := by omega
    simp [hE, hd]

/-- Bytes written one by one from a place on read back there, and the rest of the map reads as before. -/
theorem AMap.get_foldl_set {d : Byte} (off : Nat) : ∀ (bs : List Byte) (n : Nat) (m : AMap Byte), AMap.rising m = true → ∀ a,
    AMap.get d ((bs.zipIdx n).foldl (fun m (p : Byte × Nat) => AMap.set d m (off + p.2) p.1) m) a =
      if off + n ≤ a ∧ a < off + n + bs.length then bs.getD (a - (off + n)) 0 else AMap.get d m a
  | [], n, m, _, a => by
    rw [if_neg (by simp only [List.length_nil]; omega)]
    rfl
  | b :: bs, n, m, hm, a => by
    rw [List.zipIdx_cons, List.foldl_cons, AMap.get_foldl_set off bs (n + 1) _ (AMap.rising_set hm), AMap.get_set _ hm, List.length_cons]
    by_cases ha : a = off + n
    · subst ha
      rw [if_neg (by omega), if_pos rfl, if_pos (by omega), Nat.sub_self]
      rfl
    · rw [if_neg ha]
      by_cases hin : off + n ≤ a ∧ a < off + n + (bs.length + 1)
      · rw [if_pos (by omega), if_pos hin, show a - (off + n) = a - (off + (n + 1)) + 1 by omega]
        rfl
      · rw [if_neg (by omega), if_neg hin]

end Sys2Proof.Machine

open Sys2Proof Sys2Proof.Machine

/-- Settles O60: every map of the reset state is empty. -/
theorem resetHoldsTheInvariant : Obligations.ResetHoldsTheInvariant :=
  ⟨rfl, rfl, ⟨rfl, rfl, rfl, rfl, rfl, rfl, rfl, rfl, rfl, rfl, rfl, rfl, rfl, rfl, rfl, rfl, rfl, rfl, rfl⟩, rfl⟩

/-- Settles O2: each of the three events ends in the start, which keeps the NOR and the fuses. -/
theorem startUpBeginsAtS0 : Obligations.StartUpBeginsAtS0 := by
  unfold Obligations.StartUpBeginsAtS0
  refine fun s => ⟨fun hi hm => ⟨_, exec_inputOn_starts hi hm, State.freshStart_startUp _, rfl, rfl, rfl, rfl⟩, exec_inputOn_on,
    fun hm ha hi hs => ⟨_, exec_mrstHigh_starts hm ha hi hs, State.freshStart_startUp _, rfl, rfl, rfl⟩,
    fun hs hr hi hm => ⟨s.released.startUp, ?_, State.freshStart_startUp _, rfl, rfl, rfl, rfl⟩⟩
  rw [exec_thermalRestart_cool hs hr hi, if_pos hm]

/-- Settles O11: the end of an operation by what it was for, the log's write by its page. -/
theorem norOperationsEndInOrder : Obligations.NorOperationsEndInOrder := by
  unfold Obligations.NorOperationsEndInOrder
  refine fun s ha hi => ⟨fun a ds nx rest hb hq => ?next, fun a hb hq => ?idle, fun a ds hb => ?timeout, fun e rest hq hb hs => ?log⟩
  case next =>
    have hn := State.norNext_cons (s := s.norApply (.prog a ds .slot)) hi hq false
    exact ⟨_, (exec_norOperationDone_busy hb).trans (congrArg _ hn), rfl, rfl, rfl⟩
  case idle =>
    have hn := State.norNext_nil (s := s.norApply (.erase a .slot)) hq false
    exact ⟨_, (exec_norOperationDone_busy hb).trans (congrArg _ hn), rfl, rfl⟩
  case timeout =>
    obtain ⟨hframe, -, hfq, hto⟩ := (s.norPartial (.prog a ds .slot)).norNext_keeps true
    refine ⟨_, ⟨4, 0, 0, ((s.norPartial (.prog a ds .slot)).norNext true).prog.step.toNat⟩, exec_norTimeout_busy hb, hto,
      congrArg (· ++ [_]) hfq, rfl, congrArg (·.mgmt.alert ||| 2) hframe, (congrArg State.dram hframe :),
      (congrArg State.cores hframe :)⟩
  case log =>
    obtain ⟨hlen, htake⟩ := s.fatalPage_bytes e
    have hidle : (s.fatalPage e).2.nor.busy = none := hb
    exact ⟨_, (s.fatalPage e).1, (exec_fatalLogWrite_starts ha hi hq hb hs).trans (congrArg _ (State.norRequest_idle hidle _)), rfl, hlen,
      htake, rfl⟩

/-- Settles O12: each command by the guards it passes. -/
theorem managementReadsAnswer : Obligations.ManagementReadsAnswer := by
  unfold Obligations.ManagementReadsAnswer
  refine fun s ha => ⟨fun h1 => ?status, ?ident, fun k hr hk => ?sensor, fun a n h1 hb hlo hhi hend => ?read, ?stat, fun m => ?clear,
    fun c hc => ?bad, fun k a n m => ⟨?_, ?_, ?_⟩⟩
  case status => exact congrArg _ ((by rw [h1] : s.mgCommand true s.boot.st.fromS1 _ = s.mgCommand true true _).trans (State.mgCommand_serves ha _))
  case ident => exact congrArg _ (State.mgCommand_serves ha _)
  case sensor =>
    refine congrArg _ ((State.mgCommand_serves ha _).trans ?_)
    simp only [hr, if_true, hk]
  case read =>
    change Host.Outcome.next (s.norCommand true s.boot.st.fromS1 _) = _
    rw [h1, State.norCommand_idle ha hb, if_pos ⟨hlo, hhi, hend⟩]
  case stat =>
    refine congrArg _ ((State.mgCommand_serves ha _).trans ?_)
    cases s.nor.busy.isSome <;> cases s.nor.timedOut <;> rfl
  case clear => exact ⟨_, congrArg Host.Outcome.next (State.mgCommand_serves ha _), rfl, rfl, rfl, testBit_clearAlert _ m⟩
  case bad =>
    obtain rfl | rfl | rfl : c = .getStatus false ∨ c = .getIdent false ∨ c = .norStat false := by simpa using hc
    · exact congrArg _ (State.mgCommand_badPec ha _ _)
    · exact congrArg _ (State.mgCommand_badPec ha _ _)
    · exact congrArg _ (State.mgCommand_badPec ha _ _)
  all_goals exact congrArg _ (State.mgCommand_badPec ha _ _)

/-- Settles O13: the slots' commands by the state and the NOR; the page buffer by its bytes. -/
theorem slotsAreWrittenInHoldOnly : Obligations.SlotsAreWrittenInHoldOnly := by
  unfold Obligations.SlotsAreWrittenInHoldOnly
  refine fun s ha => ⟨fun hst hb => ?hold, fun hst hb off bs a => ?busy, fun hst off bs a => ?refused⟩
  case busy =>
    have hh : (s.boot.st == .hold) = true := by simp [hst]
    simp only [exec, execNorBuf, execNorProg, execNorErase, hh, State.norCommand_busy ha hb, and_self]
  case refused =>
    have hh : (s.boot.st == .hold) = false := by simp [hst]
    simp only [exec, execNorBuf, execNorProg, execNorErase, hh, State.norCommand_badState ha, and_self]
  case hold =>
    have hh : (s.boot.st == .hold) = true := by simp [hst]
    simp only [exec, execNorBuf, execNorProg, execNorErase, hh, State.norCommand_idle ha hb]
    refine ⟨fun off bs hal hlt hlen hw => ?_, fun a hal hlt => ?_, fun a hal hlt => ?_, fun a hlt => ?_⟩
    · rw [if_pos ⟨hal, hlt, hlen⟩]
      have hget := AMap.get_foldl_set (d := 0) off bs 0 s.nor.buf (AMap.rising_of_wf hw)
      rw [hlen] at hget
      refine ⟨_, rfl, rfl, fun i hi => ?_, fun a hout => ?_⟩
      · refine (hget (off + i)).trans ?_
        rw [if_pos (by omega), show off + i - (off + 0) = i by omega]
      · exact (hget a).trans (if_neg (by omega))
    · rw [if_pos ⟨hal, hlt⟩, State.norRequest_idle hb]
      exact ⟨_, rfl, rfl, by simp only [State.mgAnswer, bytesAt, Nat.zero_add]⟩
    · rw [if_pos ⟨hal, hlt⟩, State.norRequest_idle hb]
      exact ⟨_, rfl, rfl, rfl⟩
    · have hout : ¬ a < slotsEnd := Nat.not_lt.mpr hlt
      rw [if_neg fun h => hout h.2, if_neg fun h => hout h.2]
      exact ⟨rfl, rfl⟩
end

section
/-! PROOFS. The image (R36, R46, R49, R50, R66): what the buffer holds after a read of a slot, and where its verification leads. -/

namespace Sys2Proof.Machine

variable {s : State}

/-! ## Stored words (R355, R356) -/

theorem encode_getLsbD_low (d : Word) (p : Bool) {i : Nat} (hi : i < 64) : (encode d p).getLsbD i = d.getLsbD i := by
  have hlow : ∀ x k, i < k → (x <<< k).testBit i = false := fun x k hk => by
    rw [Nat.testBit_shiftLeft, decide_eq_false (Nat.not_le.mpr hk), Bool.false_and]
  simp only [encode, BitVec.getLsbD_ofNat, Nat.testBit_or, hlow _ 64 hi, hlow _ 65 (by omega), Bool.or_false, BitVec.testBit_toNat]
  simp [show i < 80 by omega]

/-- The low bits of a codeword are its data. -/
theorem encode_data (d : Word) (p : Bool) : (encode d p).setWidth 64 = d := by
  refine BitVec.eq_of_getLsbD_eq fun i hi => ?_
  rw [BitVec.getLsbD_setWidth, encode_getLsbD_low d p hi]
  simp [hi]

/-- The bit above the data is the poison bit. -/
theorem encode_poison (d : Word) (p : Bool) : (encode d p).getLsbD 64 = p := by
  have hd : d.toNat.testBit 64 = false := Nat.testBit_lt_two_pow d.isLt
  simp only [encode, BitVec.getLsbD_ofNat, Nat.testBit_or, hd, Nat.testBit_shiftLeft]
  cases p
  · simp [b2n]
  · simp [b2n]

/-- The codeword of data 0 without poison is the one an unlisted word holds (R57). -/
theorem encode_zero : encode 0 false = zeroCw := by decide +kernel

/-- No codeword is all zeros. -/
theorem encode_ne_zero (d : Word) (p : Bool) : encode d p ≠ 0 := by
  intro h
  have hd : d = 0 := by rw [← encode_data d p, h]; rfl
  have hp : p = false := by rw [← encode_poison d p, h]; rfl
  rw [hd, hp, encode_zero] at h
  exact absurd h (by decide)

/-- A stored codeword decodes clean to what was stored. -/
theorem decode_encode (d : Word) (p : Bool) : decode (encode d p) = { d := d, p := p, cls := .clean, synd := 0 } := by
  rw [decode, if_neg (encode_ne_zero d p), encode_data, encode_poison, if_pos rfl]

/-! ## Maps listed from a function -/

/-- The map that lists the values of f from key b on for n keys. -/
def AMap.tabulate {α : Type} [DecidableEq α] (d : α) (f : Nat → α) (b n : Nat) : AMap α :=
  (List.range' b n).filterMap fun i => if f i = d then none else some (i, f i)

section
variable {α : Type} [DecidableEq α] {d : α} {f : Nat → α}

theorem AMap.tabulate_succ (b n : Nat) :
    AMap.tabulate d f b (n + 1) = if f b = d then AMap.tabulate d f (b + 1) n else (b, f b) :: AMap.tabulate d f (b + 1) n := by
  rw [AMap.tabulate, List.range'_succ, List.filterMap_cons]
  by_cases h : f b = d
  · simp [h, AMap.tabulate]
  · simp [h, AMap.tabulate]

theorem AMap.above_tabulate : ∀ (n b c : Nat), c < b → AMap.above c (AMap.tabulate d f b n) = true
  | 0, _, _, _ => rfl
  | n + 1, b, c, h => by
    have ih := AMap.above_tabulate n (b + 1) c (by omega)
    rw [AMap.tabulate_succ]
    split
    · exact ih
    · simp [AMap.above, h, ih]

/-- The listed map is in canonical form. -/
theorem AMap.wf_tabulate : ∀ n b : Nat, AMap.wf d (AMap.tabulate d f b n) = true
  | 0, _ => rfl
  | n + 1, b => by
    have ih := AMap.wf_tabulate n (b + 1)
    rw [AMap.tabulate_succ]
    split
    · exact ih
    · next h => simp [AMap.wf, h, ih, AMap.above_tabulate n (b + 1) b (by omega)]

/-- It reads as the function within its keys. -/
theorem AMap.get_tabulate : ∀ n b k : Nat, AMap.get d (AMap.tabulate d f b n) k = if b ≤ k ∧ k < b + n then f k else d
  | 0, b, k => by
    rw [if_neg (by omega)]
    rfl
  | n + 1, b, k => by
    have ih := AMap.get_tabulate n (b + 1) k
    rw [AMap.tabulate_succ]
    by_cases hk : b = k
    · subst hk
      rw [if_neg (by omega)] at ih
      rw [if_pos (show b ≤ b ∧ b < b + (n + 1) by omega)]
      by_cases h : f b = d
      · rw [if_pos h, ih, h]
      · rw [if_neg h]
        exact if_pos rfl
    · have hr : (b + 1 ≤ k ∧ k < b + 1 + n) ↔ (b ≤ k ∧ k < b + (n + 1)) := by omega
      simp only [hr] at ih
      split
      · exact ih
      · rw [AMap.get, if_neg hk, ih]
        split
        · next h => rw [if_neg (by omega)]
        · rfl

end

/-! ## Little-endian fields -/

/-- Each byte of a little-endian field is the byte at its address. -/
theorem testBit_leAt (d : Byte) (m : AMap Byte) (a k : Nat) : ∀ n : Nat,
    (leAt d m a n).testBit k = (decide (k < 8 * n) && (AMap.get d m (a + k / 8)).getLsbD (k % 8))
  | 0 => by simp [leAt]
  | n + 1 => by
    have hsucc : leAt d m a (n + 1) = leAt d m a n ||| ((AMap.get d m (a + n)).toNat <<< (8 * n)) := by
      simp [leAt, List.range_succ]
    rw [hsucc, Nat.testBit_or, testBit_leAt d m a k n, Nat.testBit_shiftLeft, BitVec.testBit_toNat]
    rcases Nat.lt_or_ge k (8 * n) with h | h
    · simp [h, show ¬ 8 * n ≤ k by omega, show k < 8 * (n + 1) by omega]
    · by_cases h8 : k < 8 * (n + 1)
      · simp [h, Nat.not_lt.mpr h, h8, show k / 8 = n by omega, show k - 8 * n = k % 8 by omega]
      · simp [h, Nat.not_lt.mpr h, h8, BitVec.getLsbD_of_ge _ (k - 8 * n) (show 8 ≤ k - 8 * n by omega)]

/-- Byte j of a word that holds n bytes from an address. -/
theorem leAt_byte (m : AMap Byte) (a : Nat) {n j : Nat} (hj : j < n) (hn : n ≤ 8) :
    ((BitVec.ofNat 64 (leAt erased m a n)) >>> (8 * j)).setWidth 8 = AMap.get erased m (a + j) := by
  refine BitVec.eq_of_getLsbD_eq fun i hi => ?_
  rw [BitVec.getLsbD_setWidth, BitVec.getLsbD_ushiftRight, BitVec.getLsbD_ofNat, testBit_leAt,
    show (8 * j + i) / 8 = j by omega, show (8 * j + i) % 8 = i by omega]
  simp [hi, show 8 * j + i < 64 by omega, show 8 * j + i < 8 * n by omega]

/-! ## The image buffer (R66) -/

theorem imageWords_eq_tabulate (m : AMap Byte) (base n : Nat) :
    imageWords m base n =
      AMap.tabulate zeroCw (fun i => encode (BitVec.ofNat 64 (leAt erased m (base + 8 * i) (min 8 (n - 8 * i)))) false) 0 ((n + 7) / 8) := by
  rw [imageWords, AMap.tabulate, List.range_eq_range']

/-- Every byte of the image reads from the buffer as it stands in the NOR. -/
theorem imageWords_byte (m : AMap Byte) (base : Nat) {n i : Nat} (hi : i < n) :
    ((decode (AMap.get zeroCw (imageWords m base n) (i / 8))).d >>> (8 * (i % 8))).setWidth 8 = AMap.get erased m (base + i) := by
  rw [imageWords_eq_tabulate, AMap.get_tabulate, if_pos (by omega), decode_encode, leAt_byte _ _ (by omega) (by omega)]
  congr 1
  omega

/-! ## Reading and verifying (R36, R49) -/

/-- The state in which the image of slot k is in the buffer. -/
def State.imageRead (s : State) (k : Nat) : State :=
  { s with boot := { s.boot with
      st := .s2, imgBuf := imageWords s.nor.mem (slotBase k) (s.hdr k 0x08 4 + s.hdr k 0x34 4), imgLen := s.hdr k 0x08 4 + s.hdr k 0x34 4,
      imgValid := false, imgMeas := Config.sha256 (bytesAt erased s.nor.mem (slotBase k) (s.hdr k 0x08 4)) } }

theorem exec_imageRead_s1 {k : Nat} {rest : List Nat} (hc : s.boot.cands = k :: rest) (hst : s.boot.st = .s1)
    (hr : s.boot.headersRead = true) : exec .imageRead s = .next (s.imageRead k) := by
  change execImageRead s = _
  unfold execImageRead
  split
  · next h => simp [h] at hc
  · next h =>
    obtain ⟨rfl, rfl⟩ := List.cons.inj (hc.symm.trans h)
    exact congrArg _ (if_pos ⟨hst, hr⟩)

/-- The state in which the image of slot k is taken. -/
def State.imageTaken (s : State) (k : Nat) (c : Cfg) : State :=
  { s with cfg := c, boot := { s.boot with st := .s3, slot := k, imgValid := true }, hk := { s.hk with round := 0 } }

/-- The state in which slot k is excluded with a cause. -/
def State.imageRefused (s : State) (k cause : Nat) (rest : List Nat) : State :=
  { s with boot := { s.boot.failSlot k cause with cands := rest } }

/-- What the verification answers: the image is taken, or the slot is excluded and the next candidate, if any, is read. -/
theorem exec_imageVerify_s2 {k : Nat} {rest : List Nat} (hc : s.boot.cands = k :: rest) (hst : s.boot.st = .s2) :
    exec .imageVerify s = .next (match (if s.sigCause = 0 then s.boot.parse else none) with
      | some c => s.imageTaken k c
      | none =>
        let t := s.imageRefused k (if s.sigCause = 0 then 0x0A else s.sigCause) rest
        if rest = [] then t.hold 0 else { t with boot := { t.boot with st := .s1, fallback := true } }) := by
  change execImageVerify s = _
  unfold execImageVerify
  split
  · next h => simp [h] at hc
  · next h =>
    obtain ⟨rfl, rfl⟩ := List.cons.inj (hc.symm.trans h)
    refine congrArg _ ((if_pos hst).trans ?_)
    dsimp only
    generalize (if s.sigCause = 0 then s.boot.parse else none) = r
    cases r
    · rfl
    · rfl

/-- The cause stands in the slot's field. -/
theorem Boot.failSlot_cause (b : Boot) (k cause : Nat) : (if k = 0 then (b.failSlot k cause).failA else (b.failSlot k cause).failB) = cause := by
  unfold Boot.failSlot
  by_cases h : k = 0
  · simp [h]
  · simp [h]

end Sys2Proof.Machine

open Sys2Proof Sys2Proof.Machine

/-- Settles O7: the buffer byte by byte, the verification by its outcome. -/
theorem imageIsReadAndVerified : Obligations.ImageIsReadAndVerified := by
  unfold Obligations.ImageIsReadAndVerified
  refine fun s k rest hc => ⟨fun hst hr _ => ⟨_, exec_imageRead_s1 hc hst hr, rfl, rfl, fun i hi => imageWords_byte _ _ hi, rfl⟩,
    fun hst _ => ⟨_, exec_imageVerify_s2 hc hst, ?_⟩⟩
  cases (if s.sigCause = 0 then s.boot.parse else none) with
  | some c => exact ⟨rfl, rfl, rfl⟩
  | none =>
    have hcause := s.boot.failSlot_cause k (if s.sigCause = 0 then 0x0A else s.sigCause)
    by_cases hrest : rest = []
    · rw [if_pos hrest]
      exact ⟨hcause, fun _ => ⟨rfl, rfl⟩, fun h => absurd hrest h⟩
    · rw [if_neg hrest]
      exact ⟨hcause, fun h => absurd h hrest, fun _ => ⟨rfl, rfl, rfl⟩⟩
end

section
/-! PROOFS. Every step keeps every map of the state in its canonical form (O59). One lemma for each function of the model that answers a
state, in the order of the model's files: the maps are written only by the operations of `AMap`, which keep the form (`AMap.wf_set`,
`AMap.wf_upd`, `AMap.wf_mapVals`, `AMap.wf_filter`), so each lemma follows its function's branches and cites the lemmas of what it calls. -/

-- Hundreds of short proofs: elaborated one after another they need no thread each.
set_option Elab.async false

namespace Sys2Proof.Machine

variable {s : State}

/-! ## The form as a property of states, outcomes and computations -/

/-- The maps of a state are in their canonical form: the property that `M.Keeps` and the folds are used with. -/
abbrev Canonical (t : State) : Prop := t.canon = true

/-- An outcome that answers a state answers a canonical one. -/
def Out.Canonical (o : Out) : Prop := ∀ t, o = .next t → t.canon = true

theorem Out.canonical_next (h : s.canon = true) : Out.Canonical (.next s) := by
  intro t e
  cases e
  exact h

theorem Out.canonical_ite {p : Prop} [Decidable p] {a b : Out} (ha : Out.Canonical a) (hb : Out.Canonical b) :
    Out.Canonical (if p then a else b) := by
  split
  · exact ha
  · exact hb

theorem Out.canonical_fault (f : Fault) : Out.Canonical (.fault f) := by
  intro t e
  cases e

/-! ## Folds and updates of parts of the state -/

theorem State.canon_overList {f : Nat → State → State} (hf : ∀ k (t : State), t.canon = true → (f k t).canon = true) (ks : List Nat)
    (h : s.canon = true) : (overList ks f s).canon = true := overList_keeps (P := Canonical) hf ks s h

theorem State.canon_foldl {β : Type} {f : State → β → State} (hf : ∀ (t : State) x, t.canon = true → (f t x).canon = true) (xs : List β)
    (h : s.canon = true) : (xs.foldl f s).canon = true := foldl_keeps (P := Canonical) hf xs s h

/-- A fold that carries a value beside the state. -/
theorem State.canon_foldl_snd {β γ : Type} {f : γ × State → β → γ × State}
    (hf : ∀ c (t : State) x, t.canon = true → (f (c, t) x).2.canon = true) (xs : List β) (c : γ) (h : s.canon = true) :
    (xs.foldl f (c, s)).2.canon = true := foldl_keeps_snd (P := Canonical) hf xs c s h

/-- An update of parts that hold no map, or that leave the maps of boot, NOR, housekeeping, host port and swarm as they were. -/
theorem State.canon_with_rest (h : s.canon = true) {pins : Pins} {mgmt : Mgmt} {cfg : Cfg} {prog : Prog} {hw : List HeldWrite}
    {flt : Faults} {fuses : Fuses} {sec : Sec} {dorm : Dormant} {novf fo : Nat} {ul : List Nat} {er el : Nat} {la : AMap Nat} {as fc : Nat}
    {pe : List Instr} {boot : Boot} {nor : Nor} {hk : Hk} {host : HostPort} {swarm : Swarm} (hb : boot.imgBuf = s.boot.imgBuf := by rfl)
    (hm : nor.mem = s.nor.mem := by rfl) (hn : nor.buf = s.nor.buf := by rfl) (hs : hk.sensors = s.hk.sensors := by rfl)
    (hi : hk.invalidRun = s.hk.invalidRun := by rfl) (hx : host.msix = s.host.msix := by rfl) (hp : host.pba = s.host.pba := by rfl)
    (hq : swarm.peers = s.swarm.peers := by rfl) (hr : swarm.rtOcc = s.swarm.rtOcc := by rfl) :
    State.canon { s with pins := pins, mgmt := mgmt, cfg := cfg, prog := prog, heldWrites := hw, flt := flt, fuses := fuses, sec := sec,
                         dorm := dorm, novf := novf, firstOvf := fo, unlocked := ul, expResult := er, expLast := el, ledgAudit := la,
                         auditStep := as, freeCtr := fc, pending := pe, boot := boot, nor := nor, hk := hk, host := host,
                         swarm := swarm } = true := by
  simp only [State.canon, State.canonUnits, State.canonRest, Bool.and_eq_true] at h ⊢
  simp only [h, hb, hm, hn, hs, hi, hx, hp, hq, hr, and_self]

/-- The update functions of the parts that hold maps: those maps must be left alone. -/
theorem State.canon_onHost (h : s.canon = true) {f : HostPort → HostPort} (h1 : (f s.host).msix = s.host.msix)
    (h2 : (f s.host).pba = s.host.pba) : (s.onHost f).canon = true := State.canon_with_host h h1 h2

theorem State.canon_with_boot (h : s.canon = true) {b : Boot} (hb : AMap.wf zeroCw b.imgBuf = true) :
    State.canon { s with boot := b } = true := by
  simp only [State.canon, State.canonUnits, State.canonRest, Bool.and_eq_true] at h ⊢
  simp only [h, hb, and_self]

theorem State.canon_with_nor (h : s.canon = true) {n : Nor} (hm : AMap.wf erased n.mem = true) (hb : AMap.wf 0 n.buf = true) :
    State.canon { s with nor := n } = true := by
  simp only [State.canon, State.canonUnits, State.canonRest, Bool.and_eq_true] at h ⊢
  simp only [h, hm, hb, and_self]

theorem State.canon_with_hk (h : s.canon = true) {k : Hk} (hs : AMap.wf 0x80000000 k.sensors = true) (hi : AMap.wf 0 k.invalidRun = true) :
    State.canon { s with hk := k } = true := by
  simp only [State.canon, State.canonUnits, State.canonRest, Bool.and_eq_true] at h ⊢
  simp only [h, hs, hi, and_self]

theorem State.canon_with_swarm (h : s.canon = true) {w : Swarm} (hp : AMap.wf Peer.init w.peers = true) (ho : AMap.wf 0 w.rtOcc = true) :
    State.canon { s with swarm := w } = true := by
  simp only [State.canon, State.canonUnits, State.canonRest, Bool.and_eq_true] at h ⊢
  simp only [h, hp, ho, and_self]

theorem State.canon_with_hostMaps (h : s.canon = true) {p : HostPort} (hm : AMap.wf 0 p.msix = true) (hp : AMap.wf 0 p.pba = true) :
    State.canon { s with host := p } = true := by
  simp only [State.canon, State.canonUnits, State.canonRest, Bool.and_eq_true] at h ⊢
  simp only [h, hm, hp, and_self]

theorem State.canon_with_rtOcc (h : s.canon = true) {m : AMap Nat} (hm : AMap.wf 0 m = true) :
    State.canon { s with swarm := { s.swarm with rtOcc := m } } = true := State.canon_with_swarm h (State.canon_swarm_peers h) hm

theorem State.canon_with_peers (h : s.canon = true) {m : AMap Peer} (hm : AMap.wf Peer.init m = true) :
    State.canon { s with swarm := { s.swarm with peers := m } } = true := State.canon_with_swarm h hm (State.canon_swarm_rtOcc h)

theorem State.canon_with_pba (h : s.canon = true) {m : AMap Nat} (hm : AMap.wf 0 m = true) :
    State.canon { s with host := { s.host with pba := m } } = true := State.canon_with_hostMaps h (State.canon_host_msix h) hm

theorem State.canon_with_msix (h : s.canon = true) {m : AMap Word} (hm : AMap.wf 0 m = true) :
    State.canon { s with host := { s.host with msix := m } } = true := State.canon_with_hostMaps h hm (State.canon_host_pba h)

theorem State.canon_with_norMem (h : s.canon = true) {m : AMap Byte} (hm : AMap.wf erased m = true) :
    State.canon { s with nor := { s.nor with mem := m } } = true := State.canon_with_nor h hm (State.canon_nor_buf h)

theorem State.canon_with_norBuf (h : s.canon = true) {m : AMap Byte} (hm : AMap.wf 0 m = true) :
    State.canon { s with nor := { s.nor with buf := m } } = true := State.canon_with_nor h (State.canon_nor_mem h) hm

theorem State.canon_onBoot (h : s.canon = true) {f : Boot → Boot} (e : (f s.boot).imgBuf = s.boot.imgBuf) : (s.onBoot f).canon = true :=
  State.canon_with_boot h (e ▸ State.canon_boot_imgBuf h)

theorem State.canon_onNor (h : s.canon = true) {f : Nor → Nor} (h1 : (f s.nor).mem = s.nor.mem) (h2 : (f s.nor).buf = s.nor.buf) :
    (s.onNor f).canon = true := State.canon_with_nor h (h1 ▸ State.canon_nor_mem h) (h2 ▸ State.canon_nor_buf h)

theorem State.canon_onHk (h : s.canon = true) {f : Hk → Hk} (h1 : (f s.hk).sensors = s.hk.sensors)
    (h2 : (f s.hk).invalidRun = s.hk.invalidRun) : (s.onHk f).canon = true :=
  State.canon_with_hk h (h1 ▸ State.canon_hk_sensors h) (h2 ▸ State.canon_hk_invalidRun h)

theorem State.canon_onSwarm (h : s.canon = true) {f : Swarm → Swarm} (h1 : (f s.swarm).peers = s.swarm.peers)
    (h2 : (f s.swarm).rtOcc = s.swarm.rtOcc) : (s.onSwarm f).canon = true :=
  State.canon_with_swarm h (h1 ▸ State.canon_swarm_peers h) (h2 ▸ State.canon_swarm_rtOcc h)

theorem State.canon_ite_snd {α : Type} {p : Prop} [Decidable p] {a b : α × State} (ha : a.2.canon = true) (hb : b.2.canon = true) :
    (if p then a else b).2.canon = true := by
  split
  · exact ha
  · exact hb

theorem M.keeps_modify {P : State → Prop} {f : State → State} (hf : ∀ t, P t → P (f t)) : M.Keeps P (modify f : M PUnit) := by
  intro s r t h hs
  cases h
  exact hf s hs

theorem M.keeps_map {α β : Type} {P : State → Prop} {m : M α} {f : α → β} (hm : M.Keeps P m) : M.Keeps P (f <$> m) := by
  rw [← bind_pure_comp]
  exact M.keeps_bind hm fun a => M.keeps_pure (f a)

theorem State.canon_with_clusters (h : s.canon = true) {m : AMap Cluster} (hm : AMap.wf Cluster.init m = true) :
    State.canon { s with clusters := m } = true := by
  simp only [State.canon, State.canonUnits, State.canonRest, Bool.and_eq_true] at h ⊢
  simp only [h, hm, and_self]

theorem State.canon_with_homeOut (h : s.canon = true) {m : AMap (List Req)} (hm : AMap.wf [] m = true) :
    State.canon { s with homeOut := m } = true := by
  simp only [State.canon, State.canonUnits, State.canonRest, Bool.and_eq_true] at h ⊢
  simp only [h, hm, and_self]

theorem State.canon_with_cntLatch (h : s.canon = true) {m : AMap Nat} (hm : AMap.wf 0 m = true) :
    State.canon { s with cntLatch := m } = true := by
  simp only [State.canon, State.canonUnits, State.canonRest, Bool.and_eq_true] at h ⊢
  simp only [h, hm, and_self]

theorem State.canon_with_stk (h : s.canon = true) {m : AMap Stack} (hm : AMap.wf Stack.init m = true) :
    State.canon { s with stk := m } = true := by
  simp only [State.canon, State.canonUnits, State.canonRest, Bool.and_eq_true] at h ⊢
  simp only [h, hm, and_self]

/-! ## Branches and pairs -/

/-- What is done with a pair's state, where a function goes on with the second of a pair. -/
theorem State.canon_bind {α : Type} {x : α × State} {f : α → State → State} (hx : x.2.canon = true)
    (hf : ∀ a (t : State), t.canon = true → (f a t).canon = true) : (match x with | (a, t) => f a t).canon = true := hf x.1 x.2 hx

theorem State.canon_bind_snd {α β : Type} {x : α × State} {f : α → State → β × State} (hx : x.2.canon = true)
    (hf : ∀ a (t : State), t.canon = true → (f a t).2.canon = true) : (match x with | (a, t) => f a t).2.canon = true := hf x.1 x.2 hx

theorem State.canon_pair {α β : Type} {x : α × β} {f : α → β → State} (hf : ∀ a b, (f a b).canon = true) :
    (match x with | (a, b) => f a b).canon = true := hf x.1 x.2

theorem State.canon_pair_snd {α β γ : Type} {x : α × β} {f : α → β → γ × State} (hf : ∀ a b, (f a b).2.canon = true) :
    (match x with | (a, b) => f a b).2.canon = true := hf x.1 x.2

theorem Out.canonical_bind {α : Type} {x : α × State} {f : α → State → Out} (hx : x.2.canon = true)
    (hf : ∀ a (t : State), t.canon = true → Out.Canonical (f a t)) : Out.Canonical (match x with | (a, t) => f a t) := hf x.1 x.2 hx

theorem M.keeps_pair {α β γ : Type} {P : State → Prop} {x : α × β} {f : α → β → M γ} (hf : ∀ a b, M.Keeps P (f a b)) :
    M.Keeps P (match x with | (a, b) => f a b) := hf x.1 x.2

/-- The state of a pair, once a `match` has named it. -/
theorem State.canon_of_eq {α : Type} {x : α × State} (hx : x.2.canon = true) {a : α} {t : State} (e : x = (a, t)) : t.canon = true := by
  subst e
  exact hx

theorem State.canon_getD (h : s.canon = true) {o : Option State} (ho : ∀ t, o = some t → t.canon = true) : (o.getD s).canon = true := by
  cases o with
  | none => exact h
  | some t => exact ho t rfl

theorem M.keeps_mapM {α β : Type} {P : State → Prop} {f : α → M β} (hf : ∀ x, M.Keeps P (f x)) : ∀ xs : List α, M.Keeps P (xs.mapM f)
  | [] => by
    rw [List.mapM_nil]
    exact M.keeps_pure _
  | x :: xs => by
    rw [List.mapM_cons]
    exact M.keeps_bind (hf x) fun _ => M.keeps_bind (M.keeps_mapM hf xs) fun _ => M.keeps_pure _

/-! ## Maps, and the helpers of the model that make one -/

theorem AMap.wf_foldl {α β : Type} [DecidableEq α] {d : α} {f : AMap α → β → AMap α}
    (hf : ∀ m x, AMap.wf d m = true → AMap.wf d (f m x) = true)
    (xs : List β) {m : AMap α} (hm : AMap.wf d m = true) : AMap.wf d (xs.foldl f m) = true := by
  induction xs generalizing m with
  | nil => exact hm
  | cons x xs ih => exact ih (hf m x hm)

theorem AMap.wf_norProgram {m : AMap Byte} (hm : AMap.wf erased m = true) (addr : Nat) (data : List Byte) :
    AMap.wf erased (norProgram m addr data) = true := AMap.wf_foldl (fun _ _ hu => AMap.wf_set hu) _ hm

theorem AMap.wf_norErase {m : AMap Byte} (hm : AMap.wf erased m = true) (addr : Nat) : AMap.wf erased (norErase m addr) = true :=
  AMap.wf_filterKeys hm

theorem Boot.failSlot_imgBuf (b : Boot) (k c : Nat) : (b.failSlot k c).imgBuf = b.imgBuf := by
  unfold Boot.failSlot
  split <;> rfl

theorem HostPort.nextEvent_maps {p q : HostPort} {e : Event} (hn : p.nextEvent = some (e, q)) : q.msix = p.msix ∧ q.pba = p.pba := by
  unfold HostPort.nextEvent at hn
  split at hn
  · cases hn
    exact ⟨rfl, rfl⟩
  · split at hn
    · cases hn
      exact ⟨rfl, rfl⟩
    · cases hn

/-- The memories and units that the capping fill clears. -/
theorem State.canon_wiped (h : s.canon = true) (ws : List HeldWrite) :
    State.canon { s with dram := [], cores := [], clusters := [], seqs := [], dies := [], homeOut := [], heldWrites := ws } = true := by
  simp only [State.canon, State.canonUnits, State.canonRest, Bool.and_eq_true] at h ⊢
  simp only [h, AMap.wf, and_self]

/-- What the AON domain keeps when the rails go: the reset state with canonical parts. -/
theorem State.canon_fromReset {pins : Pins} {boot : Boot} {nor : Nor} {mgmt : Mgmt} {hk : Hk} {fuses : Fuses} {cfg : Cfg} {host : HostPort}
    {ledg : AMap Nat} {fc : Nat} {pe : List Instr} (hb : AMap.wf zeroCw boot.imgBuf = true) (hm : AMap.wf erased nor.mem = true)
    (hn : AMap.wf 0 nor.buf = true) (hs : AMap.wf 0x80000000 hk.sensors = true) (hi : AMap.wf 0 hk.invalidRun = true)
    (hx : AMap.wf 0 host.msix = true) (hp : AMap.wf 0 host.pba = true) (hl : AMap.wf 0 ledg = true) :
    State.canon { State.reset with pins := pins, boot := boot, nor := nor, mgmt := mgmt, hk := hk, fuses := fuses, cfg := cfg, host := host,
                                   ledg := ledg, freeCtr := fc, pending := pe } = true := by
  simp only [State.canon, State.canonUnits, State.canonRest, State.reset, AMap.wf, AMap.rising, Swarm.init, hb, hm, hn, hs, hi, hx, hp, hl,
    Bool.and_self]

theorem AMap.wf_ite {α : Type} [DecidableEq α] {d : α} {p : Prop} [Decidable p] {m n : AMap α} (hm : AMap.wf d m = true)
    (hn : AMap.wf d n = true) : AMap.wf d (if p then m else n) = true := by
  split
  · exact hm
  · exact hn

theorem M.keeps_guard {α : Type} {P : State → Prop} {p : Prop} [Decidable p] {k : Nat} {f : PUnit → M α} (hf : ∀ u, M.Keeps P (f u)) :
    M.Keeps P (if p then throw k >>= f else f ⟨⟩) := M.keeps_ite (M.keeps_bind (M.keeps_throw k) hf) (hf _)

open State

/-! ## Registers -/

theorem State.canon_revertExp (h : s.canon = true) (fid : Nat) : (s.revertExp fid).canon = true :=
  canon_foldl (fun _ _ ht => canon_setReg ht _ _) _ h

/-! ## Ops -/

theorem State.canon_onPins (h : s.canon = true) (f : Pins → Pins) : (s.onPins f).canon = true := canon_with_rest h
theorem State.canon_onFlt (h : s.canon = true) (f : Faults → Faults) : (s.onFlt f).canon = true := canon_with_rest h
theorem State.canon_onProg (h : s.canon = true) (f : Prog → Prog) : (s.onProg f).canon = true := canon_with_rest h
theorem State.canon_onSec (h : s.canon = true) (f : Sec → Sec) : (s.onSec f).canon = true := canon_with_rest h
theorem State.canon_onDorm (h : s.canon = true) (f : Dormant → Dormant) : (s.onDorm f).canon = true := canon_with_rest h
theorem State.canon_freshTime (h : s.canon = true) (n : Nat) : (s.freshTime n).2.canon = true := canon_with_rest h
theorem State.canon_coreWrite (h : s.canon = true) (g tgt idx : Nat) (d mask : Word) (p : Bool) : (s.coreWrite g tgt idx d mask p).canon =
    true := by
  unfold State.coreWrite
  refine canon_coreStore ?_ _ _ _ _
  split
  · split
    · exact h
    · exact canon_bump h _
    · exact canon_raise (canon_bump h _) _ _ _ _
  · exact h

theorem State.canon_clusterWrite (h : s.canon = true) (k idx : Nat) (d mask : Word) (p : Bool) : (s.clusterWrite k idx d mask p).canon =
    true := by
  unfold State.clusterWrite
  refine canon_clusterStore ?_ _ _ _
  split
  · split
    · exact h
    · exact canon_bump h _
    · exact canon_raise (canon_bump h _) _ _ _ _
  · exact h

theorem State.canon_presetCounts (h : s.canon = true) : s.presetCounts.canon = true := canon_onProg h _
theorem State.canon_applyLive (h : s.canon = true) : s.applyLive.canon = true := by
  unfold State.applyLive
  dsimp only
  refine canon_onPins (canon_overList (fun _ _ ht => canon_ite (canon_setSeq ht _ _) ht) _ ?_) _
  exact canon_overList (fun _ _ ht => canon_setCore ht _ _) _ h

/-! ## Flags -/

theorem State.canon_totalsFlag (h : s.canon = true) (b : Bool) : (s.totalsFlag b).canon = true := canon_ite (canon_setReg h _ _) h
theorem State.canon_addLaunch (h : s.canon = true) (sat flush : Nat) : (s.addLaunch sat flush).canon = true :=
  canon_totalsFlag (canon_with_rest h) _

theorem State.canon_recordOp (h : s.canon = true) (g : Nat) (e : Eng) (sat flush : Nat) : (s.recordOp g e sat flush).canon = true :=
  canon_ite (canon_totalsFlag (canon_setCore h _ _) _) (canon_addLaunch (canon_setCore h _ _) _ _)

/-! ## Memory -/

theorem State.canon_freeze (h : s.canon = true) (n cause req dpa : Nat) (cw : Codeword) (synd : Nat) : (s.freeze n cause req dpa cw
  synd).canon = true :=
  canon_ite (canon_setCtl h _ _) (canon_fault (canon_raise (canon_setCtl h _ _) _ _ _ _) _ _ _)

theorem State.canon_dramEcc (h : s.canon = true) (pl : Place) (w src : Nat) (cw : Codeword) (o : Decoded) : (s.dramEcc pl w src cw o).canon
    = true := by
  unfold State.dramEcc
  extract_lets b t1 t2 t3 t4 t
  have h1 : t1.canon = true := canon_bump h _
  have h2 : t2.canon = true := canon_bump h _
  have h4 : t4.canon = true := canon_setCtl (canon_ite (canon_setReg h2 _ _) h2) _ _
  have ht : t.canon = true := by
    unfold t
    split
    · exact h
    · exact canon_setReg (canon_setReg (canon_ite (canon_bump h1 _) h1) _ _) _ _
    · exact canon_freeze (canon_raise h4 _ _ _ _) _ _ _ _ _ _
  exact canon_ite (canon_bump ht _) ht

theorem State.canon_freshData (h : s.canon = true) : s.freshData.2.canon = true := canon_with_rest h
theorem State.canon_readWord (h : s.canon = true) (pl : Place) (src w : Nat) : (s.readWord pl src w).2.canon = true :=
  canon_dramEcc h _ _ _ _ _

theorem State.canon_dramStore (h : s.canon = true) (n w : Nat) (cw : Codeword) : (s.dramStore n w cw).canon = true :=
  canon_ite (canon_with_dram h (AMap.wf_set (canon_dram h))) (canon_with_dram (canon_setReg (canon_setReg (canon_setReg h _ _) _ _) _ _)
    (AMap.wf_set (canon_dram (canon_setReg (canon_setReg (canon_setReg h _ _) _ _) _ _))))

theorem State.canon_commitUpd (h : s.canon = true) (n : Nat) (u : WUpd) : (s.commitUpd n u).canon = true := by
  unfold State.commitUpd
  extract_lets b
  split
  next cw o _ =>
  extract_lets pois t
  have ht : t.canon = true := by
    unfold t
    split
    · exact h
    · extract_lets u
      have hu : u.canon = true := by
        unfold u
        split
        · exact h
        · exact canon_setReg (canon_setReg (canon_ite (canon_bump (canon_bump h _) _) (canon_bump h _)) _ _) _ _
        · exact canon_raise (canon_ite (canon_setReg (canon_bump h _) _ _) (canon_bump h _)) _ _ _ _
      exact canon_ite (canon_bump hu _) hu
  exact canon_dramStore (canon_ite (canon_ledgAlt ht _ _) (canon_ledgOut ht _ _)) _ _ _

theorem State.canon_ctlOffer (h : s.canon = true) (n : Nat) (r : Req) : (s.ctlOffer n r).2.canon = true := by
  unfold State.ctlOffer
  split
  · exact h
  · refine canon_ite_snd h (canon_ite_snd (canon_ite h (canon_ledgAlt (canon_ledgIn h _ _) _ _)) ?_)
    split
    · exact canon_bump h _
    · refine canon_ite_snd ?_ (canon_bump h _)
      extract_lets t u c q v
      have ht : t.canon = true := canon_ite h (canon_cancelEntry h)
      have hu : u.canon = true := canon_ite ht (canon_with_homeOut ht (AMap.wf_set (canon_homeOut ht)))
      have hv : v.canon = true := canon_setCtl hu _ _
      exact canon_ite hv (canon_ledgIn hv _ _)

theorem State.canon_ctlSubmit (h : s.canon = true) (n : Nat) (r : Req) : (s.ctlSubmit n r).2.canon = true := by
  unfold State.ctlSubmit
  refine canon_ite_snd (canon_with_homeOut h (AMap.wf_set (canon_homeOut h))) ?_
  have hx := canon_ctlOffer h n r
  split
  · next t e =>
    have ht := canon_of_eq hx e
    exact canon_with_homeOut ht (AMap.wf_set (canon_homeOut ht))
  · exact hx

theorem State.canon_logCmd (h : s.canon = true) (n bus : Nat) (word : Option Nat) : (s.logCmd n bus word).canon = true := by
  unfold State.logCmd
  refine canon_setCtl ?_ _ _
  split
  · exact canon_with_rest h
  · exact canon_with_rest (canon_with_rest h)

theorem State.canon_closeRow (h : s.canon = true) (n bank : Nat) : (s.closeRow n bank).canon = true :=
  canon_logCmd (canon_setCtl h _ _) _ _ _

theorem State.canon_openRowOf (h : s.canon = true) (n bank row : Nat) : (s.openRowOf n bank row).canon = true :=
  canon_ite (canon_logCmd (canon_bump (canon_setCtl h _ _) _) _ _ _) (canon_logCmd (canon_logCmd (canon_bump (canon_setCtl h _ _) _) _ _ _)
    _ _ _)

theorem State.canon_exitPart (h : s.canon = true) (n p : Nat) : (s.exitPart n p).canon = true := canon_logCmd (canon_setCtl h _ _) _ _ _
theorem State.canon_modeRegs (h : s.canon = true) (n : Nat) : (s.modeRegs n).canon = true :=
  canon_foldl (fun _ _ ht => canon_logCmd ht _ _ _) _ h

theorem State.canon_wakePart (h : s.canon = true) (n p : Nat) : (s.wakePart n p).canon = true := canon_logCmd (canon_setCtl h _ _) _ _ _
theorem State.canon_startWck (h : s.canon = true) (n p : Nat) : (s.startWck n p).canon = true :=
  canon_ite h (canon_logCmd (canon_setCtl h _ _) _ _ _)

theorem State.canon_column (h : s.canon = true) (n bank : Nat) (keep : Bool) : (s.column n bank keep).canon = true :=
  canon_logCmd (canon_setCtl (canon_startWck (canon_ite (canon_bump h _) h) _ _) _ _) _ _ _

theorem State.canon_fillRequest (h : s.canon = true) (pl : Place) (ws : List Nat) (keep : Bool) :
    (s.fillRequest pl ws keep).canon = true := by
  unfold State.fillRequest
  extract_lets n t t1 p _ t2 t3 t4 o t5
  have ht : t.canon = true := canon_cancelEntry h
  have h1 : t1.canon = true := canon_ite (canon_bump ht _) ht
  have h2 : t2.canon = true := canon_setCtl h1 _ _
  have h3 : t3.canon = true := canon_ite (canon_exitPart h2 _ _) h2
  have h4 : t4.canon = true := canon_ite (canon_wakePart h3 _ _) h3
  have h5 : t5.canon = true := canon_ite h4 (canon_openRowOf (canon_ite h4 (canon_closeRow h4 _ _)) _ _ _)
  split
  · exact canon_bump ht _
  · exact canon_bump (canon_column h5 _ _ _) _

theorem State.canon_dieFlip (h : s.canon = true) (d tgt w : Nat) (cw : Codeword) : (s.dieFlip d tgt w cw).2.canon = true :=
  canon_ite_snd h (canon_setReg (canon_setReg (canon_setReg h _ _) _ _) _ _)

theorem State.canon_lineStore (h : s.canon = true) (d la i : Nat) (cw : Codeword) (dirty : Bool) : (s.lineStore d la i cw dirty).canon =
    true := by
  unfold State.lineStore
  split
  · exact h
  · split
    next cw' t e => exact canon_putLine (canon_of_eq (canon_dieFlip h _ _ _ _) e) _ _ _

theorem State.canon_dieEcc (h : s.canon = true) (d w cause : Nat) (o : Decoded) : (s.dieEcc d w cause o).canon = true := by
  unfold State.dieEcc
  split
  · exact h
  · exact canon_bump h _
  · exact canon_raise (canon_bump h _) _ _ _ _

theorem State.canon_writeBack (h : s.canon = true) (d la : Nat) : (s.writeBack d la).canon = true := by
  unfold State.writeBack
  split
  · exact h
  · refine canon_ite ?_ h
    split
    · exact h
    · exact canon_putLine (canon_ctlSubmit (canon_foldl (fun _ _ ht => canon_dieEcc ht _ _ _ _) _ h) _ _) _ _ _

theorem State.canon_makeRoom (h : s.canon = true) (d la : Nat) : (s.makeRoom d la).canon = true :=
  canon_ite h (canon_ite h (canon_putLine (canon_writeBack (canon_with_rest h) _ _) _ _ _))

theorem State.canon_storeLine (h : s.canon = true) (d la : Nat) (vs : List (Word × Bool)) : (s.storeLine d la vs).canon = true := by
  unfold State.storeLine
  refine canon_putLine (canon_foldl_snd (fun _ t _ ht => ?_) _ _ (canon_makeRoom h _ _)) _ _ _
  exact canon_dieFlip ht _ _ _ _

theorem State.canon_readLine (h : s.canon = true) (pl : Place) (la src : Nat) (keep : Bool) (skip : List Nat) : (s.readLine pl la src keep
    skip).2.canon = true := by
  unfold State.readLine
  extract_lets is t go
  have hgo : go.2.canon = true := by
    refine canon_foldl_snd (fun _ u _ hu => ?_) _ _ (canon_fillRequest h _ _ _)
    refine canon_ite_snd hu ?_
    split
    next e => exact canon_of_eq (canon_readWord hu _ _ _) e
  exact canon_ite_snd hgo hgo

theorem State.canon_fillLine (h : s.canon = true) (pl : Place) (d la src : Nat) (keep : Bool) : (s.fillLine pl d la src keep).2.canon =
    true := by
  unfold State.fillLine
  split
  next vs t e =>
  have ht := canon_of_eq (canon_readLine h _ _ _ _ _) e
  exact canon_ite (canon_storeLine ht _ _ _) ht

theorem State.canon_noWord (h : s.canon = true) : s.noWord.2.canon = true := canon_with_rest h
theorem State.canon_fillWord (h : s.canon = true) (d la i src : Nat) (keep : Bool) : (s.fillWord d la i src keep).2.canon = true := by
  unfold State.fillWord
  split
  · exact canon_noWord h
  · refine canon_ite_snd ?_ (canon_noWord h)
    split
    next vs t e => exact canon_of_eq (canon_fillLine h _ _ _ _ _) e

theorem State.canon_lineRead (h : s.canon = true) (d la i src : Nat) : (s.lineRead d la i src).2.canon = true := by
  unfold State.lineRead
  split
  · exact canon_noWord h
  · dsimp only
    split
    · exact canon_dieEcc h _ _ _ _
    · exact canon_lineStore (canon_dieEcc h _ _ _ _) _ _ _ _ _
    · exact canon_ite_snd (canon_dieEcc h _ _ _ _) (canon_fillWord (canon_putLine (canon_bump (canon_dieEcc h _ _ _ _) _) _ _ _) _ _ _ _ _)

theorem State.canon_homeRead (h : s.canon = true) (src w : Nat) (keep : Bool) : (s.homeRead src w keep).2.canon = true := by
  unfold State.homeRead
  dsimp only
  split
  · exact canon_lineRead h _ _ _ _
  · exact canon_fillWord h _ _ _ _ _

theorem State.canon_dropFte (h : s.canon = true) (frame : Nat) : (s.dropFte frame).canon = true :=
  canon_overList (fun _ _ ht => canon_setDie ht _ _) _ h

theorem State.canon_homeWrite (h : s.canon = true) (src : Nat) (keep : Bool) (why : ReqFor) (ws : List WUpd) : (s.homeWrite src keep why
    ws).2.canon = true := by
  unfold State.homeWrite
  split
  · exact h
  · extract_lets dpa d la t upd
    have ht : t.canon = true := by
      refine canon_foldl (fun u x hu => ?_) _ h
      split
      · exact canon_dropFte hu _
      · exact hu
    have hupd : ∀ (u : State) dirty, u.canon = true → (upd u dirty).canon = true := by
      intro u dirty hu
      refine canon_foldl (fun v x hv => ?_) _ hu
      split
      · exact hv
      · split
        refine canon_lineStore ?_ _ _ _ _ _
        split
        · exact canon_dieEcc hv _ _ _ _
        · exact hv
    split
    · exact h
    · refine canon_ite_snd ?_ ?_
      · split
        · next u e => exact canon_of_eq (canon_ctlSubmit ht _ _) e
        · next u _ e => exact hupd _ _ (canon_of_eq (canon_ctlSubmit ht _ _) e)
      · split
        · exact canon_ledgOut (canon_ledgIn (hupd _ _ ht) _ _) _ _
        · refine canon_ite_snd ?_ (canon_ledgAlt (canon_ledgIn ht _ _) _ _)
          split
          next vs u e =>
          have hu := canon_storeLine (canon_of_eq (canon_readLine ht _ _ _ _ _) e) d la vs
          exact canon_ledgOut (canon_ledgIn (hupd _ _ hu) _ _) _ _

theorem State.canon_ftcLook (h : s.canon = true) (d frame : Nat) : (s.ftcLook d frame).2.canon = true := by
  unfold State.ftcLook
  extract_lets b es
  split
  · exact h
  · extract_lets o
    split
    · exact canon_raise (canon_bump (canon_setDie h _ _) _) _ _ _ _
    · split
      next e => exact canon_setDie (canon_of_eq (canon_dieFlip (canon_bump h _) _ _ _ _) e) _ _
    · exact canon_setDie h _ _

theorem State.canon_ftcPut (h : s.canon = true) (d frame : Nat) (w : Word) : (s.ftcPut d frame w).canon = true := by
  unfold State.ftcPut
  split
  next cw t e => exact canon_setDie (canon_of_eq (canon_dieFlip h _ _ _ _) e) _ _

theorem State.canon_translate (h : s.canon = true) (d frame : Nat) : (s.translate d frame).2.canon = true := by
  unfold State.translate
  have hx := canon_ftcLook h d frame
  split
  · next w t e => exact canon_bump (canon_of_eq hx e) _
  · next t e =>
    extract_lets t'
    split
    next v u e' =>
    have hu := canon_of_eq (canon_homeRead (canon_bump (canon_of_eq hx e) _) _ _ _) e'
    exact canon_ite_snd (canon_bump hu _) (canon_ite_snd hu (canon_ite_snd (canon_bump hu _) (canon_ftcPut hu _ _ _)))

theorem State.canon_frameWrite (h : s.canon = true) (src tvaFrame : Nat) (f : Fte) (keep : Bool) (why : ReqFor) (ws : List WUpd) :
    (s.frameWrite src tvaFrame f keep why ws).2.canon = true := by
  unfold State.frameWrite
  refine canon_ite_snd (canon_with_rest h) ?_
  split
  next ok t e =>
  have ht := canon_of_eq (canon_homeWrite h _ _ _ _) e
  exact canon_ite_snd (canon_setDie ht _ _) ht

/-! ## Operands -/

theorem readWord_canonical (c : Ctx) (space w : Nat) : M.Keeps Canonical (readWord c space w) := by
  unfold readWord
  refine M.keeps_ite (M.keeps_act (fun _ ht => canon_coreRead ht _ _ _)) (M.keeps_ite (M.keeps_act (fun _ ht => canon_coreRead ht _ _ _))
    (M.keeps_ite (M.keeps_act (fun _ ht => canon_clusterRead ht _ _)) (M.keeps_ite (M.keeps_act (fun _ ht => canon_coreRead ht _ _ _))
    (M.keeps_bind (M.keeps_act (fun _ ht => canon_translate ht _ _)) (fun _ => ?_)))))
  split
  · exact M.keeps_throw _
  · exact M.keeps_act (fun _ ht => canon_homeRead ht _ _ _)

theorem fteWritable_canonical (inStep : Bool) (f : Fte) : M.Keeps Canonical (fteWritable inStep f) :=
  M.keeps_ite (M.keeps_bind (M.keeps_throw _) (fun _ => M.keeps_ite (M.keeps_throw _) (M.keeps_pure _))) (M.keeps_ite (M.keeps_throw _)
    (M.keeps_pure _))

theorem writeLine_canonical (c : Ctx) (ws : List WUpd) : M.Keeps Canonical (writeLine c ws) := by
  unfold writeLine
  split
  · exact M.keeps_pure _
  · refine M.keeps_bind (M.keeps_act (fun _ ht => canon_translate ht _ _)) (fun _ => ?_)
    split
    · exact M.keeps_throw _
    · exact M.keeps_bind M.keeps_get (fun _ => M.keeps_bind (fteWritable_canonical _ _) (fun _ => M.keeps_act (fun _ ht => canon_frameWrite
        ht _ _ _ _ _ _)))

theorem writeLocal_canonical (c : Ctx) (space : Nat) (u : WUpd) : M.Keeps Canonical (writeLocal c space u) := by
  refine M.keeps_act fun s h => ?_
  have hw := canon_ledgIn (canon_ite (p := space = 1) (canon_clusterWrite h (clusterOf c.g) u.w u.d u.mask u.p)
    (canon_coreWrite h c.g (if space = 3 then 1 else if space = spAcc then 3 else 0) u.w u.d u.mask u.p)) 4 1
  exact canon_ite (canon_ledgAlt hw _ _) (canon_ledgOut hw _ _)

theorem writeWords_canonical (c : Ctx) (space : Nat) (us : List WUpd) : M.Keeps Canonical (writeWords c space us) :=
  M.keeps_ite (M.keeps_bind (M.keeps_forIn (fun _ _ => M.keeps_bind (writeLine_canonical _ _) (fun _ => M.keeps_ite (M.keeps_pure _)
    (M.keeps_pure _))) _ _) (fun _ => M.keeps_pure _)) (M.keeps_bind (M.keeps_forIn (fun _ _ => M.keeps_bind (writeLocal_canonical _ _ _)
    (fun _ => M.keeps_pure _)) _ _) (fun _ => M.keeps_pure _))

theorem readElems_canonical (c : Ctx) (space w : Nat) (as : List Nat) : M.Keeps Canonical (readElems c space w as) := by
  unfold readElems
  refine M.keeps_bind (M.keeps_forIn (fun _ _ => ?_) _ _) (fun _ => M.keeps_pure _)
  dsimp only
  split
  · exact M.keeps_ite (M.keeps_bind (M.keeps_pure _) (fun _ => M.keeps_pure _)) (M.keeps_bind (readWord_canonical _ _ _) (fun _ =>
      M.keeps_pure _))
  · exact M.keeps_bind (readWord_canonical _ _ _) (fun _ => M.keeps_pure _)

theorem writeElems_canonical (c : Ctx) (space w : Nat) (xs : List Put) : M.Keeps Canonical (writeElems c space w xs) :=
  writeWords_canonical _ _ _

theorem readIndices_canonical (c : Ctx) (x : Desc) (js : List Nat) : M.Keeps Canonical (readIndices c x js) :=
  M.keeps_bind (readElems_canonical _ _ _ _) (fun _ => M.keeps_pure _)

theorem readMask_canonical (c : Ctx) (o : Opnd) (js : List Nat) : M.Keeps Canonical (readMask c o js) := by
  unfold readMask
  split
  · exact M.keeps_pure _
  · exact M.keeps_bind (readElems_canonical _ _ _ _) (fun _ => M.keeps_pure _)

theorem attempt_canonical {α : Type} (m : M α) (hm : M.Keeps Canonical m) : M.Keeps Canonical (attempt m) := by
  intro s r t e hs
  exact hm s (m.run s).1 t (Prod.ext rfl (congrArg Prod.snd e : (m.run s).2 = t)) hs

theorem finish_canonical (o : Option Nat) : M.Keeps Canonical (finish o) := by
  unfold finish
  split
  · exact M.keeps_throw _
  · exact M.keeps_pure _

theorem resolveAt_canonical (o : Opnd) (idx : List (Int × Bool)) (js ix : List Nat) : M.Keeps Canonical (resolveAt o idx js ix) := by
  unfold resolveAt
  split
  · exact M.keeps_pure _
  · exact M.keeps_ite (M.keeps_pure _) (M.keeps_ite (M.keeps_throw _) (M.keeps_pure _))

theorem opndIndices_canonical (c : Ctx) (o : Opnd) (js : List Nat) : M.Keeps Canonical (opndIndices c o js) := by
  unfold opndIndices
  split
  · exact M.keeps_pure _
  · exact readIndices_canonical _ _ _

theorem readSourceWith_canonical (c : Ctx) (o : Opnd) (js : List Nat) (idx : List (Int × Bool)) : M.Keeps Canonical (readSourceWith c o js
    idx) := by
  unfold readSourceWith
  refine M.keeps_bind (readMask_canonical _ _ _) (fun _ => M.keeps_bind (M.keeps_forIn (fun _ _ => M.keeps_ite (M.keeps_ite (M.keeps_pure
    _) (M.keeps_bind (attempt_canonical _ (resolveAt_canonical _ _ _ _)) (fun _ => ?_))) (M.keeps_pure _)) _ _) (fun _ => M.keeps_pure _))
  split
  · exact M.keeps_pure _
  · exact M.keeps_pure _
  · refine M.keeps_bind (attempt_canonical _ ?_) (fun _ => ?_)
    · split
      · exact M.keeps_ite (M.keeps_pure _) (readWord_canonical _ _ _)
      · exact readWord_canonical _ _ _
    · split
      · exact M.keeps_pure _
      · exact M.keeps_pure _

theorem readSource_canonical (c : Ctx) (o : Opnd) (js : List Nat) : M.Keeps Canonical (readSource c o js) :=
  M.keeps_bind (opndIndices_canonical _ _ _) (fun _ => readSourceWith_canonical _ _ _ _)

theorem readDest_canonical (c : Ctx) (o : Opnd) (js : List Nat) : M.Keeps Canonical (readDest c o js) := by
  unfold readDest
  refine M.keeps_bind (readMask_canonical _ _ _) (fun _ => M.keeps_bind (opndIndices_canonical _ _ _) (fun _ => M.keeps_bind (M.keeps_forIn
    (fun _ _ => M.keeps_ite (M.keeps_bind (attempt_canonical _ (resolveAt_canonical _ _ _ _)) (fun _ => ?_)) (M.keeps_pure _)) _ _) (fun _
    => M.keeps_pure _)))
  split
  · exact M.keeps_pure _
  · exact M.keeps_pure _

theorem storeVals_canonical (c : Ctx) (o : Opnd) (ds : List DstEl) (vs : List Val) : M.Keeps Canonical (storeVals c o ds vs) :=
  M.keeps_bind (writeElems_canonical _ _ _ _) (fun _ => M.keeps_pure _)

theorem readDescWords_canonical (c : Ctx) (hd : Nat) : M.Keeps Canonical (readDescWords c hd) := by
  unfold readDescWords
  refine M.keeps_act (fun _ ht => canon_foldl_snd (fun _ _ _ hu => ?_) _ _ ht)
  dsimp only
  split
  · exact canon_ite (canon_coreStore (canon_coreEcc hu _ _ _) _ _ _ _) (canon_coreEcc hu _ _ _)
  · exact canon_coreEcc hu _ _ _

theorem readDesc_canonical (c : Ctx) (hd : Nat) : M.Keeps Canonical (readDesc c hd) :=
  M.keeps_ite (M.keeps_pure _) (M.keeps_bind (readDescWords_canonical _ _) (fun _ => M.keeps_pure _))

theorem readOpnd_canonical (c : Ctx) (hd : Nat) : M.Keeps Canonical (readOpnd c hd) := by
  have hopt : ∀ n (f : Option Desc → M Opnd), (∀ x, M.Keeps Canonical (f x)) →
      M.Keeps Canonical (if n = 0 then pure none >>= f else (some <$> readDesc c n) >>= f) := fun n f hf =>
    M.keeps_ite (M.keeps_bind (M.keeps_pure _) hf) (M.keeps_bind (M.keeps_map (readDesc_canonical c n)) hf)
  refine M.keeps_bind (readDesc_canonical c _) fun d => hopt _ _ fun idx => hopt _ _ fun sc => hopt _ _ fun mk => ?_
  exact M.keeps_pure _

theorem execCheck_canonical (ok : Bool) (written : List Desc) : M.Keeps Canonical (execCheck ok written) :=
  M.keeps_ite (M.keeps_bind (M.keeps_throw _) (fun _ => M.keeps_bind M.keeps_get (fun _ => M.keeps_ite (M.keeps_throw _) (M.keeps_pure
    _)))) (M.keeps_bind M.keeps_get (fun _ => M.keeps_ite (M.keeps_throw _) (M.keeps_pure _)))

theorem withOpndsOr_canonical (bad : List Opnd → M Unit) (c : Ctx) (hs : List Nat) (k : List Opnd → M Res) (hbad : ∀ os, M.Keeps Canonical
    (bad os)) (hk : ∀ os, M.Keeps Canonical (k os)) : M.Keeps Canonical (withOpndsOr bad c hs k) := by
  refine M.keeps_bind (M.keeps_mapM (fun x => readOpnd_canonical c x) _) fun os => M.keeps_bind M.keeps_get fun _ => ?_
  exact M.keeps_ite (M.keeps_bind (hbad os) fun _ => M.keeps_pure _) (hk os)

theorem withOpnds_canonical (c : Ctx) (hs : List Nat) (k : List Opnd → M Res) (hk : ∀ os, M.Keeps Canonical (k os)) : M.Keeps Canonical
  (withOpnds c hs k) :=
  withOpndsOr_canonical _ _ _ _ (fun _ => M.keeps_pure _) (fun _ => hk _)

theorem arithEvents_canonical (c : Ctx) (off : Nat) (k : ArithCheck) : M.Keeps Canonical (arithEvents c off k) := by
  unfold arithEvents
  split
  · exact M.keeps_pure _
  · exact M.keeps_bind (M.keeps_modify (fun _ ht => canon_bumpN ht _ _)) (fun _ => M.keeps_pure _)
  · exact M.keeps_bind (M.keeps_modify (fun _ ht => canon_bumpN ht _ _)) (fun _ => M.keeps_pure _)

theorem passUnits_canonical (left : Option Nat) (n : Nat) : M.Keeps Canonical (passUnits left n) := by
  unfold passUnits
  split
  · exact M.keeps_ite (M.keeps_throw _) (M.keeps_pure _)
  · exact M.keeps_pure _

theorem passEnd_canonical (o : Option Nat) : M.Keeps Canonical (passEnd o) := by
  unfold passEnd
  split
  · exact M.keeps_throw _
  · exact M.keeps_pure _

theorem State.canon_noteWaits (h : s.canon = true) (g : Nat) : (s.noteWaits g).canon = true := canon_setCore h _ _
theorem readQueued_canonical (g : Nat) (e : Eng) (acc : List Codeword × State) (w : Codeword × Nat) (hacc : acc.2.canon = true) :
    (readQueued g e acc w).2.canon = true := by
  unfold readQueued
  extract_lets o t
  have ht : t.canon = true := canon_coreEcc hacc _ _ _
  split
  · split
    next cw u e => exact canon_of_eq (canon_sflip ht _ _ _ _ _) e
  · exact ht

theorem State.canon_readEntry (h : s.canon = true) (g : Nat) (e : Eng) (x : QEntry) : (s.readEntry g e x).2.canon = true :=
  canon_foldl_snd (fun _ _ _ ht => readQueued_canonical _ _ _ _ ht) _ _ h

theorem State.canon_runEngine (h : s.canon = true) (g : Nat) (e : Eng) (op : Nat) (f : Ctx → M Res) (hf : ∀ c, M.Keeps Canonical (f c)) :
    (s.runEngine g e op f).canon = true := by
  unfold State.runEngine
  split
  · exact h
  · split
    next recv t e =>
    have ht : t.canon = true := by
      refine canon_of_eq ?_ e
      exact canon_ite_snd (canon_consumeToken h _ _) h
    extract_lets c
    split
    next y u e =>
    have hu := canon_of_eq (canon_readEntry ht _ _ _) e
    split
    · next r v e => exact canon_setEntry (hf _ _ _ _ e hu) _ _ _
    · next k v e =>
      have hv := hf _ _ _ _ e hu
      exact canon_ite (canon_fault (canon_setEntry hv _ _ _) _ _ _) (canon_beginHalt hv _ _ _ _)

/-! ## AddressArith -/

theorem writeAd_canonical (h : s.canon = true) (c : Ctx) (v : Nat) : (writeAd c v s).canon = true := canon_setCore h _ _
theorem addrOp_canonical (f : Ctx → State → Nat) (c : Ctx) : M.Keeps Canonical (addrOp f c) :=
  M.keeps_bind (M.keeps_modify (fun _ ht => writeAd_canonical ht _ _)) (fun _ => M.keeps_pure _)

theorem execAadd_canonical (h : s.canon = true) (core : Nat) (eng : Eng) : Out.Canonical (execAadd core eng s) :=
  Out.canonical_next (canon_runEngine h _ _ _ _ (fun _ => addrOp_canonical _ _))

theorem execAsub_canonical (h : s.canon = true) (core : Nat) (eng : Eng) : Out.Canonical (execAsub core eng s) :=
  Out.canonical_next (canon_runEngine h _ _ _ _ (fun _ => addrOp_canonical _ _))

theorem execAmuli_canonical (h : s.canon = true) (core : Nat) (eng : Eng) : Out.Canonical (execAmuli core eng s) :=
  Out.canonical_next (canon_runEngine h _ _ _ _ (fun _ => addrOp_canonical _ _))

theorem execAshl_canonical (h : s.canon = true) (core : Nat) (eng : Eng) : Out.Canonical (execAshl core eng s) :=
  Out.canonical_next (canon_runEngine h _ _ _ _ (fun _ => addrOp_canonical _ _))

theorem execAshr_canonical (h : s.canon = true) (core : Nat) (eng : Eng) : Out.Canonical (execAshr core eng s) :=
  Out.canonical_next (canon_runEngine h _ _ _ _ (fun _ => addrOp_canonical _ _))

theorem execAand_canonical (h : s.canon = true) (core : Nat) (eng : Eng) : Out.Canonical (execAand core eng s) :=
  Out.canonical_next (canon_runEngine h _ _ _ _ (fun _ => addrOp_canonical _ _))

theorem execAmin_canonical (h : s.canon = true) (core : Nat) (eng : Eng) : Out.Canonical (execAmin core eng s) :=
  Out.canonical_next (canon_runEngine h _ _ _ _ (fun _ => addrOp_canonical _ _))

theorem execAmax_canonical (h : s.canon = true) (core : Nat) (eng : Eng) : Out.Canonical (execAmax core eng s) :=
  Out.canonical_next (canon_runEngine h _ _ _ _ (fun _ => addrOp_canonical _ _))

theorem execAsel_canonical (h : s.canon = true) (core : Nat) (eng : Eng) : Out.Canonical (execAsel core eng s) :=
  Out.canonical_next (canon_runEngine h _ _ _ _ (fun _ => addrOp_canonical _ _))

theorem execAmovi_canonical (h : s.canon = true) (core : Nat) (eng : Eng) : Out.Canonical (execAmovi core eng s) :=
  Out.canonical_next (canon_runEngine h _ _ _ _ (fun _ => addrOp_canonical _ _))

theorem execArank_canonical (h : s.canon = true) (core : Nat) (eng : Eng) : Out.Canonical (execArank core eng s) :=
  Out.canonical_next (canon_runEngine h _ _ _ _ (fun _ => addrOp_canonical _ _))

/-! ## Ports -/

theorem State.canon_wakeEvent (h : s.canon = true) : s.wakeEvent.canon = true := by
  unfold State.wakeEvent
  split
  · exact canon_cancelEntry h
  · exact canon_with_rest h
  · exact h

theorem State.canon_holdReq (h : s.canon = true) (i : Instr) : (s.holdReq i).canon = true := canon_with_rest (canon_wakeEvent h)
theorem State.canon_serve (h : s.canon = true) (i : Instr) (f : State → State) (hf : ∀ t : State, t.canon = true → (f t).canon = true) :
  (s.serve i f).canon = true :=
  canon_ite (canon_holdReq h _) (hf _ (canon_wakeEvent h))

theorem State.canon_tell (h : s.canon = true) (m : HostMsg) : (s.tell m).canon = true := canon_with_rest h
theorem State.canon_post (h : s.canon = true) (m : HostMsg) : (s.post m).canon = true := by
  unfold State.post
  dsimp only
  split
  · exact canon_with_rest (canon_tell h _)
  · exact canon_with_rest (canon_tell h _)
  · exact canon_tell h _

theorem State.canon_refuse (h : s.canon = true) : s.refuse.canon = true := canon_with_rest (canon_tell h _)
theorem State.canon_barServe (h : s.canon = true) (i : Instr) (f : State → State) (hf : ∀ t : State, t.canon = true → (f t).canon = true) :
  (s.barServe i f).canon = true :=
  canon_ite (canon_serve h _ _ (fun _ ht => hf _ ht)) (canon_ite (canon_refuse h) h)

theorem State.canon_rtAdd (h : s.canon = true) (d n : Nat) : (s.rtAdd d n).canon = true :=
  canon_with_rtOcc h (AMap.wf_upd (canon_swarm_rtOcc h))

theorem State.canon_rtTake (h : s.canon = true) (d n : Nat) : (s.rtTake d n).canon = true :=
  canon_with_rtOcc h (AMap.wf_upd (canon_swarm_rtOcc h))

theorem State.canon_keepFlit (h : s.canon = true) (p vc : Nat) : (s.keepFlit p vc).canon = true :=
  canon_ite (canon_rtAdd (canon_setPort h _ _) _ _) (canon_setPort h _ _)

theorem State.canon_creditBack (h : s.canon = true) (p vc : Nat) : (s.creditBack p vc).canon = true :=
  canon_ite (canon_ite (canon_rtTake h _ _) h) (canon_ite (canon_sendCtl (canon_setPort (canon_ite (canon_rtTake h _ _) h) _ _) _ _)
    (canon_setPort (canon_ite (canon_rtTake h _ _) h) _ _))

theorem State.canon_leave (h : s.canon = true) (f : Flit) (src : Nat) : (s.leave f src).canon = true := by
  unfold State.leave
  split
  · exact canon_ite h (canon_creditBack h _ _)
  · exact h

theorem State.canon_tryFlit (h : s.canon = true) {p : Nat} {f : Flit} {t : State} (e : s.tryFlit p f = some t) : t.canon = true := by
  unfold State.tryFlit at e
  extract_lets q at e
  split at e
  · cases e
    exact canon_sendCtl h _ _
  · split at e
    · cases e
      exact canon_ledgOut (canon_bump (canon_setPort h _ _) _) _ _
    · cases e

theorem State.canon_pump (h : s.canon = true) (p : Nat) : (s.pump p).canon = true := by
  unfold State.pump
  extract_lets q go
  have hgo : go.2.canon = true := by
    refine canon_foldl_snd (fun _ t f ht => ?_) _ _ (canon_setPort h _ _)
    refine canon_ite_snd ht ?_
    split
    · next u e => exact canon_leave (canon_tryFlit ht e) _ _
    · exact ht
  exact canon_setPort hgo _ _

theorem State.canon_sendFlit (h : s.canon = true) (p : Nat) (f : Flit) (src : Nat) : (s.sendFlit p f src).canon = true :=
  canon_pump (canon_setPort h _ _) _

theorem State.canon_sendTo (h : s.canon = true) {dst i src : Nat} {f : Flit} {t : State} (e : s.sendTo dst i f src = some t) : t.canon =
    true := by
  unfold State.sendTo at e
  split at e
  · cases e
  · cases e
    exact canon_sendFlit h _ _ _

theorem State.canon_respond (h : s.canon = true) (dst tag status : Nat) : (s.respond dst tag status).canon = true :=
  canon_getD h fun _ e => canon_sendTo h e

theorem State.canon_putAccepted (h : s.canon = true) (src tag free : Nat) (ok : Bool) : (s.putAccepted src tag free ok).canon = true := by
  unfold State.putAccepted
  dsimp only
  split
  · exact canon_ite h (canon_creditBack h _ _)
  · exact canon_ite (canon_respond (canon_with_rest (canon_ite h (canon_creditBack h _ _))) _ _ _) (canon_with_rest (canon_ite h
      (canon_creditBack h _ _)))

/-! ## Aon -/

theorem State.canon_norPartial (h : s.canon = true) (op : NorOp) : (s.norPartial op).canon = true := by
  unfold State.norPartial
  split
  · exact canon_with_rest (canon_with_norMem h (AMap.wf_norProgram (canon_nor_mem h) _ _))
  · exact canon_with_rest (canon_with_norMem h (AMap.wf_norProgram (AMap.wf_norErase (canon_nor_mem h) _) _ _))

theorem State.canon_norApply (h : s.canon = true) (op : NorOp) : (s.norApply op).canon = true := by
  unfold State.norApply
  split
  · exact canon_with_norMem h (AMap.wf_norProgram (canon_nor_mem h) _ _)
  · exact canon_with_norMem h (AMap.wf_norErase (canon_nor_mem h) _)

theorem State.canon_norRequest (h : s.canon = true) (op : NorOp) : (s.norRequest op).canon = true := by
  unfold State.norRequest
  split
  · exact canon_with_rest h
  · exact canon_with_rest h

theorem State.canon_norNext (h : s.canon = true) (timedOut : Bool) : (s.norNext timedOut).canon = true := by
  unfold State.norNext
  split
  · exact canon_ite (canon_with_rest h) (canon_with_rest h)
  · exact canon_with_rest h

theorem State.canon_fatal (h : s.canon = true) (ty slot reading : Nat) : (s.fatal ty slot reading).canon = true :=
  canon_ledgIn (canon_with_rest h) _ _

theorem State.canon_fatalScan (h : s.canon = true) : s.fatalScan.canon = true := by
  unfold State.fatalScan
  split
  · exact canon_with_rest h
  · exact canon_with_rest h

theorem State.canon_fatalLoad (h : s.canon = true) : s.fatalLoad.canon = true := by
  unfold State.fatalLoad
  extract_lets w n set
  have hset : ∀ (t : State) j v, t.canon = true → (set t j v).canon = true := fun _ _ _ ht => canon_with_ledg ht (AMap.wf_set (canon_ledg
    ht))
  exact hset _ _ _ (hset _ _ _ (hset _ _ _ (hset _ _ _ h)))

theorem State.canon_fatalPage (h : s.canon = true) (e : FatalEvent) : (s.fatalPage e).2.canon = true := canon_with_rest h
theorem State.canon_eraseAhead (h : s.canon = true) (base pos : Nat) : (s.eraseAhead base pos).canon = true :=
  canon_ite (canon_norRequest h _) h

theorem execFatalLogWrite_canonical (h : s.canon = true) : Out.Canonical (execFatalLogWrite s) := by
  unfold execFatalLogWrite
  refine Out.canonical_next ?_
  split
  · exact h
  · exact canon_ite (canon_norRequest (canon_with_rest (canon_ite (canon_fatalScan h) h)) _) h

theorem State.canon_fatalDone (h : s.canon = true) (ok : Bool) : (s.fatalDone ok).canon = true :=
  canon_eraseAhead (canon_ite (canon_ledgOut (canon_with_rest h) _ _) (canon_ledgAlt (canon_with_rest h) _ _)) _ _

theorem State.canon_norAfter (h : s.canon = true) (op : NorOp) (ok : Bool) : (s.norAfter op ok).canon = true := by
  unfold State.norAfter
  split
  · exact canon_fatalDone h _
  · exact h

theorem norSettle_canonical (h : s.canon = true) (n : Nat) : (norSettle n s).canon = true := by
  induction n generalizing s with
  | zero => exact h
  | succ n ih =>
    unfold norSettle
    split
    · exact h
    · exact ih (canon_norNext (canon_norAfter (canon_norApply h _) _ _) _)

theorem State.canon_norWait (h : s.canon = true) : s.norWait.canon = true := norSettle_canonical h _
theorem execNorOperationDone_canonical (h : s.canon = true) : Out.Canonical (execNorOperationDone s) := by
  unfold execNorOperationDone
  refine Out.canonical_next ?_
  split
  · exact h
  · exact canon_norNext (canon_norAfter (canon_norApply h _) _ _) _

theorem execNorTimeout_canonical (h : s.canon = true) : Out.Canonical (execNorTimeout s) := by
  unfold execNorTimeout
  refine Out.canonical_next ?_
  split
  · exact h
  · exact canon_fatal (canon_norNext (canon_norAfter (canon_norPartial h _) _ _) _) _ _ _

theorem State.canon_removeRails (h : s.canon = true) : s.removeRails.canon = true :=
  canon_fromReset (canon_boot_imgBuf h) (canon_nor_mem h) (canon_nor_buf h) (canon_hk_sensors h) (canon_hk_invalidRun h) rfl rfl
    (AMap.wf_filter (canon_ledg h))

theorem State.canon_startUp (h : s.canon = true) : s.startUp.canon = true :=
  canon_fromReset rfl (canon_nor_mem (canon_removeRails h)) (canon_nor_buf (canon_removeRails h)) rfl rfl rfl rfl (AMap.wf_filter
    (canon_ledg h))

theorem State.canon_hold (h : s.canon = true) (cause : Nat) : (s.hold cause).canon = true := canon_with_rest (canon_removeRails h)
theorem State.canon_mgAnswer (h : s.canon = true) (status : Nat) (data : List Byte) : (s.mgAnswer status data).canon = true :=
  canon_with_rest h

theorem State.canon_mgCommand (h : s.canon = true) (pecOk inState : Bool) (f : State → State) (hf : ∀ t : State, t.canon = true → (f
  t).canon = true) : (s.mgCommand pecOk inState f).canon = true :=
  canon_ite h (canon_ite (canon_mgAnswer h _ _) (canon_ite (canon_mgAnswer h _ _) (hf _ h)))

theorem execGetStatus_canonical (h : s.canon = true) (pecOk : Bool) : Out.Canonical (execGetStatus pecOk s) :=
  Out.canonical_next (canon_mgCommand h _ _ _ (fun _ ht => canon_mgAnswer ht _ _))

theorem execGetIdent_canonical (h : s.canon = true) (pecOk : Bool) : Out.Canonical (execGetIdent pecOk s) :=
  Out.canonical_next (canon_mgCommand h _ _ _ (fun _ ht => canon_mgAnswer ht _ _))

theorem execGetSensor_canonical (h : s.canon = true) (slot : Nat) (pecOk : Bool) : Out.Canonical (execGetSensor slot pecOk s) :=
  Out.canonical_next (canon_mgCommand h _ _ _ (fun _ ht => canon_ite (canon_ite (canon_mgAnswer ht _ _) (canon_mgAnswer ht _ _))
    (canon_mgAnswer ht _ _)))

theorem execClearAlert_canonical (h : s.canon = true) (mask : Nat) (pecOk : Bool) : Out.Canonical (execClearAlert mask pecOk s) :=
  Out.canonical_next (canon_mgCommand h _ _ _ (fun _ ht => canon_mgAnswer (canon_with_rest ht) _ _))

theorem State.canon_norCommand (h : s.canon = true) (pecOk inState : Bool) (f : State → State) (hf : ∀ t : State, t.canon = true → (f
  t).canon = true) : (s.norCommand pecOk inState f).canon = true :=
  canon_mgCommand h _ _ _ (fun _ ht => canon_ite (canon_mgAnswer ht _ _) (hf _ ht))

theorem execNorRead_canonical (h : s.canon = true) (addr len : Nat) (pecOk : Bool) : Out.Canonical (execNorRead addr len pecOk s) :=
  Out.canonical_next (canon_norCommand h _ _ _ (fun _ ht => canon_ite (canon_mgAnswer ht _ _) (canon_mgAnswer ht _ _)))

theorem execNorBuf_canonical (h : s.canon = true) (offset : Nat) (data : List Byte) (pecOk : Bool) : Out.Canonical (execNorBuf offset data
    pecOk s) := by
  exact Out.canonical_next (canon_norCommand h _ _ _ fun t ht => canon_ite (canon_mgAnswer (canon_with_norBuf ht
    (AMap.wf_foldl (fun _ _ hm => AMap.wf_set hm) _ (canon_nor_buf ht))) _ _) (canon_mgAnswer ht _ _))

theorem execNorProg_canonical (h : s.canon = true) (addr : Nat) (pecOk : Bool) : Out.Canonical (execNorProg addr pecOk s) :=
  Out.canonical_next (canon_norCommand h _ _ _ (fun _ ht => canon_ite (canon_mgAnswer (canon_norRequest ht _) _ _) (canon_mgAnswer ht _ _)))

theorem execNorErase_canonical (h : s.canon = true) (addr : Nat) (pecOk : Bool) : Out.Canonical (execNorErase addr pecOk s) :=
  Out.canonical_next (canon_norCommand h _ _ _ (fun _ ht => canon_ite (canon_mgAnswer (canon_norRequest ht _) _ _) (canon_mgAnswer ht _ _)))

theorem execNorStat_canonical (h : s.canon = true) (pecOk : Bool) : Out.Canonical (execNorStat pecOk s) :=
  Out.canonical_next (canon_mgCommand h _ _ _ (fun _ ht => canon_mgAnswer ht _ _))

/-! ## Answers -/

theorem State.canon_lateStatus (h : s.canon = true) (src st : Nat) : (s.lateStatus src st).canon = true := by
  unfold State.lateStatus
  refine canon_ite ?_ h
  dsimp only
  split
  · exact canon_setEntry h _ _ _
  · exact h

theorem State.canon_hostData (h : s.canon = true) (dpa : Nat) (ws : List Word) (p : Bool) : (s.hostData dpa ws p).canon = true :=
  canon_tell (canon_ite (canon_bump h _) h) _

theorem State.canon_hostPoison (h : s.canon = true) (dpa : Nat) : (s.hostPoison dpa).canon = true := by
  refine canon_hostData (canon_foldl_snd (fun _ _ _ ht => ?_) _ _ h) _ _ _
  split
  next e => exact canon_of_eq (canon_freshData ht) e

theorem State.canon_hostDropped (h : s.canon = true) (dpa : Nat) : (s.hostDropped dpa).canon = true := canon_raise (canon_bump h _) _ _ _ _
theorem State.canon_writeTaken (h : s.canon = true) (r : Req) (ok : Bool) : (s.writeTaken r ok).canon = true := by
  unfold State.writeTaken
  split
  · exact canon_tell (canon_ite h (canon_hostDropped h _)) _
  · exact canon_putAccepted h _ _ _ _
  · exact canon_ite h (canon_lateStatus h _ _)

/-! ## Forager -/

theorem slotUse_canonical (n : Nat) : M.Keeps Canonical (slotUse n) := M.keeps_modify (fun _ ht => canon_ledgOut (canon_ledgIn ht _ _) _ _)
theorem readWords_canonical (c : Ctx) (hd : Nat) : M.Keeps Canonical (readWords c hd) :=
  M.keeps_bind (readDescWords_canonical _ _) (fun _ => M.keeps_pure _)

theorem opGidx_canonical (c : Ctx) : M.Keeps Canonical (opGidx c) := by
  unfold opGidx
  refine withOpnds_canonical _ _ _ (fun _ => ?_)
  split
  · exact M.keeps_bind (execCheck_canonical _ _) (fun _ => M.keeps_bind (readWords_canonical _ _) (fun _ => M.keeps_bind
      (readWords_canonical _ _) (fun _ => M.keeps_bind M.keeps_get (fun _ => M.keeps_bind (M.keeps_modify (fun _ ht => canon_ite
      (canon_setCore ht _ _) ht)) (fun _ => M.keeps_pure _)))))
  · exact M.keeps_pure _

theorem readIndexAt_canonical (c : Ctx) (t : IdxStream) (n : Nat) : M.Keeps Canonical (readIndexAt c t n) := by
  unfold readIndexAt
  refine M.keeps_bind (readElems_canonical _ _ _ _) (fun _ => M.keeps_bind (slotUse_canonical _) (fun _ => ?_))
  split
  · exact M.keeps_pure _
  · exact M.keeps_pure _

theorem State.canon_onStream (h : s.canon = true) (g q : Nat) (f : IdxStream → IdxStream) : (s.onStream g q f).canon = true :=
  canon_ite (canon_setCore h _ _) h

theorem State.canon_raStop (h : s.canon = true) (g q : Nat) : (s.raStop g q).canon = true := canon_bump (canon_onStream h _ _ _) _
theorem translateLines_canonical (c : Ctx) (xs : List Nat) : M.Keeps Canonical (translateLines c xs) := by
  induction xs with
  | nil => exact M.keeps_pure _
  | cons l ls ih =>
    refine M.keeps_bind (M.keeps_act fun _ ht => canon_translate ht _ _) fun o => ?_
    cases o with
    | none => exact M.keeps_throw 5
    | some f => exact M.keeps_bind ih fun _ => M.keeps_pure _

theorem State.canon_prefetch (h : s.canon = true) (g q : Nat) (ls : List Nat) : (s.prefetch g q ls).canon = true :=
  canon_ledgIn (canon_setCore (canon_overList (fun _ _ ht => canon_setDie ht _ _) _ h) _ _) _ _

theorem runAhead_canonical (c : Ctx) (q : Nat) (t : IdxStream) : M.Keeps Canonical (runAhead c q t) := by
  unfold runAhead
  split
  extract_lets jp
  have hjp : ∀ u, M.Keeps Canonical (jp u) := by
    intro u
    refine M.keeps_bind M.keeps_get fun _ => M.keeps_bind (readIndexAt_canonical _ _ _) fun es => M.keeps_guard fun _ => ?_
    refine M.keeps_ite (M.keeps_modify fun _ ht => canon_onStream ht _ _ _) (M.keeps_guard fun _ => ?_)
    exact M.keeps_bind (translateLines_canonical _ _) fun _ => M.keeps_modify fun _ ht =>
      canon_ite (canon_onStream (canon_prefetch ht _ _ _) _ _ _) ht
  exact M.keeps_guard hjp

theorem execRunAheadPrefetch_canonical (h : s.canon = true) (core q : Nat) : Out.Canonical (execRunAheadPrefetch core q s) := by
  unfold execRunAheadPrefetch
  refine Out.canonical_next (canon_ite ?_ h)
  split
  · next t e => exact runAhead_canonical _ _ _ _ _ _ e h
  · next t e => exact canon_raStop (runAhead_canonical _ _ _ _ _ _ e h) _ _

theorem drawIndex_canonical (c : Ctx) (q : Nat) : M.Keeps Canonical (drawIndex c q) :=
  M.keeps_bind M.keeps_get (fun _ => M.keeps_ite (M.keeps_ite (M.keeps_bind (M.keeps_pure _) (fun _ => M.keeps_bind (M.keeps_modify (fun _
    ht => canon_onStream ht _ _ _)) (fun _ => M.keeps_pure _))) (M.keeps_bind (readIndexAt_canonical _ _ _) (fun _ => M.keeps_bind
    (M.keeps_modify (fun _ ht => canon_onStream ht _ _ _)) (fun _ => M.keeps_pure _)))) (M.keeps_pure _))

theorem gatherIndices_canonical (c : Ctx) (useq : Bool) (q : Nat) (x : Desc) (js : List Nat) : M.Keeps Canonical (gatherIndices c useq q x
    js) := by
  unfold gatherIndices
  refine M.keeps_bind (M.keeps_forIn (fun _ _ => M.keeps_ite (M.keeps_bind (attempt_canonical _ (M.keeps_ite (M.keeps_bind
    (drawIndex_canonical _ _) (fun _ => ?_)) (M.keeps_bind (readElems_canonical _ _ _ _) (fun _ => M.keeps_pure _)))) (fun _ => ?_))
    (M.keeps_pure _)) _ _) (fun _ => M.keeps_pure _)
  · split
    · exact M.keeps_pure _
    · exact M.keeps_bind (readElems_canonical _ _ _ _) (fun _ => M.keeps_pure _)
  · split
    · exact M.keeps_pure _
    · exact M.keeps_pure _

theorem gatherIter_canonical (c : Ctx) (useq : Bool) (q : Nat) (d a : Opnd) (js : List Nat) : M.Keeps Canonical (gatherIter c useq q d a
    js) := by
  unfold gatherIter
  split
  · exact M.keeps_pure _
  · exact M.keeps_bind (gatherIndices_canonical _ _ _ _ _) (fun _ => M.keeps_bind (readSourceWith_canonical _ _ _ _) (fun _ => M.keeps_bind
      (slotUse_canonical _) (fun _ => M.keeps_bind (readDest_canonical _ _ _) (fun _ => M.keeps_bind (storeVals_canonical _ _ _ _) (fun _
      => M.keeps_bind (finish_canonical _) (fun _ => M.keeps_bind (finish_canonical _) (fun _ => M.keeps_bind (finish_canonical _) (fun _
      => M.keeps_pure _))))))))

theorem opGatherWith_canonical (spaces : Nat → Bool) (useq : Bool) (q : Nat) (c : Ctx) :
    M.Keeps Canonical (opGatherWith spaces useq q c) := by
  unfold opGatherWith
  refine withOpnds_canonical _ _ _ (fun _ => ?_)
  split
  · exact M.keeps_bind M.keeps_get (fun _ => M.keeps_bind (execCheck_canonical _ _) (fun _ => M.keeps_bind (M.keeps_forIn (fun _ _ =>
      M.keeps_bind (gatherIter_canonical _ _ _ _ _ _) (fun _ => M.keeps_pure _)) _ _) (fun _ => M.keeps_pure _)))
  · exact M.keeps_pure _

theorem opGather_canonical (c : Ctx) : M.Keeps Canonical (opGather c) := opGatherWith_canonical _ _ _ _
theorem opFcompat_canonical (c : Ctx) : M.Keeps Canonical (opFcompat c) := opGatherWith_canonical _ _ _ _
theorem copyIter_canonical (c : Ctx) (d a : Opnd) (js : List Nat) : M.Keeps Canonical (copyIter c d a js) :=
  M.keeps_bind (readSource_canonical _ _ _) (fun _ => M.keeps_bind (readDest_canonical _ _ _) (fun _ => M.keeps_bind (storeVals_canonical _
    _ _ _) (fun _ => M.keeps_bind (finish_canonical _) (fun _ => M.keeps_bind (finish_canonical _) (fun _ => M.keeps_pure _)))))

theorem opScatter_canonical (c : Ctx) : M.Keeps Canonical (opScatter c) := by
  unfold opScatter
  refine withOpnds_canonical _ _ _ (fun _ => ?_)
  split
  · exact M.keeps_bind (execCheck_canonical _ _) (fun _ => M.keeps_bind (M.keeps_forIn (fun _ _ => M.keeps_bind (copyIter_canonical _ _ _
      _) (fun _ => M.keeps_pure _)) _ _) (fun _ => M.keeps_pure _))
  · exact M.keeps_pure _

theorem execGidx_canonical (h : s.canon = true) (core : Nat) : Out.Canonical (execGidx core s) :=
  Out.canonical_next (canon_runEngine h _ _ _ _ (fun _ => opGidx_canonical _))

theorem execGather_canonical (h : s.canon = true) (core : Nat) : Out.Canonical (execGather core s) :=
  Out.canonical_next (canon_runEngine h _ _ _ _ (fun _ => opGather_canonical _))

theorem execScatter_canonical (h : s.canon = true) (core : Nat) : Out.Canonical (execScatter core s) :=
  Out.canonical_next (canon_runEngine h _ _ _ _ (fun _ => opScatter_canonical _))

theorem execFcompat_canonical (h : s.canon = true) (core : Nat) : Out.Canonical (execFcompat core s) :=
  Out.canonical_next (canon_runEngine h _ _ _ _ (fun _ => opFcompat_canonical _))

/-! ## Matrix -/

theorem clearBank_canonical (c : Ctx) (b : Nat) : M.Keeps Canonical (clearBank c b) :=
  M.keeps_bind (writeWords_canonical _ _ _) (fun _ => M.keeps_modify (fun _ ht => canon_setCore ht _ _))

theorem readScales_canonical (c : Ctx) (o : Opnd) (js : List Nat) : M.Keeps Canonical (readScales c o js) := by
  unfold readScales
  split
  · exact M.keeps_pure _
  · exact M.keeps_bind (readElems_canonical _ _ _ _) (fun _ => M.keeps_pure _)

theorem readAll_canonical (c : Ctx) (o : Opnd) (js : List Nat) : M.Keeps Canonical (readAll c o js) :=
  M.keeps_bind (readSource_canonical _ _ _) (fun _ => M.keeps_bind (finish_canonical _) (fun _ => M.keeps_pure _))

theorem mmaIter_canonical (c : Ctx) (b : Nat) (fresh : Bool) (left : Option Nat) (oa ob : Opnd) (js : List Nat) : M.Keeps Canonical
  (mmaIter c b fresh left oa ob js) :=
  M.keeps_bind (readAll_canonical _ _ _) (fun _ => M.keeps_bind (readAll_canonical _ _ _) (fun _ => M.keeps_bind (readScales_canonical _ _
    _) (fun _ => M.keeps_bind (readScales_canonical _ _ _) (fun _ => M.keeps_bind (M.keeps_forIn (fun _ _ => M.keeps_ite (M.keeps_bind
    (M.keeps_pure _) (fun _ => M.keeps_bind (M.keeps_forIn (fun _ _ => M.keeps_pure _) _ _) (fun _ => M.keeps_pure _))) (M.keeps_bind
    (readElems_canonical _ _ _ _) (fun _ => M.keeps_bind (M.keeps_forIn (fun _ _ => M.keeps_pure _) _ _) (fun _ => M.keeps_pure _)))) _ _)
    (fun _ => M.keeps_bind (writeElems_canonical _ _ _ _) (fun _ => M.keeps_pure _))))))

theorem opMma_canonical (scaled : Bool) (chk : ArithCheck) (c : Ctx) : M.Keeps Canonical (opMma scaled chk c) := by
  unfold opMma
  refine withOpnds_canonical _ _ _ fun _ => ?_
  split
  · refine M.keeps_bind (execCheck_canonical _ _) fun _ => M.keeps_bind M.keeps_get fun _ => M.keeps_guard fun _ => ?_
    refine M.keeps_ite (M.keeps_bind (arithEvents_canonical _ _ _) fun _ => ?_) (M.keeps_pure _)
    refine M.keeps_bind (M.keeps_modify fun _ ht => canon_setCore ht _ _) fun _ => ?_
    refine M.keeps_bind (M.keeps_forIn (fun _ _ => ?_) _ _) fun _ => M.keeps_bind (passEnd_canonical _) fun _ => M.keeps_pure _
    exact M.keeps_bind (mmaIter_canonical _ _ _ _ _ _ _) fun _ => M.keeps_bind (passUnits_canonical _ _) fun _ => M.keeps_pure _
  · exact M.keeps_pure _

theorem opMzero_canonical (c : Ctx) : M.Keeps Canonical (opMzero c) :=
  M.keeps_ite (M.keeps_ite (M.keeps_bind (clearBank_canonical _ _) (fun _ => M.keeps_ite (M.keeps_bind (clearBank_canonical _ _) (fun _ =>
    M.keeps_pure _)) (M.keeps_pure _))) (M.keeps_ite (M.keeps_bind (clearBank_canonical _ _) (fun _ => M.keeps_pure _)) (M.keeps_pure _)))
    (M.keeps_pure _)

theorem opMdrain_canonical (c : Ctx) : M.Keeps Canonical (opMdrain c) := by
  unfold opMdrain
  refine withOpnds_canonical _ _ _ (fun _ => ?_)
  split
  · exact M.keeps_bind (execCheck_canonical _ _) (fun _ => M.keeps_bind (M.keeps_modify (fun _ ht => canon_setCore (canon_noteWaits ht _) _
      _)) (fun _ => M.keeps_bind M.keeps_get (fun _ => M.keeps_bind (M.keeps_forIn (fun _ _ => M.keeps_bind (readDest_canonical _ _ _) (fun
      _ => M.keeps_bind (readElems_canonical _ _ _ _) (fun _ => M.keeps_bind (storeVals_canonical _ _ _ _) (fun _ => M.keeps_bind
      (finish_canonical _) (fun _ => M.keeps_pure _))))) _ _) (fun _ => M.keeps_ite (M.keeps_bind (clearBank_canonical _ _) (fun _ =>
      M.keeps_pure _)) (M.keeps_pure _)))))
  · exact M.keeps_pure _

theorem readActs_canonical (c : Ctx) (b : Opnd) (js : List Nat) : M.Keeps Canonical (readActs c b js) := by
  unfold readActs
  refine M.keeps_bind (readElems_canonical _ _ _ _) (fun _ => ?_)
  dsimp only
  split
  · exact M.keeps_bind (M.keeps_pure _) (fun _ => M.keeps_pure _)
  · exact M.keeps_bind (readElems_canonical _ _ _ _) (fun _ => M.keeps_pure _)

theorem mvTile_canonical (c : Ctx) (left : Option Nat) (t : Tile) : M.Keeps Canonical (mvTile c left t) :=
  M.keeps_bind (M.keeps_forIn (fun _ _ => M.keeps_bind (readElems_canonical _ _ _ _) (fun _ => M.keeps_bind (readElems_canonical _ _ _ _)
    (fun _ => M.keeps_pure _))) _ _) (fun _ => M.keeps_bind (writeElems_canonical _ _ _ _) (fun _ => M.keeps_ite (M.keeps_pure _)
    (M.keeps_bind (writeElems_canonical _ _ _ _) (fun _ => M.keeps_pure _))))

theorem opMv_canonical (chk : ArithCheck) (c : Ctx) : M.Keeps Canonical (opMv chk c) := by
  unfold opMv
  refine withOpnds_canonical _ _ _ (fun _ => ?_)
  split
  · exact M.keeps_bind (execCheck_canonical _ _) (fun _ => M.keeps_bind (arithEvents_canonical _ _ _) (fun _ => M.keeps_bind (M.keeps_forIn
      (fun _ _ => M.keeps_bind (readActs_canonical _ _ _) (fun _ => M.keeps_bind (M.keeps_forIn (fun _ _ => M.keeps_bind (mvTile_canonical
      _ _ _) (fun _ => M.keeps_bind (passUnits_canonical _ _) (fun _ => M.keeps_pure _))) _ _) (fun _ => M.keeps_pure _))) _ _) (fun _ =>
      M.keeps_bind (passEnd_canonical _) (fun _ => M.keeps_pure _))))
  · exact M.keeps_pure _

theorem execMma_canonical (h : s.canon = true) (core : Nat) (chk : ArithCheck) : Out.Canonical (execMma core chk s) :=
  Out.canonical_next (canon_runEngine h _ _ _ _ (fun _ => opMma_canonical _ _ _))

theorem execMmas_canonical (h : s.canon = true) (core : Nat) (chk : ArithCheck) : Out.Canonical (execMmas core chk s) :=
  Out.canonical_next (canon_runEngine h _ _ _ _ (fun _ => opMma_canonical _ _ _))

theorem execMzero_canonical (h : s.canon = true) (core : Nat) : Out.Canonical (execMzero core s) :=
  Out.canonical_next (canon_runEngine h _ _ _ _ (fun _ => opMzero_canonical _))

theorem execMdrain_canonical (h : s.canon = true) (core : Nat) : Out.Canonical (execMdrain core s) :=
  Out.canonical_next (canon_runEngine h _ _ _ _ (fun _ => opMdrain_canonical _))

theorem execMv_canonical (h : s.canon = true) (core : Nat) (chk : ArithCheck) : Out.Canonical (execMv core chk s) :=
  Out.canonical_next (canon_runEngine h _ _ _ _ (fun _ => opMv_canonical _ _))

/-! ## Transfer -/

theorem opMove_canonical (c : Ctx) : M.Keeps Canonical (opMove c) := by
  unfold opMove
  refine withOpnds_canonical _ _ _ (fun _ => ?_)
  split
  · exact M.keeps_bind (execCheck_canonical _ _) (fun _ => M.keeps_bind (M.keeps_forIn (fun _ _ => M.keeps_bind (copyIter_canonical _ _ _
      _) (fun _ => M.keeps_pure _)) _ _) (fun _ => M.keeps_pure _))
  · exact M.keeps_pure _

theorem opFill_canonical (c : Ctx) : M.Keeps Canonical (opFill c) := by
  unfold opFill
  refine withOpnds_canonical _ _ _ (fun _ => ?_)
  split
  · exact M.keeps_bind (execCheck_canonical _ _) (fun _ => M.keeps_bind (M.keeps_forIn (fun _ _ => M.keeps_bind (readDest_canonical _ _ _)
      (fun _ => M.keeps_bind (storeVals_canonical _ _ _ _) (fun _ => M.keeps_bind (finish_canonical _) (fun _ => M.keeps_pure _)))) _ _)
      (fun _ => M.keeps_pure _))
  · exact M.keeps_pure _

theorem execMove_canonical (h : s.canon = true) (core : Nat) : Out.Canonical (execMove core s) :=
  Out.canonical_next (canon_runEngine h _ _ _ _ (fun _ => opMove_canonical _))

theorem execFill_canonical (h : s.canon = true) (core : Nat) : Out.Canonical (execFill core s) :=
  Out.canonical_next (canon_runEngine h _ _ _ _ (fun _ => opFill_canonical _))

theorem anyStale_canonical (c : Ctx) (xs : List Nat) : M.Keeps Canonical (anyStale c xs) := by
  induction xs with
  | nil => exact M.keeps_pure _
  | cons l ls ih =>
    refine M.keeps_bind (M.keeps_act fun _ ht => canon_translate ht _ _) fun o => ?_
    cases o with
    | none => exact M.keeps_throw 5
    | some f => exact M.keeps_bind ih fun _ => M.keeps_pure _

theorem opMirrorsync_canonical (c : Ctx) : M.Keeps Canonical (opMirrorsync c) := by
  unfold opMirrorsync
  refine withOpnds_canonical _ _ _ (fun _ => ?_)
  split
  · exact M.keeps_bind (execCheck_canonical _ _) (fun _ => M.keeps_bind (anyStale_canonical _ _) (fun _ => M.keeps_pure _))
  · exact M.keeps_pure _

theorem execMirrorsync_canonical (h : s.canon = true) (core : Nat) : Out.Canonical (execMirrorsync core s) := by
  unfold execMirrorsync
  refine Out.canonical_next ?_
  split
  · exact canon_ite h (canon_runEngine h _ _ _ _ (fun _ => opMirrorsync_canonical _))
  · exact h

theorem tileFrames_canonical (c : Ctx) (xs : List Nat) : M.Keeps Canonical (tileFrames c xs) := by
  induction xs with
  | nil => exact M.keeps_pure _
  | cons l ls ih =>
    refine M.keeps_bind (M.keeps_act fun _ ht => canon_translate ht _ _) fun o => ?_
    cases o with
    | none => exact M.keeps_throw 5
    | some f => exact M.keeps_bind ih fun _ => M.keeps_pure _

theorem State.canon_toMv (h : s.canon = true) (t : Tile) : (s.toMv t).canon = true := canon_setCore h _ _
theorem State.canon_dispatchTile (h : s.canon = true) (t : Tile) : (s.dispatchTile t).canon = true := by
  unfold State.dispatchTile
  split
  · exact canon_toMv h _
  · exact canon_ite (canon_toMv h _) (canon_ite (canon_setUnit h _ _) (canon_bump (canon_toMv h _) _))

theorem State.canon_dispatchMore (h : s.canon = true) (g : Nat) : (s.dispatchMore g).canon = true :=
  canon_foldl (fun _ _ ht => canon_dispatchTile ht _) _ (canon_setCore h _ _)

theorem State.canon_tileDone (h : s.canon = true) (g qid status sat flush : Nat) : (s.tileDone g qid status sat flush).canon = true :=
  canon_ite h (canon_dispatchMore (canon_setCore h _ _) _)

theorem cmvTiles_canonical (c : Ctx) (im : Bool) (a b d : Opnd) (js : List Nat) : M.Keeps Canonical (cmvTiles c im a b d js) :=
  M.keeps_bind (readActs_canonical _ _ _) (fun _ => M.keeps_bind (M.keeps_forIn (fun _ _ => M.keeps_bind (tileFrames_canonical _ _) (fun _
    => M.keeps_pure _)) _ _) (fun _ => M.keeps_pure _))

theorem opCmv_canonical (c : Ctx) : M.Keeps Canonical (opCmv c) := by
  unfold opCmv
  refine withOpnds_canonical _ _ _ (fun _ => ?_)
  split
  · exact M.keeps_bind (execCheck_canonical _ _) (fun _ => M.keeps_bind (M.keeps_forIn (fun _ _ => M.keeps_bind (cmvTiles_canonical _ _ _ _
      _ _) (fun _ => M.keeps_pure _)) _ _) (fun _ => M.keeps_ite (M.keeps_pure _) (M.keeps_bind (M.keeps_modify (fun _ ht =>
      canon_dispatchMore (canon_setCore (canon_noteWaits ht _) _ _) _)) (fun _ => M.keeps_pure _))))
  · exact M.keeps_pure _

theorem execCmv_canonical (h : s.canon = true) (core : Nat) : Out.Canonical (execCmv core s) :=
  Out.canonical_next (canon_runEngine h _ _ _ _ (fun _ => opCmv_canonical _))

theorem mvPass_canonical (c : Ctx) (chk : ArithCheck) (t : Tile) : M.Keeps Canonical (do
    let left ← arithEvents c 0x210 chk
    let r ← mvTile c left t
    passEnd left
    pure r : M Res) :=
  M.keeps_bind (arithEvents_canonical _ _ _) fun _ => M.keeps_bind (mvTile_canonical _ _ _) fun _ =>
    M.keeps_bind (passEnd_canonical _) fun _ => M.keeps_pure _

theorem execMvFallback_canonical (h : s.canon = true) (core : Nat) (chk : ArithCheck) : Out.Canonical (execMvFallback core chk s) := by
  unfold execMvFallback
  refine Out.canonical_next ?_
  extract_lets k
  split
  · exact h
  · next t rest _ =>
    refine canon_ite ?_ h
    have hs : (s.setCore core { k with mvq := rest }).canon = true := canon_setCore h _ _
    extract_lets c pc u
    split
    · next r v e => exact canon_tileDone (mvPass_canonical c chk t _ _ _ e hs) _ _ _ _ _
    · next cause v e =>
      have hv := mvPass_canonical c chk t _ _ _ e hs
      exact canon_ite (canon_fault hv _ _ _) (canon_beginHalt hv _ _ _ _)

theorem execCmvCompletion_canonical (h : s.canon = true) (core : Nat) : Out.Canonical (execCmvCompletion core s) := by
  unfold execCmvCompletion
  refine Out.canonical_next ?_
  dsimp only
  split
  · exact h
  · exact canon_setEntry (canon_setCore h _ _) _ _ _

/-! ## Comb -/

theorem execTileSequence_canonical (h : s.canon = true) (unit : Nat) : Out.Canonical (execTileSequence unit s) := by
  unfold execTileSequence
  refine Out.canonical_next ?_
  dsimp only
  split
  · exact canon_ite (canon_setUnit h _ _) h
  · exact h

theorem State.canon_combWord (h : s.canon = true) (u w : Nat) : (s.combWord u w).2.canon = true := by
  unfold State.combWord
  extract_lets n v o _ z t u x
  have hz : z.canon = true := canon_ite (canon_setReg h _ _) h
  have ht : t.canon = true := by
    unfold t
    split
    · exact h
    · exact canon_setUnit (canon_bump h _) _ _
    · exact canon_raise hz _ _ _ _
  exact canon_ite_snd (canon_setUnit (canon_bump ht _) _ _) ht

theorem State.canon_combWords (h : s.canon = true) (u w n : Nat) : (s.combWords u w n).2.canon = true := by
  refine canon_foldl_snd (fun _ _ _ ht => ?_) _ _ h
  split
  next e => exact canon_of_eq (canon_combWord ht _ _) e

theorem State.canon_weightRun (h : s.canon = true) (u : Nat) (t : Tile) (hd : Nat) : (s.weightRun u t hd).canon = true := by
  unfold State.weightRun
  extract_lets x ptr p row
  split
  next ws v e =>
  have hv := canon_of_eq (canon_combWords h _ _ _) e
  exact canon_setUnit hv _ _

theorem State.canon_stripRun (h : s.canon = true) (u : Nat) (t : Tile) (hd : Nat) : (s.stripRun u t hd).canon = true := by
  unfold State.stripRun
  extract_lets x q p piece
  split
  next ws v e =>
  have hv := canon_of_eq (canon_combWords h _ _ _) e
  exact canon_setUnit hv _ _

theorem State.canon_readStat (h : s.canon = true) (u : Nat) : (s.readStat u).canon = true := canon_logCmd (canon_setUnit h _ _) _ _ _
theorem State.canon_tileToMv (h : s.canon = true) (n : Nat) (t : Tile) : (s.tileToMv n t).canon = true := canon_bump (canon_toMv h _) _
theorem State.canon_takeFrame (h : s.canon = true) (f : Nat) : (s.takeFrame f).canon = true := canon_with_rest h
theorem State.canon_evacReg (h : s.canon = true) (e : Evac) : (s.evacReg e).canon = true := canon_setReg h _ _
theorem State.canon_evacEnd (h : s.canon = true) (e : Evac) : (s.evacEnd e).canon = true :=
  canon_raise (canon_evacReg (canon_setRing (canon_setUnit h _ _) _ _) _) _ _ _ _

theorem State.canon_performHeld (h : s.canon = true) (fte : Word) (hd : HeldWrite) : (s.performHeld fte hd).canon = true := by
  unfold State.performHeld
  extract_lets f ws
  split
  · split
    next ok t e =>
    have ht := canon_of_eq (canon_homeWrite h _ _ _ _) e
    exact canon_ite ht (canon_tell (canon_ite ht (canon_hostDropped ht _)) _)
  · split
    next ok t e =>
    have ht := canon_of_eq (canon_frameWrite h _ _ _ _ _ _) e
    exact canon_ite ht (canon_putAccepted ht _ _ _ _)
  · split
    next ok t e =>
    have ht := canon_of_eq (canon_frameWrite h _ _ _ _ _ _) e
    exact canon_ite ht (canon_lateStatus ht _ _)

theorem State.canon_releaseHeld (h : s.canon = true) (src : Nat) (fte : Word) : (s.releaseHeld src fte).canon = true :=
  canon_foldl (fun _ _ ht => canon_performHeld ht _ _) _ (canon_with_rest h)

theorem State.canon_evacNext (h : s.canon = true) (e : Evac) (xs : List (Nat × Word)) : (s.evacNext e xs).canon = true := by
  induction xs generalizing s e with
  | nil => exact canon_evacEnd h _
  | cons x xs ih =>
    unfold State.evacNext
    split
    · exact ih (canon_releaseHeld h _ _) _
    · exact canon_evacReg (canon_setRing (canon_takeFrame h _) _ _) _

theorem State.canon_retarget (h : s.canon = true) (u : Nat) : (s.retarget u).canon = true := by
  unfold State.retarget
  split
  · split
    · exact canon_ite (canon_evacNext (canon_setRing h _ _) _ _) h
    · exact h
  · exact h

theorem State.canon_unitFault (h : s.canon = true) (u cause : Nat) : (s.unitFault u cause).canon = true :=
  canon_ite (canon_retarget (canon_fault (canon_foldl (fun _ _ ht => canon_tileToMv ht _ _) _ (canon_setRing (canon_setUnit h _ _) _ _)) _
    _ _) _) h

theorem State.canon_residue (h : s.canon = true) (u k : Nat) : (s.residue u k).canon = true := canon_setUnit (canon_bumpN h _ _) _ _
theorem State.canon_combRun (h : s.canon = true) (u kind banks : Nat) (chk : CombCheck) : (s.combRun u kind banks chk).canon = true := by
  unfold State.combRun
  extract_lets x y t k _ v
  have hv : v.canon = true := canon_setStack (canon_bump (canon_setUnit h _ _) _) _ _
  split
  · exact h
  · next t _ =>
    extract_lets one w
    have hone : ∀ hd (z : State), z.canon = true → (one hd z).canon = true := fun _ _ hz =>
      canon_ite (canon_ite (canon_weightRun hz _ _ _) (canon_stripRun hz _ _ _)) hz
    have hw : w.canon = true := hone 1 _ (hone 0 _ hv)
    split
    · exact hw
    · exact canon_residue hw _ _
    · exact canon_unitFault hw _ _

theorem execResidueLimit_canonical (h : s.canon = true) (unit : Nat) : Out.Canonical (execResidueLimit unit s) :=
  Out.canonical_next (canon_ite (canon_unitFault h _ _) h)

theorem State.canon_unitSramUe (h : s.canon = true) (u : Nat) : (s.unitSramUe u).canon = true :=
  canon_ite (canon_unitFault (canon_raise (canon_bump (canon_with_rest h) _) _ _ _ _) _ _) h

theorem execCalert_canonical (h : s.canon = true) (n : Nat) (sramUe : List Nat) : Out.Canonical (execCalert n sramUe s) := by
    unfold execCalert
    refine Out.canonical_next (canon_ite ?_ h)
    extract_lets t us u
    have ht : t.canon = true := canon_overList (fun _ _ hw => canon_ite (canon_unitSramUe hw _) hw) _ h
    have hu : u.canon = true := canon_overList (fun _ _ hw => canon_readStat hw _) _ ht
    exact canon_ite ht (canon_bump (canon_overList (fun _ _ hw => canon_setUnit hw _ _) _ hu) _)

theorem State.canon_drain (h : s.canon = true) (u b : Nat) : (s.drain u b).canon = true := by
  unfold State.drain
  extract_lets x n
  split
  · exact h
  · extract_lets as t _ y mixed st u v
    have ht : t.canon = true := by
      refine canon_foldl (fun z a hz => ?_) _ h
      extract_lets bit p w
      have hw : w.canon = true := canon_ledgIn (canon_coreWrite hz _ _ _ _ _ _) _ _
      exact canon_ite (canon_ledgAlt hw _ _) (canon_ledgOut hw _ _)
    have hu : u.canon = true := canon_bump (canon_setUnit ht _ _) _
    have hv : v.canon = true := canon_ite (canon_bump hu _) hu
    exact canon_ite (canon_tileDone hv _ _ _ _ _) (canon_setUnit ht _ _)

theorem State.canon_scanTable (h : s.canon = true) (d : Nat) : (s.scanTable d).2.canon = true := by
  unfold State.scanTable
  refine canon_foldl_snd (fun _ t w ht => ?_) _ _ h
  split
  next v u e =>
  have hu := canon_of_eq (canon_homeRead ht _ _ _) e
  exact canon_ite_snd hu hu

theorem State.canon_fteSwap (h : s.canon = true) (d fr : Nat) (old new : Word) : (s.fteSwap d fr old new).2.canon = true := by
  unfold State.fteSwap
  refine canon_ite_snd (canon_homeWrite ?_ _ _ _ _) ?_
  · split
    · exact canon_lineRead h _ _ _ _
    · exact canon_fillWord h _ _ _ _ _
  · split
    · exact canon_lineRead h _ _ _ _
    · exact canon_fillWord h _ _ _ _ _

theorem State.canon_dropLines (h : s.canon = true) (f : Nat) : (s.dropLines f).canon = true :=
  canon_overList (fun _ _ ht => canon_setDie ht _ _) _ h

theorem State.canon_moverWord (h : s.canon = true) (u w : Nat) : (s.moverWord u w).2.canon = true := by
  unfold State.moverWord
  split
  · exact canon_noWord h
  · exact canon_ite_snd (canon_noWord h) (canon_combWord h _ _)

theorem State.canon_moveRow (h : s.canon = true) (u src dst r : Nat) : (s.moveRow u src dst r).canon = true :=
  canon_foldl (fun _ _ ht => canon_bind (canon_moverWord ht _ _) (fun _ _ hu => canon_with_dram hu (AMap.wf_set (canon_dram hu)))) _ h

theorem execEvacuation_canonical (h : s.canon = true) (unit : Nat) : Out.Canonical (execEvacuation unit s) := by
  unfold execEvacuation
  refine Out.canonical_next (canon_ite ?_ h)
  extract_lets n t
  have ht : t.canon = true := canon_setRing h _ _
  split
  next es u e => exact canon_evacNext (canon_of_eq (canon_scanTable ht _) e) _ _

theorem execFrameCopyDone_canonical (h : s.canon = true) (unit : Nat) (chainOk : Bool) :
    Out.Canonical (execFrameCopyDone unit chainOk s) := by
  unfold execFrameCopyDone
  refine Out.canonical_next ?_
  split
  · exact h
  · next e _ =>
    split
    · exact h
    · next fr w f _ =>
      refine canon_ite h ?_
      extract_lets src idle t u v
      have hidle : ∀ (t : State) e, t.canon = true → (idle t e).canon = true := fun _ _ ht => canon_setRing ht _ _
      have hu : u.canon = true := hidle _ _ (canon_dropLines (canon_foldl (fun _ _ hv => canon_moveRow hv _ _ _ _) _ h) _)
      refine canon_ite ?_ (canon_evacEnd (canon_releaseHeld (hidle _ _ h) _ _) _)
      split
      next ok v e => exact canon_evacNext (canon_releaseHeld (canon_of_eq (canon_fteSwap hu _ _ _ _) e) _ _) _ _

/-! ## Dram -/

theorem State.canon_paid (h : s.canon = true) (n i : Nat) : (s.paid n i).canon = true := canon_ledgOut (canon_setCtl h _ _) _ _
theorem State.canon_refreshBank (h : s.canon = true) (n bank : Nat) : (s.refreshBank n bank).canon = true := by
  unfold State.refreshBank
  extract_lets t u c rank seen
  have ht : t.canon = true := canon_logCmd (canon_bump h _) _ _ _
  have hu : u.canon = true := canon_ite (canon_bump ht _) ht
  exact canon_ite (canon_paid hu _ _) (canon_ite (canon_paid (canon_setCtl hu _ _) _ _) (canon_setCtl hu _ _))

theorem State.canon_discharge (h : s.canon = true) (n i : Nat) : (s.discharge n i).canon = true :=
  canon_foldl (fun _ _ ht => canon_foldl (fun _ _ hu => canon_refreshBank hu _ _) _ ht) _ h

theorem State.canon_strike (h : s.canon = true) (ws : List Nat) (ups : Upsets) : (s.strike ws ups).canon = true := by
  unfold State.strike
  refine canon_foldl (fun _ _ ht => ?_) _ h
  split
  · exact canon_with_dram ht (AMap.wf_set (canon_dram ht))
  · exact ht

theorem State.canon_rowDo (h : s.canon = true) (n : Nat) (c : RowCmd) (chk : CombCheck) (ups : Upsets) :
    (s.rowDo n c chk ups).canon = true := by
  unfold State.rowDo
  extract_lets k
  split
  · exact canon_refreshBank h _ _
  · extract_lets x
    split
    · exact canon_combRun (canon_logCmd (canon_strike (canon_setCtl h _ _) _ _) _ _ _) _ _ _ _
    · exact h
  · exact canon_openRowOf (canon_setCtl h _ _) _ _ _
  · exact canon_closeRow (canon_ite (canon_setCtl h _ _) h) _ _
  · exact canon_wakePart (canon_ite (canon_setCtl h _ _) h) _ _
  · exact canon_logCmd (canon_bump (canon_setCtl h _ _) _) _ _ _
  · exact canon_logCmd (canon_setCtl h _ _) _ _ _
  · exact canon_exitPart h _ _

theorem execRowCommandIssue_canonical (h : s.canon = true) (n blocked : Nat) (chk : CombCheck) (ups : Upsets) : Out.Canonical
    (execRowCommandIssue n blocked chk ups s) := by
  unfold execRowCommandIssue
  refine Out.canonical_next ?_
  split
  · exact canon_rowDo h _ _ _ _
  · exact h

theorem State.canon_atSelected (h : s.canon = true) (u : Nat) (f : CUnit → CUnit) : (s.atSelected u f).canon = true :=
  canon_overList (fun _ _ ht => canon_setUnit ht _ _) _ h

theorem State.canon_combCol (h : s.canon = true) (u : Nat) : (s.combCol u).canon = true := by
  unfold State.combCol
  extract_lets n x k sid mine
  split
  · extract_lets step
    have hstep : ∀ t : State, t.canon = true → (step t).canon = true := fun _ ht => canon_setUnit ht _ _
    split
    · exact canon_logCmd (hstep _ (canon_setCtl h _ _)) _ _ _
    · exact canon_ite (canon_logCmd (hstep _ (canon_atSelected h _ _)) _ _ _) (canon_logCmd (canon_setCtl h _ _) _ _ _)
    · exact canon_ite (canon_logCmd (hstep _ (canon_atSelected h _ _)) _ _ _) (canon_logCmd (canon_setCtl h _ _) _ _ _)
    · exact hstep _ (canon_readStat h _)
    · exact canon_logCmd (canon_drain h _ _) _ _ _
    · exact h
  · exact h

theorem State.canon_markMix (h : s.canon = true) (n : Nat) (r : Req) : (s.markMix n r).canon = true := by
  unfold State.markMix
  refine canon_ite ?_ h
  dsimp only
  split
  · exact canon_ite (canon_setUnit h _ _) h
  · exact h

theorem State.canon_wrote (h : s.canon = true) (n : Nat) (r : Req) : (s.wrote n r).canon = true :=
  canon_bump (canon_ite (canon_bump h _) h) _

theorem State.canon_commitWrite (h : s.canon = true) (n : Nat) (r : Req) : (s.commitWrite n r).canon = true :=
  canon_markMix (canon_wrote (canon_foldl (fun _ _ ht => canon_commitUpd ht _ _) _ h) _ _) _ _

theorem State.canon_serveCol (h : s.canon = true) (n : Nat) (r : Req) : (s.serveCol n r).canon = true :=
  canon_ite (canon_logCmd (canon_setCtl (canon_ite (canon_bump (canon_startWck (canon_setCtl h _ _) _ _) _) (canon_startWck (canon_setCtl h
    _ _) _ _)) _ _) _ _ _) (canon_ite (canon_setCtl (canon_column (canon_setCtl h _ _) _ _ _) _ _) (canon_commitWrite (canon_column
    (canon_setCtl h _ _) _ _ _) _ _))

theorem State.canon_mergeWrite (h : s.canon = true) (n : Nat) (r : Req) : (s.mergeWrite n r).canon = true :=
  canon_commitWrite (canon_column (canon_setCtl h _ _) _ _ _) _ _

theorem execColumnCommandIssue_canonical (h : s.canon = true) (n blocked : Nat) : Out.Canonical (execColumnCommandIssue n blocked s) := by
  unfold execColumnCommandIssue
  refine Out.canonical_next ?_
  split
  · exact canon_combCol h _
  · exact canon_serveCol h _ _
  · exact h

theorem State.canon_boundary (h : s.canon = true) (u : Nat) : (s.boundary u).canon = true := by
  unfold State.boundary
  extract_lets n b c d p post _ t ids k
  have ht : t.canon = true := canon_ite (canon_bump (canon_setUnit h _ _) _) (canon_ite (canon_bump (canon_setUnit h _ _) _) h)
  exact canon_ite ht (canon_bump (canon_setCtl ht _ _) _)

theorem State.canon_moverBoundary (h : s.canon = true) (u : Nat) : (s.moverBoundary u).canon = true := by
  unfold State.moverBoundary
  split
  · exact h
  · split
    · exact canon_ite (canon_boundary (canon_boundary (canon_setRing (canon_moveRow h _ _ _ _) _ _) _) _) h
    · exact h

theorem execRunBoundary_canonical (h : s.canon = true) (unit : Nat) : Out.Canonical (execRunBoundary unit s) :=
  Out.canonical_next (canon_ite (canon_ite (canon_boundary (canon_setUnit h _ _) _) (canon_setUnit h _ _)) (canon_ite (canon_moverBoundary
    h _) h))

theorem execRefreshDue_canonical (h : s.canon = true) (n i : Nat) : Out.Canonical (execRefreshDue n i s) :=
  Out.canonical_next (canon_ite (canon_ledgIn (canon_setCtl h _ _) _ _) h)

theorem execPowerDownTimer_canonical (h : s.canon = true) (n part : Nat) : Out.Canonical (execPowerDownTimer n part s) :=
  Out.canonical_next (canon_ite (canon_setCtl h _ _) h)

theorem State.canon_fillFrom (h : s.canon = true) (n : Nat) (r : Req) (vs : List (Word × Bool)) : (s.fillFrom n r vs).canon = true := by
  unfold State.fillFrom
  dsimp only
  split
  · exact h
  · exact canon_storeLine h _ _ _

theorem State.canon_readWords (h : s.canon = true) (n : Nat) (r : Req) : (s.readWords n r).2.canon = true := by
  unfold State.readWords
  split
  · exact h
  · refine canon_foldl_snd (fun _ _ _ ht => ?_) _ _ h
    exact canon_dramEcc ht _ _ _ _ _

theorem State.canon_answerHost (h : s.canon = true) (half : Nat) (r : Req) (vs : List (Word × Bool)) : (s.answerHost half r vs).canon =
  true :=
  canon_hostData h _ _ _

theorem State.canon_scrubWord (h : s.canon = true) (n : Nat) (pl : Place) (w : Nat) : (s.scrubWord n pl w).2.canon = true := by
  unfold State.scrubWord
  dsimp only
  split
  · exact h
  · exact canon_setReg (canon_setReg (canon_bump h _) _ _) _ _
  · exact canon_raise (canon_setCtl (canon_ite (canon_setReg (canon_bump h _) _ _) (canon_bump h _)) _ _) _ _ _ _

theorem State.canon_scrubDone (h : s.canon = true) (n : Nat) (r : Req) : (s.scrubDone n r).canon = true := by
  unfold State.scrubDone
  split
  · exact h
  · extract_lets go t
    have hgo : go.2.canon = true := by
      refine canon_foldl_snd (fun _ _ _ hu => ?_) _ _ h
      split
      next e => exact canon_of_eq (canon_scrubWord hu _ _ _) e
    have ht : t.canon = true := canon_bump hgo _
    split
    · exact ht
    · exact canon_ctlSubmit ht _ _

theorem execDramAccessComplete_canonical (h : s.canon = true) (n : Nat) (ups : Upsets) : Out.Canonical (execDramAccessComplete n ups s) :=
    by
  unfold execDramAccessComplete
  refine Out.canonical_next ?_
  extract_lets c
  split
  · exact h
  · next r rest _ =>
    refine canon_ite ?_ h
    extract_lets t u v
    have hu : u.canon = true := canon_setCtl (canon_strike h _ _) _ _
    have hv : v.canon = true := canon_bump hu _
    refine canon_ite (canon_mergeWrite hu _ _) ?_
    split
    · exact canon_scrubDone hv _ _
    · split
      next vs w e =>
      have hw := canon_of_eq (canon_readWords hv _ _) e
      exact canon_ite (canon_setCtl hw _ _) (canon_answerHost (canon_fillFrom hw _ _ _) _ _ _)
    · exact canon_readWords hv _ _

theorem execMemoryRequest_canonical (h : s.canon = true) (n : Nat) : Out.Canonical (execMemoryRequest n s) := by
  unfold execMemoryRequest
  refine Out.canonical_next ?_
  extract_lets held free first
  split
  · exact h
  · next r _ =>
    have hx := canon_ctlOffer (canon_with_homeOut h (m := AMap.set [] s.homeOut n (held.erase r)) (AMap.wf_set (canon_homeOut h))) n r
    split
    · next u e =>
      have hu := canon_of_eq hx e
      exact canon_ite hu (canon_writeTaken hu _ _)
    · next vs u e =>
      have hu := canon_of_eq hx e
      split
      · exact canon_answerHost hu _ _ _
      · exact hu
    · next u e =>
      have hu := canon_of_eq hx e
      refine canon_ite ?_ (canon_writeTaken hu _ _)
      split
      · exact canon_hostPoison hu _
      · exact hu
    · next u e =>
      have hu := canon_of_eq hx e
      exact canon_with_homeOut hu (AMap.wf_set (canon_homeOut hu))

theorem execPatrolScrub_canonical (h : s.canon = true) (n : Nat) : Out.Canonical (execPatrolScrub n s) := by
  unfold execPatrolScrub
  refine Out.canonical_next (canon_ite ?_ h)
  extract_lets la nx r
  have hx := canon_ctlOffer h n r
  split
  · next u e => exact canon_of_eq hx e
  · next vs u e => exact canon_bump (canon_setCtl (canon_of_eq hx e) _ _) _
  · next v u _ _ e => exact canon_setCtl (canon_of_eq hx e) _ _

theorem execCaperr_canonical (h : s.canon = true) (n : Nat) : Out.Canonical (execCaperr n s) :=
  Out.canonical_next (canon_ite (canon_freeze h _ _ _ _ _ _) h)

theorem State.canon_resetGroup (h : s.canon = true) (n : Nat) : (s.resetGroup n).canon = true := by
  unfold State.resetGroup
  refine canon_foldl (fun _ _ ht => canon_tileDone ht _ _ _ _ _) _ (canon_closeUnlock (canon_revertExp (canon_overList (fun _ _ ht => ?_) _
    (canon_setCtl (canon_overList (fun _ _ ht => canon_setUnit ht _ _) _ h) _ _)) _) _)
  split
  · exact canon_setRing ht _ _
  · exact ht

theorem State.canon_delayReset (h : s.canon = true) (n : Nat) : (s.delayReset n).canon = true :=
  canon_revertExp (canon_foldl (fun _ _ ht => canon_setReg ht _ _) _ h) _

theorem State.canon_releaseQueue (h : s.canon = true) (n : Nat) : (s.releaseQueue n).canon = true := by
  unfold State.releaseQueue
  refine canon_foldl (fun _ _ ht => canon_ite ?_ ?_) _ (canon_setCtl h _ _)
  · dsimp only
    split
    · exact canon_with_rest (canon_lateStatus (canon_wrote (canon_foldl (fun _ _ hu => canon_commitUpd hu _ _) _ ht) _ _) _ _)
    · exact canon_lateStatus (canon_wrote (canon_foldl (fun _ _ hu => canon_commitUpd hu _ _) _ ht) _ _) _ _
  · split
    · exact canon_hostPoison ht _
    · exact ht

theorem State.canon_resetCtl (h : s.canon = true) (n : Nat) (ok : Bool) : (s.resetCtl n ok).canon = true := by
  unfold State.resetCtl
  extract_lets t u v w x y
  have ht : t.canon = true := canon_ite (canon_resetGroup h _) h
  have hu : u.canon = true := canon_lpgRun (canon_modeRegs (canon_delayReset (canon_closeUnlock ht _) _) _) _ _
  have hv : v.canon = true := canon_foldl (fun _ _ hz => canon_discharge hz _ _) _ hu
  have hy : y.canon = true := canon_setCtl (canon_releaseQueue hv _) _ _
  exact canon_ite hy (canon_fault hy _ _ _)

theorem State.canon_evict (h : s.canon = true) (d la : Nat) : (s.evict d la).canon = true := canon_putLine (canon_writeBack h _ _) _ _ _
theorem State.canon_strikeLine (h : s.canon = true) (d la : Nat) (ups : Upsets) : (s.strikeLine d la ups).canon = true := by
  unfold State.strikeLine
  split
  · exact h
  · exact canon_putLine h _ _ _

theorem execHomeAccess_canonical (h : s.canon = true) (d : Nat) (env : HomeEnv) : Out.Canonical (execHomeAccess d env s) := by
  unfold execHomeAccess
  refine Out.canonical_next ?_
  extract_lets b
  split
  · exact h
  · extract_lets la t u v w
    have ht : t.canon = true := canon_setDie h _ _
    have hu : u.canon = true := by
      unfold u
      split
      · exact canon_ite ht (canon_evict ht _ _)
      · exact ht
    have hv : v.canon = true := canon_strikeLine hu _ _ _
    have hw : w.canon = true := by
      unfold w
      split
      · exact canon_ite (canon_fillLine hv _ _ _ _ _) hv
      · exact hv
    split
    exact canon_ledgOut (canon_setCore hw _ _) _ _

theorem State.canon_setStale (h : s.canon = true) (d fr : Nat) : (s.setStale d fr).2.canon = true := by
  unfold State.setStale
  split
  next v t e =>
  have ht := canon_of_eq (canon_homeRead h _ _ _) e
  refine canon_ite_snd ht ?_
  split
  next ok u e =>
  have hu := canon_of_eq (canon_fteSwap ht _ _ _ _) e
  exact canon_ite (canon_raise (canon_overList (fun _ _ hv => canon_setDie hv _ _) _ hu) _ _ _ _) hu

theorem State.canon_dupNext (h : s.canon = true) (d : Nat) : (s.dupNext d).canon = true := by
  unfold State.dupNext
  extract_lets b
  split
  · exact h
  · next x rest _ =>
    extract_lets t
    have ht : t.canon = true := canon_setDie h _ _
    split
    next ok u e =>
    have hu : u.canon = true := by
      refine canon_of_eq ?_ e
      refine canon_ite_snd ht ?_
      split
      next e => exact canon_of_eq (canon_homeWrite ht _ _ _ _) e
    exact canon_ite hu (canon_bump (canon_setStale hu _ _) _)

theorem execMirrorDuplicate_canonical (h : s.canon = true) (d : Nat) : Out.Canonical (execMirrorDuplicate d s) :=
  Out.canonical_next (canon_ite h (canon_dupNext h _))

/-! ## Housekeeping -/

theorem State.canon_smokerApply (h : s.canon = true) : s.smokerApply.canon = true := canon_with_rest h
theorem State.canon_smokerDown (h : s.canon = true) : s.smokerDown.canon = true := canon_ite (canon_with_rest h) h
theorem State.canon_firstUseDone (h : s.canon = true) : s.firstUseDone.canon = true := canon_ite (canon_smokerApply (canon_with_rest h)) h
theorem State.canon_smokerEvent (h : s.canon = true) : s.smokerEvent.canon = true :=
  canon_ite (canon_raise (canon_with_rest (canon_with_rest h)) _ _ _ _) (canon_with_rest h)

theorem State.canon_smokerRound (h : s.canon = true) : s.smokerRound.canon = true := by
  unfold State.smokerRound
  extract_lets v
  split
  next p t e =>
  have ht : t.canon = true := by
    refine canon_of_eq ?_ e
    exact canon_ite_snd (canon_with_rest h) h
  extract_lets n f _ u _ w
  have hu : u.canon = true := canon_with_rest ht
  have hw : w.canon = true :=
    canon_ite (canon_with_rest hu) (canon_ite (canon_with_rest hu) (canon_ite (canon_with_rest hu) (canon_smokerApply hu)))
  exact canon_ite hu (canon_smokerEvent hw)

theorem execSmokerStepDown_canonical (h : s.canon = true) : Out.Canonical (execSmokerStepDown s) := Out.canonical_next (canon_smokerDown h)
theorem execFirstUseEnd_canonical (h : s.canon = true) : Out.Canonical (execFirstUseEnd s) := Out.canonical_next (canon_firstUseDone h)
theorem State.canon_stackTemp (h : s.canon = true) (k : Nat) : (s.stackTemp k).2.canon = true := by
  unfold State.stackTemp
  dsimp only
  split
  · exact canon_with_rest h
  · exact h
  · exact h

theorem State.canon_stackRound (h : s.canon = true) (k : Nat) : (s.stackRound k).canon = true := by
  unfold State.stackRound
  refine canon_setStack ?_ _ _
  split
  · exact canon_with_rest h
  · exact h
  · exact h

theorem State.canon_multDown (h : s.canon = true) (k : Nat) : (s.multDown k).canon = true := canon_ite (canon_setStack h _ _) h
theorem execMultiplierStepDown_canonical (h : s.canon = true) (stack : Nat) : Out.Canonical (execMultiplierStepDown stack s) :=
  Out.canonical_next (canon_multDown h _)

theorem State.canon_failSlot (h : s.canon = true) (k : Nat) : (s.failSlot k).canon = true :=
  canon_ite (canon_ite (canon_with_rest (canon_ite (canon_raise (canon_with_rest h) _ _ _ _) (canon_with_rest h))) (canon_ite (canon_raise
    (canon_with_rest h) _ _ _ _) (canon_with_rest h))) h

theorem execSlotFailed_canonical (h : s.canon = true) (slot : Nat) : Out.Canonical (execSlotFailed slot s) :=
  Out.canonical_next (canon_failSlot h _)

theorem State.canon_thermalShutdown (h : s.canon = true) : s.thermalShutdown.canon = true := by
  unfold State.thermalShutdown
  split
  · exact h
  · exact canon_with_rest (canon_removeRails (canon_fatal h _ _ _))

theorem execThermalShutdown_canonical (h : s.canon = true) : Out.Canonical (execThermalShutdown s) :=
  Out.canonical_next (canon_thermalShutdown h)

theorem execThermalRestart_canonical (h : s.canon = true) : Out.Canonical (execThermalRestart s) :=
  Out.canonical_next (canon_ite (canon_ite (canon_startUp (canon_with_rest h)) (canon_with_rest h)) h)

theorem State.canon_tempRound (h : s.canon = true) : s.tempRound.canon = true :=
  canon_with_hk h (canon_hk_sensors h) (AMap.wf_foldl (fun _ _ hm => AMap.wf_set hm) _ (canon_hk_invalidRun h))

theorem State.canon_hiTempRound (h : s.canon = true) : s.hiTempRound.canon = true := by
  unfold State.hiTempRound
  refine canon_ite ?_ (canon_ite (canon_with_rest h) h)
  split
  · exact canon_ite (canon_raise (canon_with_rest h) _ _ _ _) h
  · exact h

theorem State.canon_mr4Round (h : s.canon = true) : s.mr4Round.canon = true :=
  canon_overList (fun _ _ ht => canon_ite (canon_ite (canon_foldl (fun _ _ hu => canon_logCmd hu _ _ _) _ ht) ht) (canon_setCtl (canon_ite
    (canon_foldl (fun _ _ hu => canon_logCmd hu _ _ _) _ ht) ht) _ _)) _ h

theorem State.canon_overdue (h : s.canon = true) : s.overdue.canon = true := by
  unfold State.overdue
  extract_lets t u
  have hu : u.canon = true := canon_firstUseDone (canon_smokerDown (canon_overList (fun _ _ hv => canon_failSlot hv _) _ h))
  exact canon_thermalShutdown (canon_overList (fun _ _ hv => canon_multDown hv _) _ hu)

theorem execHousekeepingRound_canonical (h : s.canon = true) (readings : List (Nat × Nat)) : Out.Canonical (execHousekeepingRound readings
    s) := by
  unfold execHousekeepingRound
  refine Out.canonical_next (canon_ite ?_ h)
  extract_lets t n vs sensors _ u v w
  have ho : t.canon = true := canon_overdue h
  clear_value t
  have hm : AMap.wf 0x80000000 sensors = true :=
    AMap.wf_foldl (fun _ _ hm => AMap.wf_ite hm (AMap.wf_set hm)) _ (canon_hk_sensors ho)
  have hu : u.canon = true := by
    refine canon_hiTempRound (canon_tempRound ?_)
    exact canon_with_hk ho hm (canon_hk_invalidRun ho)
  have hw : w.canon = true := canon_overList (fun _ _ hz => canon_stackRound hz _) _ (canon_smokerRound (canon_mr4Round hu))
  exact canon_ite (canon_overList (fun _ _ hz => canon_setPort hz _ _) _ hw) hu

/-! ## Boot -/

theorem execStrapSample_canonical (h : s.canon = true) (mhold bscan : Bool) : Out.Canonical (execStrapSample mhold bscan s) :=
  Out.canonical_next (canon_ite (canon_ite (canon_with_rest (canon_with_rest h)) (canon_ite (canon_with_rest (canon_with_rest h))
    (canon_hold (canon_with_rest h) _))) h)

theorem execSlotHeadersRead_canonical (h : s.canon = true) (jedec sfdp : Nat) (quad : QuadForm) : Out.Canonical (execSlotHeadersRead jedec
    sfdp quad s) := by
  unfold execSlotHeadersRead
  refine Out.canonical_next (canon_ite (canon_ite (canon_hold h _) (canon_ite (canon_hold h _) ?_)) h)
  extract_lets _ b t
  have hb : b.imgBuf = s.boot.imgBuf := (Boot.failSlot_imgBuf ..).trans (Boot.failSlot_imgBuf ..)
  have ht : t.canon = true := canon_with_rest h hb
  exact canon_ite (canon_hold ht _) ht

theorem AMap.wf_imageWords (m : AMap Byte) (base n : Nat) : AMap.wf zeroCw (imageWords m base n) = true := by
  rw [imageWords_eq_tabulate]
  exact AMap.wf_tabulate _ _

theorem execImageRead_canonical (h : s.canon = true) : Out.Canonical (execImageRead s) := by
  unfold execImageRead
  refine Out.canonical_next ?_
  split
  · exact h
  · exact canon_ite (canon_with_boot h (AMap.wf_imageWords _ _ _)) h

theorem execImageVerify_canonical (h : s.canon = true) : Out.Canonical (execImageVerify s) := by
  unfold execImageVerify
  refine Out.canonical_next ?_
  split
  · exact h
  · next k rest _ =>
    refine canon_ite ?_ h
    extract_lets cause _ _ b t
    have hb : b.imgBuf = s.boot.imgBuf := Boot.failSlot_imgBuf _ _ _
    have ht : t.canon = true := canon_with_rest h hb
    split
    · exact canon_with_rest h
    · exact canon_ite (canon_hold ht _) (canon_with_rest ht)

theorem execRailSequence_canonical (h : s.canon = true) (ok : Bool) : Out.Canonical (execRailSequence ok s) :=
  Out.canonical_next (canon_ite (canon_ite (canon_with_rest h) (canon_hold h _)) h)

theorem State.canon_noteFence (h : s.canon = true) (fid st dpa : Nat) : (s.noteFence fid st dpa).canon = true := canon_onBoot h rfl
theorem State.canon_fenceStart (h : s.canon = true) (fid st dpa : Nat) : (s.fenceStart fid st dpa).canon = true :=
  canon_ite h (canon_bump (canon_noteFence (canon_onFlt h _) _ _ _) _)

theorem State.canon_fenceUnit (h : s.canon = true) (u cause st : Nat) : (s.fenceUnit u cause st).canon = true :=
  canon_ite h (canon_noteFence (canon_setUnit h _ _) _ _ _)

theorem State.canon_takeUnit (h : s.canon = true) (u : Nat) : (s.takeUnit u).canon = true := canon_ite h (canon_setUnit h _ _)
theorem State.canon_channelFailed (h : s.canon = true) (n st : Nat) : (s.channelFailed n st).canon = true :=
  canon_ite (canon_overList (fun _ _ ht => canon_takeUnit ht _) _ (canon_fenceStart (canon_fenceStart (canon_setCtl h _ _) _ _ _) _ _ _))
    (canon_fenceStart (canon_setCtl h _ _) _ _ _)

theorem State.canon_baseFailed (h : s.canon = true) (d st : Nat) : (s.baseFailed d st).canon = true :=
  canon_fenceStart (canon_fenceStart (canon_overList (fun _ _ ht => canon_channelFailed ht _ _) _ (canon_overList (fun _ _ ht =>
    canon_channelFailed ht _ _) _ (canon_fenceStart (canon_fenceStart h _ _ _) _ _ _))) _ _ _) _ _ _

theorem State.canon_startLosses (h : s.canon = true) (st : Nat) : (s.startLosses st).canon = true :=
  canon_overList (fun _ _ ht => canon_ite (canon_baseFailed ht _ _) ht) _ h

theorem State.canon_clusterFailed (h : s.canon = true) (k st : Nat) : (s.clusterFailed k st).canon = true :=
  canon_overList (fun _ _ ht => canon_fenceStart ht _ _ _) _ (canon_fenceStart h _ _ _)

theorem State.canon_coreFailed (h : s.canon = true) (g st : Nat) : (s.coreFailed g st).canon = true :=
  canon_ite (canon_clusterFailed h _ _) (canon_fenceStart h _ _ _)

theorem State.canon_sramFailed (h : s.canon = true) (fid : Nat) : (s.sramFailed fid).canon = true := by
  unfold State.sramFailed
  split
  · exact canon_coreFailed h _ _
  · exact canon_clusterFailed h _ _
  · exact canon_fenceStart h _ _ _
  · exact canon_fenceStart h _ _ _
  · exact canon_baseFailed h _ _
  · exact h

theorem State.canon_sramCorrected (h : s.canon = true) (fid n : Nat) : (s.sramCorrected fid n).canon = true := by
  unfold State.sramCorrected
  split
  · exact canon_bumpN h _ _
  · exact canon_bumpN h _ _
  · exact canon_bumpN h _ _
  · exact h

theorem State.canon_linkFailed (h : s.canon = true) (st : Nat) (l : LinkId) : (s.linkFailed st l).canon = true := by
  unfold State.linkFailed
  split
  · exact canon_ite (canon_channelFailed h _ _) h
  · exact canon_ite (canon_channelFailed h _ _) h
  · exact canon_ite (canon_fenceStart (canon_setLink h _ _) _ _ _) h
  · exact canon_ite (canon_fenceStart h _ _ _) h
  · exact canon_ite (canon_ite (canon_fenceStart (canon_setPort (canon_setPort h _ _) _ _) _ _ _) (canon_setPort h _ _)) h

theorem execLinkBringup_canonical (h : s.canon = true) (failed : List LinkId) : Out.Canonical (execLinkBringup failed s) := by
  unfold execLinkBringup
  refine Out.canonical_next (canon_ite ?_ h)
  extract_lets t u v _
  have ht : t.canon = true := canon_overList (fun _ _ hw => canon_setPort hw _ _) _ h
  have hu : u.canon = true := by
    refine canon_startLosses ?_ _
    exact canon_foldl (fun _ _ hw => canon_linkFailed hw _ _) _ ht
  have hv : v.canon = true := canon_overList (fun _ _ hw => canon_modeRegs hw _) _ hu
  clear_value v
  exact canon_with_rest hv

theorem State.canon_journal (h : s.canon = true) (kind epoch leaf : Nat) (r : PageEnd) : (s.journal kind epoch leaf r).canon = true := by
  unfold State.journal
  extract_lets t a page u v w pos
  have ht : t.canon = true := canon_norWait h
  have hu : u.canon = true := canon_ite (canon_norApply ht _) (canon_norPartial ht _)
  have hv : v.canon = true := canon_onNor hu rfl rfl
  have hw : w.canon = true := canon_ite (canon_fatal hv _ _ _) hv
  exact canon_eraseAhead (canon_with_rest hw) _ _

theorem State.canon_newEpoch (h : s.canon = true) (why : Nat) : (s.newEpoch why).canon = true := canon_raise (canon_with_rest h) _ _ _ _
theorem State.canon_setLedg6 (h : s.canon = true) (j v : Nat) : (s.setLedg6 j v).canon = true :=
  canon_with_ledg h (AMap.wf_set (canon_ledg h))

theorem State.canon_journalRecover (h : s.canon = true) (openEnd : PageEnd) : (s.journalRecover openEnd).canon = true := by
  unfold State.journalRecover
  extract_lets m e found _
  split
  extract_lets kind clean t la u _ v
  have hu : u.canon = true := canon_setLedg6 (canon_setLedg6 (canon_setLedg6 (canon_setLedg6 (canon_with_rest h) _ _) _ _) _ _) _ _
  have hv : v.canon = true := canon_ite (canon_with_rest hu) (canon_ite (canon_newEpoch hu _) (canon_with_rest hu))
  exact canon_onSec (canon_journal hv _ _ _ _) _

theorem execCappingFill_canonical (h : s.canon = true) (o : FillOutcome) : Out.Canonical (execCappingFill o s) := by
  unfold execCappingFill
  refine Out.canonical_next (canon_ite ?_ h)
  extract_lets _ _ t1 t2 t3 t4 t5 t6 t7
  have h1 : t1.canon = true := canon_with_rest (canon_wiped h _)
  have h2 : t2.canon = true := canon_foldl (fun _ _ hu => canon_foldl (fun _ _ hv => canon_discharge hv _ _) _ hu) _ h1
  have h3 : t3.canon = true := canon_with_ledg h2 (AMap.wf_filter (canon_ledg h2))
  have h4 : t4.canon = true := canon_foldl (fun _ _ hu => canon_sramCorrected hu _ _) _ h3
  have h5 : t5.canon = true := canon_foldl (fun _ _ hu => canon_sramFailed hu _) _ h4
  have h6 : t6.canon = true := canon_foldl (fun _ _ hu => canon_ite (canon_fenceUnit hu _ _ _) hu) _ h5
  have h7 : t7.canon = true := canon_journalRecover (canon_fatalLoad (canon_fatalScan h6)) _
  exact canon_with_rest h7

theorem State.canon_lpgStart (h : s.canon = true) (failed : List LinkId) : (s.lpgStart failed).canon = true := by
  unfold State.lpgStart
  extract_lets t u v w
  have ht : t.canon = true := canon_overList (fun _ _ hz => canon_lpgResult hz _ _ _) _ h
  have hu : u.canon = true := canon_overList (fun _ _ hz => canon_lpgResult hz _ _ _) _ ht
  have hv : v.canon = true := canon_overList (fun _ _ hz => canon_lpgResult hz _ _ _) _ hu
  have hw : w.canon = true := canon_overList (fun _ _ hz => canon_lpgResult hz _ _ _) _ hv
  exact canon_overList (fun _ _ hz => canon_ite hz (canon_lpgResult hz _ _ _)) _ hw

theorem execSelfTest_canonical (h : s.canon = true) (o : TestOutcome) : Out.Canonical (execSelfTest o s) := by
  unfold execSelfTest
  refine Out.canonical_next (canon_ite ?_ h)
  extract_lets takes bad t u gs v
  have ht : t.canon = true := canon_foldl (fun _ _ hw => canon_fenceUnit hw _ _ _) _ h
  have hu : u.canon = true := by
    refine canon_lpgStart (canon_startLosses ?_ _) _
    exact canon_foldl (fun _ _ hw => canon_linkFailed hw _ _) _ ht
  have hv : v.canon = true := canon_applyLive (canon_onProg hu _)
  clear_value v
  exact canon_ite (canon_with_rest hv) (canon_hold hv _)

theorem execS7Entry_canonical (h : s.canon = true) : Out.Canonical (execS7Entry s) := by
  unfold execS7Entry
  refine Out.canonical_next (canon_ite ?_ h)
  split
  next us t e =>
  have ht := canon_of_eq (canon_freshTime h _) e
  extract_lets _ _ u v _ w _
  have hu : u.canon = true := canon_with_stk (s := { t with boot := _, hk := _ }) (canon_with_rest ht) rfl
  have hv : v.canon = true := canon_foldl (fun _ _ hz => canon_raise hz _ _ _ _) _ hu
  have hw : w.canon = true := canon_with_rest hv
  exact canon_ite (canon_raise (canon_with_rest hw) _ _ _ _) hw

/-! ## Descriptors -/

theorem State.canon_dset (h : s.canon = true) (c : Ctx) (hd fld v : Nat) : (s.dset c hd fld v).canon = true := by
    unfold State.dset
    split
    extract_lets t m u k mark mark' v
    have hu : u.canon = true := canon_coreWrite (canon_setCore h _ _) _ _ _ _ _ _
    have hv : v.canon = true := canon_setCore hu _ _
    exact canon_ite hu (canon_ite (canon_overList (fun _ _ hw => canon_coreWrite hw _ _ _ _ _ _) _ hv) (canon_setCore hu _ _))

theorem opDset_canonical (c : Ctx) : M.Keeps Canonical (opDset c) :=
  M.keeps_bind (M.keeps_modify (fun _ ht => canon_dset ht _ _ _ _)) (fun _ => M.keeps_pure _)

theorem opDload_canonical (c : Ctx) : M.Keeps Canonical (opDload c) := by
  unfold opDload
  refine M.keeps_bind M.keeps_get fun t => M.keeps_guard fun _ => ?_
  refine M.keeps_bind (M.keeps_forIn (fun _ _ => M.keeps_bind (readWord_canonical _ _ _) fun _ => M.keeps_pure _) _ _) fun vs => ?_
  refine M.keeps_bind (M.keeps_modify fun t ht => ?_) fun _ => M.keeps_pure _
  exact canon_setCore (canon_overList (fun _ _ hu => canon_coreWrite hu _ _ _ _ _ _) _ (canon_setCore ht _ _)) _ _

theorem opDstore_canonical (c : Ctx) : M.Keeps Canonical (opDstore c) := by
  unfold opDstore
  refine M.keeps_bind M.keeps_get fun t => M.keeps_guard fun _ => ?_
  refine M.keeps_bind M.keeps_get fun u => M.keeps_bind (readDescWords_canonical _ _) fun vs => ?_
  exact M.keeps_bind (writeWords_canonical _ _ _) fun st => M.keeps_pure _

theorem opDadv_canonical (c : Ctx) : M.Keeps Canonical (opDadv c) := by
  unfold opDadv
  refine M.keeps_bind M.keeps_get fun _ => M.keeps_ite (M.keeps_pure _) (M.keeps_bind (readDesc_canonical c _) fun d => ?_)
  extract_lets jp
  have hjp : ∀ n, M.Keeps Canonical (jp n) := fun n =>
    M.keeps_bind (M.keeps_modify fun _ ht => canon_coreWrite (canon_setCore ht _ _) _ _ _ _ _ _) fun _ => M.keeps_pure _
  exact M.keeps_ite (M.keeps_bind (M.keeps_pure _) hjp) (M.keeps_bind M.keeps_get fun _ => M.keeps_bind (M.keeps_pure _) hjp)

theorem execDset_canonical (h : s.canon = true) (core : Nat) (eng : Eng) : Out.Canonical (execDset core eng s) :=
  Out.canonical_next (canon_runEngine h _ _ _ _ (fun _ => opDset_canonical _))

theorem execDload_canonical (h : s.canon = true) (core : Nat) (eng : Eng) : Out.Canonical (execDload core eng s) :=
  Out.canonical_next (canon_runEngine h _ _ _ _ (fun _ => opDload_canonical _))

theorem execDstore_canonical (h : s.canon = true) (core : Nat) (eng : Eng) : Out.Canonical (execDstore core eng s) :=
  Out.canonical_next (canon_runEngine h _ _ _ _ (fun _ => opDstore_canonical _))

theorem execDadv_canonical (h : s.canon = true) (core : Nat) (eng : Eng) : Out.Canonical (execDadv core eng s) :=
  Out.canonical_next (canon_runEngine h _ _ _ _ (fun _ => opDadv_canonical _))

theorem execFteRead_canonical (h : s.canon = true) (d frame : Nat) : Out.Canonical (execFteRead d frame s) := by
  unfold execFteRead
  refine Out.canonical_next ?_
  split
  · exact h
  · exact canon_translate h _ _

/-! ## HostMem -/

theorem State.canon_hostRead (h : s.canon = true) (dpa : Nat) : (s.hostRead dpa).canon = true := by
  unfold State.hostRead
  extract_lets d la half go r
  have hgo : go.2.canon = true := by
    refine canon_foldl_snd (fun _ _ _ ht => ?_) _ _ h
    split
    next e => exact canon_of_eq (canon_lineRead ht _ _ _ _) e
  split
  · exact canon_hostData hgo _ _ _
  · split
    · exact h
    · split
      · next vs t e => exact canon_answerHost (canon_of_eq (canon_ctlSubmit h _ _) e) _ _ _
      · next t e => exact canon_hostPoison (canon_of_eq (canon_ctlSubmit h _ _) e) _
      · next v t _ _ e => exact canon_of_eq (canon_ctlSubmit h _ _) e

theorem State.canon_hostWrite (h : s.canon = true) (dpa : Nat) (ws : List WUpd) : (s.hostWrite dpa ws).canon = true := by
  unfold State.hostWrite
  refine canon_ite (canon_tell h _) ?_
  split
  · exact canon_with_rest h
  · split
    next ok t e =>
    have ht := canon_of_eq (canon_homeWrite h _ _ _ _) e
    exact canon_ite ht (canon_tell (canon_ite ht (canon_hostDropped ht _)) _)

theorem State.canon_holdHome (h : s.canon = true) (hd : HomeHeld) : (s.holdHome hd).canon = true := canon_onFlt h _
theorem State.canon_hostDo (h : s.canon = true) (x : HomeHeld) : (s.hostDo x).canon = true := by
  unfold State.hostDo
  split
  · exact canon_hostRead h _
  · exact canon_hostWrite h _ _
  · exact h

theorem State.canon_hostMem (h : s.canon = true) (hd : HomeHeld) (dpa : Nat) : (s.hostMem hd dpa).canon = true :=
  canon_ite (canon_holdHome h _) (canon_hostDo h _)

/-! ## Links -/

theorem State.canon_xferFlag (h : s.canon = true) (g qid st : Nat) : (s.xferFlag g qid st).canon = true := by
  unfold State.xferFlag
  split
  · exact canon_setEntry h _ _ _
  · exact h

theorem State.canon_placeWord (h : s.canon = true) (g : Nat) (x : Xfer) (rt : Option Nat) (k : Nat) (v : Word) (p : Bool) : (s.placeWord g
    x rt k v p).canon = true := by
  unfold State.placeWord
  extract_lets per puts
  split
  · next st t e => exact canon_xferFlag (writeElems_canonical _ _ _ _ _ _ _ e h) _ _ _
  · next cause t e => exact canon_beginHalt (writeElems_canonical _ _ _ _ _ _ _ e h) _ _ _ _

theorem State.canon_sendXfer (h : s.canon = true) (g slot : Nat) (x : Xfer) : (s.sendXfer g slot x).canon = true :=
  canon_foldl (fun _ _ ht => canon_getD ht fun _ e => canon_sendTo ht e) _ (canon_getD h fun _ e => canon_sendTo h e)

theorem State.canon_startXfers (h : s.canon = true) (g : Nat) : (s.startXfers g).canon = true :=
  canon_foldl (fun _ _ ht => canon_sendXfer (canon_setCore ht _ _) _ _ _) _ h

theorem State.canon_endXfer (h : s.canon = true) (g slot st : Nat) : (s.endXfer g slot st).canon = true := by
  unfold State.endXfer
  refine canon_startXfers (canon_ite (canon_xferFlag (canon_setCore h _ _) _ _ _) ?_) _
  split
  · exact canon_setEntry (canon_xferFlag (canon_setCore h _ _) _ _ _) _ _ _
  · exact canon_xferFlag (canon_setCore h _ _) _ _ _

theorem State.canon_absentXfer (h : s.canon = true) (g slot : Nat) : (s.absentXfer g slot).canon = true :=
  canon_ite (canon_endXfer (canon_foldl (fun _ _ ht => canon_placeWord (canon_with_rest ht) _ _ _ _ _ _) _ h) _ _ _) h

theorem State.canon_depart (h : s.canon = true) (p hd : Nat) : (s.depart p hd).canon = true :=
  canon_foldl (fun _ _ ht => canon_foldl (fun _ _ hu => canon_absentXfer hu _ _) _ ht) _ (canon_raise (canon_setPeer h _ _) _ _ _ _)

theorem State.canon_dropRoutes (h : s.canon = true) (p : Nat) (q : Nat → Bool) : (s.dropRoutes p q).canon = true :=
  canon_foldl (fun _ _ ht => canon_ite (canon_ite (canon_depart ht _ _) (canon_setPeer ht _ _)) ht) _ h

theorem State.canon_addRoute (h : s.canon = true) (p serial hd : Nat) : (s.addRoute p serial hd).canon = true := by
  unfold State.addRoute
  refine canon_ite h ?_
  split
  · exact canon_setPeer h _ _
  · dsimp only
    split
    · exact canon_raise (canon_setPeer h _ _) _ _ _ _
    · exact canon_ite (canon_bump h _) (canon_raise (canon_with_rest (canon_bump h _)) _ _ _ _)

theorem State.canon_portMove (h : s.canon = true) (p : Nat) (st : PortState) : (s.portMove p st).canon = true :=
  canon_ite (canon_setPort h _ _) (canon_portEvent (canon_setPort h _ _) _)

theorem State.canon_portDown (h : s.canon = true) (p : Nat) (st : PortState) : (s.portDown p st).canon = true :=
  canon_foldl (fun _ _ ht => canon_getD (canon_leave ht _ _) fun _ e => canon_sendTo ht e) _ (canon_dropRoutes (canon_portEvent
    (canon_setPort h _ _) _) _ _)

theorem execPprsntChange_canonical (h : s.canon = true) (p : Nat) (level : Bool) : Out.Canonical (execPprsntChange p level s) :=
  Out.canonical_next (canon_ite (canon_with_rest h) (canon_portMove (canon_ite (canon_portDown (canon_with_rest h) _ _) (canon_with_rest
    h)) _ _))

theorem execPeerPortUp_canonical (h : s.canon = true) (p lanes : Nat) : Out.Canonical (execPeerPortUp p lanes s) :=
  Out.canonical_next (canon_ite (canon_ite (canon_portDown h _ _) (canon_pump (canon_portEvent (canon_setCredits (canon_setPort h _ _) _ _)
    _) _)) h)

theorem execPortRetrain_canonical (h : s.canon = true) (p good far : Nat) : Out.Canonical (execPortRetrain p good far s) :=
  Out.canonical_next (canon_ite (canon_ite (canon_portDown (canon_bump h _) _ _) (canon_sendCtl (canon_ite (canon_setPort (canon_bump h _)
    _ _) (canon_portEvent (canon_setPort (canon_bump h _) _ _) _)) _ _)) h)

theorem State.canon_rxHead (h : s.canon = true) (p : Nat) (hd : FlitHead) : (s.rxHead p hd).canon = true :=
  canon_pump (canon_rxTake h _ _) _

theorem State.canon_rxFlit (h : s.canon = true) (p : Nat) (hd : FlitHead) (i : Instr) (f : State → State) (hf : ∀ t : State, t.canon = true
  → (f t).canon = true) : (s.rxFlit p hd i f).canon = true :=
  canon_ite (canon_serve h _ _ (fun _ ht => canon_ite (hf _ (canon_keepFlit (canon_bump (canon_setPort (canon_rxHead ht _ _) _ _) _) _ _))
    (canon_sendCtl (canon_rxHead ht _ _) _ _))) h

theorem State.canon_forward (h : s.canon = true) (p dst hops i : Nat) (f : Flit) (refuse : State → State) (hrefuse : ∀ t : State, t.canon =
    true → (refuse t).canon = true) : (s.forward p dst hops i f refuse).canon = true := by
  unfold State.forward
  split
  · next t e =>
    split at e
    · cases e
    · exact canon_sendTo h e
  · exact hrefuse _ (canon_bump (canon_leave h _ _) _)

theorem execIdle_canonical (h : s.canon = true) (p : Nat) (hd : FlitHead) : Out.Canonical (execIdle p hd s) :=
  Out.canonical_next (canon_ite (canon_rxHead h _ _) h)

theorem State.canon_peerRead (h : s.canon = true) (p w : Nat) : (s.peerRead p w).2.canon = true := by
  unfold State.peerRead
  have hx := canon_translate h (p / 2) (w / 2 ^ 14)
  split
  · next f t e => exact canon_homeRead (canon_of_eq hx e) _ _ _
  · next t e => exact canon_freshData (canon_of_eq hx e)

theorem State.canon_checkFrames (h : s.canon = true) (p : Nat) (write : Bool) (xs : List Nat) :
    (s.checkFrames p write xs).2.canon = true := by
  induction xs generalizing s with
  | nil => exact h
  | cons fr frs ih =>
    unfold State.checkFrames
    have hx := canon_translate h (p / 2) fr
    split
    · next t e => exact canon_of_eq hx e
    · next f t e =>
      have ht := canon_of_eq hx e
      exact canon_ite_snd ht (canon_ite_snd ht (ih ht))

theorem State.canon_checkReq (h : s.canon = true) (p : Nat) (b : ReqBody) : (s.checkReq p b).2.canon = true :=
  canon_ite_snd h (canon_ite_snd h (canon_checkFrames h _ _ _))

theorem State.canon_putWrite (h : s.canon = true) (p vc src tag free : Nat) (ws : List WUpd) : (s.putWrite p vc src tag free ws).canon =
    true := by
  unfold State.putWrite
  extract_lets fr why
  have hx := canon_translate h (p / 2) fr
  split
  · next t e => exact canon_putAccepted (canon_of_eq hx e) _ _ _ _
  · next f t e =>
    extract_lets ws'
    split
    next ok u e' =>
    have hu := canon_of_eq (canon_frameWrite (canon_of_eq hx e) _ _ _ _ _ _) e'
    exact canon_ite hu (canon_putAccepted hu _ _ _ _)

theorem State.canon_putData (h : s.canon = true) (p vc : Nat) (t : Target) (b : DataBody) : (s.putData p vc t b).canon = true :=
  canon_ite (canon_ite (canon_respond (canon_with_rest (canon_creditBack (canon_with_rest h) _ _)) _ _ _) (canon_creditBack
    (canon_with_rest h) _ _)) (canon_foldl (fun _ _ ht => canon_putWrite ht _ _ _ _ _ _) _ (canon_with_rest h))

theorem State.canon_putFlit (h : s.canon = true) (p vc : Nat) (b : DataBody) : (s.putFlit p vc b).canon = true := by
  unfold State.putFlit
  split
  · exact canon_ite (canon_putData h _ _ _ _) (canon_creditBack (canon_with_rest h) _ _)
  · exact canon_with_rest h

theorem State.canon_takeReq (h : s.canon = true) (p : Nat) (b : ReqBody) : (s.takeReq p b).canon = true := by
  unfold State.takeReq
  split
  next st t e =>
  have ht := canon_of_eq (canon_checkReq h p b) e
  extract_lets got u t' mine _ v d w per go
  have hu : u.canon = true := canon_ite (canon_respond ht _ _ _) ht
  have hv : v.canon = true := canon_with_rest hu
  have hgo : go.2.canon = true := by
    refine canon_foldl_snd (fun _ _ _ hz => ?_) _ _ ht
    split
    next e => exact canon_of_eq (canon_peerRead hz _ _) e
  refine canon_ite (canon_ite hu (canon_foldl (fun _ _ hz => canon_putFlit hz _ _ _) _ hv)) (canon_ite (canon_respond ht _ _ _) ?_)
  exact canon_respond (canon_foldl (fun _ _ hz => canon_getD hz fun _ e => canon_sendTo hz e) _ hgo) _ _ _

theorem State.canon_takeRsp (h : s.canon = true) (b : RspBody) : (s.takeRsp b).canon = true := by
  unfold State.takeRsp
  split
  · exact h
  · dsimp only
    split
    · exact canon_beginHalt h _ _ _ _
    · exact canon_beginHalt h _ _ _ _
    · exact canon_beginHalt h _ _ _ _
    · exact canon_absentXfer h _ _
    · exact canon_ite (canon_endXfer h _ _ _) (canon_setCore h _ _)

theorem execRsp_canonical (h : s.canon = true) (p : Nat) (hd : FlitHead) (b : RspBody) : Out.Canonical (execRsp p hd b s) := by
  refine Out.canonical_next (canon_rxFlit h _ _ _ _ fun t ht => ?_)
  exact canon_ite (canon_takeRsp (canon_creditBack ht _ _) _) (canon_forward ht _ _ _ _ _ _ fun _ hu => hu)

theorem State.canon_getData (h : s.canon = true) (g k : Nat) (x : Xfer) (rt : Option Nat) (b : DataBody) : (s.getData g k x rt b).canon =
    true := by
  unfold State.getData
  extract_lets nw t got k u
  have ht : t.canon = true := canon_foldl (fun _ _ hz => canon_placeWord hz _ _ _ _ _ _) _ h
  have hu : u.canon = true := canon_ite (canon_setCore ht _ _) ht
  exact canon_ite (canon_endXfer hu _ _ _) hu

theorem State.canon_takeFlit (h : s.canon = true) (p : Nat) (i : Instr) : (s.takeFlit p i).canon = true := by
  unfold State.takeFlit
  split
  · exact canon_takeReq (canon_creditBack h _ _) _ _
  · split
    · exact canon_ite (canon_creditBack (canon_getData h _ _ _ _ _) _ _) (canon_ite (canon_creditBack h _ _) (canon_putFlit h _ _ _))
    · exact canon_ite (canon_creditBack h _ _) (canon_putFlit h _ _ _)
  · exact h

theorem State.canon_hear (h : s.canon = true) (p : Nat) (i : Instr) : (s.hear p i).canon = true :=
  canon_ite (canon_holdHome h _) (canon_takeFlit h _ _)

theorem execReq_canonical (h : s.canon = true) (p : Nat) (hd : FlitHead) (b : ReqBody) : Out.Canonical (execReq p hd b s) :=
  Out.canonical_next (canon_rxFlit h _ _ _ _ (fun _ ht => canon_ite (canon_hear ht _ _) (canon_forward ht _ _ _ _ _ _ (fun _ hu =>
    canon_respond hu _ _ _))))

theorem execData_canonical (h : s.canon = true) (p : Nat) (hd : FlitHead) (b : DataBody) : Out.Canonical (execData p hd b s) := by
  refine Out.canonical_next (canon_rxFlit h _ _ _ _ fun t ht => ?_)
  exact canon_ite (canon_hear ht _ _) (canon_forward ht _ _ _ _ _ _ fun _ hu => hu)

theorem fillAbsent_canonical (xs : List SrcEl) : M.Keeps Canonical (fillAbsent xs) := by
  induction xs with
  | nil => exact M.keeps_pure _
  | cons e es ih =>
    unfold fillAbsent
    extract_lets jp
    have hjp : ∀ v, M.Keeps Canonical (jp v) := fun _ => M.keeps_bind ih fun _ => M.keeps_pure _
    refine M.keeps_ite (M.keeps_bind (M.keeps_pure _) hjp) ?_
    exact M.keeps_bind (M.keeps_act fun _ ht => canon_freshData ht) fun _ => M.keeps_bind (M.keeps_pure _) hjp

theorem State.canon_queueXfer (h : s.canon = true) (g : Nat) (x : Xfer) : (s.queueXfer g x).canon = true := canon_setCore h _ _
theorem putIter_canonical (c : Ctx) (peer : Option Nat) (r a : Opnd) (ws : List Word) (js : List Nat) : M.Keeps Canonical (putIter c peer r
    a ws js) := by
  unfold putIter
  refine M.keeps_bind (readSource_canonical _ _ _) (fun _ => M.keeps_bind (finish_canonical _) (fun _ => ?_))
  dsimp only
  split
  · exact M.keeps_pure _
  · exact M.keeps_bind (fillAbsent_canonical _) (fun _ => M.keeps_bind (M.keeps_modify (fun _ ht => canon_queueXfer ht _ _)) (fun _ =>
      M.keeps_pure _))

theorem getIter_canonical (c : Ctx) (peer : Option Nat) (d r : Opnd) (ws : List Word) (js : List Nat) : M.Keeps Canonical (getIter c peer d
    r ws js) := by
  unfold getIter
  refine M.keeps_bind (readDest_canonical _ _ _) (fun _ => M.keeps_bind (finish_canonical _) (fun _ => ?_))
  split
  · exact M.keeps_bind (fillAbsent_canonical _) (fun _ => M.keeps_bind (storeVals_canonical _ _ _ _) (fun _ => M.keeps_pure _))
  · exact M.keeps_bind (M.keeps_modify (fun _ ht => canon_queueXfer ht _ _)) (fun _ => M.keeps_pure _)

theorem remoteWords_canonical (c : Ctx) (hd : Nat) : M.Keeps Canonical (remoteWords c hd) :=
  M.keeps_bind (readDescWords_canonical _ _) (fun _ => M.keeps_pure _)

theorem opPeer_canonical (put : Bool) (c : Ctx) : M.Keeps Canonical (opPeer put c) := by
  unfold opPeer
  refine withOpnds_canonical _ _ _ (fun _ => ?_)
  split
  · exact M.keeps_bind (execCheck_canonical _ _) (fun _ => M.keeps_bind (remoteWords_canonical _ _) (fun _ => M.keeps_bind M.keeps_get (fun
      _ => M.keeps_bind (M.keeps_forIn (fun _ _ => M.keeps_ite (M.keeps_bind (putIter_canonical _ _ _ _ _ _) (fun _ => M.keeps_pure _))
      (M.keeps_bind (getIter_canonical _ _ _ _ _ _) (fun _ => M.keeps_pure _))) _ _) (fun _ => M.keeps_ite (M.keeps_bind (M.keeps_modify
      (fun _ ht => canon_startXfers (canon_noteWaits ht _) _)) (fun _ => M.keeps_pure _)) (M.keeps_pure _)))))
  · exact M.keeps_pure _

theorem execPeerput_canonical (h : s.canon = true) (core : Nat) : Out.Canonical (execPeerput core s) :=
  Out.canonical_next (canon_runEngine h _ _ _ _ (fun _ => opPeer_canonical _ _))

theorem execPeerget_canonical (h : s.canon = true) (core : Nat) : Out.Canonical (execPeerget core s) :=
  Out.canonical_next (canon_runEngine h _ _ _ _ (fun _ => opPeer_canonical _ _))

theorem execPeerTransferTimeout_canonical (h : s.canon = true) (core slot : Nat) : Out.Canonical (execPeerTransferTimeout core slot s) :=
  Out.canonical_next (canon_ite (canon_absentXfer (canon_bump h _) _ _) h)

theorem execHello_canonical (h : s.canon = true) (p : Nat) (b : HelloBody) (hd : FlitHead) : Out.Canonical (execHello p b s hd) :=
  Out.canonical_next (canon_ite (canon_ite (canon_raise (canon_portDown (canon_ite (canon_rxHead h _ _) h) _ _) _ _ _ _) (canon_foldl (fun
    _ _ ht => canon_ite ht (canon_addRoute ht _ _ _)) _ (canon_addRoute (canon_setPort (canon_ite (canon_rxHead h _ _) h) _ _) _ _ _)))
    (canon_ite (canon_rxHead h _ _) h))

theorem execHelloSend_canonical (h : s.canon = true) (p : Nat) : Out.Canonical (execHelloSend p s) :=
  Out.canonical_next (canon_ite (canon_setPort (canon_sendCtl h _ _) _ _) h)

theorem execRouteExpiry_canonical (h : s.canon = true) (p serial : Nat) : Out.Canonical (execRouteExpiry p serial s) :=
  Out.canonical_next (canon_dropRoutes h _ _)

theorem execRetry_canonical (h : s.canon = true) (p : Nat) (seq : Nat) (hd : FlitHead) : Out.Canonical (execRetry p seq s hd) :=
  Out.canonical_next (canon_ite (canon_pump (canon_resend (canon_bump (canon_setPort (canon_rxTake h _ _) _ _) _) _ _) _) h)

theorem execResync_canonical (h : s.canon = true) (p : Nat) (b : ResyncBody) (hd : FlitHead) : Out.Canonical (execResync p b s hd) :=
  Out.canonical_next (canon_ite (canon_pump (canon_resend (canon_setCredits (canon_setPort (canon_rxTake h _ _) _ _) _ _) _ _) _) h)

theorem execFlitCrcFail_canonical (h : s.canon = true) (p : Nat) (fec : Bool) : Out.Canonical (execFlitCrcFail p fec s) :=
  Out.canonical_next (canon_ite (canon_sendCtl (canon_ite (canon_setPort (canon_bump (canon_bump h _) _) _ _) (canon_bump h _)) _ _) h)

theorem execD2dRetrain_canonical (h : s.canon = true) (l : Nat) : Out.Canonical (execD2dRetrain l s) :=
  Out.canonical_next (canon_ite h (canon_bump h _))

/-! ## Power -/

theorem execInputOn_canonical (h : s.canon = true) : Out.Canonical (execInputOn s) :=
  Out.canonical_next (canon_ite h (canon_ite (canon_startUp (canon_with_rest h)) (canon_with_rest h)))

theorem State.canon_inputOff (h : s.canon = true) : s.inputOff.canon = true :=
  canon_ite (canon_with_rest (canon_removeRails (canon_fatal h _ _ _))) h

theorem execUndervoltageOff_canonical (h : s.canon = true) : Out.Canonical (execUndervoltageOff s) := Out.canonical_next (canon_inputOff h)
theorem execOvervoltageOff_canonical (h : s.canon = true) : Out.Canonical (execOvervoltageOff s) := Out.canonical_next (canon_inputOff h)
theorem execHoldUpExpiry_canonical (h : s.canon = true) : Out.Canonical (execHoldUpExpiry s) := by
  unfold execHoldUpExpiry
  refine Out.canonical_next (canon_ite ?_ h)
  extract_lets t
  have ht : t.canon = true := by
    unfold t
    split
    · exact canon_norApply h _
    · exact canon_norPartial h _
    · exact h
  exact canon_fromReset rfl (canon_nor_mem ht) rfl rfl rfl rfl rfl rfl

theorem execMrstLow_canonical (h : s.canon = true) : Out.Canonical (execMrstLow s) :=
  Out.canonical_next (canon_ite (canon_removeRails (canon_with_rest h)) (canon_with_rest h))

theorem execMrstHigh_canonical (h : s.canon = true) : Out.Canonical (execMrstHigh s) :=
  Out.canonical_next (canon_ite (canon_startUp (canon_with_rest h)) (canon_with_rest h))

theorem State.canon_resetHost (h : s.canon = true) : s.resetHost.canon = true :=
  canon_with_hostMaps (canon_revertExp (canon_setReg (canon_closeUnlock (canon_dropHostReqs (canon_lpgRun h _ _)) _) _ _) _) rfl rfl

theorem execPerstLow_canonical (h : s.canon = true) : Out.Canonical (execPerstLow s) :=
  Out.canonical_next (canon_ite (canon_with_rest (canon_ite (canon_resetHost (canon_with_rest h)) (canon_with_rest h))) (canon_with_rest h))

theorem execPerstHigh_canonical (h : s.canon = true) : Out.Canonical (execPerstHigh s) := Out.canonical_next (canon_with_rest h)
theorem execHostLinkStateChange_canonical (h : s.canon = true) (st : LinkState) (width rate : Nat) : Out.Canonical (execHostLinkStateChange
  st width rate s) :=
  Out.canonical_next (canon_ite (canon_with_rest h) h)

theorem execRailFault_canonical (h : s.canon = true) (slot : Nat) : Out.Canonical (execRailFault slot s) :=
  Out.canonical_next (canon_ite (canon_hold (canon_fatal h _ _ _) _) h)

/-! ## Fences -/

theorem State.canon_fence (h : s.canon = true) (fid row : Nat) : (s.fence fid row).canon = true :=
  canon_ite h (canon_raise (canon_bump (canon_closeUnlock (canon_onFlt h _) _) _) _ _ _ _)

theorem State.canon_record (h : s.canon = true) (row fid : Nat) : (s.record row fid).canon = true := canon_onFlt h _
theorem State.canon_handled (h : s.canon = true) (row fid : Nat) : (s.handled row fid).canon = true :=
  canon_raise (canon_record h _ _) _ _ _ _

theorem State.canon_resetCore (h : s.canon = true) (g : Nat) : (s.resetCore g).canon = true := by
  unfold State.resetCore
  extract_lets t c _ u _ v
  have hu : u.canon = true := canon_setCore (canon_unbindStreams (canon_retireLanes h _) _) _ _
  have hv : v.canon = true := by
    refine canon_with_units (s := { u with prog := v.prog }) ?_ ?_
    · exact canon_with_rest hu
    · exact AMap.wf_mapVals (canon_units hu)
  exact canon_revertExp hv _

theorem State.canon_dropCores (h : s.canon = true) (gs : List Nat) : (s.dropCores gs).canon = true := canon_onProg h _
theorem State.canon_resetCluster (h : s.canon = true) (k : Nat) : (s.resetCluster k).canon = true :=
  canon_revertExp (canon_setCluster (canon_overList (fun _ _ ht => canon_resetCore ht _) _ h) _ _) _

theorem State.canon_retireCore (h : s.canon = true) (g : Nat) : (s.retireCore g).canon = true := canon_setCore (canon_resetCore h _) _ _
theorem State.canon_fenceCore (h : s.canon = true) (g row : Nat) : (s.fenceCore g row).canon = true :=
  canon_dropCores (canon_fence (canon_retireCore h _) _ _) _

theorem State.canon_fenceCluster (h : s.canon = true) (k row : Nat) : (s.fenceCluster k row).canon = true :=
  canon_dropCores (canon_overList (fun _ _ ht => canon_fence ht _ _) _ (canon_fence (canon_revertExp (canon_setCluster (canon_overList (fun
    _ _ ht => canon_retireCore ht _) _ h) _ _) _) _ _)) _

theorem State.canon_fenceDie (h : s.canon = true) (d row : Nat) : (s.fenceDie d row).canon = true :=
  canon_revertExp (canon_onPins (canon_dropCores (canon_setSeq (canon_fence (canon_overList (fun _ _ ht => canon_retireCore ht _) _ h) _ _)
    _ _) _) _) _

theorem State.canon_clusterFault (h : s.canon = true) (k : Nat) : (s.clusterFault k).canon = true := by
  unfold State.clusterFault
  exact canon_ite (canon_fenceCluster (canon_record h _ _) _ _) (canon_fenceDie (canon_record h _ _) _ _)

theorem State.canon_coreFaulted (h : s.canon = true) (g : Nat) : (s.coreFaulted g).canon = true :=
  canon_ite (canon_clusterFault h _) (canon_fenceCore (canon_record h _ _) _ _)

theorem State.canon_loseUnit (h : s.canon = true) (u : Nat) : (s.loseUnit u).canon = true := canon_ite h (canon_setUnit h _ _)
theorem State.canon_stopRing (h : s.canon = true) (r : Nat) : (s.stopRing r).canon = true := by
  unfold State.stopRing
  refine canon_setRing ?_ _ _
  split
  · refine canon_evacEnd ?_ _
    split
    · exact canon_releaseHeld (canon_setRing h _ _) _ _
    · exact canon_setRing h _ _
  · exact h

theorem State.canon_loseGroup (h : s.canon = true) (n row : Nat) : (s.loseGroup n row).canon = true :=
  canon_overList (fun _ _ ht => canon_stopRing ht _) _ (canon_overList (fun _ _ ht => canon_loseUnit ht _) _ (canon_fence (canon_resetGroup
    h _) _ _))

theorem State.canon_fenceGroup (h : s.canon = true) (n : Nat) : (s.fenceGroup n).canon = true :=
  canon_overList (fun _ _ ht => canon_ite (canon_retarget (canon_setRing (canon_setUnit ht _ _) _ _) _) ht) _ (canon_fence
    (canon_resetGroup h _) _ _)

theorem State.canon_dropReq (h : s.canon = true) (r : Req) : (s.dropReq r).canon = true := by
  unfold State.dropReq
  refine canon_ite ?_ ?_
  · dsimp only
    split
    · exact canon_hostDropped (canon_ledgAlt h _ _) _
    · exact canon_onSwarm (canon_ledgAlt h _ _) rfl rfl
    · exact canon_ledgAlt h _ _
    · exact canon_lateStatus (canon_ledgAlt h _ _) _ _
  · split
    · exact canon_hostPoison h _
    · exact h

theorem State.canon_dropReqs (h : s.canon = true) (n : Nat) (p : Req → Bool) : (s.dropReqs n p).canon = true :=
  canon_foldl (fun _ _ ht => canon_dropReq ht _) _ (canon_setCtl h _ _)

theorem State.canon_fenceCtl (h : s.canon = true) (n row : Nat) : (s.fenceCtl n row).canon = true := by
  unfold State.fenceCtl
  extract_lets t c u v
  have hu : u.canon = true := canon_ledgAlt (canon_setCtl (canon_dropReqs h _ _) _ _) _ _
  have hv : v.canon = true := canon_revertExp (canon_fence hu _ _) _
  exact canon_ite (canon_loseGroup hv _ _) hv

theorem State.canon_rehydrateFte (h : s.canon = true) (lost : Place → Bool) (fr : Nat) (w : Word) :
    (s.rehydrateFte lost fr w).canon = true := by
  unfold State.rehydrateFte
  refine canon_ite (canon_ite ?_ (canon_raise h _ _ _ _)) (canon_ite (canon_setStale h _ _) h)
  split
  next ok t e =>
  have ht := canon_of_eq (canon_fteSwap h _ _ _ _) e
  exact canon_ite (canon_onFlt ht _) ht

theorem State.canon_rehydrate (h : s.canon = true) (lost : Place → Bool) : (s.rehydrate lost).canon = true := by
  unfold State.rehydrate
  split
  next es t e => exact canon_foldl (fun _ _ hu => canon_rehydrateFte hu _ _ _) _ (canon_of_eq (canon_scanTable h _) e)

theorem State.canon_loseBase (h : s.canon = true) (b row : Nat) : (s.loseBase b row).canon = true :=
  canon_rehydrate (canon_overList (fun _ _ ht => canon_fence (canon_ite (canon_portDown ht _ _) ht) _ _) _ (canon_fence (canon_setDie
    (canon_overList (fun _ _ ht => canon_fenceCtl ht _ _) _ (canon_overList (fun _ _ ht => canon_fenceCtl ht _ _) _ (canon_fenceDie h _
    _))) _ _) _ _)) _

theorem State.canon_endService (h : s.canon = true) (c : Nat) : (s.endService c).canon = true :=
  canon_ite h (canon_ite (canon_beginHalt (canon_with_rest (canon_fatal (canon_raise (canon_onFlt h _) _ _ _ _) _ _ _)) _ _ _ _)
    (canon_with_rest (canon_fatal (canon_raise (canon_onFlt h _) _ _ _ _) _ _ _)))

theorem State.canon_baseLost (h : s.canon = true) (b row : Nat) : (s.baseLost b row).canon = true :=
  canon_ite (canon_endService (canon_ite h (canon_record h _ _)) _) (canon_loseBase (canon_ite h (canon_record h _ _)) _ _)

theorem State.canon_loseChannels (h : s.canon = true) (ns : List Nat) (row : Nat) : (s.loseChannels ns row).canon = true := by
  unfold State.loseChannels
  extract_lets r b t u
  have ht : t.canon = true := canon_ite h (canon_record h _ _)
  have hu : u.canon = true := canon_overList (fun _ _ hz => canon_fenceCtl hz _ _) _ ht
  exact canon_ite (canon_baseLost hu _ _) (canon_rehydrate hu _)

theorem State.canon_loseChannel (h : s.canon = true) (n row : Nat) : (s.loseChannel n row).canon = true := canon_loseChannels h _ _
theorem State.canon_loseLink (h : s.canon = true) (l row : Nat) : (s.loseLink l row).canon = true :=
  canon_overList (fun _ _ ht => canon_ite ht (canon_baseLost ht _ _)) _ (canon_revertExp (canon_fence (canon_setLink (canon_ite h
    (canon_record h _ _)) _ _) _ _) _)

theorem State.canon_dropBankTiles (h : s.canon = true) (u n bank : Nat) : (s.dropBankTiles u n bank).canon = true :=
  canon_foldl (fun _ _ ht => canon_toMv ht _) _ (canon_setUnit h _ _)

theorem State.canon_loseBank (h : s.canon = true) (n bank : Nat) : (s.loseBank n bank).canon = true := by
  unfold State.loseBank
  extract_lets t u
  have ht : t.canon = true := canon_dropReqs h _ _
  have hu : u.canon = true := canon_ite (canon_dropBankTiles ht _ _ _) ht
  exact canon_ite (canon_ledgAlt (canon_setCtl hu _ _) _ _) (canon_setCtl hu _ _)

theorem State.canon_repairWord (h : s.canon = true) (n w : Nat) (d : Word) (p : Bool) : (s.repairWord n w d p).canon = true :=
  canon_commitUpd (canon_ledgIn h _ _) _ _

theorem State.canon_repair (h : s.canon = true) (n dpa : Nat) : (s.repair n dpa).canon = true := by
  unfold State.repair
  extract_lets c la
  refine canon_ite ?_ h
  split
  next es t e =>
  have ht := canon_of_eq (canon_scanTable h _) e
  extract_lets u v
  have hu : u.canon = true := by
    unfold u
    split
    · refine canon_foldl (fun z i hz => ?_) _ ht
      split
      next e => exact canon_repairWord (canon_of_eq (canon_homeRead hz _ _ _) e) _ _ _ _
    · exact canon_repairWord ht _ _ _ _
  have hv : v.canon = true := by
    unfold v
    split
    · exact canon_ite hu (canon_putLine hu _ _ _)
    · exact hu
  exact canon_setCtl hv _ _

theorem State.canon_checkService (h : s.canon = true) : s.checkService.canon = true := canon_ite h (canon_endService h _)
theorem State.canon_handle (h : s.canon = true) (x : Flt) : (s.handle x).canon = true := by
  unfold State.handle
  dsimp only
  split
  · exact canon_ite h (canon_coreFaulted h _)
  · exact canon_ite h (canon_clusterFault h _)
  · exact canon_ite h (canon_fenceDie (canon_record h _ _) _ _)
  · exact canon_handled h _ _
  · exact canon_ite (canon_repair (canon_handled h _ _) _ _) (canon_handled h _ _)
  · exact canon_rehydrate (canon_handled h _ _) _
  · exact canon_ite h (canon_loseChannel h _ _)
  · exact canon_ite h (canon_loseChannels h _ _)
  · exact canon_ite h (canon_loseChannel h _ _)
  · exact canon_ite h (canon_baseLost h _ _)
  · exact canon_ite h (canon_loseLink h _ _)
  · exact h

theorem State.canon_handleAll (h : s.canon = true) : s.handleAll.canon = true :=
  canon_checkService (canon_foldl (fun _ _ ht => canon_handle ht _) _ (canon_onFlt h _))

theorem State.canon_audit (h : s.canon = true) (us : Upsets) : (s.audit us).canon = true :=
  canon_ite (canon_with_rest h) (canon_beginHalt (canon_onFlt (canon_record (canon_overList (fun _ _ ht => canon_raise (canon_onFlt ht _) _
    _ _ _) _ (canon_with_rest h)) _ _) _) _ _ _ _)

theorem State.canon_settleFaults (h : s.canon = true) : s.settleFaults.canon = true := canon_ite h (canon_handleAll h)
/-! ## Sequencer -/

theorem State.canon_enqueue (h : s.canon = true) (g : Nat) (e : Eng) (x : QEntry) : (s.enqueue g e x).canon = true := by
  unfold State.enqueue
  refine canon_setCluster (canon_setCore (canon_foldl_snd (fun _ _ _ ht => ?_) _ _ (canon_noteWaits h _)) _ _) _ _
  exact canon_sflip ht _ _ _ _ _

theorem State.canon_deliver (h : s.canon = true) (d : Nat) (e : Eng) (x : QEntry) : (s.deliver d e x).canon = true :=
  canon_overList (fun _ _ ht => canon_ite (canon_enqueue ht _ _ _) ht) _ (canon_with_rest h)

theorem State.canon_broadcastWords (h : s.canon = true) (d : Nat) (e : Eng) (ws : List Nat) : (s.broadcastWords d e ws).canon = true := by
  unfold State.broadcastWords
  extract_lets x pc q ent full t
  have ht : t.canon = true := canon_setSeq (canon_deliver h _ _ _) _ _
  exact canon_ite (canon_beginHalt ht _ _ _ _) ht

theorem State.canon_brokenWord (h : s.canon = true) (d w : Nat) : (s.brokenWord d w).canon = true :=
  canon_beginHalt (canon_raise h _ _ _ _) _ _ _ _

theorem State.canon_fetchStream (h : s.canon = true) (d : Nat) (e : Eng) : (s.fetchStream d e).canon = true := by
  unfold State.fetchStream
  refine canon_ite ?_ h
  split
  · exact canon_beginHalt h _ _ _ _
  · exact canon_brokenWord h _ _
  · exact canon_ite h (canon_broadcastWords h _ _ _)

theorem execBroadcast_canonical (h : s.canon = true) (d : Nat) (streams : List Eng) : Out.Canonical (execBroadcast d streams s) :=
  Out.canonical_next (canon_foldl (fun _ _ ht => canon_fetchStream ht _ _) _ h)

theorem State.canon_control (h : s.canon = true) (d : Nat) (e : Eng) (op : Nat) (f : Head → Nat → State → State) (hf : ∀ k n (t : State),
    t.canon = true → (f k n t).canon = true) : (s.control d e op f).canon = true := by
  unfold State.control
  split
  · exact h
  · exact hf _ _ _ (canon_setSeq h _ _)

theorem execNop_canonical (h : s.canon = true) (d : Nat) (st : Eng) : Out.Canonical (execNop d st s) :=
  Out.canonical_next (canon_control h _ _ _ _ (fun _ _ _ ht => ht))

theorem branch_canonical (h : s.canon = true) (d : Nat) (e : Eng) (x : Seq) (hd : Head) (ext : Nat) : (branch d e x hd ext s).canon = true
  :=
  canon_ite (canon_setSeq h _ _) h

theorem execBr_canonical (h : s.canon = true) (d : Nat) (st : Eng) : Out.Canonical (execBr d st s) :=
  Out.canonical_next (canon_control h _ _ _ _ (fun _ _ _ ht => branch_canonical ht _ _ _ _ _))

theorem lset_canonical (h : s.canon = true) (d : Nat) (e : Eng) (x : Seq) (hd : Head) (ext : Nat) : (lset d e x hd ext s).canon = true :=
  canon_ite (canon_setSeq h _ _) (canon_ite (canon_setSeq h _ _) (canon_beginHalt h _ _ _ _))

theorem execLset_canonical (h : s.canon = true) (d : Nat) (st : Eng) : Out.Canonical (execLset d st s) :=
  Out.canonical_next (canon_control h _ _ _ _ (fun _ _ _ ht => lset_canonical ht _ _ _ _ _))

theorem State.canon_setWait (h : s.canon = true) (d : Nat) (e : Eng) (w : StreamWait) : (s.setWait d e w).canon = true := canon_setSeq h _ _
theorem execStepBegin_canonical (h : s.canon = true) (d : Nat) (st : Eng) : Out.Canonical (execStepBegin d st s) :=
  Out.canonical_next (canon_control h _ _ _ _ (fun _ _ _ ht => canon_ite (canon_beginHalt ht _ _ _ _) (canon_setWait ht _ _ _)))

theorem execStepEnd_canonical (h : s.canon = true) (d : Nat) (st : Eng) : Out.Canonical (execStepEnd d st s) :=
  Out.canonical_next (canon_control h _ _ _ _ (fun _ _ _ ht => canon_ite (canon_setWait ht _ _ _) (canon_beginHalt ht _ _ _ _)))

theorem execStepBeginBarrier_canonical (h : s.canon = true) : Out.Canonical (execStepBeginBarrier s) :=
  Out.canonical_next (canon_ite (canon_with_rest (canon_overList (fun _ _ ht => canon_setCore ht _ _) _ (canon_overList (fun _ _ ht =>
    canon_setSeq ht _ _) _ h))) h)

theorem execWtok_canonical (h : s.canon = true) (d : Nat) (st : Eng) : Out.Canonical (execWtok d st s) := by
  unfold execWtok
  refine Out.canonical_next ?_
  split
  · exact h
  · exact canon_ite (canon_setWait (canon_ite (canon_broadcastWords h _ _ _) (canon_setSeq h _ _)) _ _ _) (canon_ite (canon_broadcastWords
      h _ _ _) (canon_setSeq h _ _))

theorem execWagglePost_canonical (h : s.canon = true) (core : Nat) (eng : Eng) : Out.Canonical (execWagglePost core eng s) := by
  unfold execWagglePost
  refine Out.canonical_next ?_
  dsimp only
  split
  · exact canon_ite (canon_setCore h _ _) h
  · exact h

theorem execWaggleCompletion_canonical (h : s.canon = true) (n : Nat) : Out.Canonical (execWaggleCompletion n s) :=
  Out.canonical_next (canon_ite (canon_overList (fun _ _ ht => canon_setSeq ht _ _) _ (canon_overList (fun _ _ ht => canon_setCore ht _ _)
    _ h)) h)

theorem execWaggleWaitRelease_canonical (h : s.canon = true) (d : Nat) (st : Eng) : Out.Canonical (execWaggleWaitRelease d st s) := by
  unfold execWaggleWaitRelease
  refine Out.canonical_next ?_
  dsimp only
  split
  · exact canon_ite (canon_setSeq h _ _) h
  · exact h

theorem execPace_canonical (h : s.canon = true) (d : Nat) (st : Eng) : Out.Canonical (execPace d st s) :=
  Out.canonical_next (canon_control h _ _ _ _ (fun _ _ _ ht => canon_setWait ht _ _ _))

theorem execPaceRelease_canonical (h : s.canon = true) (d : Nat) (st : Eng) : Out.Canonical (execPaceRelease d st s) := by
  unfold execPaceRelease
  refine Out.canonical_next ?_
  split
  · exact canon_ite (canon_setWait h _ _ _) h
  · exact h

theorem execHalt_canonical (h : s.canon = true) (d : Nat) (st : Eng) : Out.Canonical (execHalt d st s) :=
  Out.canonical_next (canon_control h _ _ _ _ (fun _ _ _ ht => canon_beginHalt ht _ _ _ _))

theorem execSegmentSwap_canonical (h : s.canon = true) (d g : Nat) : Out.Canonical (execSegmentSwap d g s) :=
  Out.canonical_next (canon_ite (canon_setSeq h _ _) h)

theorem execTokenPlace_canonical (h : s.canon = true) (core : Nat) (eng : Eng) (k : Nat) : Out.Canonical (execTokenPlace core eng s k) := by
  unfold execTokenPlace
  refine Out.canonical_next ?_
  split
  · exact h
  · exact canon_ite h (canon_recordOp (canon_setCore (canon_ite (canon_placeToken (canon_noteWaits h _) _ _ _) (canon_noteWaits h _)) _ _)
      _ _ _ _)

/-! ## Recovery -/

theorem State.canon_settle (h : s.canon = true) (n : Nat) : (s.settle n).canon = true := by
    unfold State.settle
    extract_lets c ws t u held v
    have hu : u.canon = true := canon_foldl (fun _ _ hw => canon_commitWrite hw _ _) _ (canon_setCtl h _ _)
    have hv : v.canon = true := canon_with_homeOut hu (AMap.wf_set (canon_homeOut hu))
    refine canon_foldl (fun w r hw => ?_) _ hv
    split
    · have hin := canon_ledgIn hw 4 r.ws.length
      exact canon_ite (canon_writeTaken (canon_commitWrite hin _ _) _ _) (canon_writeTaken (canon_ledgAlt hin _ _) _ _)
    · exact hw

theorem State.canon_performDups (h : s.canon = true) : s.performDups.canon = true :=
  canon_overList (fun _ _ ht => canon_foldl (fun _ _ hu => canon_dupNext hu _) _ ht) _ h

theorem State.canon_quiesce (h : s.canon = true) : s.quiesce.canon = true :=
  canon_overList (fun _ _ ht => canon_settle ht _) _ (canon_performDups (canon_overList (fun _ _ ht => canon_settle ht _) _ h))

theorem State.canon_freshCore (h : s.canon = true) (g : Nat) : (s.freshCore g).canon = true :=
  canon_setCore (canon_unbindStreams (canon_retireLanes h _) _) _ _

theorem State.canon_freshCounts (h : s.canon = true) (g : Nat) : (s.freshCounts g).canon = true := canon_setCore h _ _
theorem State.canon_takeMask (h : s.canon = true) : s.takeMask.canon = true := canon_presetCounts (canon_applyLive (canon_onProg h _))
theorem State.canon_restoreStep (h : s.canon = true) : s.restoreStep.canon = true := by
  unfold State.restoreStep
  extract_lets t u
  have hu : u.canon = true := canon_overList (fun _ _ hz => canon_freshCounts (canon_freshCore hz _) _) _ (canon_takeMask h)
  exact canon_bump (canon_onProg (canon_with_seqs hu (AMap.wf_mapVals (canon_seqs hu))) _) _

theorem State.canon_replayLimit (h : s.canon = true) : s.replayLimit.canon = true :=
  canon_beginHalt (canon_onFlt (canon_handleAll h) _) _ _ _ _

theorem State.canon_replay (h : s.canon = true) (us : Upsets) : (s.replay us).canon = true := by
    unfold State.replay
    extract_lets t u
    have ht : t.canon = true := canon_handleAll (canon_quiesce (canon_flushAll h))
    have hu : u.canon = true := canon_audit ht _
    exact canon_ite h (canon_ite (canon_replayLimit h) (canon_ite ht (canon_ite (canon_restoreStep hu) hu)))

theorem State.canon_found (h : s.canon = true) (f : FoundFault) : (s.found f).canon = true := by
  unfold State.found
  split
  · exact canon_fault h _ _ _
  · exact canon_fault h _ _ _
  · exact canon_fault h _ _ _
  · exact canon_fault h _ _ _

theorem execFaultReplay_canonical (h : s.canon = true) (found : List FoundFault) (ledgers : Upsets) : Out.Canonical (execFaultReplay s
  found ledgers) :=
  Out.canonical_next (canon_ite (canon_foldl (fun _ _ ht => canon_found ht _) _ h) (canon_ite (canon_replay (canon_foldl (fun _ _ ht =>
    canon_found ht _) _ h) _) (canon_handleAll (canon_foldl (fun _ _ ht => canon_found ht _) _ h))))

theorem State.canon_rehydCount (h : s.canon = true) (ok : Bool) : (s.rehydCount ok).canon = true :=
  canon_ite (canon_onFlt (canon_raise (canon_onFlt h _) _ _ _ _) _) (canon_onFlt h _)

theorem State.canon_recoveryWord (h : s.canon = true) (w : Nat) : (s.recoveryWord w).2.canon = true := by
  unfold State.recoveryWord
  dsimp only
  split
  · exact canon_lineRead h _ _ _ _
  · exact canon_ite_snd (canon_readWord h _ _ _) (canon_noWord h)
  · exact canon_noWord h

theorem State.canon_copyBack (h : s.canon = true) (src dst : Nat) : (s.copyBack src dst).canon = true := by
  unfold State.copyBack
  refine canon_foldl (fun t i ht => ?_) _ h
  split
  next v u e =>
  have hu := canon_of_eq (canon_recoveryWord ht _) e
  exact canon_with_dram hu (AMap.wf_set (canon_dram hu))

theorem execRehydrationCopy_canonical (h : s.canon = true) : Out.Canonical (execRehydrationCopy s) := by
  unfold execRehydrationCopy
  refine Out.canonical_next ?_
  split
  · exact h
  · next e rest _ =>
    refine canon_ite h ?_
    extract_lets t old
    have ht : t.canon = true := canon_onFlt h _
    have hcount : ∀ (w : State) ok, w.canon = true → (w.rehydCount ok).canon = true := fun _ _ hw => canon_rehydCount hw _
    have hswap : ∀ (w : State), w.canon = true → ∀ d fr o n, (w.fteSwap d fr o n).2.canon = true := fun w hw => canon_fteSwap hw
    -- The kernel compares the matches' branches by evaluating what they match on: a lemma of its own for any such operations avoids it.
    clear_value t
    generalize t.rehydTarget old = o
    generalize State.rehydCount = count at hcount ⊢
    generalize State.fteSwap = swap at hswap ⊢
    as_aux_lemma =>
      refine canon_ite ?_ ?_
      · split
        next ok u e =>
        have hu := canon_of_eq (hswap _ ht _ _ _ _) e
        exact hcount _ _ (canon_ite (canon_raise hu _ _ _ _) hu)
      · split
        · exact hcount _ _ ht
        · extract_lets u v
          have hv : v.canon = true := canon_dropLines (canon_copyBack (canon_takeFrame (canon_onFlt ht _) _) _ _) _
          split
          next ok w e => exact hcount _ _ (canon_of_eq (hswap _ hv _ _ _ _) e)

theorem execStepWatchdog_canonical (h : s.canon = true) (stalled : List Nat) : Out.Canonical (execStepWatchdog stalled s) :=
  Out.canonical_next (canon_ite (canon_ite (canon_beginHalt (canon_onFlt h _) _ _ _ _) (canon_foldl (fun _ _ ht => canon_fault ht _ _ _) _
    h)) h)

theorem execBankLoss_canonical (h : s.canon = true) (ctl bank : Nat) : Out.Canonical (execBankLoss ctl bank s) :=
  Out.canonical_next (canon_ite (canon_settleFaults (canon_fault (canon_loseBank h _ _) _ _ _)) h)

theorem execD2dLinkLoss_canonical (h : s.canon = true) (l : Nat) : Out.Canonical (execD2dLinkLoss l s) :=
  Out.canonical_next (canon_ite (canon_settleFaults (canon_fault (canon_bumpN h _ _) _ _ _)) h)

theorem execCorePllLockLoss_canonical (h : s.canon = true) (d : Nat) : Out.Canonical (execCorePllLockLoss d s) :=
  Out.canonical_next (canon_ite (canon_settleFaults (canon_fault (canon_onPins h _) _ _ _)) h)

theorem State.canon_releaseHomes (h : s.canon = true) : s.releaseHomes.canon = true := by
  unfold State.releaseHomes
  refine canon_foldl (fun _ _ ht => ?_) _ (canon_onFlt h _)
  split
  · exact canon_takeFlit ht _ _
  · exact canon_hostDo ht _

theorem execDiagWindowExpiry_canonical (h : s.canon = true) (n : Nat) (exchangeOk : Bool) : Out.Canonical (execDiagWindowExpiry n
  exchangeOk s) :=
  Out.canonical_next (canon_ite (canon_settleFaults (canon_resetCtl h _ _)) h)

theorem execRelease_canonical (h : s.canon = true) (n : Nat) (exchangeOk : Bool) : Out.Canonical (execRelease n exchangeOk s) :=
  Out.canonical_next (canon_barServe h _ _ (fun _ ht => canon_ite (canon_settleFaults (canon_resetCtl ht _ _)) ht))

theorem State.canon_resetSeq (h : s.canon = true) (d : Nat) : (s.resetSeq d).canon = true := by
  unfold State.resetSeq
  extract_lets x st t u
  have hu : u.canon = true := canon_onPins (canon_setSeq h _ _) _
  exact canon_ite (canon_beginHalt hu _ _ _ _) hu

theorem State.canon_resetPort (h : s.canon = true) (p : Nat) : (s.resetPort p).canon = true :=
  canon_revertExp (canon_portMove (canon_ite (canon_portDown (canon_lpgRun h _ _) _ _) (canon_dropRoutes (canon_lpgRun h _ _) _ _)) _ _) _

theorem State.canon_resetDieCache (h : s.canon = true) (d : Nat) : (s.resetDieCache d).canon = true :=
  canon_revertExp (canon_overList (fun _ _ ht => canon_unbindStreams ht _) _ (canon_setDie (canon_foldl (fun _ _ ht => canon_writeBack ht _
    _) _ h) _ _)) _

theorem State.canon_resetFn (h : s.canon = true) (fid : Nat) (linkOk : Bool) : (s.resetFn fid linkOk).canon = true := by
  unfold State.resetFn
  dsimp only
  split
  · exact canon_resetCore h _
  · exact canon_resetCluster h _
  · exact canon_ite (canon_revertExp (canon_lpgRun h _ _) _) (canon_fault (canon_revertExp (canon_lpgRun h _ _) _) _ _ _)
  · exact canon_resetCtl h _ _
  · exact canon_resetGroup h _
  · exact canon_resetCtl h _ _
  · exact canon_resetPort h _
  · exact canon_ite (canon_revertExp (canon_lpgRun h _ _) _) (canon_fault (canon_revertExp (canon_lpgRun h _ _) _) _ _ _)
  · exact canon_resetDieCache h _
  · exact canon_resetHost h

theorem State.canon_fenceFn (h : s.canon = true) (fid : Nat) : (s.fenceFn fid).canon = true := by
  unfold State.fenceFn
  dsimp only
  split
  · exact canon_fenceCore h _ _
  · exact canon_fenceCluster h _ _
  · exact canon_fenceDie h _ _
  · exact canon_loseChannel h _ _
  · exact canon_fenceGroup h _
  · exact canon_loseChannel h _ _
  · exact canon_fence (canon_ite (canon_portDown h _ _) h) _ _
  · exact canon_loseLink h _ _
  · exact canon_fence h _ _

theorem State.canon_startReset (h : s.canon = true) (fid : Nat) : (s.startReset fid).canon = true := by
  unfold State.startReset
  dsimp only
  split
  · exact canon_setCtl (canon_onFlt (canon_closeUnlock h _) _) _ _
  · exact canon_setCtl (canon_onFlt (canon_closeUnlock h _) _) _ _
  · exact canon_onFlt (canon_closeUnlock h _) _

theorem State.canon_startHeld (h : s.canon = true) : s.startHeld.canon = true := by
  unfold State.startHeld
  split
  · exact canon_startReset h _
  · exact h

theorem State.canon_frst (h : s.canon = true) (fid : Nat) (fence : Bool) : (s.frst fid fence).canon = true :=
  canon_ite (canon_onFlt h _) (canon_ite (canon_startReset (canon_resetSeq (canon_onFlt h _) _) _) (canon_ite (canon_startReset
    (canon_with_seqs (canon_onFlt h _) (AMap.wf_mapVals (canon_seqs (canon_onFlt h _)))) _) (canon_ite (canon_onFlt (canon_onFlt h _) _)
    (canon_startReset (canon_onFlt h _) _))))

theorem execFrstReset_canonical (h : s.canon = true) (fid : Nat) : Out.Canonical (execFrstReset fid s) :=
  Out.canonical_next (canon_barServe h _ _ (fun _ ht => canon_frst ht _ _))

theorem execFrstFence_canonical (h : s.canon = true) (fid : Nat) : Out.Canonical (execFrstFence fid s) :=
  Out.canonical_next (canon_barServe h _ _ (fun _ ht => canon_frst ht _ _))

theorem State.canon_resumeStepEnd (h : s.canon = true) : s.resumeStepEnd.canon = true :=
  canon_ite (canon_overList (fun _ _ ht => canon_setSeq ht _ _) _ (canon_takeMask h)) h

theorem State.canon_imageReload (h : s.canon = true) (us : Upsets) : (s.imageReload us).2.canon = true := by
  unfold State.imageReload
  refine canon_foldl_snd (fun _ t u ht => ?_) _ _ h
  extract_lets cw o put
  have hput : ∀ cw, (put cw).canon = true := fun _ => canon_with_boot ht (AMap.wf_set (canon_boot_imgBuf ht))
  split
  · exact hput _
  · exact hput _
  · exact hput _

theorem execPerFunctionResetDone_canonical (h : s.canon = true) (linkOk : Bool) (image : Upsets) : Out.Canonical (execPerFunctionResetDone
    linkOk image s) := by
  unfold execPerFunctionResetDone
  refine Out.canonical_next ?_
  split
  · extract_lets t u
    have hu : u.canon = true := canon_resetFn (canon_ite (canon_quiesce (canon_flushAll h)) h) _ _
    split
    next ok v e =>
    have hv := canon_of_eq (canon_imageReload hu _) e
    exact canon_settleFaults (canon_resumeStepEnd (canon_releaseHomes (canon_checkService (canon_onFlt (canon_ite (canon_fenceFn hv _) hv)
      _))))
  · exact h

/-! ## Program -/

theorem State.canon_stepTotals (h : s.canon = true) : s.stepTotals.canon = true :=
  canon_addLaunch (canon_totalsFlag (canon_onProg h _) _) _ _

theorem State.canon_reportTotals (h : s.canon = true) : s.reportTotals.canon = true := by
  unfold State.reportTotals
  split
  · exact canon_overList (fun _ _ ht => canon_setSeq ht _ _) _ h
  · exact h

theorem execEndOfStep_canonical (h : s.canon = true) (ledgers : Upsets) : Out.Canonical (execEndOfStep s ledgers) := by
    unfold execEndOfStep
    refine Out.canonical_next (canon_ite ?_ h)
    extract_lets t
    have ht : t.canon = true := canon_audit (canon_reportTotals (canon_stepTotals (canon_onProg h _))) _
    exact canon_ite ht (canon_ite (canon_beginHalt ht _ _ _ _) (canon_ite (canon_startHeld ht)
      (canon_overList (fun _ _ hu => canon_setSeq hu _ _) _ ht)))

theorem State.canon_sendMsix (h : s.canon = true) (vec : Nat) : (s.sendMsix vec).canon = true :=
  canon_ite (canon_post h _) (canon_with_pba h (AMap.wf_set (canon_host_pba h)))

theorem State.canon_sendPending (h : s.canon = true) : s.sendPending.canon = true :=
  canon_foldl (fun _ _ ht => canon_ite (canon_sendMsix (canon_with_pba ht (AMap.wf_set (canon_host_pba ht))) _) ht) _ h

theorem State.canon_complRecord (h : s.canon = true) (hd : HaltReq) : (s.complRecord hd).2.canon = true := canon_with_rest h
theorem State.canon_complete (h : s.canon = true) (hd : HaltReq) : (s.complete hd).canon = true := by
  unfold State.complete
  split
  next ws t e =>
  extract_lets u v
  have hu : u.canon = true := canon_onHost (canon_of_eq (canon_complRecord h _) e) rfl rfl
  have hv : v.canon = true := canon_ite hu (canon_post hu _)
  exact canon_ite (canon_onHost hu rfl rfl) (canon_ite hv (canon_sendMsix hv _))

theorem execHaltComplete_canonical (h : s.canon = true) : Out.Canonical (execHaltComplete s) := by
  unfold execHaltComplete
  refine Out.canonical_next ?_
  split
  · exact canon_ite (canon_settleFaults (canon_startHeld (canon_complete (canon_onProg (canon_with_seqs h (AMap.wf_mapVals (canon_seqs h)))
      _) _))) h
  · exact h

theorem State.canon_launch (h : s.canon = true) : s.launch.canon = true := by
  unfold State.launch
  extract_lets w0 no t u v pc sx w z
  have ht : t.canon = true := canon_with_rest h
  have hu : u.canon = true := canon_takeMask (canon_onProg ht _)
  have hv : v.canon = true := canon_overList (fun _ _ hy => canon_setSeq hy _ _) _ hu
  have hw : w.canon = true := canon_overList (fun _ _ hy => canon_setSeq hy _ _) _ hv
  have hz : z.canon = true := canon_overList (fun _ _ hy => canon_freshCore hy _) _ hw
  exact canon_with_peers hz (AMap.wf_mapVals (canon_swarm_peers hz))

theorem State.canon_doorbell (h : s.canon = true) : s.doorbell.canon = true :=
  canon_ite (canon_launch (canon_ite h (canon_handleAll h))) (canon_onHost (canon_ite h (canon_handleAll h)) rfl rfl)

theorem execLaunchDb_canonical (h : s.canon = true) (value : Nat) : Out.Canonical (execLaunchDb value s) :=
  Out.canonical_next (canon_barServe h _ _ (fun _ ht => canon_ite (canon_doorbell ht) ht))

theorem State.canon_resume (h : s.canon = true) : s.resume.canon = true :=
  canon_ite (canon_onFlt (canon_overList (fun _ _ ht => canon_setSeq ht _ _) _ (canon_settleFaults h)) _) (canon_settleFaults h)

theorem execResume_canonical (h : s.canon = true) : Out.Canonical (execResume s) :=
  Out.canonical_next (canon_barServe h _ _ (fun _ ht => canon_resume ht))

theorem State.canon_pmWrite (h : s.canon = true) (d k : Nat) (v mask : Word) : (s.pmWrite d k v mask).canon = true := by
  unfold State.pmWrite
  dsimp only
  split
  · exact canon_ite (canon_raise (canon_setSeq h _ _) _ _ _ _) (canon_setSeq h _ _)
  · exact canon_setSeq h _ _

theorem State.canon_bar2Write (h : s.canon = true) (off : Nat) (data : List Byte) : (s.bar2Write off data).canon = true :=
  canon_ite h (canon_ite (canon_refuse h) (canon_ite (canon_foldl (fun _ _ ht => canon_pmWrite ht _ _ _ _) _ h) (canon_setSeq (canon_foldl
    (fun _ _ ht => canon_pmWrite ht _ _ _ _) _ h) _ _)))

theorem State.canon_pmRead (h : s.canon = true) (d k : Nat) : (s.pmRead d k).2.canon = true := by
  unfold State.pmRead
  dsimp only
  split
  · exact h
  · exact canon_setSeq h _ _
  · exact canon_raise h _ _ _ _

theorem State.canon_bar2Read (h : s.canon = true) (off size : Nat) : (s.bar2Read off size).canon = true := by
  unfold State.bar2Read
  extract_lets d lo go
  have hgo : go.2.canon = true := by
    refine canon_foldl_snd (fun _ _ _ ht => ?_) _ _ h
    split
    next e => exact canon_of_eq (canon_pmRead ht _ _) e
  exact canon_ite (canon_tell h _) (canon_ite (canon_refuse h) (canon_tell hgo _))

theorem execProgramMemoryWrite_canonical (h : s.canon = true) (offset : Nat) (data : List Byte) : Out.Canonical (execProgramMemoryWrite
  offset data s) :=
  Out.canonical_next (canon_barServe h _ _ (fun _ ht => canon_bar2Write ht _ _))

theorem State.canon_measure (h : s.canon = true) (d g : Nat) : (s.measure d g).canon = true := canon_setSeq h _ _
theorem execSegmentMeasurement_canonical (h : s.canon = true) (d g : Nat) : Out.Canonical (execSegmentMeasurement d g s) :=
  Out.canonical_next (canon_ite (canon_measure h _ _) h)

/-! ## Security -/

theorem State.canon_secCmd (h : s.canon = true) (cmd serialLow : Nat) : (s.secCmd cmd serialLow).canon = true :=
  canon_ite (canon_onSec h _) (canon_ite (canon_onSec h _) (canon_onSec h _))

theorem execSvCommit_canonical (h : s.canon = true) (serialLow : Nat) : Out.Canonical (execSvCommit serialLow s) :=
  Out.canonical_next (canon_barServe h _ _ (fun _ ht => canon_secCmd ht _ _))

theorem execOwnerEnrol_canonical (h : s.canon = true) (serialLow : Nat) : Out.Canonical (execOwnerEnrol serialLow s) :=
  Out.canonical_next (canon_barServe h _ _ (fun _ ht => canon_secCmd ht _ _))

theorem execSecCmdDone_canonical (h : s.canon = true) (blown : Nat) : Out.Canonical (execSecCmdDone blown s) := by
  unfold execSecCmdDone
  refine Out.canonical_next ?_
  split
  · exact canon_ite (canon_raise (canon_onSec (canon_with_rest h) _) _ _ _ _) (canon_with_rest h)
  · exact canon_raise (canon_onSec (canon_with_rest h) _) _ _ _ _
  · exact h

theorem State.canon_doe (h : s.canon = true) (status : Nat) (data : List Byte) : (s.doe status data).canon = true := canon_tell h _
theorem State.canon_doeServe (h : s.canon = true) (f : State → State) (hf : ∀ t : State, t.canon = true → (f t).canon = true) : (s.doeServe
  f).canon = true :=
  canon_ite (hf _ h) (canon_ite (canon_doe h _ _) h)

theorem execGetIdentity_canonical (h : s.canon = true) : Out.Canonical (execGetIdentity s) :=
  Out.canonical_next (canon_doeServe h _ (fun _ ht => canon_doe ht _ _))

theorem State.canon_measureAll (h : s.canon = true) (d : Nat) : (s.measureAll d).canon = true :=
  canon_overList (fun _ _ ht => canon_ite (canon_measure ht _ _) ht) _ h

theorem execGetMeas_canonical (h : s.canon = true) (d : Nat) (segs : Bool) : Out.Canonical (execGetMeas d segs s) :=
  Out.canonical_next (canon_doeServe h _ (fun _ ht => canon_ite (canon_doe ht _ _) (canon_doe (canon_measureAll ht _) _ _)))

theorem State.canon_journalLeaf (h : s.canon = true) (r : PageEnd) : (s.journalLeaf r).canon = true :=
  canon_onSec (canon_journal (canon_ledgIn h _ _) _ _ _ _) _

theorem State.canon_report (h : s.canon = true) (d : Nat) (segs : Bool) (nonce : List Byte) (leafEnd : PageEnd) : (s.report d segs nonce
  leafEnd).canon = true :=
  canon_ite (canon_doe (canon_onSec (canon_ledgOut (canon_journalLeaf h _) _ _) _) _ _) (canon_doe (canon_raise (canon_onSec (canon_ledgAlt
    (canon_journalLeaf h _) _ _) _) _ _ _ _) _ _)

theorem execGetReport_canonical (h : s.canon = true) (d : Nat) (segs : Bool) (nonce : List Byte) (leafEnd openEnd : PageEnd) :
  Out.Canonical (execGetReport d segs nonce leafEnd openEnd s) :=
  Out.canonical_next (canon_doeServe h _ (fun _ ht => canon_ite (canon_doe ht _ _) (canon_ite (canon_doe ht _ _) (canon_ite (canon_report
    (canon_measureAll ht _) _ _ _ _) (canon_ite (canon_doe (canon_raise ht _ _ _ _) _ _) (canon_ite (canon_report (canon_measureAll
    (canon_onSec (canon_journal (canon_newEpoch ht _) _ _ _ _) _) _) _ _ _ _) (canon_doe (canon_onSec (canon_journal (canon_newEpoch ht _)
    _ _ _ _) _) _ _)))))))

theorem execClose_canonical (h : s.canon = true) (pageEnd : PageEnd) : Out.Canonical (execClose pageEnd s) :=
  Out.canonical_next (canon_doeServe h _ (fun _ ht => canon_ite (canon_doe ht _ _) (canon_doe (canon_onSec (canon_journal ht _ _ _ _) _) _
    _)))

/-! ## HostPort -/

theorem State.canon_cfgServe (h : s.canon = true) (r : CfgReg) (v : Option Nat) : (s.cfgServe r v).canon = true := by
  unfold State.cfgServe
  split
  · exact canon_tell h _
  · exact canon_sendPending (canon_tell (canon_onHost h rfl rfl) _)

theorem execConfigRequest_canonical (h : s.canon = true) (r : CfgReg) (value : Option Nat) : Out.Canonical (execConfigRequest s r value) :=
  Out.canonical_next (canon_ite (canon_cfgServe h _ _) (canon_ite (canon_tell h _) h))

theorem execHdmCommit_canonical (h : s.canon = true) (i base size skip ways : Nat) :
    Out.Canonical (execHdmCommit i base size skip ways s) := by
  refine Out.canonical_next (canon_ite (canon_serve h _ _ fun t ht => canon_onHost ht ?_ ?_) h)
  · split <;> rfl
  · split <;> rfl

theorem State.canon_memServe (h : s.canon = true) (i : Instr) (hpa : Nat) (f : Nat → State → State) (hf : ∀ k (t : State), t.canon = true →
    (f k t).canon = true) : Out.Canonical (s.memServe i hpa f) := by
  unfold State.memServe
  refine Out.canonical_ite ?_ (Out.canonical_next h)
  split
  · exact Out.canonical_fault _
  · exact Out.canonical_next (canon_serve h _ _ (fun _ ht => hf _ _ ht))

theorem execMemRd_canonical (h : s.canon = true) (hpa : Nat) : Out.Canonical (execMemRd hpa s) :=
  canon_memServe h _ _ _ (fun _ _ ht => canon_hostMem ht _ _)

theorem execMemRdData_canonical (h : s.canon = true) (hpa : Nat) : Out.Canonical (execMemRdData hpa s) :=
  canon_memServe h _ _ _ (fun _ _ ht => canon_hostMem ht _ _)

theorem execMemSpecRd_canonical (h : s.canon = true) (hpa : Nat) : Out.Canonical (execMemSpecRd hpa s) :=
  Out.canonical_next (canon_ite (canon_serve h _ _ fun _ ht => ht) h)

theorem execMemWr_canonical (h : s.canon = true) (hpa : Nat) (data : List Word) (poison : Bool) : Out.Canonical (execMemWr hpa data poison
  s) :=
  canon_memServe h _ _ _ (fun _ _ ht => canon_hostMem ht _ _)

theorem execMemWrPtl_canonical (h : s.canon = true) (hpa : Nat) (data : List Word) (be : Nat) (poison : Bool) : Out.Canonical (execMemWrPtl
  hpa data be poison s) :=
  canon_memServe h _ _ _ (fun _ _ ht => canon_hostMem ht _ _)

theorem State.canon_endGroup (h : s.canon = true) : s.endGroup.canon = true := canon_ite (canon_sendMsix (canon_onHost h rfl rfl) _) h
theorem State.canon_eqCtrl (h : s.canon = true) (v : Nat) : (s.eqCtrl v).canon = true :=
  canon_ite (canon_ite (canon_setReg h _ _) (canon_endGroup (canon_setReg h _ _))) (canon_ite (canon_onHost (canon_setReg h _ _) rfl rfl)
    (canon_setReg h _ _))

theorem execEqEnable_canonical (h : s.canon = true) (size : Nat) : Out.Canonical (execEqEnable size s) :=
  Out.canonical_next (canon_barServe h _ _ (fun _ ht => canon_eqCtrl ht _))

theorem execEventWrite_canonical (h : s.canon = true) : Out.Canonical (execEventWrite s) := by
  unfold execEventWrite
  refine Out.canonical_next (canon_ite ?_ h)
  split
  · exact h
  · next e p hn =>
    obtain ⟨hm, hp⟩ := HostPort.nextEvent_maps hn
    extract_lets prod nx addr k phase t u
    have ht : t.canon = true := canon_with_host h hm hp
    have hu : u.canon = true := canon_post (canon_ledgOut ht _ _) _
    exact canon_ite hu (canon_endGroup hu)

theorem State.canon_expUnlock (h : s.canon = true) (fid key : Nat) (close : Bool) : (s.expUnlock fid key close).canon = true :=
  canon_with_rest h

theorem execExpOpen_canonical (h : s.canon = true) (fid key : Nat) : Out.Canonical (execExpOpen fid key s) :=
  Out.canonical_next (canon_barServe h _ _ (fun _ ht => canon_expUnlock ht _ _ _))

theorem execExpClose_canonical (h : s.canon = true) (fid : Nat) : Out.Canonical (execExpClose fid s) :=
  Out.canonical_next (canon_barServe h _ _ (fun _ ht => canon_expUnlock ht _ _ _))

theorem State.canon_read4 (h : s.canon = true) (off : Nat) : (s.read4 off).canon = true :=
  canon_ite (canon_ite (canon_tell (canon_with_cntLatch h (AMap.wf_set (canon_cntLatch h))) _) (canon_tell h _)) (canon_tell h _)

theorem State.canon_barRead (h : s.canon = true) (bar off size : Nat) : (s.barRead bar off size).canon = true :=
  canon_ite (canon_bar2Read h _ _) (canon_ite (canon_refuse h) (canon_ite (canon_ite (canon_refuse h) (canon_ite (canon_read4 h _)
    (canon_tell h _))) (canon_ite (canon_tell h _) (canon_refuse h))))

theorem execCounterLowRead_canonical (h : s.canon = true) (offset : Nat) (bar : Nat) (size : Nat) : Out.Canonical (execCounterLowRead
  offset s bar size) :=
  Out.canonical_next (canon_barServe h _ _ (fun _ ht => canon_barRead ht _ _ _))

theorem State.canon_plainWrite (h : s.canon = true) (off v cover : Nat) : (s.plainWrite off v cover).canon = true :=
  canon_ite (canon_ite (canon_bump h _) h) (canon_ite (canon_ite (canon_bump h _) h) (canon_setReg (canon_ite (canon_bump h _) h) _ _))

theorem State.canon_woWrite (h : s.canon = true) (off v : Nat) : (s.woWrite off v).canon = true := by
  unfold State.woWrite
  split
  · exact canon_ite (canon_resume h) h
  · exact canon_frst h _ _
  · exact canon_expUnlock h _ _ _
  · exact canon_secCmd h _ _
  · exact canon_ite (canon_resetCtl (canon_with_rest h) _ _) h
  · exact h

theorem State.canon_regWrite (h : s.canon = true) (off v cover : Nat) : (s.regWrite off v cover).canon = true :=
  canon_ite (canon_ite h (canon_eqCtrl h _)) (canon_ite h (canon_ite (canon_plainWrite h _ _ _) (canon_woWrite (canon_plainWrite h _ _ _) _
    _)))

theorem State.canon_bar4Write (h : s.canon = true) (off v cover : Nat) : (s.bar4Write off v cover).canon = true := by
  unfold State.bar4Write
  refine canon_ite (canon_ite (canon_doorbell h) h) (canon_ite (canon_onHost h rfl rfl) (canon_ite (canon_sendPending ?_) h))
  exact canon_with_msix h (AMap.wf_set (canon_host_msix h))

theorem State.canon_barWrite (h : s.canon = true) (bar off size value : Nat) : (s.barWrite bar off size value).canon = true :=
  canon_ite (canon_bar2Write h _ _) (canon_ite (canon_refuse h) (canon_ite (canon_ite (canon_regWrite h _ _ _) (canon_refuse h)) (canon_ite
    (canon_bar4Write h _ _ _) (canon_refuse h))))

theorem execRegisterWrite_canonical (h : s.canon = true) (bar offset size value : Nat) : Out.Canonical (execRegisterWrite bar offset size
  value s) :=
  Out.canonical_next (canon_barServe h _ _ (fun _ ht => canon_barWrite ht _ _ _ _))

/-! ## Dormant -/

theorem execClusterClockGate_canonical (h : s.canon = true) (c : Nat) : Out.Canonical (execClusterClockGate c s) :=
  Out.canonical_next (canon_ite (canon_setCluster h _ _) h)

theorem State.canon_writeBackAll (h : s.canon = true) : s.writeBackAll.canon = true :=
  canon_overList (fun _ _ ht => canon_foldl (fun _ _ hu => canon_writeBack hu _ _) _ ht) _ h

theorem execDormantEntry_canonical (h : s.canon = true) : Out.Canonical (execDormantEntry s) :=
  Out.canonical_next (canon_ite (canon_overList (fun _ _ ht => canon_ite (canon_setCtl ht _ _) ht) _ (canon_writeBackAll (canon_with_rest
    h))) h)

theorem execDormantEntered_canonical (h : s.canon = true) : Out.Canonical (execDormantEntered s) :=
  Out.canonical_next (canon_ite (canon_ite (canon_writeBackAll h) (canon_bump (canon_overList (fun _ _ ht => canon_setDie ht _ _) _
    (canon_onDorm h _)) _)) h)

theorem execWakingEvent_canonical (h : s.canon = true) : Out.Canonical (execWakingEvent s) := Out.canonical_next (canon_wakeEvent h)
theorem State.canon_serveHeld (h : s.canon = true) (i : Instr) : Out.Canonical (State.serveHeld i s) := by
  unfold State.serveHeld
  split
  · exact execRelease_canonical h _ _
  · exact execHdmCommit_canonical h _ _ _ _ _
  · exact execMemRd_canonical h _
  · exact execMemRdData_canonical h _
  · exact execMemSpecRd_canonical h _
  · exact execMemWr_canonical h _ _ _
  · exact execMemWrPtl_canonical h _ _ _ _
  · exact execProgramMemoryWrite_canonical h _ _
  · exact execLaunchDb_canonical h _
  · exact execResume_canonical h
  · exact execFrstReset_canonical h _
  · exact execFrstFence_canonical h _
  · exact execExpOpen_canonical h _ _
  · exact execExpClose_canonical h _
  · exact execSvCommit_canonical h _
  · exact execOwnerEnrol_canonical h _
  · exact execEqEnable_canonical h _
  · exact execCounterLowRead_canonical h _ _ _
  · exact execRegisterWrite_canonical h _ _ _ _
  · exact execReq_canonical h _ _ _
  · exact execRsp_canonical h _ _ _
  · exact execData_canonical h _ _ _
  · exact Out.canonical_next h

theorem State.canon_pllFault (h : s.canon = true) (k : Nat) : (s.pllFault k).canon = true :=
  canon_ite (canon_ite (canon_fault (canon_onPins h _) _ _ _) h) (canon_ite (canon_fault h _ _ _) h)

theorem serveAll_canonical (is : List Instr) (h : s.canon = true) : Out.Canonical (serveAll is s) := by
  induction is generalizing s with
  | nil => exact Out.canonical_next h
  | cons i is ih =>
    have hi := canon_serveHeld h i
    unfold serveAll
    split
    · next t e => exact ih (hi t e)
    · exact hi

theorem execWakeComplete_canonical (h : s.canon = true) (failedPll : List Nat) : Out.Canonical (execWakeComplete failedPll s) := by
  unfold execWakeComplete
  refine Out.canonical_ite ?_ (Out.canonical_next h)
  extract_lets held
  split
  next us t e =>
  have ht := canon_of_eq (canon_freshTime h _) e
  extract_lets _ u
  have hu : u.canon = true :=
    canon_with_ctls (s := { t with dorm := u.dorm, pins := u.pins }) (canon_with_rest ht) (AMap.wf_mapVals (canon_ctls ht))
  exact serveAll_canonical _ (canon_foldl (fun _ _ hv => canon_pllFault hv _) _ hu)

/-! ## Vector -/

theorem cardIter_canonical (c : Ctx) (exit : Nat) (gs : List Stage) (left : Option Nat) (d a : Opnd) (b : Option Opnd) (js : List Nat) :
    M.Keeps Canonical (cardIter c exit gs left d a b js) := by
  unfold cardIter
  refine M.keeps_bind (readSource_canonical _ _ _) fun x => ?_
  split
  next as sa =>
  extract_lets fb fl out n cmp jp
  have hjp : ∀ y, M.Keeps Canonical (jp y) := by
    intro y
    refine M.keeps_bind (readDest_canonical c d js) fun z => ?_
    refine M.keeps_ite ?_ ?_
    · exact M.keeps_bind (storeVals_canonical _ _ _ _) fun _ => M.keeps_bind (finish_canonical _) fun _ =>
        M.keeps_bind (finish_canonical _) fun _ => M.keeps_pure _
    · exact M.keeps_bind (storeVals_canonical _ _ _ _) fun _ => M.keeps_bind (finish_canonical _) fun _ =>
        M.keeps_bind (finish_canonical _) fun _ => M.keeps_pure _
  split
  · exact M.keeps_bind (readSource_canonical _ _ _) hjp
  · exact M.keeps_bind (M.keeps_pure _) hjp

theorem opCard_canonical (chk : ArithCheck) (c : Ctx) : M.Keeps Canonical (opCard chk c) := by
  unfold opCard
  refine withOpnds_canonical _ _ _ (fun _ => ?_)
  split
  · exact M.keeps_bind (execCheck_canonical _ _) (fun _ => M.keeps_bind (arithEvents_canonical _ _ _) (fun _ => M.keeps_bind (M.keeps_forIn
      (fun _ _ => M.keeps_bind (cardIter_canonical _ _ _ _ _ _ _ _) (fun _ => M.keeps_bind (passUnits_canonical _ _) (fun _ => M.keeps_pure
      _))) _ _) (fun _ => M.keeps_bind (passEnd_canonical _) (fun _ => M.keeps_pure _))))
  · exact M.keeps_pure _

theorem redRead_canonical (c : Ctx) (a : Opnd) (js : List Nat) : M.Keeps Canonical (redRead c a js) :=
  M.keeps_bind (readSource_canonical _ _ _) (fun _ => M.keeps_bind (finish_canonical _) (fun _ => M.keeps_pure _))

theorem State.canon_addContrib (h : s.canon = true) (k : Contrib) : (s.addContrib k).canon = true := canon_with_rest h
theorem redPoison_canonical (c : Ctx) (mbDest : Bool) (os : List Opnd) : M.Keeps Canonical (redPoison c mbDest os) := by
  unfold redPoison
  split
  · exact M.keeps_ite (M.keeps_modify (fun _ ht => canon_addContrib ht _)) (M.keeps_pure _)
  · exact M.keeps_pure _

theorem opRed_canonical (c : Ctx) : M.Keeps Canonical (opRed c) := by
  unfold opRed
  refine withOpndsOr_canonical _ _ _ _ (fun _ => redPoison_canonical _ _ _) (fun _ => ?_)
  split
  · refine M.keeps_bind (execCheck_canonical _ _) (fun _ => ?_)
    split
    · exact M.keeps_bind (M.keeps_forIn (fun _ _ => M.keeps_bind (redRead_canonical _ _ _) (fun _ => M.keeps_bind (readDest_canonical _ _
        _) (fun _ => M.keeps_bind (storeVals_canonical _ _ _ _) (fun _ => M.keeps_bind (finish_canonical _) (fun _ => M.keeps_pure _))))) _
        _) (fun _ => M.keeps_pure _)
    · exact M.keeps_bind (redRead_canonical _ _ _) (fun _ => M.keeps_bind (M.keeps_modify (fun _ ht => canon_addContrib ht _)) (fun _ =>
        M.keeps_pure _))
  · exact M.keeps_pure _

theorem State.canon_creditSat (h : s.canon = true) (k : Contrib) : (s.creditSat k).canon = true := by
  unfold State.creditSat
  split
  · exact canon_setEntry h _ _ _
  · exact canon_ite (canon_totalsFlag (canon_setCore h _ _) _) (canon_addLaunch (canon_setCore h _ _) _ _)

theorem execMailboxReduction_canonical (h : s.canon = true) (mb : Nat) : Out.Canonical (execMailboxReduction mb s) := by
  unfold execMailboxReduction
  refine Out.canonical_next (canon_ite h ?_)
  dsimp only
  split
  · exact canon_ite (canon_creditSat (canon_overList (fun _ _ ht => canon_setSeq ht _ _) _ (canon_with_rest h)) _) (canon_overList (fun _ _
      ht => canon_setSeq ht _ _) _ (canon_with_rest h))
  · exact canon_overList (fun _ _ ht => canon_setSeq ht _ _) _ (canon_with_rest h)

theorem softmaxIter_canonical (c : Ctx) (left : Option Nat) (d a : Opnd) (js : List Nat) : M.Keeps Canonical (softmaxIter c left d a js) :=
  M.keeps_bind (readSource_canonical _ _ _) (fun _ => M.keeps_bind (readDest_canonical _ _ _) (fun _ => M.keeps_bind (storeVals_canonical _
    _ _ _) (fun _ => M.keeps_bind (finish_canonical _) (fun _ => M.keeps_bind (finish_canonical _) (fun _ => M.keeps_pure _)))))

theorem opSoftmax_canonical (chk : ArithCheck) (c : Ctx) : M.Keeps Canonical (opSoftmax chk c) := by
  unfold opSoftmax
  refine withOpnds_canonical _ _ _ (fun _ => ?_)
  split
  · exact M.keeps_bind (execCheck_canonical _ _) (fun _ => M.keeps_bind (arithEvents_canonical _ _ _) (fun _ => M.keeps_bind (M.keeps_forIn
      (fun _ _ => M.keeps_bind (softmaxIter_canonical _ _ _ _ _) (fun _ => M.keeps_bind (passUnits_canonical _ _) (fun _ => M.keeps_pure
      _))) _ _) (fun _ => M.keeps_bind (passEnd_canonical _) (fun _ => M.keeps_pure _))))
  · exact M.keeps_pure _

theorem opMaskgen_canonical (c : Ctx) : M.Keeps Canonical (opMaskgen c) := by
  unfold opMaskgen
  refine withOpnds_canonical _ _ _ (fun _ => ?_)
  split
  · exact M.keeps_bind (execCheck_canonical _ _) (fun _ => M.keeps_bind M.keeps_get (fun _ => M.keeps_bind (M.keeps_forIn (fun _ _ =>
      M.keeps_bind (readDest_canonical _ _ _) (fun _ => M.keeps_bind (storeVals_canonical _ _ _ _) (fun _ => M.keeps_bind (finish_canonical
      _) (fun _ => M.keeps_pure _)))) _ _) (fun _ => M.keeps_pure _)))
  · exact M.keeps_pure _

theorem execCard_canonical (h : s.canon = true) (core : Nat) (chk : ArithCheck) : Out.Canonical (execCard core chk s) :=
  Out.canonical_next (canon_runEngine h _ _ _ _ (fun _ => opCard_canonical _ _))

theorem execRed_canonical (h : s.canon = true) (core : Nat) : Out.Canonical (execRed core s) :=
  Out.canonical_next (canon_runEngine h _ _ _ _ (fun _ => opRed_canonical _))

theorem execSoftmax_canonical (h : s.canon = true) (core : Nat) (chk : ArithCheck) : Out.Canonical (execSoftmax core chk s) :=
  Out.canonical_next (canon_runEngine h _ _ _ _ (fun _ => opSoftmax_canonical _ _))

theorem execMaskgen_canonical (h : s.canon = true) (core : Nat) : Out.Canonical (execMaskgen core s) :=
  Out.canonical_next (canon_runEngine h _ _ _ _ (fun _ => opMaskgen_canonical _))

/-! ## Step -/

theorem State.canon_withFetchWord (h : s.canon = true) (nbits w : Nat) : (s.withFetchWord nbits w).canon = true := h
/-! ## Every command -/

/-- What a command answers is canonical, by the lemma of the command's own function. -/
theorem exec_canonical (h : s.canon = true) (i : Instr) : Out.Canonical (exec i s) := by
  cases i with
  | inputOn => exact execInputOn_canonical h
  | undervoltageOff => exact execUndervoltageOff_canonical h
  | overvoltageOff => exact execOvervoltageOff_canonical h
  | mrstLow => exact execMrstLow_canonical h
  | mrstHigh => exact execMrstHigh_canonical h
  | perstLow => exact execPerstLow_canonical h
  | perstHigh => exact execPerstHigh_canonical h
  | pprsntChange _ _ => exact execPprsntChange_canonical h _ _
  | hostLinkStateChange _ _ _ => exact execHostLinkStateChange_canonical h _ _ _
  | caperr _ => exact execCaperr_canonical h _
  | calert _ _ => exact execCalert_canonical h _ _
  | corePllLockLoss _ => exact execCorePllLockLoss_canonical h _
  | strapSample _ _ => exact execStrapSample_canonical h _ _
  | slotHeadersRead _ _ _ => exact execSlotHeadersRead_canonical h _ _ _
  | imageRead => exact execImageRead_canonical h
  | imageVerify => exact execImageVerify_canonical h
  | railSequence _ => exact execRailSequence_canonical h _
  | linkBringup _ => exact execLinkBringup_canonical h _
  | cappingFill _ => exact execCappingFill_canonical h _
  | selfTest _ => exact execSelfTest_canonical h _
  | s7Entry => exact execS7Entry_canonical h
  | norOperationDone => exact execNorOperationDone_canonical h
  | norTimeout => exact execNorTimeout_canonical h
  | fatalLogWrite => exact execFatalLogWrite_canonical h
  | getStatus _ => exact execGetStatus_canonical h _
  | getIdent _ => exact execGetIdent_canonical h _
  | getSensor _ _ => exact execGetSensor_canonical h _ _
  | clearAlert _ _ => exact execClearAlert_canonical h _ _
  | norRead _ _ _ => exact execNorRead_canonical h _ _ _
  | norBuf _ _ _ => exact execNorBuf_canonical h _ _ _
  | norProg _ _ => exact execNorProg_canonical h _ _
  | norErase _ _ => exact execNorErase_canonical h _ _
  | norStat _ => exact execNorStat_canonical h _
  | housekeepingRound _ => exact execHousekeepingRound_canonical h _
  | smokerStepDown => exact execSmokerStepDown_canonical h
  | firstUseEnd => exact execFirstUseEnd_canonical h
  | multiplierStepDown _ => exact execMultiplierStepDown_canonical h _
  | slotFailed _ => exact execSlotFailed_canonical h _
  | thermalShutdown => exact execThermalShutdown_canonical h
  | thermalRestart => exact execThermalRestart_canonical h
  | railFault _ => exact execRailFault_canonical h _
  | broadcast _ _ => exact execBroadcast_canonical h _ _
  | nop _ _ => exact execNop_canonical h _ _
  | br _ _ => exact execBr_canonical h _ _
  | lset _ _ => exact execLset_canonical h _ _
  | stepBegin _ _ => exact execStepBegin_canonical h _ _
  | stepBeginBarrier => exact execStepBeginBarrier_canonical h
  | stepEnd _ _ => exact execStepEnd_canonical h _ _
  | endOfStep _ => exact execEndOfStep_canonical h _
  | wtok _ _ => exact execWtok_canonical h _ _
  | wagglePost _ _ => exact execWagglePost_canonical h _ _
  | waggleCompletion _ => exact execWaggleCompletion_canonical h _
  | waggleWaitRelease _ _ => exact execWaggleWaitRelease_canonical h _ _
  | pace _ _ => exact execPace_canonical h _ _
  | paceRelease _ _ => exact execPaceRelease_canonical h _ _
  | halt _ _ => exact execHalt_canonical h _ _
  | haltComplete => exact execHaltComplete_canonical h
  | segmentSwap _ _ => exact execSegmentSwap_canonical h _ _
  | segmentMeasurement _ _ => exact execSegmentMeasurement_canonical h _ _
  | aadd _ _ => exact execAadd_canonical h _ _
  | asub _ _ => exact execAsub_canonical h _ _
  | amuli _ _ => exact execAmuli_canonical h _ _
  | ashl _ _ => exact execAshl_canonical h _ _
  | ashr _ _ => exact execAshr_canonical h _ _
  | aand _ _ => exact execAand_canonical h _ _
  | amin _ _ => exact execAmin_canonical h _ _
  | amax _ _ => exact execAmax_canonical h _ _
  | asel _ _ => exact execAsel_canonical h _ _
  | amovi _ _ => exact execAmovi_canonical h _ _
  | arank _ _ => exact execArank_canonical h _ _
  | dset _ _ => exact execDset_canonical h _ _
  | dload _ _ => exact execDload_canonical h _ _
  | dstore _ _ => exact execDstore_canonical h _ _
  | dadv _ _ => exact execDadv_canonical h _ _
  | fteRead _ _ => exact execFteRead_canonical h _ _
  | mma _ _ => exact execMma_canonical h _ _
  | mmas _ _ => exact execMmas_canonical h _ _
  | mzero _ => exact execMzero_canonical h _
  | mdrain _ => exact execMdrain_canonical h _
  | mv _ _ => exact execMv_canonical h _ _
  | card _ _ => exact execCard_canonical h _ _
  | red _ => exact execRed_canonical h _
  | mailboxReduction mb => exact execMailboxReduction_canonical h mb
  | softmax _ _ => exact execSoftmax_canonical h _ _
  | maskgen _ => exact execMaskgen_canonical h _
  | gidx _ => exact execGidx_canonical h _
  | runAheadPrefetch _ _ => exact execRunAheadPrefetch_canonical h _ _
  | gather _ => exact execGather_canonical h _
  | scatter _ => exact execScatter_canonical h _
  | fcompat _ => exact execFcompat_canonical h _
  | move _ => exact execMove_canonical h _
  | fill _ => exact execFill_canonical h _
  | cmv _ => exact execCmv_canonical h _
  | mvFallback _ _ => exact execMvFallback_canonical h _ _
  | cmvCompletion _ => exact execCmvCompletion_canonical h _
  | peerput _ => exact execPeerput_canonical h _
  | peerget _ => exact execPeerget_canonical h _
  | mirrorsync _ => exact execMirrorsync_canonical h _
  | tokenPlace _ _ _ => exact execTokenPlace_canonical h _ _ _
  | peerTransferTimeout _ _ => exact execPeerTransferTimeout_canonical h _ _
  | tileSequence _ => exact execTileSequence_canonical h _
  | rowCommandIssue _ _ _ _ => exact execRowCommandIssue_canonical h _ _ _ _
  | columnCommandIssue _ _ => exact execColumnCommandIssue_canonical h _ _
  | residueLimit _ => exact execResidueLimit_canonical h _
  | runBoundary _ => exact execRunBoundary_canonical h _
  | evacuation _ => exact execEvacuation_canonical h _
  | frameCopyDone _ _ => exact execFrameCopyDone_canonical h _ _
  | homeAccess _ _ => exact execHomeAccess_canonical h _ _
  | mirrorDuplicate _ => exact execMirrorDuplicate_canonical h _
  | memoryRequest _ => exact execMemoryRequest_canonical h _
  | dramAccessComplete _ _ => exact execDramAccessComplete_canonical h _ _
  | patrolScrub _ => exact execPatrolScrub_canonical h _
  | refreshDue _ _ => exact execRefreshDue_canonical h _ _
  | powerDownTimer _ _ => exact execPowerDownTimer_canonical h _ _
  | diagWindowExpiry _ _ => exact execDiagWindowExpiry_canonical h _ _
  | release _ _ => exact execRelease_canonical h _ _
  | stepWatchdog _ => exact execStepWatchdog_canonical h _
  | bankLoss _ _ => exact execBankLoss_canonical h _ _
  | d2dLinkLoss _ => exact execD2dLinkLoss_canonical h _
  | d2dRetrain _ => exact execD2dRetrain_canonical h _
  | faultReplay _ _ => exact execFaultReplay_canonical h _ _
  | rehydrationCopy => exact execRehydrationCopy_canonical h
  | perFunctionResetDone _ _ => exact execPerFunctionResetDone_canonical h _ _
  | configRequest _ _ => exact execConfigRequest_canonical h _ _
  | hdmCommit _ _ _ _ _ => exact execHdmCommit_canonical h _ _ _ _ _
  | memRd _ => exact execMemRd_canonical h _
  | memRdData _ => exact execMemRdData_canonical h _
  | memWr _ _ _ => exact execMemWr_canonical h _ _ _
  | memWrPtl _ _ _ _ => exact execMemWrPtl_canonical h _ _ _ _
  | memSpecRd _ => exact execMemSpecRd_canonical h _
  | programMemoryWrite _ _ => exact execProgramMemoryWrite_canonical h _ _
  | launchDb _ => exact execLaunchDb_canonical h _
  | resume => exact execResume_canonical h
  | frstReset _ => exact execFrstReset_canonical h _
  | frstFence _ => exact execFrstFence_canonical h _
  | expOpen _ _ => exact execExpOpen_canonical h _ _
  | expClose _ => exact execExpClose_canonical h _
  | svCommit _ => exact execSvCommit_canonical h _
  | ownerEnrol _ => exact execOwnerEnrol_canonical h _
  | eqEnable _ => exact execEqEnable_canonical h _
  | eventWrite => exact execEventWrite_canonical h
  | counterLowRead _ _ _ => exact execCounterLowRead_canonical h _ _ _
  | registerWrite _ _ _ _ => exact execRegisterWrite_canonical h _ _ _ _
  | getIdentity => exact execGetIdentity_canonical h
  | getMeas _ _ => exact execGetMeas_canonical h _ _
  | getReport _ _ _ _ _ => exact execGetReport_canonical h _ _ _ _ _
  | close _ => exact execClose_canonical h _
  | idle _ _ => exact execIdle_canonical h _ _
  | req _ _ _ => exact execReq_canonical h _ _ _
  | rsp _ _ _ => exact execRsp_canonical h _ _ _
  | data _ _ _ => exact execData_canonical h _ _ _
  | hello _ _ _ => exact execHello_canonical h _ _ _
  | retry _ _ _ => exact execRetry_canonical h _ _ _
  | resync _ _ _ => exact execResync_canonical h _ _ _
  | helloSend _ => exact execHelloSend_canonical h _
  | routeExpiry _ _ => exact execRouteExpiry_canonical h _ _
  | portRetrain _ _ _ => exact execPortRetrain_canonical h _ _ _
  | clusterClockGate _ => exact execClusterClockGate_canonical h _
  | dormantEntry => exact execDormantEntry_canonical h
  | dormantEntered => exact execDormantEntered_canonical h
  | wakingEvent => exact execWakingEvent_canonical h
  | wakeComplete _ => exact execWakeComplete_canonical h _
  | holdUpExpiry => exact execHoldUpExpiry_canonical h
  | secCmdDone _ => exact execSecCmdDone_canonical h _
  | flitCrcFail _ _ => exact execFlitCrcFail_canonical h _ _
  | peerPortUp _ _ => exact execPeerPortUp_canonical h _ _

end Sys2Proof.Machine
end

open Sys2Proof Sys2Proof.Machine in
/-- Settles O59: the command at the head of the queue keeps the form (`exec_canonical`), and taking it from the queue touches no map. -/
theorem everyStepKeepsMapsCanonical : Obligations.EveryStepKeepsMapsCanonical := by
  unfold Obligations.EveryStepKeepsMapsCanonical
  intro s t h e
  unfold step at e
  split at e
  · cases e
    exact h
  · exact exec_canonical (State.canon_with_rest h) _ t e

section
/-! PROOFS. The entry to S7 (R63, R64, R504): what it sets, and the event of each function fenced in start-up. -/

namespace Sys2Proof.Machine

variable {s : State}

/-! ## Raising events -/

/-- The state without what raising an event changes, and without what start-up has still to tell. -/
def State.besideEvents (s : State) : State :=
  { s with host := .init, ledg := [], freeCtr := 0, boot := { s.boot with fences := [], thermRestart := false } }

@[simp] theorem State.besideEvents_raise (s : State) (ty fid d0 d1 : Nat) : (s.raise ty fid d0 d1).besideEvents = s.besideEvents :=
  (congrArg State.besideEvents (s.raise_frame ty fid d0 d1) :)

/-- While the pending store has room an event joins it as the newest entry. -/
theorem State.raise_pend (h : s.host.pend.length < 4095) (ty fid d0 d1 : Nat) : (s.raise ty fid d0 d1).host.pend = s.host.pend ++
    [{ ty := ty, count := 1, fid := fid, d0 := d0, d1 := d1, us := (Config.freeTime s.freeCtr).toNat % 2 ^ 48 }] := by
  rw [State.raise_host, mergeEvent, if_pos h]

/-- An event of type 1 for each fence. -/
def State.raiseFences (s : State) (fs : List StartFence) : State := fs.foldl (fun s f => s.raise 1 f.fid f.state f.dpa) s

@[simp] theorem State.besideEvents_raiseFences (s : State) (fs : List StartFence) : (s.raiseFences fs).besideEvents = s.besideEvents :=
  foldl_view State.besideEvents (fun t (f : StartFence) => t.besideEvents_raise 1 f.fid f.state f.dpa) fs s

/-- The event of a fence. -/
def StartFence.ToldBy (f : StartFence) (e : Event) : Prop := e.ty = 1 ∧ e.fid = f.fid ∧ e.d0 = f.state ∧ e.d1 = f.dpa

/-- While the pending store has room each fence has its event there, after the entries that wait. -/
theorem State.raiseFences_pend : ∀ (fs : List StartFence) (s : State), s.host.pend.length + fs.length ≤ 4095 →
    ∃ es, (s.raiseFences fs).host.pend = s.host.pend ++ es ∧ es.length = fs.length ∧ ∀ f ∈ fs, ∃ e ∈ es, f.ToldBy e
  | [], s, _ => ⟨[], (List.append_nil _).symm, rfl, by simp⟩
  | f :: fs, s, h => by
    simp only [List.length_cons] at h
    have hp := State.raise_pend (s := s) (by omega) 1 f.fid f.state f.dpa
    obtain ⟨es, he, hlen, hfs⟩ := State.raiseFences_pend fs (s.raise 1 f.fid f.state f.dpa) (by rw [hp]; simp; omega)
    rw [hp, List.append_assoc] at he
    refine ⟨_ :: es, he, congrArg (· + 1) hlen, List.forall_mem_cons.mpr ⟨⟨_, List.mem_cons_self .., rfl, rfl, rfl, rfl⟩, fun g hg => ?_⟩⟩
    obtain ⟨e, hmem, htold⟩ := hfs g hg
    exact ⟨e, List.mem_cons_of_mem _ hmem, htold⟩

/-! ## The entry (R63) -/

/-- The state as S7 begins, before its events. -/
def State.atS7Start (s : State) : State :=
  { (s.freshTime 28).2 with
      boot := { s.boot with st := .s7, startUs := (s.freshTime 28).1 },
      hk := { s.hk with sinceS7 := 0, level := 15, down := 0, stepDownDue := false, firstUseDue := false },
      stk := [] }

/-- The state in S7 once the fences of start-up have their events. -/
def State.fencesTold (s : State) : State :=
  let t := s.atS7Start.raiseFences s.boot.fences
  { t with boot := { t.boot with fences := [] } }

/-- A restart after a thermal shutdown has its event too. -/
def State.restartTold (s : State) : State :=
  if s.boot.thermRestart then
    State.raise { s with boot := { s.boot with thermRestart := false } } 0x20 0 s.hk.thermSlot s.hk.thermReading
  else s

theorem exec_s7Entry_done (hst : s.boot.st = .s6) (hd : s.boot.s6Done = true) (hp : s.pins.perst = true) :
    exec .s7Entry s = .next s.fencesTold.restartTold := by
  change execS7Entry s = _
  rw [execS7Entry, if_pos ⟨hst, hd, hp⟩]
  rfl

@[simp] theorem State.besideEvents_fencesTold (s : State) : s.fencesTold.besideEvents = s.atS7Start.besideEvents :=
  s.atS7Start.besideEvents_raiseFences s.boot.fences

@[simp] theorem State.besideEvents_restartTold (s : State) : s.restartTold.besideEvents = s.besideEvents := by
  unfold State.restartTold
  split
  · rw [State.besideEvents_raise]
    rfl
  · rfl

/-- Entries of the pending store are still there when the restart is told, while the store has room. -/
theorem State.restartTold_pend (h : s.host.pend.length < 4095) {e : Event} (he : e ∈ s.host.pend) : e ∈ s.restartTold.host.pend := by
  unfold State.restartTold
  split
  · rw [State.raise_pend (by exact h)]
    exact List.mem_append_left _ he
  · exact he

end Sys2Proof.Machine

open Sys2Proof Sys2Proof.Machine

/-- Settles O10: the entry sets its fields, and each event of a fence joins the pending store while that has room. -/
theorem s7EntryPlacesFenceEvents : Obligations.S7EntryPlacesFenceEvents := by
  unfold Obligations.S7EntryPlacesFenceEvents
  intro s hst hd hp
  have hf : s.fencesTold.restartTold.besideEvents = s.atS7Start.besideEvents := by simp
  refine ⟨_, exec_s7Entry_done hst hd hp, (congrArg (·.boot.st) hf :), (congrArg (·.hk.level) hf :), fun k => ?_, (congrArg State.prog hf :),
    (congrArg State.cores hf :), (congrArg State.dram hf :), (congrArg State.regs hf :), fun hroom f hmem => ?_⟩
  · rw [State.stack, show s.fencesTold.restartTold.stk = [] from (congrArg State.stk hf :)]
    rfl
  · obtain ⟨es, hp, hes, htold⟩ := State.raiseFences_pend s.boot.fences s.atS7Start (by exact hroom.le)
    have hlen : s.fencesTold.host.pend.length < 4095 := by
      rw [show s.fencesTold.host.pend = _ from hp, List.length_append, hes]
      exact hroom
    obtain ⟨e, he, hte⟩ := htold f hmem
    exact ⟨e, State.restartTold_pend hlen (show e ∈ (s.atS7Start.raiseFences s.boot.fences).host.pend from hp ▸ List.mem_append_right _ he), hte⟩
end

section
/-! PROOFS. What start-up leaves alone (R54 to R62): fencing a function, recording patterns, refreshing and recovering the logs change the
memories of links, units and events, and nothing of the cores, the clusters, the sequencers, the DRAM, the configuration and the pins. -/

namespace Sys2Proof.Machine

variable {s : State}

/-- What no application changes in a state, no pass over a list of numbers changes. -/
theorem overList_view {α : Type} (v : State → α) {f : Nat → State → State} (hf : ∀ k t, v (f k t) = v t) (ks : List Nat) (t : State) :
    v (overList ks f t) = v t :=
  foldl_view v (fun t k => hf k t) ks t

/-- The state without what start-up changes from S4 to S6 as it fences functions, records results and recovers the logs. -/
def State.besideFencing (s : State) : State :=
  { s with boot := { s.boot with fences := [] }, flt := { s.flt with fenced := [] }, ctls := [], units := [], d2d := [], ports := [],
           host := .init, ledg := [], freeCtr := 0, cnt := [], regs := [], firstOvf := 0, novf := 0, nor := .init, mgmt := .init,
           fuses := .init, sec := .init, dies := [], homeOut := [],
           heldWrites := [], dorm := .init, unlocked := [] }

/-- What changes nothing beside these keeps the state of start-up, the configuration, the memories of cores and clusters, the sequencers and
the DRAM. -/
theorem State.kept_of_besideFencing {t : State} (h : t.besideFencing = s.besideFencing) : t.boot.st = s.boot.st ∧ t.cfg = s.cfg ∧
    t.cores = s.cores ∧ t.clusters = s.clusters ∧ t.seqs = s.seqs ∧ t.dram = s.dram :=
  ⟨(congrArg (·.boot.st) h :), (congrArg State.cfg h :), (congrArg State.cores h :), (congrArg State.clusters h :),
    (congrArg State.seqs h :), (congrArg State.dram h :)⟩

/-! ## The shared operations -/

@[simp] theorem State.besideFencing_setReg (s : State) (i : Nat) (v : Word) : (s.setReg i v).besideFencing = s.besideFencing := rfl
@[simp] theorem State.besideFencing_setCtl (s : State) (i : Nat) (v : Ctl) : (s.setCtl i v).besideFencing = s.besideFencing := rfl
@[simp] theorem State.besideFencing_setUnit (s : State) (i : Nat) (v : CUnit) : (s.setUnit i v).besideFencing = s.besideFencing := rfl
@[simp] theorem State.besideFencing_setLink (s : State) (i : Nat) (v : D2d) : (s.setLink i v).besideFencing = s.besideFencing := rfl
@[simp] theorem State.besideFencing_setPort (s : State) (i : Nat) (v : Port) : (s.setPort i v).besideFencing = s.besideFencing := rfl
@[simp] theorem State.besideFencing_setLedg6 (s : State) (j v : Nat) : (s.setLedg6 j v).besideFencing = s.besideFencing := rfl
@[simp] theorem State.besideFencing_onNor (s : State) (f : Nor → Nor) : (s.onNor f).besideFencing = s.besideFencing := rfl
@[simp] theorem State.besideFencing_onSec (s : State) (f : Sec → Sec) : (s.onSec f).besideFencing = s.besideFencing := rfl
@[simp] theorem State.besideFencing_noteFence (s : State) (fid st dpa : Nat) : (s.noteFence fid st dpa).besideFencing = s.besideFencing := rfl
@[simp] theorem State.besideFencing_freshTime (s : State) (n : Nat) : (s.freshTime n).2.besideFencing = s.besideFencing := rfl
@[simp] theorem State.besideFencing_freshData (s : State) : s.freshData.2.besideFencing = s.besideFencing := rfl
@[simp] theorem State.besideFencing_ledgIn (s : State) (k n : Nat) : (s.ledgIn k n).besideFencing = s.besideFencing :=
  (congrArg State.besideFencing (s.ledgIn_frame k n) :)
@[simp] theorem State.besideFencing_ledgOut (s : State) (k n : Nat) : (s.ledgOut k n).besideFencing = s.besideFencing :=
  (congrArg State.besideFencing (s.ledgOut_frame k n) :)
@[simp] theorem State.besideFencing_ledgAlt (s : State) (k n : Nat) : (s.ledgAlt k n).besideFencing = s.besideFencing :=
  (congrArg State.besideFencing (s.ledgAlt_frame k n) :)
@[simp] theorem State.besideFencing_raise (s : State) (ty fid d0 d1 : Nat) : (s.raise ty fid d0 d1).besideFencing = s.besideFencing :=
  (congrArg State.besideFencing (s.raise_frame ty fid d0 d1) :)
@[simp] theorem State.besideFencing_bumpN (s : State) (off k : Nat) : (s.bumpN off k).besideFencing = s.besideFencing :=
  (congrArg State.besideFencing (s.bumpN_frame off k) :)
@[simp] theorem State.besideFencing_bump (s : State) (off : Nat) : (s.bump off).besideFencing = s.besideFencing := s.besideFencing_bumpN off 1

/-! ## Fencing -/

@[simp] theorem State.besideFencing_fenceStart (s : State) (fid st dpa : Nat) : (s.fenceStart fid st dpa).besideFencing = s.besideFencing := by
  unfold State.fenceStart
  split
  · rfl
  · rw [State.besideFencing_bump]
    rfl

@[simp] theorem State.besideFencing_fenceUnit (s : State) (u cause st : Nat) : (s.fenceUnit u cause st).besideFencing = s.besideFencing := by
  simp [State.fenceUnit, apply_ite State.besideFencing]

@[simp] theorem State.besideFencing_takeUnit (s : State) (u : Nat) : (s.takeUnit u).besideFencing = s.besideFencing := by
  simp [State.takeUnit, apply_ite State.besideFencing]

@[simp] theorem State.besideFencing_channelFailed (s : State) (n st : Nat) : (s.channelFailed n st).besideFencing = s.besideFencing := by
  simp [State.channelFailed, apply_ite State.besideFencing, overList_view State.besideFencing fun u t => t.besideFencing_takeUnit u]

@[simp] theorem State.besideFencing_baseFailed (s : State) (d st : Nat) : (s.baseFailed d st).besideFencing = s.besideFencing := by
  simp [State.baseFailed, overList_view State.besideFencing fun n t => t.besideFencing_channelFailed n st]

@[simp] theorem State.besideFencing_startLosses (s : State) (st : Nat) : (s.startLosses st).besideFencing = s.besideFencing :=
  overList_view State.besideFencing (fun d t => by simp [apply_ite State.besideFencing]) fourDies s

@[simp] theorem State.besideFencing_clusterFailed (s : State) (k st : Nat) : (s.clusterFailed k st).besideFencing = s.besideFencing := by
  simp [State.clusterFailed, overList_view State.besideFencing fun g t => t.besideFencing_fenceStart (0x1000 + g) st 0]

@[simp] theorem State.besideFencing_coreFailed (s : State) (g st : Nat) : (s.coreFailed g st).besideFencing = s.besideFencing := by
  simp [State.coreFailed, apply_ite State.besideFencing]

@[simp] theorem State.besideFencing_sramFailed (s : State) (fid : Nat) : (s.sramFailed fid).besideFencing = s.besideFencing := by
  unfold State.sramFailed
  split <;> simp

@[simp] theorem State.besideFencing_sramCorrected (s : State) (fid n : Nat) : (s.sramCorrected fid n).besideFencing = s.besideFencing := by
  unfold State.sramCorrected
  split <;> simp

@[simp] theorem State.besideFencing_linkFailed (s : State) (st : Nat) (l : LinkId) : (s.linkFailed st l).besideFencing = s.besideFencing := by
  cases l <;> simp [State.linkFailed, apply_ite State.besideFencing]

/-! ## Link patterns (R61) -/

theorem State.besideHostReset_lpgStart (s : State) (ls : List LinkId) : (s.lpgStart ls).besideHostReset = s.besideHostReset := by
  unfold State.lpgStart
  simp only
  rw [overList_view State.besideHostReset fun p t => ?peer, overList_view State.besideHostReset fun d t => t.besideHostReset_lpgResult ..,
    overList_view State.besideHostReset fun l t => t.besideHostReset_lpgResult ..,
    overList_view State.besideHostReset fun n t => t.besideHostReset_lpgResult ..,
    overList_view State.besideHostReset fun n t => t.besideHostReset_lpgResult ..]
  split
  · rfl
  · exact t.besideHostReset_lpgResult ..

@[simp] theorem State.besideFencing_lpgStart (s : State) (ls : List LinkId) : (s.lpgStart ls).besideFencing = s.besideFencing :=
  (congrArg State.besideFencing (s.besideHostReset_lpgStart ls) :)

/-! ## Refreshes, the journal and the fatal-event log (R41, R58, R457, R477) -/

@[simp] theorem State.besideFencing_logCmd (s : State) (n bus : Nat) (word : Option Nat) :
    (s.logCmd n bus word).besideFencing = s.besideFencing := by
  cases word
  · rfl
  · rfl

@[simp] theorem State.besideFencing_paid (s : State) (n i : Nat) : (s.paid n i).besideFencing = s.besideFencing := rfl

@[simp] theorem State.besideFencing_modeRegs (s : State) (n : Nat) : (s.modeRegs n).besideFencing = s.besideFencing :=
  foldl_view State.besideFencing (fun t _ => t.besideFencing_logCmd n 0 none) _ s

@[simp] theorem State.besideFencing_refreshBank (s : State) (n bank : Nat) : (s.refreshBank n bank).besideFencing = s.besideFencing := by
  simp [State.refreshBank, apply_ite State.besideFencing]

@[simp] theorem State.besideFencing_discharge (s : State) (n i : Nat) : (s.discharge n i).besideFencing = s.besideFencing :=
  foldl_view State.besideFencing
    (fun t _ => foldl_view State.besideFencing (fun u b => u.besideFencing_refreshBank n b) (t.toRefresh n i) t) _ s

theorem State.besideFencing_with_nor (s : State) (x : Nor) (n : Nat) : State.besideFencing { s with nor := x, freeCtr := n } = s.besideFencing :=
  rfl

@[simp] theorem State.besideFencing_norPartial (s : State) (op : NorOp) : (s.norPartial op).besideFencing = s.besideFencing := by
  cases op
  · exact s.besideFencing_with_nor _ _
  · exact s.besideFencing_with_nor _ _

@[simp] theorem State.besideFencing_norApply (s : State) (op : NorOp) : (s.norApply op).besideFencing = s.besideFencing := by
  cases op
  · rfl
  · rfl

@[simp] theorem State.besideFencing_norRequest (s : State) (op : NorOp) : (s.norRequest op).besideFencing = s.besideFencing := by
  unfold State.norRequest
  split
  · rfl
  · rfl

@[simp] theorem State.besideFencing_norNext (s : State) (b : Bool) : (s.norNext b).besideFencing = s.besideFencing :=
  (congrArg State.besideFencing (s.norNext_keeps b).1 :)

@[simp] theorem State.besideFencing_fatal (s : State) (ty slot reading : Nat) : (s.fatal ty slot reading).besideFencing = s.besideFencing := by
  simp only [State.fatal, State.besideFencing_ledgIn]
  rfl

@[simp] theorem State.besideFencing_eraseAhead (s : State) (base pos : Nat) : (s.eraseAhead base pos).besideFencing = s.besideFencing := by
  simp [State.eraseAhead, apply_ite State.besideFencing]

@[simp] theorem State.besideFencing_norAfter (s : State) (op : NorOp) (ok : Bool) : (s.norAfter op ok).besideFencing = s.besideFencing := by
  unfold State.norAfter
  split
  · simp only [State.fatalDone, State.besideFencing_eraseAhead, apply_ite State.besideFencing, State.besideFencing_ledgOut,
      State.besideFencing_ledgAlt, ite_self]
    rfl
  · rfl

theorem besideFencing_norSettle : ∀ (n : Nat) (s : State), (norSettle n s).besideFencing = s.besideFencing
  | 0, _ => rfl
  | n + 1, s => by
    unfold norSettle
    split
    · rfl
    · rw [besideFencing_norSettle n]
      simp

@[simp] theorem State.besideFencing_norWait (s : State) : s.norWait.besideFencing = s.besideFencing := besideFencing_norSettle _ s

@[simp] theorem State.besideFencing_fatalScan (s : State) : s.fatalScan.besideFencing = s.besideFencing := by
  unfold State.fatalScan
  split
  · rfl
  · rfl

@[simp] theorem State.besideFencing_fatalLoad (s : State) : s.fatalLoad.besideFencing = s.besideFencing := rfl

@[simp] theorem State.besideFencing_newEpoch (s : State) (why : Nat) : (s.newEpoch why).besideFencing = s.besideFencing := by
  simp only [State.newEpoch, State.besideFencing_raise]
  rfl

@[simp] theorem State.besideFencing_with_sec (s : State) (x : Sec) : State.besideFencing { s with sec := x } = s.besideFencing := rfl

@[simp] theorem State.besideFencing_journal (s : State) (kind epoch leaf : Nat) (r : PageEnd) :
    (s.journal kind epoch leaf r).besideFencing = s.besideFencing := by
  simp [State.journal, apply_ite State.besideFencing]

@[simp] theorem State.besideFencing_journalRecover (s : State) (r : PageEnd) : (s.journalRecover r).besideFencing = s.besideFencing := by
  simp [State.journalRecover, apply_ite State.besideFencing]

end Sys2Proof.Machine
end

section
/-! PROOFS. The self-test (R61, R62, R502): the live mask that it forms, and when the module enters HOLD instead. -/

namespace Sys2Proof.Machine

variable {s : State}

/-! ## Masks of cores -/

/-- A mask of cores has the bits of the cores. -/
theorem getLsbD_maskCores {gs : List Nat} {g : Nat} (hg : g < 2048) : (maskCores gs).getLsbD g = decide (g ∈ gs) := by
  have hbit : ∀ k : Nat, (BitVec.ofNat 2048 (1 <<< k)).getLsbD g = decide (g = k) := fun k => by
    rw [BitVec.getLsbD_ofNat, Nat.one_shiftLeft, Nat.testBit_two_pow, decide_eq_true hg, Bool.true_and]
    exact decide_eq_decide.mpr eq_comm
  have hfold : ∀ (gs : List Nat) (m : BitVec 2048),
      (gs.foldl (fun m k => m ||| BitVec.ofNat 2048 (1 <<< k)) m).getLsbD g = (m.getLsbD g || decide (g ∈ gs)) := fun gs => by
    induction gs with
    | nil => simp
    | cons k gs ih =>
      intro m
      rw [List.foldl_cons, ih, BitVec.getLsbD_or, hbit, Bool.or_assoc]
      simp only [List.mem_cons, Bool.decide_or]
  rw [maskCores, hfold]
  simp

/-- The n lowest numbers that satisfy p are those with fewer than n below them. -/
theorem mem_take_filter_range {p : Nat → Bool} {m g : Nat} (hg : g < m) (n : Nat) :
    g ∈ ((List.range m).filter p).take n ↔ p g = true ∧ ((List.range g).filter p).length < n := by
  obtain ⟨k, rfl⟩ : ∃ k, m = g + (k + 1) := ⟨m - g - 1, by omega⟩
  have hlow : g ∉ ((List.range g).filter p).take n := fun h => by
    simpa using List.mem_of_mem_take h
  rw [List.range_add, List.range_succ_eq_map, List.map_cons, Nat.add_zero, List.filter_append, List.take_append, List.mem_append]
  cases hp : p g with
  | false =>
    refine iff_of_false (fun h => ?_) (by simp)
    have := List.of_mem_filter (List.mem_of_mem_take (h.resolve_left hlow))
    simp [hp] at this
  | true =>
    rw [List.filter_cons_of_pos hp, or_iff_right hlow, and_iff_right rfl, ← Nat.sub_pos_iff_lt]
    cases n - ((List.range g).filter p).length with
    | zero => simp
    | succ j => simp

/-- The cores of the initial live mask: admitted by LIVEMASK and not fenced. -/
theorem State.of_mem_initialLive {g : Nat} (h : g ∈ s.initialLive) : g < 2048 ∧ s.cfg.liveMask.getLsbD g = true ∧
    s.isFenced (0x1000 + g) = false ∧ s.isFenced (0x2000 + g / 32) = false ∧ s.isFenced (0x3000 + g / 512) = false := by
  have hf : g ∈ (List.range 2048).filter fun g =>
      s.cfg.liveMask.getLsbD g && !s.isFenced (0x1000 + g) && !s.isFenced (0x2000 + g / 32) && !s.isFenced (0x3000 + g / 512) := by
    unfold State.initialLive at h
    split at h
    · exact h
    · exact List.mem_of_mem_take h
  simpa [and_assoc] using hf

/-! ## The live mask takes effect -/

/-- The state without what the live mask changes as it takes effect. -/
def State.besideLive (s : State) : State := { s with cores := [], seqs := [], pins := { s.pins with corePll := 0 } }

@[simp] theorem State.besideLive_applyLive (s : State) : s.applyLive.besideLive = s.besideLive := by
  have hcore : ∀ g (t : State) c, (t.setCore g c).besideLive = t.besideLive := fun g t c => rfl
  have hseq : ∀ d (t : State), (if t.liveOf d = [] then t.setSeq d { t.seq d with st := .parked } else t).besideLive = t.besideLive :=
    fun d t => by
      split
      · rfl
      · rfl
  have hpins : ∀ (t : State) (f : Pins → Nat), (t.onPins fun p => { p with corePll := f p }).besideLive = t.besideLive := fun t f => rfl
  unfold State.applyLive
  simp only
  rw [hpins, overList_view State.besideLive hseq, overList_view State.besideLive fun g t => hcore g t _]

theorem State.kept_of_besideLive {t : State} (h : t.besideLive = s.besideLive) : t.boot = s.boot ∧ t.flt = s.flt ∧ t.dram = s.dram ∧
    t.prog = s.prog :=
  ⟨(congrArg State.boot h :), (congrArg State.flt h :), (congrArg State.dram h :), (congrArg State.prog h :)⟩

/-- The die of a live core has a live core, as long as the mask and the fences stand. -/
theorem State.liveOf_ne_nil {t : State} {g : Nat} (ht : t.besideLive = s.besideLive) (hg : s.isLive g = true) : t.liveOf (g / 512) ≠ [] := by
  obtain ⟨-, hflt, -, hprog⟩ := State.kept_of_besideLive ht
  refine List.ne_nil_of_mem (a := g) (List.mem_filter.mpr ⟨List.mem_map.mpr ⟨g % 512, ?_, ?_⟩, ?_⟩)
  · exact List.mem_range.mpr (Nat.mod_lt _ (by decide))
  · omega
  · simpa only [State.isLive, State.coreDown, State.isFenced, hflt, hprog] using hg

theorem State.unparked_setSeq_other (hw : AMap.wf Seq.init s.seqs = true) {d e : Nat} (h : e ≠ d) (q : Seq) :
    (s.setSeq d q).unparked e = s.unparked e :=
  congrArg (fun q : Seq => q.st != .parked) (AMap.get_set_other _ (AMap.rising_of_wf hw) h q)

/-- While the mask of s takes effect, die d's sequencer is not parked. -/
structure State.StaysActive (s : State) (d : Nat) (t : State) : Prop where
  same : t.besideLive = s.besideLive
  wf : AMap.wf Seq.init t.seqs = true
  active : t.unparked d = true

theorem State.StaysActive.setCore {t : State} {d : Nat} (h : s.StaysActive d t) (g : Nat) (c : Core) : s.StaysActive d (t.setCore g c) :=
  ⟨h.same, h.wf, h.active⟩

theorem State.StaysActive.onPins {t : State} {d : Nat} (h : s.StaysActive d t) (f : Pins → Nat) :
    s.StaysActive d (t.onPins fun p => { p with corePll := f p }) :=
  ⟨h.same, h.wf, h.active⟩

/-- A die without a live core is another die than that of a live core. -/
theorem State.StaysActive.park {t : State} {g : Nat} (h : s.StaysActive (g / 512) t) (hg : s.isLive g = true) (d : Nat) (q : Seq) :
    s.StaysActive (g / 512) (if t.liveOf d = [] then t.setSeq d q else t) := by
  split
  · next hd =>
    have hne : g / 512 ≠ d := fun e => State.liveOf_ne_nil h.same hg (e ▸ hd)
    exact ⟨h.same, AMap.wf_set h.wf, (State.unparked_setSeq_other h.wf hne q).trans h.active⟩
  · exact h

/-- The sequencer of a live core is not parked as the mask takes effect. -/
theorem State.unparked_applyLive {g : Nat} (hg : s.isLive g = true) (hw : AMap.wf Seq.init s.seqs = true)
    (hu : s.unparked (g / 512) = true) : s.applyLive.unparked (g / 512) = true := by
  unfold State.applyLive
  refine (State.StaysActive.onPins (overList_keeps (fun d t ht => ht.park hg d _) _ _ ?_) _).active
  exact overList_keeps (fun k t ht => ht.setCore k _) _ _ ⟨rfl, hw, hu⟩

/-! ## The self-test -/

/-- The state after the tests: units, links and base dies that failed are fenced, and the link results stand. -/
def State.afterTests (s : State) (o : TestOutcome) : State :=
  let takes := fun u => (s.cunit u).st == .service
  let bad := ((testSuspects o).eraseDups).filter fun u => takes u && chainFails o takes u
  ((o.links.foldl (fun s l => s.linkFailed 6 l) (bad.foldl (fun s u => s.fenceUnit u 1 6) s)).startLosses 6).lpgStart o.links

/-- The state with the initial live mask. -/
def State.masked (s : State) : State :=
  (s.onProg fun p => { p with admitted := maskCores s.initialLive, live := maskCores s.initialLive }).applyLive

/-- The minimal service set: base die 0, and a compute die that is not parked with its base die. -/
def State.minimalService (s : State) : Prop := s.baseWorks 0 = true ∧ fourDies.any (fun d => s.unparked d && s.baseWorks d) = true

theorem exec_selfTest_service {o : TestOutcome} (hst : s.boot.st = .s6) (hd : s.boot.s6Done = false) (h : (s.afterTests o).masked.minimalService) :
    exec (.selfTest o) s = .next ((s.afterTests o).masked.onBoot fun b => { b with s6Done := true }) := by
  change execSelfTest o s = _
  rw [execSelfTest, if_pos ⟨hst, hd⟩]
  exact congrArg _ (if_pos h)

theorem exec_selfTest_hold {o : TestOutcome} (hst : s.boot.st = .s6) (hd : s.boot.s6Done = false) (h : ¬ (s.afterTests o).masked.minimalService) :
    exec (.selfTest o) s = .next ((s.afterTests o).masked.hold 9) := by
  change execSelfTest o s = _
  rw [execSelfTest, if_pos ⟨hst, hd⟩]
  exact congrArg _ (if_neg h)

@[simp] theorem State.besideFencing_afterTests (s : State) (o : TestOutcome) : (s.afterTests o).besideFencing = s.besideFencing := by
  unfold State.afterTests
  simp only
  rw [State.besideFencing_lpgStart, State.besideFencing_startLosses,
    foldl_view State.besideFencing fun t l => t.besideFencing_linkFailed 6 l,
    foldl_view State.besideFencing fun t u => t.besideFencing_fenceUnit u 1 6]

/-- The mask of cores is the live mask and the admitted one; beside it nothing changes but what the mask does as it takes effect. -/
theorem State.masked_keeps (s : State) : s.masked.boot = s.boot ∧ s.masked.flt = s.flt ∧ s.masked.dram = s.dram ∧
    s.masked.prog = { s.prog with admitted := maskCores s.initialLive, live := maskCores s.initialLive } :=
  State.kept_of_besideLive (State.besideLive_applyLive _)

theorem State.unfenced_of_baseWorks {d : Nat} (h : s.baseWorks d = true) : s.isFenced (0x9000 + d) = false := by
  simp only [State.baseWorks, Bool.and_eq_true, Bool.not_eq_true'] at h
  exact h.1

theorem mem_fourDies {d : Nat} : d ∈ fourDies ↔ d < 4 := List.mem_range (n := 4)

/-! ## A start without a failure -/

theorem State.kept_of_besideHostReset {t : State} (h : t.besideHostReset = s.besideHostReset) : t.flt = s.flt ∧ t.dram = s.dram ∧
    t.seqs = s.seqs :=
  ⟨(congrArg State.flt h :), (congrArg State.dram h :), (congrArg State.seqs h :)⟩

theorem State.isFenced_nil (h : s.flt.fenced = []) (fid : Nat) : s.isFenced fid = false := by
  simp [State.isFenced, h]

/-- With nothing fenced no base die is lost. -/
theorem State.startLosses_nil (h : s.flt.fenced = []) (st : Nat) : s.startLosses st = s := by
  have hf := State.isFenced_nil h
  have hj : joined (fun _ => true) = [0, 1, 2, 3] := by decide
  unfold State.startLosses overList
  refine foldl_fixed fourDies s fun d hd => ?_
  have he : s.baseEmpty d = false := by
    rw [State.baseEmpty, List.all_eq_false.mpr ⟨0, List.mem_range.mpr (by decide), by simp [hf]⟩, Bool.false_and]
  simp [hf, he, hj, show d ∈ [0, 1, 2, 3] from hd]

/-- A test without a failure records its results and fences nothing. -/
theorem State.afterTests_clean (h : s.flt.fenced = []) {o : TestOutcome} (hl : o.links = []) (hr : o.results = []) (hx : o.residue = []) :
    s.afterTests o = s.lpgStart [] := by
  have hs : testSuspects o = [] := by simp [testSuspects, hr, hx]
  simp only [State.afterTests, hs, hl, List.eraseDups_nil, List.filter_nil, List.foldl_nil, State.startLosses_nil h]

/-- With nothing fenced the initial live mask is LIVEMASK, or its MAXCORES lowest cores. -/
theorem State.mem_initialLive_nil (h : s.flt.fenced = []) {g : Nat} (hg : g < 2048) : g ∈ s.initialLive ↔ s.cfg.liveMask.getLsbD g = true ∧
    (s.cfg.maxCores = 0 ∨ ((List.range g).filter s.cfg.liveMask.getLsbD).length < s.cfg.maxCores) := by
  have hf := State.isFenced_nil h
  simp only [State.initialLive, hf, Bool.not_false, Bool.and_true]
  split
  · next h0 => simp [h0, hg]
  · next h0 => simp only [mem_take_filter_range hg, h0, false_or]

/-- A LIVEMASK that admits a core gives a live mask with a core. -/
theorem State.initialLive_ne_nil (h : s.flt.fenced = []) (hm : s.cfg.liveMask ≠ 0) : s.initialLive ≠ [] := by
  have hf := State.isFenced_nil h
  have hne : (List.range 2048).filter s.cfg.liveMask.getLsbD ≠ [] := fun he => hm (BitVec.eq_of_getLsbD_eq fun g hg => by
    have := List.filter_eq_nil_iff.mp he g (List.mem_range.mpr hg)
    simpa using this)
  simp only [State.initialLive, hf, Bool.not_false, Bool.and_true]
  split
  · exact hne
  · next h0 => exact fun he => (List.take_eq_nil_iff.mp he).elim h0 hne

/-- With nothing fenced and no sequencer parked, a module with a core has its minimal service set. -/
theorem State.minimalService_masked (h : s.flt.fenced = []) (hs : s.seqs = []) (hm : s.cfg.liveMask ≠ 0) : s.masked.minimalService := by
  obtain ⟨g, hg⟩ := List.exists_mem_of_ne_nil _ (State.initialLive_ne_nil h hm)
  obtain ⟨hlt, -⟩ := State.of_mem_initialLive hg
  have hmask : (maskCores s.initialLive).getLsbD g = true := by rw [getLsbD_maskCores hlt]; simpa using hg
  obtain ⟨-, hflt, -, -⟩ := s.masked_keeps
  have hf : ∀ fid, s.masked.isFenced fid = false := State.isFenced_nil (by rw [hflt, h])
  have hbase : ∀ d, s.masked.baseWorks d = true := fun d => by simp [State.baseWorks, hf]
  refine ⟨hbase 0, List.any_eq_true.mpr ⟨g / 512, mem_fourDies.mpr (by omega), ?_⟩⟩
  rw [hbase, Bool.and_true]
  refine State.unparked_applyLive ?_ ?_ ?_
  · simpa [State.isLive, State.coreDown, State.onProg, State.isFenced, h] using hmask
  · exact hs ▸ rfl
  · simp only [State.unparked, State.seq, State.onProg, hs]
    rfl

end Sys2Proof.Machine

open Sys2Proof Sys2Proof.Machine

/-- Settles O9: HOLD where the minimal service set is missing, else the mask of the cores that are admitted and not fenced. -/
theorem selfTestFormsTheLiveMask : Obligations.SelfTestFormsTheLiveMask := by
  unfold Obligations.SelfTestFormsTheLiveMask
  intro s o hst hd
  have hview := s.besideFencing_afterTests o
  obtain ⟨hboot, hcfg, -⟩ := State.kept_of_besideFencing hview
  obtain ⟨kboot, kflt, kdram, kprog⟩ := (s.afterTests o).masked_keeps
  refine ⟨?_, fun hl hr hx hf hs hm => ?_⟩
  · by_cases h : (s.afterTests o).masked.minimalService
    · obtain ⟨h0, hany⟩ := id h
      obtain ⟨d, hd4, hactive⟩ := List.any_eq_true.mp hany
      obtain ⟨hun, hbase⟩ := Bool.and_eq_true_iff.mp hactive
      have hnext := exec_selfTest_service hst hd h
      generalize (s.afterTests o).masked = m at *
      refine ⟨_, hnext, .inr ⟨?_, rfl, ?_, State.unfenced_of_baseWorks h0, ⟨d, ?_, ?_, State.unfenced_of_baseWorks hbase⟩,
        fun g hg hlive => ?_⟩⟩
      · exact ((congrArg Boot.st kboot).trans hboot).trans hst
      · exact (congrArg Prog.admitted kprog).trans (congrArg Prog.live kprog).symm
      · exact mem_fourDies.mp hd4
      · exact bne_iff_ne.mp hun
      · have hmem : g ∈ (s.afterTests o).initialLive := by
          rw [show State.prog (State.onBoot _ _) = _ from kprog, getLsbD_maskCores hg] at hlive
          exact of_decide_eq_true hlive
        obtain ⟨-, hadmit, hcore, hcluster, hdie⟩ := State.of_mem_initialLive hmem
        have hfen : ∀ fid, m.isFenced fid = (s.afterTests o).isFenced fid := fun fid => by
          rw [State.isFenced, kflt, State.isFenced]
        exact ⟨hcfg ▸ hadmit, (hfen _).trans hcore, (hfen _).trans hcluster, (hfen _).trans hdie⟩
    · exact ⟨_, exec_selfTest_hold hst hd h, .inl ⟨rfl, rfl, rfl⟩⟩
  · have hclean := State.afterTests_clean hf hl hr hx
    have hbeside := s.besideHostReset_lpgStart []
    rw [← hclean] at hbeside
    obtain ⟨hflt, hdram, hseqs⟩ := State.kept_of_besideHostReset hbeside
    have hnil : (s.afterTests o).flt.fenced = [] := hflt ▸ hf
    have h := State.minimalService_masked hnil (hseqs.trans hs) (hcfg ▸ hm)
    have hnext := exec_selfTest_service hst hd h
    generalize (s.afterTests o).masked = m at *
    refine ⟨_, hnext, ?_, rfl, kflt.trans hflt, kdram.trans hdram, ?_, fun g hg => ?_⟩
    · exact ((congrArg Boot.st kboot).trans hboot).trans hst
    · exact (congrArg Prog.admitted kprog).trans (congrArg Prog.live kprog).symm
    · rw [show State.prog (State.onBoot _ _) = _ from kprog, getLsbD_maskCores hg, decide_eq_true_iff, State.mem_initialLive_nil hnil hg, hcfg]
end

section
/-! PROOFS. Links and the capping fill (R54, R55, R57, R60): a channel that is fenced in start-up stays fenced, and what the fill leaves. -/

namespace Sys2Proof.Machine

open State

variable {s t : State}

/-- What every step of a fold keeps and one of its steps brings about, given what every step keeps too, holds after the fold. -/
theorem foldl_reaches {β : Type} {P Q : State → Prop} {f : State → β → State} {x : β} (hQ : ∀ t y, Q t → Q (f t y))
    (hP : ∀ t y, P t → P (f t y)) (hx : ∀ t, Q t → P (f t x)) {xs : List β} (hmem : x ∈ xs) (h : Q t) : P (xs.foldl f t) := by
  obtain ⟨as, bs, rfl⟩ := List.append_of_mem hmem
  rw [List.foldl_append]
  exact foldl_keeps hP bs _ (hx _ (foldl_keeps hQ as t h))

/-! ## Fences of start-up -/

theorem State.flt_bump (s : State) (off : Nat) : (s.bump off).flt = s.flt := (congrArg State.flt (s.bumpN_frame off 1) :)
theorem State.ctls_bump (s : State) (off : Nat) : (s.bump off).ctls = s.ctls := (congrArg State.ctls (s.bumpN_frame off 1) :)

theorem State.ctls_fenceStart (s : State) (fid st dpa : Nat) : (s.fenceStart fid st dpa).ctls = s.ctls := by
  unfold State.fenceStart
  split
  · rfl
  · exact State.ctls_bump _ _

/-- A fence of start-up adds its function to those that are fenced. -/
theorem State.isFenced_fenceStart (s : State) (fid st dpa f : Nat) :
    (s.fenceStart fid st dpa).isFenced f = (s.isFenced f || decide (f = fid)) := by
  unfold State.fenceStart
  split
  · next h =>
    by_cases hf : f = fid
    · simp [hf, h]
    · simp [hf]
  · simp only [State.isFenced, State.flt_bump, State.noteFence, State.onBoot, State.onFlt, List.contains_append]
    simp

/-- A channel is fenced: its function is, and its controller's state says so. -/
structure State.ChannelFenced (n : Nat) (s : State) : Prop where
  canon : s.canon = true
  fenced : s.isFenced (ctlFid n) = true
  st : (s.ctl n).st = .fenced

namespace State.ChannelFenced

variable {n : Nat}

/-- What leaves the faults and the controllers leaves the channel fenced. -/
theorem of_same (h : s.ChannelFenced n) (hc : t.canon = true) (hf : t.flt = s.flt) (hk : t.ctls = s.ctls) : t.ChannelFenced n :=
  ⟨hc, by rw [State.isFenced, hf]; exact h.fenced, by rw [State.ctl, hk]; exact h.st⟩

theorem fenceStart (h : s.ChannelFenced n) (fid st dpa : Nat) : (s.fenceStart fid st dpa).ChannelFenced n :=
  ⟨canon_fenceStart h.canon fid st dpa, by rw [isFenced_fenceStart, h.fenced, Bool.true_or],
    by rw [State.ctl, ctls_fenceStart]; exact h.st⟩

/-- A controller's update that keeps a fenced state keeps the channel fenced. -/
theorem setCtl (h : s.ChannelFenced n) (m : Nat) {c : Ctl} (hc : (s.ctl m).st = .fenced → c.st = .fenced) : (s.setCtl m c).ChannelFenced n := by
  refine ⟨canon_setCtl h.canon m c, h.fenced, ?_⟩
  rw [ctl_setCtl h.canon]
  split
  · next e => exact hc (e ▸ h.st)
  · exact h.st

theorem takeUnit (h : s.ChannelFenced n) (u : Nat) : (s.takeUnit u).ChannelFenced n := by
  refine h.of_same (canon_takeUnit h.canon u) ?_ ?_
  · simp [State.takeUnit, apply_ite State.flt, State.setUnit]
  · simp [State.takeUnit, apply_ite State.ctls, State.setUnit]

theorem ite {p : Prop} [Decidable p] (h : s.ChannelFenced n) (h' : t.ChannelFenced n) : (if p then s else t).ChannelFenced n := by
  split
  · exact h
  · exact h'

theorem overList {f : Nat → State → State} (hf : ∀ k (t : State), t.ChannelFenced n → (f k t).ChannelFenced n) (ks : List Nat)
    (h : s.ChannelFenced n) : (overList ks f s).ChannelFenced n :=
  overList_keeps hf ks s h

theorem channelFailed (h : s.ChannelFenced n) (m st : Nat) : (s.channelFailed m st).ChannelFenced n :=
  have hm := (h.setCtl m (c := { s.ctl m with st := .fenced }) fun _ => rfl).fenceStart (ctlFid m) st (firstDpa s.cfg m)
  ((hm.fenceStart _ st 0).overList (fun u _ ht => ht.takeUnit u) _).ite hm

theorem baseFailed (h : s.ChannelFenced n) (d st : Nat) : (s.baseFailed d st).ChannelFenced n :=
  (((((h.fenceStart _ _ _).fenceStart _ _ _).overList (fun m _ ht => ht.channelFailed m st) _).overList
    (fun m _ ht => ht.channelFailed m st) _).fenceStart _ _ _).fenceStart _ _ _

theorem startLosses (h : s.ChannelFenced n) (st : Nat) : (s.startLosses st).ChannelFenced n :=
  h.overList (fun d _ ht => (ht.baseFailed d st).ite ht) _

theorem setPort (h : s.ChannelFenced n) (p : Nat) (q : Port) : (s.setPort p q).ChannelFenced n :=
  h.of_same (canon_setPort h.canon p q) rfl rfl

theorem setLink (h : s.ChannelFenced n) (l : Nat) (x : D2d) : (s.setLink l x).ChannelFenced n :=
  h.of_same (canon_setLink h.canon l x) rfl rfl

theorem linkFailed (h : s.ChannelFenced n) (st : Nat) (l : LinkId) : (s.linkFailed st l).ChannelFenced n := by
  cases l with
  | dch m => exact (h.channelFailed m st).ite h
  | dcf m => exact (h.channelFailed (256 + m) st).ite h
  | d2d k => exact ((h.setLink _ _).fenceStart _ _ _).ite h
  | faceBond d => exact (h.fenceStart _ _ _).ite h
  | peerLane p lane => exact ((((h.setPort _ _).setPort _ _).fenceStart _ _ _).ite (h.setPort _ _)).ite h

theorem freshTime (h : s.ChannelFenced n) (k : Nat) : (s.freshTime k).2.ChannelFenced n := ⟨h.canon, h.fenced, h.st⟩

theorem freshData (h : s.ChannelFenced n) : s.freshData.2.ChannelFenced n := ⟨h.canon, h.fenced, h.st⟩

theorem logCmd (h : s.ChannelFenced n) (m bus : Nat) (w : Option Nat) : (s.logCmd m bus w).ChannelFenced n := by
  have ht := h.freshTime 12
  cases w with
  | none => exact ht.freshData.setCtl m id
  | some w => exact ht.setCtl m id

theorem modeRegs (h : s.ChannelFenced n) (m : Nat) : (s.modeRegs m).ChannelFenced n :=
  foldl_keeps (P := State.ChannelFenced n) (fun _ _ ht => ht.logCmd m 0 none) _ s h

end State.ChannelFenced

/-- A channel that failed is fenced. -/
theorem State.channelFenced_channelFailed (h : s.canon = true) (n st : Nat) : (s.channelFailed n st).ChannelFenced n := by
  have hc := canon_setCtl h n { s.ctl n with st := .fenced }
  have hn : ((s.setCtl n { s.ctl n with st := .fenced }).fenceStart (ctlFid n) st (firstDpa s.cfg n)).ChannelFenced n := by
    refine ⟨canon_fenceStart hc _ _ _, by simp [isFenced_fenceStart], ?_⟩
    rw [State.ctl, ctls_fenceStart, ← State.ctl, ctl_setCtl h, if_pos rfl]
  exact ((hn.fenceStart _ st 0).overList (fun u _ ht => ht.takeUnit u) _).ite hn

/-! ## LINK_BRINGUP (R54, R55) -/

/-- The state in which the enabled peer ports with a cable have begun their bring-up. -/
def State.portsOpened (s : State) : State :=
  Machine.overList (List.range 8) (fun p s =>
    let st := if !bitOf s.cfg.peer.enable p then PortState.disabled else if bitOf s.pins.pprsnt p then .down else .training
    s.setPort p { s.port p with st := st }) s

/-- The state in which the links that failed are fenced, with the base dies lost by that. -/
def State.linksFenced (s : State) (ls : List LinkId) : State := (ls.foldl (fun s l => s.linkFailed 4 l) s.portsOpened).startLosses 4

/-- The state in which the controllers that run have their mode registers loaded. -/
def State.modesLoaded (s : State) : State :=
  Machine.overList ((List.range 272).filter fun n => (s.ctl n).st == .run) (fun n s => s.modeRegs n) s

theorem exec_linkBringup_s4 (hst : s.boot.st = .s4) (ls : List LinkId) : exec (.linkBringup ls) s =
    .next { (s.linksFenced ls).modesLoaded with boot := { (s.linksFenced ls).modesLoaded.boot with st := .s5 } } := by
  change execLinkBringup ls s = _
  simp only [execLinkBringup, if_pos hst, State.modesLoaded, State.linksFenced, State.portsOpened]

theorem State.canon_portsOpened (h : s.canon = true) : s.portsOpened.canon = true := canon_overList (fun _ _ ht => canon_setPort ht _ _) _ h

/-- The channel of a link that failed is fenced when LINK_BRINGUP ends. -/
theorem State.channelFenced_modesLoaded (h : s.canon = true) {l : LinkId} {n : Nat} {ls : List LinkId} (hmem : l ∈ ls)
    (hl : ∀ t : State, t.linkFailed 4 l = t.channelFailed n 4) : (s.linksFenced ls).modesLoaded.ChannelFenced n := by
  have hfold : (ls.foldl (fun s l => s.linkFailed 4 l) s.portsOpened).ChannelFenced n :=
    foldl_reaches (Q := fun t => t.canon = true) (fun t l ht => canon_linkFailed ht 4 l) (fun t l ht => ht.linkFailed 4 l)
      (fun t ht => hl t ▸ channelFenced_channelFailed ht n 4) hmem (canon_portsOpened h)
  exact (hfold.startLosses 4).overList (fun m _ ht => ht.modeRegs m) _

/-! ## CAPPING_FILL (R57, R60) -/

/-- The state in which every word of the DRAM and the SRAMs holds the zero codeword and no event waits. -/
def State.filled (s : State) : State :=
  { s with dram := [], cores := [], clusters := [], seqs := [], dies := [], homeOut := [], heldWrites := [],
           host := { s.host with pend := [], merged := none } }

/-- The state in which every refresh owed is issued. -/
def State.refreshed (s : State) : State :=
  s.ctls.foldl (fun s e => (e.2.debt.map (·.1)).foldl (fun s i => s.discharge e.1 i) s) s

/-- The state in which the read-back failures are fenced and counted. -/
def State.readBack (s : State) (o : FillOutcome) : State :=
  let t := (o.corrected.filter fun e => validFid e.1).foldl (fun s e => s.sramCorrected e.1 e.2)
    { s with ledg := s.ledg.filter fun e => decide (24 ≤ e.1) }
  o.units.foldl (fun s u => if u < 12288 then s.fenceUnit u 4 5 else s) ((o.functions.filter validFid).foldl (fun s f => s.sramFailed f) t)

/-- The state in which the fatal-event log and the journal are recovered. -/
def State.capped (s : State) (o : FillOutcome) : State := (((s.filled.refreshed).readBack o).fatalScan.fatalLoad).journalRecover o.openEnd

theorem exec_cappingFill_s5 (hst : s.boot.st = .s5) (o : FillOutcome) : exec (.cappingFill o) s =
    .next { s.capped o with boot := { (s.capped o).boot with st := .s6 }, pins := { (s.capped o).pins with corePll := 0xF },
                            ledgAudit := (s.capped o).ledg.filter fun e => decide (24 ≤ e.1) } := by
  change execCappingFill o s = _
  simp only [execCappingFill, if_pos hst, State.capped, State.readBack, State.refreshed, State.filled]

@[simp] theorem State.besideFencing_refreshed (s : State) : s.refreshed.besideFencing = s.besideFencing :=
  foldl_view State.besideFencing
    (fun t (e : Nat × Ctl) => foldl_view State.besideFencing (fun u i => u.besideFencing_discharge e.1 i) _ t) s.ctls s

@[simp] theorem State.besideFencing_readBack (s : State) (o : FillOutcome) : (s.readBack o).besideFencing = s.besideFencing := by
  unfold State.readBack
  simp only
  rw [foldl_view State.besideFencing fun t u => ?unit, foldl_view State.besideFencing fun t f => t.besideFencing_sramFailed f,
    foldl_view State.besideFencing fun t (e : Nat × Nat) => t.besideFencing_sramCorrected e.1 e.2]
  · rfl
  · split
    · exact t.besideFencing_fenceUnit u 4 5
    · rfl

/-- After the fill the recovery of the logs and the fences leave the memories as they were filled. -/
theorem State.besideFencing_capped (s : State) (o : FillOutcome) : (s.capped o).besideFencing = s.filled.besideFencing := by
  simp [State.capped]

end Sys2Proof.Machine

open Sys2Proof Sys2Proof.Machine

/-- Settles O8: a channel once fenced stays so through the rest of S4; the fill empties the memories and nothing after it writes them. -/
theorem linkFailureFencesUntilTheNextStart : Obligations.LinkFailureFencesUntilTheNextStart := by
  unfold Obligations.LinkFailureFencesUntilTheNextStart
  refine fun s => ⟨fun hst hc ls => ?_, fun hst o => ?_⟩
  · have hnext := exec_linkBringup_s4 hst ls
    have hfenced := fun l n hmem hl => State.channelFenced_modesLoaded (l := l) (n := n) (ls := ls) hc hmem hl
    generalize (s.linksFenced ls).modesLoaded = u at *
    refine ⟨_, hnext, rfl, fun n hn hmem => ?_, fun n hn hmem => ?_⟩
    · have h := hfenced _ n hmem fun t => if_pos hn
      have hfid : ctlFid n = 0x4000 + n := if_pos hn
      exact ⟨hfid ▸ h.fenced, h.st⟩
    · have h := hfenced _ (256 + n) hmem fun t => if_pos hn
      have hfid : ctlFid (256 + n) = 0x6000 + n := (if_neg (by omega)).trans (by omega)
      exact ⟨hfid ▸ h.fenced, h.st⟩
  · obtain ⟨-, -, hcores, hclusters, hseqs, hdram⟩ := State.kept_of_besideFencing (s.besideFencing_capped o)
    have hnext := exec_cappingFill_s5 hst o
    generalize s.capped o = u at *
    exact ⟨_, hnext, rfl, hdram, hcores, hclusters, hseqs, rfl⟩
end

section
/-! PROOFS. The host port (R37, R402, R405, R412, R486): what configuration requests, decoder commits, the event ring and reads of counters
answer, each as one state. -/

namespace Sys2Proof.Machine

variable {s : State}

/-! ## Configuration requests (R37) -/

/-- A read is answered with the register's value. -/
theorem exec_configRequest_read (h : s.portUp = true) (r : CfgReg) :
    exec (.configRequest r none) s = .next (s.tell (.cfgData (s.cfgValue r))) :=
  congrArg _ (if_pos h)

/-- A write with no vector pending changes the register and is answered. -/
theorem exec_configRequest_write (h : s.portUp = true) (hp : s.host.pba = []) (r : CfgReg) (v : Nat) : exec (.configRequest r (some v)) s =
    .next { s with host := { s.host with cs := s.host.cs.write r v, out := s.host.out ++ [.cfgOk] } } := by
  have hnone : ∀ t : State, t.host.pba = [] → t.sendPending = t := fun t ht => by rw [State.sendPending, ht, List.foldl_nil]
  refine congrArg _ ((if_pos h).trans ?_)
  exact hnone _ hp

/-- Before S7 with the link trained a request gets retry status. -/
theorem exec_configRequest_retry (hp : s.pins.perst = true) (hl : s.host.link ≠ .down) (hb : s.boot.st = .s4 ∨ s.boot.st = .s5 ∨ s.boot.st = .s6)
    (r : CfgReg) (v : Option Nat) : exec (.configRequest r v) s = .next (s.tell .cfgRetry) := by
  have h7 : s.portUp = false := by
    rcases hb with hb | hb | hb
    all_goals simp [State.portUp, State.atS7, hb]
  change execConfigRequest s r v = _
  rw [execConfigRequest, h7, if_neg Bool.false_ne_true, if_pos ⟨hp, hl, hb⟩]

/-- With PERST# low nothing answers. -/
theorem exec_configRequest_perst (hp : s.pins.perst = false) (r : CfgReg) (v : Option Nat) : exec (.configRequest r v) s = .next s := by
  change execConfigRequest s r v = _
  simp [execConfigRequest, State.portUp, hp]

/-! ## Requests that are served at once -/

theorem State.portUp_of_hostUp (h : s.hostUp = true) : s.portUp = true := (Bool.and_eq_true_iff.mp h).1

/-- While active and in D0 a request to a BAR is served at once. -/
theorem State.barServe_active (ha : s.dorm.st = .active) (hu : s.hostUp = true) (i : Instr) (f : State → State) : s.barServe i f = f s := by
  rw [State.barServe, if_pos hu, State.serve_active ha]

/-! ## Decoders (R405) -/

/-- Decoder i as a commit leaves it. -/
def State.hdmAfter (s : State) (i base size skip ways : Nat) : Hdm :=
  if s.hdmOk i size skip ways then { committed := true, err := false, base := base, size := size, skip := skip }
  else { (if i = 0 then s.host.hdm0 else s.host.hdm1) with committed := false, err := true }

/-- A commit changes the decoder it names and no other. -/
theorem exec_hdmCommit_up (ha : s.dorm.st = .active) (hu : s.hostUp = true) {i : Nat} (hi : i < 2) (base size skip ways : Nat) :
    exec (.hdmCommit i base size skip ways) s = .next (s.onHost fun p =>
      if i = 0 then { p with hdm0 := s.hdmAfter i base size skip ways } else { p with hdm1 := s.hdmAfter i base size skip ways }) :=
  congrArg _ ((if_pos ⟨hu, hi⟩).trans (State.serve_active ha ..))

/-- The limits of decoder 0. -/
theorem State.hdmOk_zero (s : State) (size skip ways : Nat) : s.hdmOk 0 size skip ways = true ↔
    s.memActive = true ∧ ways = 1 ∧ size % 2 ^ 28 = 0 ∧ size ≤ 768 * gib ∧ skip = 0 := by
  simp [State.hdmOk, and_assoc]

/-- The limits of decoder 1. -/
theorem State.hdmOk_one (s : State) (size skip ways : Nat) : s.hdmOk 1 size skip ways = true ↔
    s.memActive = true ∧ ways = 1 ∧ size % 2 ^ 28 = 0 ∧ size ≤ 512 * gib ∧
      (if s.host.hdm0.committed then s.host.hdm0.size else 0) + skip = 1024 * gib := by
  simp [State.hdmOk, and_assoc]

/-! ## The event ring (R412) -/

/-- EQ_CTRL with EN and a size. -/
theorem State.eqCtrl_off (h : s.eqOn = false) (k : Nat) : s.eqCtrl (1 ||| ((k % 16) <<< 1)) =
    (s.setReg (hostOff + 0x10) (BitVec.ofNat 64 ((1 ||| ((k % 16) <<< 1)) % 32))).onHost
      fun h => { h with eqProd := 0, eqPhase := true, eqCons := 0 } := by
  have hbit : bitOf (1 ||| ((k % 16) <<< 1)) 0 = true := by simp [bitOf]
  simp only [State.eqCtrl, h, hbit, if_true, Bool.false_eq_true, if_false]

/-- EQ_CTRL as EN and a size are written to it has EN on and the size. -/
theorem eqCtrl_fields : ∀ k < 16, bitOf (BitVec.ofNat 64 ((1 ||| (k <<< 1)) % 32)).toNat 0 = true ∧
    bits (BitVec.ofNat 64 ((1 ||| (k <<< 1)) % 32)).toNat 4 1 = k := by decide

theorem State.reg_onHost (s : State) (f : HostPort → HostPort) (i : Nat) : (s.onHost f).reg i = s.reg i := rfl

/-- EN going to 1 starts the ring at entry 0 with phase 1 and the size asked for. -/
theorem State.eqCtrl_starts (hc : s.canon = true) (h : s.eqOn = false) (k : Nat) : ∃ t, s.eqCtrl (1 ||| ((k % 16) <<< 1)) = t ∧ t.eqOn = true ∧
    t.host = { s.host with eqProd := 0, eqPhase := true, eqCons := 0 } ∧ (6 ≤ k → k < 16 → t.eqSize = k) := by
  refine ⟨_, State.eqCtrl_off h k, ?_, rfl, fun h6 h16 => ?_⟩
  · rw [State.eqOn, State.reg_onHost, State.reg_setReg hc, if_pos rfl]
    exact (eqCtrl_fields (k % 16) (Nat.mod_lt k (by decide))).1
  · rw [State.eqSize, State.reg_onHost, State.reg_setReg hc, if_pos rfl, Nat.mod_eq_of_lt h16,
      (eqCtrl_fields k h16).2]
    exact if_pos ⟨h6, h16.le⟩

/-- The state without what sending to the host changes. -/
def State.besideSend (s : State) : State :=
  { s with host := { s.host with link := .l0, msgWaiting := false, out := [], pba := [], eqGroup := false }, pins := { s.pins with wake := false } }

theorem State.besideSend_post (s : State) (m : HostMsg) : (s.post m).besideSend = s.besideSend := by
  unfold State.post
  simp only
  split
  · rfl
  · rfl
  · rfl

/-- What is sent is the newest message to the host. -/
theorem State.out_post (s : State) (m : HostMsg) : (s.post m).host.out = s.host.out ++ [m] := by
  unfold State.post
  simp only
  split
  · rfl
  · rfl
  · rfl

theorem State.eqGroup_post (s : State) (m : HostMsg) : (s.post m).host.eqGroup = s.host.eqGroup := by
  unfold State.post
  simp only
  split
  · rfl
  · rfl
  · rfl

theorem State.besideSend_sendMsix (s : State) (vec : Nat) : (s.sendMsix vec).besideSend = s.besideSend := by
  unfold State.sendMsix
  split
  · exact s.besideSend_post _
  · rfl

theorem State.besideSend_endGroup (s : State) : s.endGroup.besideSend = s.besideSend := by
  unfold State.endGroup
  split
  · rw [State.besideSend_sendMsix]
    rfl
  · rfl

/-- The end of a group of entries sends vector 0 if that is on. -/
theorem State.out_endGroup (h : s.host.eqGroup = true) :
    s.endGroup.host.out = s.host.out ++ (if s.host.vectorOn 0 = false then [] else [.msix 0]) := by
  rw [State.endGroup, if_pos h, State.sendMsix, show (s.onHost fun h => { h with eqGroup := false }).host.vectorOn 0 = s.host.vectorOn 0 from rfl]
  cases s.host.vectorOn 0
  · exact (List.append_nil _).symm
  · exact State.out_post _ _

/-- The state in which a pending entry is written to the ring. -/
def State.eventWritten (s : State) (e : Event) (h : HostPort) : State :=
  let next := (s.host.eqProd + 1) % 2 ^ s.eqSize
  let t := { s with host := { h with eqProd := next, eqPhase := if next = 0 then !s.host.eqPhase else s.host.eqPhase, eqGroup := true } }
  (t.ledgOut 5 (if e.ty = 0xFF then e.d0 else e.count)).post (.write ((s.reg (hostOff + 8)).toNat + 32 * s.host.eqProd) (e.words s.host.eqPhase))

/-- A group of entries ends where no other entry can be written. -/
def State.groupEnded (s : State) : State := if s.moreEvents then s else s.endGroup

theorem State.besideSend_groupEnded (s : State) : s.groupEnded.besideSend = s.besideSend := by
  unfold State.groupEnded
  split
  · rfl
  · exact s.besideSend_endGroup

/-- Where it ends vector 0 is sent, if that is on. -/
theorem State.out_groupEnded (h : s.host.eqGroup = true) : s.groupEnded.host.out =
    s.host.out ++ (if s.moreEvents = true ∨ s.host.vectorOn 0 = false then [] else [.msix 0]) := by
  unfold State.groupEnded
  cases hm : s.moreEvents
  · simpa using State.out_endGroup h
  · simp

theorem exec_eventWrite_up (hu : s.portUp = true) (hq : s.eqOn = true) (hr : s.ringRoom = true) {e : Event} {h : HostPort}
    (hn : s.host.nextEvent = some (e, h)) : exec .eventWrite s =
    .next (s.eventWritten e h).groupEnded := by
  change execEventWrite s = _
  simp only [execEventWrite, hu, hq, hr, hn, Bool.and_self, if_true]
  rfl

/-- The oldest entry of the pending store is written first. -/
theorem HostPort.nextEvent_cons {h : HostPort} {e : Event} {rest : List Event} (hp : h.pend = e :: rest) :
    h.nextEvent = some (e, { h with pend := rest }) := by
  rw [HostPort.nextEvent, hp]

/-- What an entry written leaves, beside what is sent. -/
theorem State.eventWritten_keeps {e : Event} {rest : List Event} {t : State}
    (ht : t.besideSend = (s.eventWritten e { s.host with pend := rest }).besideSend) :
    t.host.pend = rest ∧ t.host.merged = s.host.merged ∧ t.host.eqProd = (s.host.eqProd + 1) % 2 ^ s.eqSize ∧ t.host.eqCons = s.host.eqCons ∧
      t.host.eqPhase = (if (s.host.eqProd + 1) % 2 ^ s.eqSize = 0 then !s.host.eqPhase else s.host.eqPhase) ∧
      t.host.msix = s.host.msix ∧ t.host.cs = s.host.cs ∧ t.regs = s.regs ∧ t.cfg = s.cfg := by
  rw [State.eventWritten, State.besideSend_post] at ht
  exact ⟨(congrArg (·.host.pend) ht :), (congrArg (·.host.merged) ht :), (congrArg (·.host.eqProd) ht :), (congrArg (·.host.eqCons) ht :),
    (congrArg (·.host.eqPhase) ht :), (congrArg (·.host.msix) ht :), (congrArg (·.host.cs) ht :), (congrArg State.regs ht :),
    (congrArg State.cfg ht :)⟩

theorem State.eqSize_of_regs {t : State} (hr : t.regs = s.regs) (hc : t.cfg = s.cfg) : t.eqSize = s.eqSize := by
  rw [State.eqSize, State.reg, hr, hc]
  rfl

/-- The entry is sent, and a group of entries is open. -/
theorem State.out_eventWritten (s : State) (e : Event) (h : HostPort) : (s.eventWritten e h).host.out =
      h.out ++ [.write ((s.reg (hostOff + 8)).toNat + 32 * s.host.eqProd) (e.words s.host.eqPhase)] ∧
    (s.eventWritten e h).host.eqGroup = true :=
  ⟨State.out_post _ _, State.eqGroup_post _ _⟩

/-- Another entry can be written while one waits and the ring has room. -/
theorem State.moreEvents_iff (s : State) : s.moreEvents = true ↔
    (s.host.pend ≠ [] ∨ s.host.merged ≠ none) ∧ (s.host.eqProd + 1) % 2 ^ s.eqSize ≠ s.host.eqCons := by
  have hn : s.host.nextEvent.isSome = true ↔ s.host.pend ≠ [] ∨ s.host.merged ≠ none := by
    unfold HostPort.nextEvent
    cases s.host.pend
    · cases s.host.merged
      · simp
      · simp
    · simp
  rw [State.moreEvents, Bool.and_eq_true, hn, State.ringRoom, bne_iff_ne]

/-! ## Reads of counters (R404, R486) -/

/-- A read of BAR 0 or of another is served at once. -/
theorem exec_counterLowRead_active (ha : s.dorm.st = .active) (hu : s.hostUp = true) (off bar size : Nat) :
    exec (.counterLowRead off bar size) s = .next (s.barRead bar off size) :=
  congrArg _ (State.barServe_active ha hu ..)

/-- The state in which a counter's high half is latched and its low half is answered. -/
def State.lowRead (s : State) (off : Nat) : State :=
  State.tell { s with cntLatch := AMap.set 0 s.cntLatch off (s.counter off / 2 ^ 32) } (.regData off (s.counter off % 2 ^ 32))

theorem State.barRead_low {off : Nat} (hc : isCounter off = true) (h8 : off % 8 = 0) (hlt : off < 0x4000000) :
    s.barRead 0 off 4 = s.lowRead off := by
  have hbase : off / 8 * 8 = off := by omega
  have h4 : off % 4 = 0 := by omega
  simp only [State.barRead, State.read4, hbase, hc, h4, Nat.not_le.mpr hlt, State.lowRead]
  simp

/-- A read at offset + 4 answers what is latched. -/
theorem State.barRead_high {off : Nat} (hc : isCounter off = true) (h8 : off % 8 = 0) (hlt : off < 0x4000000) :
    s.barRead 0 (off + 4) 4 = s.tell (.regData (off + 4) (AMap.get 0 s.cntLatch off)) := by
  have hbase : (off + 4) / 8 * 8 = off := by omega
  have h4 : (off + 4) % 4 = 0 := by omega
  simp only [State.barRead, State.read4, hbase, hc, h4, show ¬ 0x4000000 ≤ off + 4 by omega]
  simp

theorem State.barRead_eight {off : Nat} (h8 : off % 8 = 0) (hlt : off < 0x4000000) :
    s.barRead 0 off 8 = s.tell (.regData off (s.regValue off)) := by
  simp only [State.barRead, h8, Nat.not_le.mpr hlt]
  simp

/-- A read that is not naturally aligned is unsupported. -/
theorem State.barRead_unaligned {off : Nat} (h : off % 8 ≠ 0) : s.barRead 0 off 8 = s.refuse := by
  simp [State.barRead, h]

end Sys2Proof.Machine

open Sys2Proof Sys2Proof.Machine

/-- Settles O48: each request is answered by one state, and the fields are read off it. -/
theorem hostConfiguresAndIsTold : Obligations.HostConfiguresAndIsTold := by
  unfold Obligations.HostConfiguresAndIsTold
  intro s hc ha
  refine ⟨⟨fun hu r => ⟨exec_configRequest_read hu r, fun v hp => exec_configRequest_write hu hp r v⟩,
    fun hp hl hb r v => exec_configRequest_retry hp hl (by simpa using hb) r v, fun hp r v => exec_configRequest_perst hp r v⟩, fun hu => ?_⟩
  refine ⟨fun base size skip ways => ?_, fun k heq => ?_, fun e rest hq hp hr => ?_, fun off hcnt h8 hlt => ?_, fun off h8 hlt => ?_, fun off => ?_⟩
  · refine ⟨fun h => ?_, fun h => ?_, fun h => ?_, fun h => ?_⟩
    · rw [exec_hdmCommit_up ha hu (by decide), State.hdmAfter, if_pos ((State.hdmOk_zero ..).mpr h)]
      rfl
    · rw [exec_hdmCommit_up ha hu (by decide), State.hdmAfter, if_neg (mt (State.hdmOk_zero ..).mp h)]
      rfl
    · rw [exec_hdmCommit_up ha hu (by decide), State.hdmAfter, if_pos ((State.hdmOk_one ..).mpr h)]
      rfl
    · rw [exec_hdmCommit_up ha hu (by decide), State.hdmAfter, if_neg (mt (State.hdmOk_one ..).mp h)]
      rfl
  · obtain ⟨t, ht, hon, hhost, hsize⟩ := State.eqCtrl_starts hc heq k
    refine ⟨t, ?_, hon, ?_, ?_, ?_, ?_, hsize⟩
    · exact congrArg _ ((State.barServe_active ha hu ..).trans ht)
    all_goals rw [hhost]
  · have hnext := exec_eventWrite_up (State.portUp_of_hostUp hu) hq (bne_iff_ne.mpr hr) (HostPort.nextEvent_cons hp)
    obtain ⟨hout, hgroup⟩ := s.out_eventWritten e { s.host with pend := rest }
    have hkeeps := State.eventWritten_keeps (s := s) (e := e) (rest := rest) rfl
    have hlast := State.eventWritten_keeps (s := s) (e := e) (rest := rest) (State.besideSend_groupEnded _)
    generalize s.eventWritten e { s.host with pend := rest } = u at *
    obtain ⟨hpend, hmerged, hprod, hcons, -, hmsix, hcs, hregs, hcfg⟩ := hkeeps
    obtain ⟨kpend, -, kprod, -, kphase, -, -, kregs, -⟩ := hlast
    have hmore := u.moreEvents_iff
    rw [hpend, hmerged, hprod, hcons, State.eqSize_of_regs hregs hcfg] at hmore
    have hvec : u.host.vectorOn 0 = s.host.vectorOn 0 := by simp only [HostPort.vectorOn, hmsix, hcs]
    refine ⟨_, hnext, kpend, kprod, kphase, ?_, kregs⟩
    rw [State.out_groupEnded hgroup, hout, kprod]
    simp only [hmore, hvec]
  · have hlatch : AMap.get 0 (s.lowRead off).cntLatch off = s.counter off / 2 ^ 32 :=
      AMap.get_set_same 0 (AMap.rising_of_wf (State.canon_cntLatch hc)) off _
    refine ⟨s.lowRead off, ?_, rfl, hlatch, ?_⟩
    · rw [exec_counterLowRead_active ha hu, State.barRead_low hcnt h8 hlt]
    · rw [exec_counterLowRead_active (show (s.lowRead off).dorm.st = .active from ha) (show (s.lowRead off).hostUp = true from hu),
        State.barRead_high hcnt h8 hlt, hlatch]
  · rw [exec_counterLowRead_active ha hu, State.barRead_eight h8 hlt]
  · rw [exec_counterLowRead_active ha hu, State.barRead_unaligned (by omega)]
    exact ⟨rfl, rfl⟩
end

section
/-! PROOFS. Sequencers as units: the four components of a stream register, passes over sequencers and cores, and what the beginning of a halt
does to them (R104 to R106). -/

namespace Sys2Proof.Machine

variable {s t : State}

/-! ## One value per stream -/

theorem Four.get_set {α : Type} (f : Four α) (e e' : Eng) (v : α) : (f.set e v).get e' = if e' = e then v else f.get e' := by
  cases e
  all_goals
    cases e'
    all_goals rfl

@[simp] theorem Four.get_set_same {α : Type} (f : Four α) (e : Eng) (v : α) : (f.set e v).get e = v := by
  rw [Four.get_set, if_pos rfl]

@[simp] theorem Four.set_set {α : Type} (f : Four α) (e : Eng) (v w : α) : (f.set e v).set e w = f.set e w := by
  cases e
  all_goals rfl

@[simp] theorem Four.get_all {α : Type} (v : α) (e : Eng) : (Four.all v).get e = v := by
  cases e
  all_goals rfl

/-! ## One sequencer -/

/-- Of two writes of one key the second stands. -/
theorem AMap.set_set {α : Type} [DecidableEq α] {d : α} {m : AMap α} (h : AMap.wf d m = true) (k : Nat) (v w : α) :
    AMap.set d (AMap.set d m k v) k w = AMap.set d m k w :=
  AMap.eq_of_get (AMap.wf_set (AMap.wf_set h)) (AMap.wf_set h) fun q => by
    rw [AMap.get_set _ (AMap.rising_of_wf (AMap.wf_set h)), AMap.get_set _ (AMap.rising_of_wf h), AMap.get_set _ (AMap.rising_of_wf h)]
    split
    · rfl
    · rfl

/-- Writing back what a key reads as changes nothing. -/
theorem AMap.set_get_self {α : Type} [DecidableEq α] {d : α} {m : AMap α} (h : AMap.wf d m = true) (k : Nat) :
    AMap.set d m k (AMap.get d m k) = m :=
  AMap.eq_of_get (AMap.wf_set h) h fun q => by
    rw [AMap.get_set _ (AMap.rising_of_wf h)]
    split
    · next e => rw [e]
    · rfl

theorem AMap.get_upd_same {α : Type} [DecidableEq α] {d : α} {m : AMap α} (h : AMap.wf d m = true) (k : Nat) (f : α → α) :
    AMap.get d (AMap.upd d m k f) k = f (AMap.get d m k) := AMap.get_set_same d (AMap.rising_of_wf h) k _

theorem State.setSeq_setSeq (h : s.canon = true) (d : Nat) (x y : Seq) : (s.setSeq d x).setSeq d y = s.setSeq d y :=
  congrArg (fun m => { s with seqs := m }) (AMap.set_set (State.canon_seqs h) d x y)

theorem State.seq_setSeq_same (h : s.canon = true) (d : Nat) (x : Seq) : (s.setSeq d x).seq d = x := by
  rw [State.seq_setSeq h, if_pos rfl]

/-- A write of sequencer d leaves everything but sequencer d. -/
theorem State.onlySeq_setSeq (h : s.canon = true) (d : Nat) (x : Seq) : (s.setSeq d x).onlySeq s d :=
  ⟨rfl, fun j hj => by rw [State.seq_setSeq h, if_neg hj]⟩

/-! ## Passes over units -/

/-- What a pass over sequencers that writes each of them from itself leaves: the visited ones changed, and nothing else. -/
theorem State.seq_overList_setSeq (f : Seq → Seq) : ∀ {ks : List Nat} {s : State}, s.canon = true → ks.Nodup → ∀ j,
    (overList ks (fun d s => s.setSeq d (f (s.seq d))) s).seq j = if j ∈ ks then f (s.seq j) else s.seq j
  | [], s, _, _, j => rfl
  | k :: ks, s, h, hn, j => by
    obtain ⟨hk, hn⟩ := List.nodup_cons.mp hn
    refine (State.seq_overList_setSeq f (State.canon_setSeq h k _) hn j).trans ?_
    rw [State.seq_setSeq h]
    by_cases e : j = k
    · subst e
      simp [hk]
    · simp [e]

/-- The same of a pass over cores. -/
theorem State.core_overList_setCore (f : Nat → Core → Core) : ∀ {ks : List Nat} {s : State}, s.canon = true → ks.Nodup → ∀ j,
    (overList ks (fun g s => s.setCore g (f g (s.core g))) s).core j = if j ∈ ks then f j (s.core j) else s.core j
  | [], s, _, _, j => rfl
  | k :: ks, s, h, hn, j => by
    obtain ⟨hk, hn⟩ := List.nodup_cons.mp hn
    refine (State.core_overList_setCore f (State.canon_setCore h k _) hn j).trans ?_
    rw [State.core_setCore h]
    by_cases e : j = k
    · subst e
      simp [hk]
    · simp [e]

theorem nodup_fourDies : fourDies.Nodup := by decide

theorem State.nodup_activeSeqs (s : State) : s.activeSeqs.Nodup := nodup_fourDies.filter _

theorem State.nodup_liveCores (s : State) : s.liveCores.Nodup := List.nodup_range.filter _

theorem State.nodup_liveOf (s : State) (d : Nat) : (s.liveOf d).Nodup :=
  (List.nodup_range.map fun _ _ h => Nat.add_left_cancel h).filter _

theorem State.mem_activeSeqs {d : Nat} : d ∈ s.activeSeqs ↔ d < 4 ∧ (s.seq d).st ≠ .parked := by
  rw [State.activeSeqs, List.mem_filter, mem_fourDies, State.unparked, bne_iff_ne]

/-! ## The beginning of a halt (R104 to R106) -/

theorem State.seq_beginHalt (h : s.canon = true) (cause stream pc code d : Nat) :
    (s.beginHalt cause stream pc code).seq d = (s.seq d).drain := by
  have hget : AMap.get Seq.init (AMap.mapVals .init Seq.drain s.seqs) d = (s.seq d).drain :=
    AMap.get_mapVals rfl d (AMap.rising_of_wf (State.canon_seqs h))
  unfold State.beginHalt
  simp only
  split
  · exact hget
  · exact hget

theorem State.beginHalt_dram (cause stream pc code : Nat) : (s.beginHalt cause stream pc code).dram = s.dram := by
  unfold State.beginHalt
  simp only
  split
  · rfl
  · rfl

/-- A halt leaves the step, the launch and what the last audit latched. -/
theorem State.beginHalt_keeps (s : State) (cause stream pc code : Nat) : let t := s.beginHalt cause stream pc code
    t.prog.step = s.prog.step ∧ t.prog.inStep = s.prog.inStep ∧ t.ledgAudit = s.ledgAudit ∧ t.flt = s.flt := by
  unfold State.beginHalt
  simp only
  split
  · exact ⟨rfl, rfl, rfl, rfl⟩
  · exact ⟨rfl, rfl, rfl, rfl⟩

/-- With no halt in progress the one that begins has the cause and the instruction given. -/
theorem State.beginHalt_halt (h : s.prog.halt = none) (cause stream pc code : Nat) :
    (s.beginHalt cause stream pc code).prog.halt = some { cause := cause, stream := stream, pc := pc, code := code } := by
  unfold State.beginHalt
  simp only [h]
  split
  · rfl
  · rfl

/-- A halt that is no error leaves the cores. -/
theorem State.beginHalt_cores {cause : Nat} (hc : isErrorHalt cause = false) (stream pc code : Nat) :
    (s.beginHalt cause stream pc code).cores = s.cores := by
  unfold State.beginHalt
  simp only [hc, Bool.false_eq_true, if_false]

/-- An error halt flushes every core's queues. -/
theorem State.core_beginHalt_error (h : s.canon = true) {cause : Nat} (hc : isErrorHalt cause = true) (stream pc code g : Nat) :
    (s.beginHalt cause stream pc code).core g = (s.core g).flush := by
  have hget : AMap.get Core.init (AMap.mapVals .init Core.flush s.cores) g = (s.core g).flush :=
    AMap.get_mapVals rfl g (AMap.rising_of_wf (State.canon_cores h))
  unfold State.beginHalt
  simp only [hc, if_true]
  exact hget

@[simp] theorem Core.flush_q (c : Core) : c.flush.q = .all [] := rfl

/-- A sequencer that runs drains. -/
theorem Seq.drain_st_of_run {x : Seq} (h : x.st = .run) : x.drain.st = .drain := by
  rw [Seq.drain, if_pos (.inl h)]

@[simp] theorem Seq.drain_lcnt (x : Seq) : x.drain.lcnt = x.lcnt := by
  unfold Seq.drain
  split
  · rfl
  · rfl

end Sys2Proof.Machine
end

section
/-! PROOFS. Control instructions (R77, R91, R104, R122 to R124): what each leaves once its stream has moved past it. -/

namespace Sys2Proof.Machine

variable {s : State} {d : Nat} {e : Eng} {ws : List Nat}

/-! ## Moving past an instruction -/

/-- A sequencer whose stream has fetched the words and moved past them. -/
def Seq.passed (x : Seq) (e : Eng) (ws : List Nat) : Seq := (x.rewrite (x.pc.get e / 8) ws.length).advance e ws.length

@[simp] theorem Seq.passed_pc (x : Seq) (e : Eng) (ws : List Nat) : (x.passed e ws).pc = x.pc.set e (x.pc.get e + 8 * ws.length) := rfl
@[simp] theorem Seq.passed_st (x : Seq) (e : Eng) (ws : List Nat) : (x.passed e ws).st = x.st := rfl
@[simp] theorem Seq.passed_sx (x : Seq) (e : Eng) (ws : List Nat) : (x.passed e ws).sx = x.sx := rfl
@[simp] theorem Seq.passed_mb (x : Seq) (e : Eng) (ws : List Nat) : (x.passed e ws).mb = x.mb := rfl
@[simp] theorem Seq.passed_lcnt (x : Seq) (e : Eng) (ws : List Nat) : (x.passed e ws).lcnt = x.lcnt := rfl
@[simp] theorem Seq.passed_wcnt (x : Seq) (e : Eng) (ws : List Nat) : (x.passed e ws).wcnt = x.wcnt := rfl
@[simp] theorem Seq.passed_wait (x : Seq) (e : Eng) (ws : List Nat) : (x.passed e ws).wait = x.wait := rfl

/-- The state in which stream e of sequencer d has moved past the words. -/
def State.pass (s : State) (d : Nat) (e : Eng) (ws : List Nat) : State := s.setSeq d ((s.seq d).passed e ws)

/-- A control instruction that a stream may execute acts on the state in which the stream has moved past it. -/
theorem State.control_at {op : Nat} (h : s.controlAt d e op = some ws) (f : Head → Nat → State → State) :
    s.control d e op f = f (headOf (ws.headD 0)) (ws.tail.headD 0) (s.pass d e ws) := by
  rw [State.control, h]
  rfl

theorem State.canon_pass (h : s.canon = true) (d : Nat) (e : Eng) (ws : List Nat) : (s.pass d e ws).canon = true :=
  State.canon_setSeq h _ _

theorem State.seq_pass (h : s.canon = true) (d : Nat) (e : Eng) (ws : List Nat) : (s.pass d e ws).seq d = (s.seq d).passed e ws :=
  State.seq_setSeq_same h _ _

/-- What writes sequencer d after the stream has moved writes nothing but sequencer d. -/
theorem State.setSeq_pass (h : s.canon = true) (d : Nat) (e : Eng) (ws : List Nat) (x : Seq) :
    (s.pass d e ws).setSeq d x = s.setSeq d x := State.setSeq_setSeq h _ _ _

/-! ## BR (R123) -/

/-- The operands of a BR as its slot sees them. -/
def Seq.brA (x : Seq) (p : Prog) (e : Eng) (h : Head) : Word :=
  if bitOf h.low 35 then AMap.get 0 x.mb (bits h.low 34 31) else x.sxView p e (x.slot.get e) (bits h.low 34 31)
def Seq.brB (x : Seq) (p : Prog) (e : Eng) (h : Head) (ext : Nat) : Word :=
  if bitOf h.low 30 then x.sxView p e (x.slot.get e) (bits h.low 29 26) else BitVec.ofNat 64 ext

/-- Table 4.5 in words: which of its rows a condition code names, and when that row holds. -/
theorem condHolds_iff (c : Nat) (a b : Word) : condHolds c a b = true ↔
    (c = 0 ∧ a = b) ∨ (c = 1 ∧ a ≠ b) ∨ (c = 2 ∧ a.toInt < b.toInt) ∨ (c = 3 ∧ b.toInt ≤ a.toInt) ∨
      (c = 4 ∧ a.toNat < b.toNat) ∨ (c = 5 ∧ b.toNat ≤ a.toNat) ∨ 6 ≤ c := by
  match c with
  | 0 | 1 => simp [condHolds]
  | 2 | 3 | 4 | 5 =>
    simp only [condHolds, decide_eq_true_eq]
    simp [sInt]
  | c + 6 => simp [condHolds]

/-- A sequencer whose stream e jumps to byte t: a pending segment there that was not live in x is swapped in first (R102). -/
def Seq.jump (y x : Seq) (e : Eng) (t : Nat) : Seq :=
  let z := if bitOf y.pmPending (t / 65536) && !x.segLive (t / 65536) then y.swapSeg (t / 65536) else y
  { z with pc := z.pc.set e t }

/-- A jump moves the PC; beside that only program memory, its shadow and their marks can change. -/
theorem Seq.jump_frame (y x : Seq) (e : Eng) (t : Nat) :
    { y.jump x e t with pm := y.pm, shadow := y.shadow, pmPending := y.pmPending, dirty := y.dirty } = { y with pc := y.pc.set e t } := by
  unfold Seq.jump
  split
  · rfl
  · rfl

/-- What a BR leaves of its sequencer: the jump where its condition holds, the address after it otherwise. -/
def State.branched (s : State) (d : Nat) (e : Eng) (ws : List Nat) : Seq :=
  let x := s.seq d
  let h := headOf (ws.headD 0)
  if condHolds (bits h.low 38 36) (x.brA s.prog e h) (x.brB s.prog e h (ws.tail.headD 0)) then
    (x.passed e ws).jump x e (bits h.low 18 0 * 8)
  else x.passed e ws

theorem exec_br_at (h : s.canon = true) (hc : s.controlAt d e 0x02 = some ws) : exec (.br d e) s = .next (s.setSeq d (s.branched d e ws)) := by
  change Host.Outcome.next (s.control d e 0x02 fun h ext t => branch d e (s.seq d) h ext t) = _
  rw [State.control_at hc]
  unfold branch State.branched
  change Host.Outcome.next (if condHolds _ ((s.seq d).brA s.prog e _) ((s.seq d).brB s.prog e _ _)
    then (s.pass d e ws).setSeq d (((s.pass d e ws).seq d).jump (s.seq d) e _) else _) = _
  rw [State.setSeq_pass h, State.seq_pass h]
  simp only
  split
  · rfl
  · rfl

/-! ## LSET (R124) -/

/-- The value of an LSET: its source as its slot sees it plus ADDEND, modulo 2^64. -/
def Seq.lsetVal (x : Seq) (p : Prog) (e : Eng) (h : Head) (ext : Nat) : Word :=
  (match bits h.low 32 31 with
    | 1 => x.sxView p e (x.slot.get e) (bits h.low 30 27)
    | 2 => AMap.get 0 x.mb (bits h.low 30 27)
    | _ => 0) + BitVec.ofNat 64 ext

/-- A sequencer in which an LSET at slot q of stream e has written register k. -/
def Seq.writeSx (y : Seq) (e : Eng) (q k : Nat) (v : Word) : Seq :=
  { y with sx := AMap.set 0 y.sx k v, sxUndo := y.sxUndo.set e (undoPush (y.sxUndo.get e) 4 q k (AMap.get 0 y.sx k)) }
def Seq.writeLcnt (y : Seq) (e : Eng) (q k v : Nat) : Seq :=
  { y with lcnt := y.lcnt.set e (AMap.set 0 (y.lcnt.get e) k v),
           lcntUndo := y.lcntUndo.set e (undoPush (y.lcntUndo.get e) 4 q k (AMap.get 0 (y.lcnt.get e) k)) }

/-- The three answers of LSET: a scalar register written, a loop count in range written, or a halt. -/
theorem exec_lset_at (h : s.canon = true) (hc : s.controlAt d e 0x03 = some ws) : exec (.lset d e) s =
    let x := s.seq d
    let hd := headOf (ws.headD 0)
    let k := bits hd.low 36 33
    let v := x.lsetVal s.prog e hd (ws.tail.headD 0)
    .next (if bits hd.low 38 37 = 0 then s.setSeq d ((x.passed e ws).writeSx e (x.slot.get e) k v)
      else if v.toNat < 2 ^ 24 then s.setSeq d ((x.passed e ws).writeLcnt e (x.slot.get e) k v.toNat)
      else (s.pass d e ws).beginHalt 6 (engNum e) (x.pc.get e) 0) := by
  change Host.Outcome.next (s.control d e 0x03 fun h ext t => lset d e (s.seq d) h ext t) = _
  rw [State.control_at hc]
  unfold lset
  change Host.Outcome.next (if _ then (s.pass d e ws).setSeq d (((s.pass d e ws).seq d).writeSx e _ _ _)
    else if (Seq.lsetVal (s.seq d) s.prog e _ _).toNat < 2 ^ 24 then (s.pass d e ws).setSeq d (((s.pass d e ws).seq d).writeLcnt e _ _ _) else _) = _
  rw [State.setSeq_pass h, State.setSeq_pass h, State.seq_pass h]
  rfl

/-! ## HALT, and step instructions at the wrong side of a step (R91, R104) -/

theorem exec_halt_at (hc : s.controlAt d e 0x08 = some ws) : exec (.halt d e) s =
    .next ((s.pass d e ws).beginHalt 2 (engNum e) ((s.seq d).pc.get e) (bits (headOf (ws.headD 0)).low 14 0)) := by
  change Host.Outcome.next (s.control d e 0x08 fun h _ t => t.beginHalt 2 (engNum e) ((s.seq d).pc.get e) (bits h.low 14 0)) = _
  rw [State.control_at hc]

theorem exec_stepBegin_inside (hc : s.controlAt d e 0x04 = some ws) (hin : s.prog.inStep = true) : exec (.stepBegin d e) s =
    .next ((s.pass d e ws).beginHalt 6 (engNum e) ((s.seq d).pc.get e) 0) := by
  change Host.Outcome.next (s.control d e 0x04 fun _ _ t =>
    if s.prog.inStep then t.beginHalt 6 (engNum e) ((s.seq d).pc.get e) 0 else t.setWait d e .stepBegin) = _
  rw [State.control_at hc, if_pos hin]

theorem exec_stepEnd_outside (hc : s.controlAt d e 0x05 = some ws) (hin : s.prog.inStep = false) : exec (.stepEnd d e) s =
    .next ((s.pass d e ws).beginHalt 6 (engNum e) ((s.seq d).pc.get e) 0) := by
  change Host.Outcome.next (s.control d e 0x05 fun h _ t =>
    if s.prog.inStep then t.setWait d e (.stepEnd (bitOf h.low 38) (bits h.low 37 34))
    else t.beginHalt 6 (engNum e) ((s.seq d).pc.get e) 0) = _
  rw [State.control_at hc, if_neg (by rw [hin]; decide)]

/-- A halt that begins once a stream has moved past its instruction stops every sequencer that ran. -/
theorem State.drains_beginHalt_pass (h : s.canon = true) (cause stream pc code j : Nat) (hj : (s.seq j).st = .run) :
    (((s.pass d e ws).beginHalt cause stream pc code).seq j).st = .drain := by
  rw [State.seq_beginHalt (State.canon_pass h d e ws)]
  refine Seq.drain_st_of_run ?_
  rw [State.pass, State.seq_setSeq h]
  split
  · next he => rw [Seq.passed_st, ← he, hj]
  · exact hj

end Sys2Proof.Machine

open Sys2Proof Sys2Proof.Machine

/-- Settles O19: the condition decides between the target and the address after the BR, and only the PC and what a swap touches change. -/
theorem branchComparesAndJumps : Obligations.BranchComparesAndJumps := by
  unfold Obligations.BranchComparesAndJumps
  intro s d e ws hcanon hc x h q a b c taken
  refine ⟨_, exec_br_at hcanon hc, State.onlySeq_setSeq hcanon _ _, ?_⟩
  have hiff : condHolds c a b = true ↔ taken := condHolds_iff c a b
  have hseq := State.seq_setSeq_same hcanon d (s.branched d e ws)
  rw [hseq]
  by_cases ht : taken
  · have hj : s.branched d e ws = _ := if_pos (hiff.mpr ht)
    have hf := ((s.seq d).passed e ws).jump_frame (s.seq d) e (bits h.low 18 0 * 8)
    rw [← hj] at hf
    have hpc := (congrArg Seq.pc hf :)
    refine ⟨fun _ => ?_, fun hn => absurd ht hn, (congrArg Seq.sx hf :), (congrArg Seq.mb hf :), (congrArg Seq.lcnt hf :),
      (congrArg Seq.wcnt hf :), (congrArg Seq.st hf :), (congrArg Seq.wait hf :)⟩
    rw [Nat.mul_comm]
    exact hpc.trans (Four.set_set _ _ _ _)
  · have hj : s.branched d e ws = _ := if_neg (mt hiff.mp ht)
    rw [hj]
    exact ⟨fun h => absurd h ht, fun _ => rfl, rfl, rfl, rfl, rfl, rfl, rfl⟩

/-- Settles O20: each of LSET's three answers, and what it leaves. -/
theorem lsetWritesOneRegister : Obligations.LsetWritesOneRegister := by
  unfold Obligations.LsetWritesOneRegister
  intro s d e ws hcanon hc x h k src v
  have hnext := exec_lset_at hcanon hc
  refine ⟨_, hnext, fun h0 => ?scalar, fun h0 hv => ?loop, fun h0 hv hh => ?range⟩
  case scalar =>
    rw [if_pos h0, State.seq_setSeq_same hcanon]
    exact ⟨State.onlySeq_setSeq hcanon d _, rfl, rfl, rfl, rfl, rfl⟩
  case loop =>
    have hv' : (Seq.lsetVal x s.prog e h (ws.tail.headD 0)).toNat < 2 ^ 24 := hv
    rw [if_neg h0, if_pos hv', State.seq_setSeq_same hcanon]
    exact ⟨State.onlySeq_setSeq hcanon d _, rfl, rfl, rfl, rfl, rfl⟩
  case range =>
    have hv' : ¬(Seq.lsetVal x s.prog e h (ws.tail.headD 0)).toNat < 2 ^ 24 := Nat.not_lt.mpr hv
    rw [if_neg h0, if_neg hv', State.seq_beginHalt (State.canon_pass hcanon d e ws), State.seq_pass hcanon, Seq.drain_lcnt]
    exact ⟨State.beginHalt_halt (s := s.pass d e ws) hh .., rfl⟩
/-- Settles O21: each of the three begins its halt once the stream has moved past it. -/
theorem haltStopsEverySequencer : Obligations.HaltStopsEverySequencer := by
  unfold Obligations.HaltStopsEverySequencer
  intro s d e ws hcanon hh h drains
  have hpass : (s.pass d e ws).prog.halt = none := hh
  have hcanon' := State.canon_pass hcanon d e ws
  have hdrain : ∀ cause code, drains ((s.pass d e ws).beginHalt cause (engNum e) ((s.seq d).pc.get e) code) :=
    fun cause code => State.drains_beginHalt_pass hcanon _ _ _ _
  have hillegal : let t := (s.pass d e ws).beginHalt 6 (engNum e) ((s.seq d).pc.get e) 0
      drains t ∧ (∀ g, (t.core g).q = .all []) ∧ t.dram = s.dram ∧
      t.prog.halt = some { cause := 6, stream := engNum e, pc := (s.seq d).pc.get e, code := 0 } := by
    refine ⟨hdrain 6 0, fun g => ?_, State.beginHalt_dram .., State.beginHalt_halt hpass ..⟩
    rw [State.core_beginHalt_error hcanon' rfl, Core.flush_q]
  refine ⟨fun hc => ⟨_, exec_halt_at hc, hdrain 2 _, State.beginHalt_cores rfl .., State.beginHalt_dram .., State.beginHalt_halt hpass ..⟩,
    fun hc hin => ⟨_, exec_stepBegin_inside hc hin, hillegal⟩, fun hc hin => ⟨_, exec_stepEnd_outside hc hin, hillegal⟩⟩
end

section
/-! PROOFS. The step (R92, R93, R103): the barrier at its beginning with the snapshot, and its end with the audit and the step limit. -/

namespace Sys2Proof.Machine

variable {s t : State}

/-! ## Passes leave the rest of the state -/

/-- The state without its sequencers, and without its cores. -/
def State.besideSeqs (s : State) : State := { s with seqs := [] }
def State.besideCores (s : State) : State := { s with cores := [] }

theorem State.besideSeqs_overList (f : State → Nat → Seq) (ks : List Nat) (s : State) :
    (overList ks (fun d t => t.setSeq d (f t d)) s).besideSeqs = s.besideSeqs :=
  overList_view State.besideSeqs (f := fun d t => t.setSeq d (f t d)) (fun _ _ => rfl) ks s

theorem State.besideCores_overList (f : State → Nat → Core) (ks : List Nat) (s : State) :
    (overList ks (fun g t => t.setCore g (f t g)) s).besideCores = s.besideCores :=
  overList_view State.besideCores (f := fun g t => t.setCore g (f t g)) (fun _ _ => rfl) ks s

theorem State.kept_of_besideSeqs (h : t.besideSeqs = s.besideSeqs) : t.prog = s.prog ∧ t.cores = s.cores ∧ t.flt = s.flt ∧ t.dram = s.dram ∧
    t.regs = s.regs ∧ t.host = s.host ∧ t.ledgAudit = s.ledgAudit ∧ t.liveCores = s.liveCores :=
  ⟨(congrArg State.prog h :), (congrArg State.cores h :), (congrArg State.flt h :), (congrArg State.dram h :), (congrArg State.regs h :),
    (congrArg State.host h :), (congrArg State.ledgAudit h :), (congrArg State.liveCores h :)⟩

theorem State.kept_of_besideCores (h : t.besideCores = s.besideCores) : t.prog = s.prog ∧ t.seqs = s.seqs ∧ t.flt = s.flt ∧ t.dram = s.dram :=
  ⟨(congrArg State.prog h :), (congrArg State.seqs h :), (congrArg State.flt h :), (congrArg State.dram h :)⟩

/-- Streams that all wait for the same are streams of sequencers that run. -/
theorem State.run_of_allStreams {p : StreamWait → Bool} (h : s.allStreams p = true) {d : Nat} (hd : d ∈ s.activeSeqs) : (s.seq d).st = .run := by
  have hall := List.all_eq_true.mp (Bool.and_eq_true_iff.mp h).2 d hd
  exact eq_of_beq (Bool.and_eq_true_iff.mp hall).1

/-! ## The barrier (R92, R167) -/

/-- A sequencer as the barrier leaves it: its snapshot taken, its streams fetching. -/
def Seq.stepBegun (x : Seq) : Seq := { x.takeSnap with wait := .all .none }

/-- A core as the barrier leaves it: its status and totals of the step at 0. -/
def Core.stepBegun (c : Core) : Core := { c with tokstat := 0, stepSat := 0, stepFlush := 0 }

/-- The snapshots of the step are taken, and the streams resume. -/
def State.snapped (s : State) : State := overList s.activeSeqs (fun d s => s.setSeq d (s.seq d).stepBegun) s

/-- The status and the totals of the step start at 0 in every live core. -/
def State.zeroed (s : State) : State := overList s.liveCores (fun g s => s.setCore g (s.core g).stepBegun) s

theorem exec_stepBeginBarrier_all (h : s.allStreams (· == .stepBegin) = true) : exec .stepBeginBarrier s =
    .next { s.snapped.zeroed with prog := { s.snapped.zeroed.prog with step := s.snapped.zeroed.prog.step + 1, inStep := true, attempts := 0 } } :=
 by
  change execStepBeginBarrier s = _
  simp only [execStepBeginBarrier, if_pos h, State.zeroed, State.snapped, Seq.stepBegun, Core.stepBegun]

theorem State.besideSeqs_snapped (s : State) : s.snapped.besideSeqs = s.besideSeqs := State.besideSeqs_overList _ _ s

theorem State.besideCores_zeroed (s : State) : s.zeroed.besideCores = s.besideCores := State.besideCores_overList _ _ s

theorem State.canon_snapped (h : s.canon = true) : s.snapped.canon = true := State.canon_overList (fun _ _ ht => State.canon_setSeq ht _ _) _ h

theorem State.seq_snapped (h : s.canon = true) {d : Nat} (hd : d ∈ s.activeSeqs) : s.snapped.seq d = (s.seq d).stepBegun :=
  (State.seq_overList_setSeq Seq.stepBegun h s.nodup_activeSeqs d).trans (if_pos hd)

theorem State.core_zeroed (h : s.canon = true) {g : Nat} (hg : g ∈ s.liveCores) : s.zeroed.core g = (s.core g).stepBegun :=
  (State.core_overList_setCore (fun _ => Core.stepBegun) h s.nodup_liveCores g).trans (if_pos hg)

/-! ## The end of a step (R93) -/

/-- Which ledgers balance, and read, is a matter of the ledgers alone. -/
theorem State.balanced_of_ledg (h : t.ledg = s.ledg) (k : Nat) : t.balanced k = s.balanced k := by
  unfold State.balanced State.ledgGet
  rw [h]

theorem State.ledgUpset_of_ledg (h : t.ledg = s.ledg) (us : Upsets) (k : Nat) : t.ledgUpset us k = s.ledgUpset us k := by
  unfold State.ledgUpset
  rw [h]

/-- The ledgers latched as the audit of a step finds them. -/
def State.latch (s : State) : State := { s with ledgAudit := s.ledg, auditStep := s.prog.step.toNat % 2 ^ 48 }

theorem State.latch_ledgAudit (s : State) : s.latch.ledgAudit = s.ledg := rfl

/-- An audit that finds the ledgers in balance and readable only latches them (R398). -/
theorem State.audit_sound {us : Upsets} (h : ∀ k, k < 8 → s.balanced k = true ∧ s.ledgUpset us k = false) :
    s.audit us = s.latch := by
  have hbad : ((List.range 8).filter fun k => !s.balanced k || s.ledgUpset us k) = [] := by
    refine List.filter_eq_nil_iff.mpr fun k hk => ?_
    obtain ⟨hb, hu⟩ := h k (List.mem_range.mp hk)
    simp [hb, hu]
  exact if_pos hbad

/-- What the totals that a step's end reports leave: everything but the totals, CNT_OVF and the mailboxes they are written to. -/
structure State.Totalled (s t : State) : Prop where
  canon : t.canon = true
  flt : t.flt = s.flt
  ledg : t.ledg = s.ledg
  dram : t.dram = s.dram
  halt : t.prog.halt = s.prog.halt
  step : t.prog.step = s.prog.step
  inStep : t.prog.inStep = s.prog.inStep
  reg : ∀ i, i ≠ 0x700 → t.reg i = s.reg i
  seqSt : ∀ d, (t.seq d).st = (s.seq d).st

/-- The step limit is reached: LIMIT is not 0 and at most the step number. -/
theorem State.limitReached_iff (s : State) : s.limitReached = true ↔
    bits (s.reg 0x180).toNat 47 0 ≠ 0 ∧ bits (s.reg 0x180).toNat 47 0 ≤ s.prog.step.toNat := by
  simp only [State.limitReached, Bool.and_eq_true, bne_iff_ne, decide_eq_true_eq]

namespace State.Totalled

theorem refl (h : s.canon = true) : s.Totalled s := ⟨h, rfl, rfl, rfl, rfl, rfl, rfl, fun _ _ => rfl, fun _ => rfl⟩

theorem trans {u : State} (h : s.Totalled t) (h' : t.Totalled u) : s.Totalled u :=
  ⟨h'.canon, h'.flt.trans h.flt, h'.ledg.trans h.ledg, h'.dram.trans h.dram, h'.halt.trans h.halt, h'.step.trans h.step,
    h'.inStep.trans h.inStep, fun i hi => (h'.reg i hi).trans (h.reg i hi), fun d => (h'.seqSt d).trans (h.seqSt d)⟩

/-- CNT_OVF is set where a total saturates. -/
theorem totalsFlag (h : s.Totalled t) (b : Bool) : s.Totalled (t.totalsFlag b) := by
  unfold State.totalsFlag
  split
  · exact h.trans ⟨State.canon_setReg h.canon _ _, rfl, rfl, rfl, rfl, rfl, rfl,
      fun i hi => by rw [State.reg_setReg h.canon, if_neg hi], fun _ => rfl⟩
  · exact h

/-- New totals of the program. -/
theorem onProg (h : s.Totalled t) {f : Prog → Prog} (hh : (f t.prog).halt = t.prog.halt) (hs : (f t.prog).step = t.prog.step)
    (hi : (f t.prog).inStep = t.prog.inStep) : s.Totalled (t.onProg f) :=
  h.trans ⟨State.canon_onProg h.canon f, rfl, rfl, rfl, hh, hs, hi, fun _ _ => rfl, fun _ => rfl⟩

/-- New mailboxes of a sequencer. -/
theorem setMb (h : s.Totalled t) (d : Nat) (m : AMap Word) : s.Totalled (t.setSeq d { t.seq d with mb := m }) := by
  refine h.trans ⟨State.canon_setSeq h.canon _ _, rfl, rfl, rfl, rfl, rfl, rfl, fun _ _ => rfl, fun j => ?_⟩
  rw [State.seq_setSeq h.canon]
  split
  · next e => rw [e]
  · rfl

theorem addLaunch (h : s.Totalled t) (sat flush : Nat) : s.Totalled (t.addLaunch sat flush) :=
  (h.onProg (f := fun p => { p with launchSat := (satTotal t.prog.launchSat sat).1, launchFlush := (satTotal t.prog.launchFlush flush).1 })
    rfl rfl rfl).totalsFlag _

theorem stepTotals (h : s.Totalled t) : s.Totalled t.stepTotals := by
  unfold State.stepTotals
  extract_lets go u
  exact ((h.onProg (f := fun p => { p with stepSat := go.1.1, stepFlush := go.2.1 }) rfl rfl rfl).totalsFlag _).addLaunch _ _

theorem reportTotals (h : s.Totalled t) : s.Totalled t.reportTotals := by
  unfold State.reportTotals
  split
  · exact overList_keeps (P := s.Totalled) (fun d u hu => hu.setMb d _) fourDies t h
  · exact h

theorem latch (h : s.Totalled t) : s.Totalled t.latch := h.trans ⟨h.canon, rfl, rfl, rfl, rfl, rfl, rfl, fun _ _ => rfl, fun _ => rfl⟩

theorem activeSeqs (h : s.Totalled t) : t.activeSeqs = s.activeSeqs :=
  List.filter_congr fun d _ => by rw [State.unparked, State.unparked, h.seqSt]

theorem limitReached (h : s.Totalled t) : t.limitReached = s.limitReached := by
  simp only [State.limitReached, h.reg 0x180 (by decide), h.step]

end State.Totalled

/-- The state in which the step has ended and its totals are reported. -/
def State.stepEnded (s : State) : State := (s.onProg fun p => { p with inStep := false }).stepTotals.reportTotals

theorem State.totalled_stepEnded (h : s.canon = true) : (s.onProg fun p => { p with inStep := false }).Totalled s.stepEnded :=
  (State.Totalled.refl (State.canon_onProg h _)).stepTotals.reportTotals

/-- Every stream of the sequencers in the program fetches on. -/
def State.fetchOn (s : State) : State := overList s.activeSeqs (fun d s => s.setSeq d { s.seq d with wait := .all .none }) s

theorem State.seq_fetchOn (h : s.canon = true) {d : Nat} (hd : d ∈ s.activeSeqs) : s.fetchOn.seq d = { s.seq d with wait := .all .none } :=
  (State.seq_overList_setSeq (fun x => { x with wait := .all .none }) h s.nodup_activeSeqs d).trans (if_pos hd)

theorem State.besideSeqs_fetchOn (s : State) : s.fetchOn.besideSeqs = s.besideSeqs := State.besideSeqs_overList _ _ s

/-- What follows the audit at a step's end. -/
def State.afterAudit (s : State) : State :=
  if s.prog.halt.isSome then s
  else if s.limitReached then s.beginHalt 1 0 0 0
  else if s.flt.held.isSome then s.startHeld
  else s.fetchOn

/-- What END_OF_STEP answers once every stream and every engine is through. -/
theorem exec_endOfStep_all (hin : s.prog.inStep = true)
    (hall : s.allStreams (fun w => match w with | .stepEnd _ _ => true | _ => false) = true) (hidle : s.enginesIdle = true)
    (hcontribs : s.prog.contribs = []) (us : Upsets) : exec (.endOfStep us) s = .next (State.afterAudit (s.stepEnded.audit us)) := by
  change execEndOfStep s us = _
  rw [execEndOfStep, if_pos ⟨hin, hall, hidle, hcontribs⟩]
  unfold State.afterAudit State.stepEnded State.fetchOn
  rfl

end Sys2Proof.Machine

open Sys2Proof Sys2Proof.Machine

/-- Settles O22: each sequencer of the program takes its snapshot, each live core's status starts at 0. -/
theorem stepBarrierTakesTheSnapshot : Obligations.StepBarrierTakesTheSnapshot := by
  unfold Obligations.StepBarrierTakesTheSnapshot
  intro s hcanon hall
  obtain ⟨hprog, hcores, -, hdram, -, -, -, hlive⟩ := State.kept_of_besideSeqs s.besideSeqs_snapped
  obtain ⟨hprog', hseqs, -, hdram'⟩ := State.kept_of_besideCores s.snapped.besideCores_zeroed
  have hnext := exec_stepBeginBarrier_all hall
  have hcore : ∀ g ∈ s.liveCores, s.snapped.zeroed.core g = (s.core g).stepBegun := fun g hg => by
    rw [State.core_zeroed (State.canon_snapped hcanon) (hlive.symm ▸ hg), State.core, hcores, ← State.core]
  have hseq : ∀ d ∈ s.activeSeqs, s.snapped.zeroed.seq d = (s.seq d).stepBegun := fun d hd => by
    rw [State.seq, hseqs, ← State.seq, State.seq_snapped hcanon hd]
  generalize s.snapped.zeroed = t at *
  refine ⟨_, hnext, ?_, rfl, hdram'.trans hdram, hseq, fun g hg => ?_⟩
  · rw [hprog', hprog]
  · exact ⟨(congrArg Core.tokstat (hcore g hg) :), (congrArg Core.q (hcore g hg) :)⟩

/-- Settles O23: the step limit decides between a halt and the streams' going on. -/
theorem endOfStepHaltsAtTheLimit : Obligations.EndOfStepHaltsAtTheLimit := by
  unfold Obligations.EndOfStepHaltsAtTheLimit
  intro s hcanon hin hall hidle hcontribs hhalt hheld us hledg
  have ht := State.totalled_stepEnded hcanon
  have haudit : s.stepEnded.audit us = s.stepEnded.latch := State.audit_sound fun k hk => by
    rw [State.balanced_of_ledg ht.ledg, State.ledgUpset_of_ledg ht.ledg]
    exact hledg k hk
  have hend := exec_endOfStep_all hin hall hidle hcontribs us
  have hlatched : s.stepEnded.latch.ledgAudit = s.ledg := (State.latch_ledgAudit _).trans ht.ledg
  rw [haudit] at hend
  replace ht := ht.latch
  generalize s.stepEnded.latch = t at *
  have hact : t.activeSeqs = s.activeSeqs := ht.activeSeqs
  have hrun : ∀ d ∈ s.activeSeqs, (t.seq d).st = .run := fun d hd => (ht.seqSt d).trans (State.run_of_allStreams hall hd)
  have hnone : t.prog.halt = none := ht.halt.trans hhalt
  have hlimit : t.limitReached = s.limitReached := ht.limitReached
  have hheld' : t.flt.held = none := (congrArg Faults.held ht.flt).trans hheld
  have hafter : State.afterAudit t = if s.limitReached then t.beginHalt 1 0 0 0 else t.fetchOn := by
    simp [State.afterAudit, hnone, hlimit, hheld']
  rw [hafter] at hend
  by_cases hl : s.limitReached = true
  · rw [if_pos hl] at hend
    obtain ⟨hstep, hin', haudit', -⟩ := State.beginHalt_keeps t 1 0 0 0
    obtain ⟨hl0, hle⟩ := s.limitReached_iff.mp hl
    refine ⟨_, hend, hin'.trans ht.inStep, hstep.trans ht.step, (State.beginHalt_dram ..).trans ht.dram, haudit'.trans hlatched,
      fun hno => absurd hno (by omega), fun _ _ => ⟨State.beginHalt_halt hnone .., fun d hd => ?_⟩⟩
    · rw [State.seq_beginHalt ht.canon]
      exact Seq.drain_st_of_run (hrun d hd)
  · rw [if_neg hl] at hend
    obtain ⟨hprog, -, -, hdram, -, -, hla, -⟩ := State.kept_of_besideSeqs t.besideSeqs_fetchOn
    refine ⟨_, hend, ?_, ?_, hdram.trans ht.dram, hla.trans hlatched, fun _ => ⟨?_, fun d hd => ?_⟩, fun h0 hle => absurd ?_ hl⟩
    · rw [hprog]; exact ht.inStep
    · rw [hprog]; exact ht.step
    · rw [hprog]; exact hnone
    · rw [State.seq_fetchOn ht.canon (hact.symm ▸ hd)]
      exact ⟨hrun d hd, rfl⟩
    · exact s.limitReached_iff.mpr ⟨h0, hle⟩
end

section
/-! PROOFS. Waggle tokens and pacing (R87 to R90, R98): posts counted per core, completions per sequencer, and the streams they release. -/

namespace Sys2Proof.Machine

variable {s : State}

/-! ## Posts (R87, R89) -/

/-- A core in which the post at the head of engine e's queue, one of Wn, is made: the queue is left with the rest. -/
def Core.waggled (c : Core) (e : Eng) (n : Nat) (rest : List QEntry) (w : List (Eng × Nat)) : Core :=
  { c with q := c.q.set e rest, waitq := w, posted := AMap.upd 0 c.posted n (· + 1) }

theorem exec_wagglePost_head {g : Nat} {e : Eng} {x : QEntry} {rest : List QEntry} (hq : (s.core g).q.get e = x :: rest)
    (hon : s.engineOn g = true) (hop : x.head.op = 0x06) (hph : x.phase = .queued) (hve : e = .ve → ∀ k ∈ s.prog.contribs, k.core ≠ g)
    (hroom : ∀ d ∈ s.activeSeqs, (s.seq d).waggle (bits x.head.low 36 31) < 15) : exec (.wagglePost g e) s =
    .next (s.setCore g ((s.core g).waggled e (bits x.head.low 36 31) rest (s.waiters g))) := by
  change execWagglePost g e s = _
  have hall : s.activeSeqs.all (fun d => decide ((s.seq d).waggle (bits x.head.low 36 31) < 15)) = true :=
    List.all_eq_true.mpr fun d hd => decide_eq_true (hroom d hd)
  have hctr : e = .ve → s.prog.contribs.all (fun k => k.core != g) = true := fun he =>
    List.all_eq_true.mpr fun k hk => bne_iff_ne.mpr (hve he k hk)
  simp only [execWagglePost, hq]
  rw [if_pos ⟨hon, hop, hph, hctr, hall⟩]
  rfl

/-! ## Completions (R88, R89) -/

/-- A core with one post of Wn fewer, and a sequencer with one completion of it more, at most 15. -/
def Core.unpost (n : Nat) (c : Core) : Core := { c with posted := AMap.upd 0 c.posted n (· - 1) }
def Seq.complete (n : Nat) (x : Seq) : Seq := { x with wcnt := AMap.set 0 x.wcnt n (min 15 (x.waggle n + 1)) }

/-- One post of Wn is taken from every live core, and its count rises in every sequencer. -/
def State.unposted (s : State) (n : Nat) : State := overList s.liveCores (fun g s => s.setCore g ((s.core g).unpost n)) s
def State.completed (s : State) (n : Nat) : State := overList fourDies (fun d s => s.setSeq d ((s.seq d).complete n)) s

theorem exec_waggleCompletion_all {n : Nat} (hne : s.liveCores ≠ []) (hroom : ∀ d ∈ s.activeSeqs, (s.seq d).waggle n < 15)
    (hpost : ∀ g ∈ s.liveCores, 0 < AMap.get 0 (s.core g).posted n) :
    exec (.waggleCompletion n) s = .next ((s.unposted n).completed n) := by
  change execWaggleCompletion n s = _
  have hall : s.activeSeqs.all (fun d => decide ((s.seq d).waggle n < 15)) = true :=
    List.all_eq_true.mpr fun d hd => decide_eq_true (hroom d hd)
  have hposts : s.liveCores.all (fun g => decide (0 < AMap.get 0 (s.core g).posted n)) = true :=
    List.all_eq_true.mpr fun g hg => decide_eq_true (hpost g hg)
  rw [execWaggleCompletion, if_pos ⟨bne_iff_ne.mpr hne, hall, hposts⟩]
  unfold State.completed State.unposted Core.unpost Seq.complete
  rfl

/-- A count that stands at 15 in a sequencer of the program lets no post complete. -/
theorem exec_waggleCompletion_full {n : Nat} (h : ∃ d ∈ s.activeSeqs, 15 ≤ (s.seq d).waggle n) : exec (.waggleCompletion n) s = .next s := by
  obtain ⟨d, hd, hle⟩ := h
  change execWaggleCompletion n s = _
  rw [execWaggleCompletion, if_neg]
  intro ⟨_, hall, _⟩
  have := of_decide_eq_true (List.all_eq_true.mp hall d hd)
  omega

theorem State.core_unposted (h : s.canon = true) {n g : Nat} (hg : g ∈ s.liveCores) : (s.unposted n).core g = (s.core g).unpost n :=
  (State.core_overList_setCore (fun _ => Core.unpost n) h s.nodup_liveCores g).trans (if_pos hg)

theorem State.canon_unposted (h : s.canon = true) (n : Nat) : (s.unposted n).canon = true :=
  State.canon_overList (fun _ _ ht => State.canon_setCore ht _ _) _ h

theorem State.seq_completed (h : s.canon = true) {n d : Nat} (hd : d < 4) : (s.completed n).seq d = (s.seq d).complete n :=
  (State.seq_overList_setSeq (Seq.complete n) h nodup_fourDies d).trans (if_pos (mem_fourDies.mpr hd))

theorem State.besideCores_unposted (s : State) (n : Nat) : (s.unposted n).besideCores = s.besideCores := State.besideCores_overList _ _ s

theorem State.besideSeqs_completed (s : State) (n : Nat) : (s.completed n).besideSeqs = s.besideSeqs := State.besideSeqs_overList _ _ s

/-- Two passes, one over cores and one over sequencers, change cores and sequencers alone. -/
theorem State.frame_of_beside {t u : State} (h : t.besideCores = s.besideCores) (h' : u.besideSeqs = t.besideSeqs) :
    { u with cores := s.cores, seqs := s.seqs } = s :=
  ((congrArg (fun v => ({ v with cores := s.cores, seqs := s.seqs } : State)) h' :)).trans
    (congrArg (fun v => ({ v with cores := s.cores, seqs := s.seqs } : State)) h :)

/-! ## The streams released (R90, R98) -/

theorem exec_waggleWaitRelease_waits {d n : Nat} {e : Eng} (hw : (s.seq d).wait.get e = .waggle n) (hr : (s.seq d).st = .run)
    (hn : 0 < (s.seq d).waggle n) : exec (.waggleWaitRelease d e) s = .next (s.setSeq d
      { s.seq d with wcnt := AMap.set 0 (s.seq d).wcnt n ((s.seq d).waggle n - 1), wait := (s.seq d).wait.set e .none }) := by
  change execWaggleWaitRelease d e s = _
  simp only [execWaggleWaitRelease, hw]
  rw [if_pos ⟨hr, hn⟩]

theorem exec_paceRelease_waits {d n : Nat} {e e' : Eng} (hw : (s.seq d).wait.get e = .pace e' n) (hr : (s.seq d).st = .run)
    (hn : s.qocc d e' ≤ n) : exec (.paceRelease d e) s = .next (s.setSeq d { s.seq d with wait := (s.seq d).wait.set e .none }) := by
  change execPaceRelease d e s = _
  simp only [execPaceRelease, hw]
  rw [if_pos ⟨hr, hn⟩]
  rfl

end Sys2Proof.Machine

open Sys2Proof Sys2Proof.Machine

/-- Settles O24: a post, a completion, and the two releases, each as what it leaves of its core or sequencer. -/
theorem waggleTokensCountCompletions : Obligations.WaggleTokensCountCompletions := by
  unfold Obligations.WaggleTokensCountCompletions
  intro s hcanon
  refine ⟨fun g e x rest hq hon hop hph hve hroom hwf => ?post, fun n hne hpost hwf hroom => ?completion,
    fun n h => exec_waggleCompletion_full h, fun d e n hw hr hn hwf => ?release, fun d e e' n hw hr hn => ?pace⟩
  case post =>
    refine ⟨_, exec_wagglePost_head hq hon hop hph hve hroom, rfl, ?_⟩
    rw [State.core_setCore hcanon, if_pos rfl]
    exact ⟨rfl, AMap.get_upd_same hwf _ (· + 1)⟩
  case completion =>
    have hcores := State.besideCores_unposted s n
    have hcanon' := State.canon_unposted hcanon n
    have hseqs := State.besideSeqs_completed (s.unposted n) n
    have hnext := exec_waggleCompletion_all hne hroom fun g hg => (hpost g hg).1
    have hcore : ∀ g ∈ s.liveCores, (s.unposted n).core g = (s.core g).unpost n := fun g hg => State.core_unposted hcanon hg
    have hseq : ∀ d, d < 4 → ((s.unposted n).completed n).seq d = ((s.unposted n).seq d).complete n := fun d hd => State.seq_completed hcanon' hd
    generalize (s.unposted n).completed n = u at *
    generalize s.unposted n = t at *
    obtain ⟨-, hts, -, -⟩ := State.kept_of_besideCores hcores
    obtain ⟨-, huc, -⟩ := State.kept_of_besideSeqs hseqs
    refine ⟨u, hnext, State.frame_of_beside hcores hseqs, fun d hd => ?_, fun g hg => ?_⟩
    · rw [hseq d hd, State.seq, hts]
      exact AMap.get_set_same 0 (AMap.rising_of_wf (hwf d hd)) _ _
    · rw [State.core, huc, ← State.core, hcore g hg]
      exact AMap.get_upd_same (hpost g hg).2 n (· - 1)
  case release =>
    refine ⟨_, exec_waggleWaitRelease_waits hw hr hn, State.onlySeq_setSeq hcanon _ _, ?_⟩
    rw [State.seq_setSeq_same hcanon]
    exact ⟨rfl, AMap.get_set_same 0 (AMap.rising_of_wf hwf) _ _⟩
  case pace =>
    exact ⟨_, exec_paceRelease_waits hw hr hn, State.onlySeq_setSeq hcanon _ _, State.seq_setSeq_same hcanon _ _⟩
end

section
/-! PROOFS. Broadcast (R72, R85, R99, R117): an entry joins its queue in each live core of the die, and the stream moves past its words. -/

namespace Sys2Proof.Machine

variable {s : State}

/-! ## An entry joins a queue (R85, R380) -/

/-- What no write of a register changes, no SFLIP mask changes as it strikes. -/
theorem State.view_sflip {α : Type} (v : State → α) (hv : ∀ t i w, v (State.setReg t i w) = v t) (s : State) (base tgt idx : Nat) (any : Bool)
    (cw : Codeword) : v (s.sflip base tgt idx any cw).2 = v s := by
  unfold State.sflip
  simp only
  generalize (if bits (s.reg (base + 0x10)).toNat 2 0 ≥ 5 then 0 else bits (s.reg (base + 0x10)).toNat 2 0) = t
  split
  · rfl
  · simp only [hv]

/-- The state without what the entry of an instruction into queues changes. -/
def State.besideQueues (s : State) : State := { s with cores := [], clusters := [], regs := [], prog := { s.prog with nextQid := 0 } }

theorem State.kept_of_besideQueues {t : State} (h : t.besideQueues = s.besideQueues) :
    t.prog.halt = s.prog.halt ∧ t.seqs = s.seqs ∧ t.dram = s.dram :=
  ⟨(congrArg (·.prog.halt) h :), (congrArg State.seqs h :), (congrArg State.dram h :)⟩

/-- The words of an entry as the queue's SRAM of core g takes them, and the state once an SFLIP mask has struck. -/
def State.flipWords (s : State) (g : Nat) (e : Eng) (ws : List Codeword) : List Codeword × State :=
  ws.zipIdx.foldl (fun (acc : List Codeword × State) p =>
    let (cw, s) := acc.2.sflip (coreOff g + 0x220) 4 ((engNum e * 64 + ((s.core g).q.get e).length) * 9 + p.2) false p.1
    (acc.1 ++ [cw], s)) ([], s)

theorem State.view_flipWords {α : Type} (v : State → α) (hv : ∀ t i w, v (State.setReg t i w) = v t) (s : State) (g : Nat) (e : Eng)
    (ws : List Codeword) : v (s.flipWords g e ws).2 = v s :=
  foldl_view_snd v (fun _ t _ => State.view_sflip v hv t _ _ _ _ _) _ _ s

/-- A core with one entry more at the end of engine e's queue. -/
def Core.pushed (c : Core) (e : Eng) (x : QEntry) : Core := { c with q := c.q.set e (c.q.get e ++ [x]) }

theorem State.enqueue_eq (s : State) (g : Nat) (e : Eng) (x : QEntry) : s.enqueue g e x =
    let u := (s.noteWaits g).flipWords g e x.words
    (u.2.setCore g ((u.2.core g).pushed e { x with words := u.1 })).setCluster (clusterOf g)
      { (u.2.setCore g ((u.2.core g).pushed e { x with words := u.1 })).cluster (clusterOf g) with gated := false } := rfl

theorem State.besideQueues_enqueue (s : State) (g : Nat) (e : Eng) (x : QEntry) : (s.enqueue g e x).besideQueues = s.besideQueues := by
  rw [State.enqueue_eq]
  exact State.view_flipWords State.besideQueues (fun _ _ _ => rfl) (s.noteWaits g) g e x.words

/-- An entry that joins a queue of core g makes it longer by one, and leaves the other cores. -/
theorem State.core_enqueue (h : s.canon = true) (g : Nat) (e : Eng) (x : QEntry) :
    (((s.enqueue g e x).core g).q.get e).length = ((s.core g).q.get e).length + 1 ∧ ∀ j, j ≠ g → (s.enqueue g e x).core j = s.core j := by
  have hnote : (s.noteWaits g).canon = true := State.canon_noteWaits h g
  have hcores : ((s.noteWaits g).flipWords g e x.words).2.cores = (s.noteWaits g).cores :=
    State.view_flipWords State.cores (fun _ _ _ => rfl) _ g e x.words
  have hwf := State.canon_cores hnote
  rw [← hcores] at hwf
  have hcore : ∀ j, ((s.noteWaits g).flipWords g e x.words).2.core j = (s.noteWaits g).core j := fun j =>
    congrArg (fun m => AMap.get Core.init m j) hcores
  rw [State.enqueue_eq]
  generalize (s.noteWaits g).flipWords g e x.words = u at *
  have hset : ∀ j, (State.setCore u.2 g ((u.2.core g).pushed e { x with words := u.1 })).core j =
      if j = g then (u.2.core g).pushed e { x with words := u.1 } else u.2.core j := fun j => AMap.get_set _ (AMap.rising_of_wf hwf) g j _
  have hq : ∀ j, (s.noteWaits g).core j = if j = g then { s.core g with waitq := s.waiters g } else s.core j := fun j =>
    State.core_setCore h g j _
  refine ⟨?_, fun j hj => ?_⟩
  · change ((State.core (State.setCore _ _ _) g).q.get e).length = _
    rw [hset, if_pos rfl, hcore, hq, if_pos rfl]
    simp [Core.pushed]
  · change State.core (State.setCore _ _ _) j = _
    rw [hset, if_neg hj, hcore, hq, if_neg hj]

/-! ## Delivery to the live cores of a die (R72, R99) -/

/-- Cores without room are passed over. -/
def State.offer (s : State) (e : Eng) (x : QEntry) (g : Nat) : State :=
  if ((s.core g).q.get e).length < 64 then s.enqueue g e x else s

theorem State.canon_offer (h : s.canon = true) (e : Eng) (x : QEntry) (g : Nat) : (s.offer e x g).canon = true :=
  State.canon_ite (State.canon_enqueue h g e x) h

theorem State.besideQueues_offer (s : State) (e : Eng) (x : QEntry) (g : Nat) : (s.offer e x g).besideQueues = s.besideQueues := by
  unfold State.offer
  split
  · exact s.besideQueues_enqueue g e x
  · rfl

/-- A pass over cores with room lengthens the queue of each of them by one and leaves the other cores. -/
theorem State.core_overList_offer (e : Eng) (x : QEntry) : ∀ {ks : List Nat} {s : State}, s.canon = true → ks.Nodup →
    (∀ g ∈ ks, ((s.core g).q.get e).length < 64) →
    (∀ g ∈ ks, (((overList ks (fun g s => s.offer e x g) s).core g).q.get e).length = ((s.core g).q.get e).length + 1) ∧
      ∀ g, g ∉ ks → (overList ks (fun g s => s.offer e x g) s).core g = s.core g
  | [], s, _, _, _ => ⟨fun _ hg => absurd hg List.not_mem_nil, fun _ _ => rfl⟩
  | k :: ks, s, h, hn, hroom => by
    obtain ⟨hk, hn⟩ := List.nodup_cons.mp hn
    obtain ⟨hlen, hother⟩ := State.core_enqueue h k e x
    have hoffer : s.offer e x k = s.enqueue k e x := if_pos (hroom k (List.mem_cons_self ..))
    have hsame : ∀ g, g ≠ k → (s.offer e x k).core g = s.core g := fun g hg => by rw [hoffer, hother g hg]
    have hne : ∀ g ∈ ks, g ≠ k := fun g hg he => hk (he ▸ hg)
    obtain ⟨hin, hout⟩ := State.core_overList_offer e x (State.canon_offer h e x k) hn fun g hg => by
      rw [hsame g (hne g hg)]
      exact hroom g (List.mem_cons_of_mem _ hg)
    refine ⟨fun g hg => ?_, fun g hg => ?_⟩
    · obtain rfl | hg := List.mem_cons.mp hg
      · rw [← hlen, ← hoffer]
        exact congrArg (fun c : Core => (c.q.get e).length) (hout g hk)
      · rw [← hsame g (hne g hg)]
        exact hin g hg
    · obtain ⟨hgk, hg⟩ := not_or.mp (mt List.mem_cons.mpr hg)
      rw [← hsame g hgk]
      exact hout g hg

/-- The entry that the words of stream e make. -/
def State.entryOf (s : State) (d : Nat) (e : Eng) (ws : List Nat) : QEntry :=
  mkEntry s.prog.nextQid ((s.seq d).pc.get e) ((s.seq d).slot.get e) ws ((List.range 4).map ((s.seq d).lcntView e ((s.seq d).slot.get e)))

theorem State.deliver_eq (s : State) (d : Nat) (e : Eng) (x : QEntry) : s.deliver d e x =
    overList (s.liveOf d) (fun g s => s.offer e x g) { s with prog := { s.prog with nextQid := s.prog.nextQid + 1 } } := rfl

theorem State.besideQueues_deliver (s : State) (d : Nat) (e : Eng) (x : QEntry) : (s.deliver d e x).besideQueues = s.besideQueues := by
  rw [State.deliver_eq, overList_view State.besideQueues fun g t => t.besideQueues_offer e x g]
  rfl

/-- The words are broadcast and the stream is past them. -/
def State.sent (s : State) (d : Nat) (e : Eng) (ws : List Nat) : State :=
  (s.deliver d e (s.entryOf d e ws)).setSeq d ((s.seq d).passed e ws)

theorem State.broadcastWords_eq (s : State) (d : Nat) (e : Eng) (ws : List Nat) : s.broadcastWords d e ws =
    if s.queueFull d e then (s.sent d e ws).beginHalt 3 (engNum e) ((s.seq d).pc.get e) 0 else s.sent d e ws := rfl

theorem State.broadcastWords_room {d : Nat} {e : Eng} (hf : s.queueFull d e = false) (ws : List Nat) :
    s.broadcastWords d e ws = s.sent d e ws := by
  rw [State.broadcastWords_eq, hf, if_neg Bool.false_ne_true]

theorem State.canon_sent (h : s.canon = true) (d : Nat) (e : Eng) (ws : List Nat) : (s.sent d e ws).canon = true :=
  State.canon_setSeq (State.canon_deliver h d e _) _ _

theorem State.seq_sent (h : s.canon = true) (d : Nat) (e : Eng) (ws : List Nat) : (s.sent d e ws).seq d = (s.seq d).passed e ws :=
  State.seq_setSeq_same (State.canon_deliver h d e _) _ _

theorem State.sent_keeps (s : State) (d : Nat) (e : Eng) (ws : List Nat) : (s.sent d e ws).prog.halt = s.prog.halt ∧ (s.sent d e ws).dram = s.dram := by
  obtain ⟨hhalt, -, hdram⟩ := State.kept_of_besideQueues (s.besideQueues_deliver d e (s.entryOf d e ws))
  rw [State.sent, State.setSeq_prog, State.setSeq_dram]
  exact ⟨hhalt, hdram⟩

/-- Where no queue is full, the entry is in the queue of every live core of the die, and no other core has changed. -/
theorem State.core_sent (h : s.canon = true) {d : Nat} {e : Eng} (hf : s.queueFull d e = false) (ws : List Nat) :
    (∀ g ∈ s.liveOf d, (((s.sent d e ws).core g).q.get e).length = ((s.core g).q.get e).length + 1) ∧
      ∀ g, g ∉ s.liveOf d → (s.sent d e ws).core g = s.core g := by
  have hroom : ∀ g ∈ s.liveOf d, ((s.core g).q.get e).length < 64 := fun g hg => by
    have := List.any_eq_false.mp hf g hg
    simpa using this
  have hpass := State.core_overList_offer e (s.entryOf d e ws) (ks := s.liveOf d) (s := { s with prog := { s.prog with nextQid := s.prog.nextQid + 1 } })
    (State.canon_with_rest h) (s.nodup_liveOf d) hroom
  rw [← State.deliver_eq] at hpass
  unfold State.sent
  generalize s.deliver d e (s.entryOf d e ws) = t at *
  exact hpass

/-! ## The rows -/

theorem exec_broadcast_one (s : State) (d : Nat) (e : Eng) : exec (.broadcast d [e]) s = .next (s.fetchStream d e) := by
  cases e
  all_goals rfl

/-- What a stream that may fetch does with what it fetches. -/
theorem State.fetchStream_ok {d : Nat} {e : Eng} {ws : List Nat} (hf : (s.seq d).fetching e = true) (hw : (s.seq d).fetch e = .ok ws)
    (hop : opGroup (headOf (ws.headD 0)).op ≠ .control) : s.fetchStream d e = s.broadcastWords d e ws := by
  simp only [State.fetchStream, hf, if_true, hw, if_neg hop]

theorem State.fetchStream_bad {d : Nat} {e : Eng} (hf : (s.seq d).fetching e = true) (hw : (s.seq d).fetch e = .bad) :
    s.fetchStream d e = s.beginHalt 6 (engNum e) ((s.seq d).pc.get e) 0 := by
  simp only [State.fetchStream, hf, if_true, hw]

/-- A WTOK that posts is broadcast; one that also waits leaves its stream waiting on the token (R87, R126). -/
theorem exec_wtok_post {d : Nat} {e : Eng} {ws : List Nat} (hc : s.controlAt d e 0x06 = some ws) (hp : bitOf (headOf (ws.headD 0)).low 37 = true) :
    exec (.wtok d e) s = .next (if bitOf (headOf (ws.headD 0)).low 38 then
      (s.broadcastWords d e ws).setWait d e (.waggle (bits (headOf (ws.headD 0)).low 36 31)) else s.broadcastWords d e ws) := by
  change execWtok d e s = _
  simp only [execWtok, hc, hp, if_true]

end Sys2Proof.Machine

open Sys2Proof Sys2Proof.Machine

/-- Settles O25: delivery to the live cores where there is room, a halt where there is none or the words fail their checks. -/
theorem broadcastReachesEveryLiveCore : Obligations.BroadcastReachesEveryLiveCore := by
  unfold Obligations.BroadcastReachesEveryLiveCore
  intro s d e ws hcanon _ hfetch lengthens
  have hsent : s.queueFull d e = false → lengthens (s.sent d e ws) := fun hf => by
    obtain ⟨hin, hout⟩ := State.core_sent hcanon hf ws
    exact ⟨hin, hout, (s.sent_keeps d e ws).2, congrArg Seq.pc (State.seq_sent hcanon d e ws)⟩
  refine ⟨fun hw hop hf => ?good, fun hw hop hf hh => ?full, fun hw hh => ?bad, fun hc hp hf => ?wtok⟩
  case good =>
    refine ⟨_, exec_broadcast_one s d e, ?_⟩
    rw [State.fetchStream_ok hfetch hw hop, State.broadcastWords_room hf]
    exact hsent hf
  case full =>
    refine ⟨_, { cause := 3, stream := engNum e, pc := (s.seq d).pc.get e, code := 0 }, exec_broadcast_one s d e, ?_, rfl⟩
    rw [State.fetchStream_ok hfetch hw hop, State.broadcastWords_eq, if_pos hf]
    exact State.beginHalt_halt ((s.sent_keeps d e ws).1.trans hh) ..
  case bad =>
    refine ⟨_, exec_broadcast_one s d e, ?_⟩
    rw [State.fetchStream_bad hfetch hw]
    exact ⟨State.beginHalt_halt hh .., State.beginHalt_dram ..⟩
  case wtok =>
    refine ⟨_, exec_wtok_post hc hp, ?_⟩
    rw [State.broadcastWords_room hf]
    have hseq := State.seq_setSeq_same (State.canon_sent hcanon d e ws) d
    have hlen := hsent hf
    generalize s.sent d e ws = t at *
    split
    · next hwait =>
      obtain ⟨hin, hout, hdram, hpc⟩ := hlen
      refine ⟨⟨hin, hout, hdram, ?_⟩, fun _ => ?_⟩
      · rw [State.setWait, hseq]
        exact hpc
      · rw [State.setWait, hseq]
        exact Four.get_set_same ..
    · next hwait => exact ⟨hlen, fun h => absurd h hwait⟩
end

section
/-! PROOFS. Program memory (R101, R102, R475): what a segment reads as once it is swapped in, and its measurement. -/

namespace Sys2Proof.Machine

variable {s : State}

/-! ## Maps laid over maps -/

theorem AMap.get_filterKeys {α : Type} (d : α) (p : Nat → Bool) (k : Nat) : ∀ {m : AMap α}, AMap.rising m = true →
    AMap.get d (AMap.filterKeys p m) k = if p k then AMap.get d m k else d
  | [], _ => by simp [AMap.filterKeys]
  | (j, v) :: m, h => by
    simp only [AMap.rising, Bool.and_eq_true] at h
    obtain ⟨hj, hm⟩ := h
    have ih : AMap.get d (m.filter fun e => p e.1) k = if p k then AMap.get d m k else d := AMap.get_filterKeys d p k hm
    have hlow : k ≤ j → AMap.get d (m.filter fun e => p e.1) k = d := fun hk => AMap.get_of_above hk (AMap.above_filter hj)
    unfold AMap.filterKeys
    rw [List.filter_cons]
    by_cases hjk : j = k
    · subst hjk
      cases hp : p j
      · simp [hlow (Nat.le_refl _)]
      · simp [AMap.get]
    · by_cases hkj : k < j
      · cases hp : p j
        · simp [AMap.get, hjk, hkj, hlow (Nat.le_of_lt hkj)]
        · simp [AMap.get, hjk, hkj]
      · cases hp : p j
        · simp [AMap.get, hjk, hkj, ih]
        · simp [AMap.get, hjk, hkj, ih]

/-- A map laid over another: every entry of the first is written to the second. -/
def AMap.overlay {α : Type} [DecidableEq α] (d : α) (new base : AMap α) : AMap α := new.foldl (fun m e => AMap.set d m e.1 e.2) base

theorem AMap.wf_overlay {α : Type} [DecidableEq α] {d : α} (new : AMap α) {base : AMap α} (h : AMap.wf d base = true) :
    AMap.wf d (AMap.overlay d new base) = true := AMap.wf_foldl (fun _ _ hm => AMap.wf_set hm) new h

/-- It reads as the first map where that is not at the default, and as the second elsewhere. -/
theorem AMap.get_overlay {α : Type} [DecidableEq α] (d : α) (k : Nat) : ∀ {new base : AMap α}, AMap.wf d new = true → AMap.rising base = true →
    AMap.get d (AMap.overlay d new base) k = if AMap.get d new k = d then AMap.get d base k else AMap.get d new k
  | [], base, _, _ => by simp [AMap.overlay]
  | (j, v) :: new, base, hn, hb => by
    simp only [AMap.wf, Bool.and_eq_true, decide_eq_true_eq] at hn
    obtain ⟨⟨hv, hj⟩, hn⟩ := hn
    refine (AMap.get_overlay d k hn (AMap.rising_set hb)).trans ?_
    rw [AMap.get_set d hb]
    by_cases hjk : j = k
    · subst hjk
      simp [AMap.get, AMap.get_of_above (Nat.le_refl _) hj, hv]
    · by_cases hkj : k < j
      · simp [AMap.get, hjk, hkj, Ne.symm hjk, AMap.get_of_above (Nat.le_of_lt hkj) hj]
      · simp [AMap.get, hjk, hkj, Ne.symm hjk]

/-! ## Segments (R101, R102) -/

theorem segKeys_iff {g k : Nat} : segKeys g k = true ↔ k / 8192 = g := by
  simp only [segKeys, decide_eq_true_eq]
  omega

/-- The program memory of a sequencer with segment g taken from its shadow. -/
theorem Seq.swapSeg_pm (x : Seq) (g : Nat) : (x.swapSeg g).pm =
    AMap.overlay zeroCw (AMap.filterKeys (segKeys g) x.shadow) (AMap.filterKeys (fun k => !segKeys g k) x.pm) := rfl

theorem Seq.get_swapSeg_pm {x : Seq} (hp : AMap.wf zeroCw x.pm = true) (hs : AMap.wf zeroCw x.shadow = true) (g k : Nat) :
    AMap.get zeroCw (x.swapSeg g).pm k = if k / 8192 = g then AMap.get zeroCw x.shadow k else AMap.get zeroCw x.pm k := by
  rw [Seq.swapSeg_pm, AMap.get_overlay _ _ (AMap.wf_filterKeys hs) (AMap.rising_of_wf (AMap.wf_filterKeys hp)),
    AMap.get_filterKeys _ _ _ (AMap.rising_of_wf hs), AMap.get_filterKeys _ _ _ (AMap.rising_of_wf hp)]
  by_cases hk : k / 8192 = g
  · simp only [segKeys_iff.mpr hk, hk, if_true, Bool.not_true, Bool.false_eq_true, if_false]
    split
    · next h => exact h.symm
    · rfl
  · have hk' : segKeys g k = false := Bool.eq_false_iff.mpr (mt segKeys_iff.mp hk)
    simp [hk', hk]

/-- A bit cleared in 64 bits, and a bit beside it. -/
theorem bitOf_clear_same (w : Nat) {g : Nat} (hg : g < 64) : bitOf (w &&& (allBits ^^^ (1 <<< g))) g = false := by
  simp [bitOf_eq_testBit, allBits, Nat.testBit_two_pow_sub_one, Nat.one_shiftLeft, hg, -Nat.reducePow]

theorem bitOf_clear_other (w : Nat) {g j : Nat} (hj : j < 64) (h : j ≠ g) : bitOf (w &&& (allBits ^^^ (1 <<< g))) j = bitOf w j := by
  simp [bitOf_eq_testBit, allBits, Nat.testBit_two_pow_sub_one, Nat.one_shiftLeft, hj, Ne.symm h, -Nat.reducePow]

theorem bitOf_set_same (w g : Nat) : bitOf (w ||| (1 <<< g)) g = true := by
  simp [bitOf_eq_testBit, Nat.one_shiftLeft]

theorem Seq.pending_swapSeg {g : Nat} (hg : g < 64) (x : Seq) : bitOf (x.swapSeg g).pmPending g = false :=
  bitOf_clear_same _ hg

theorem exec_segmentSwap_pending {d g : Nat} (hp : bitOf (s.seq d).pmPending g = true) (hl : (s.seq d).st ≠ .run ∨ (s.seq d).segLive g = false) :
    exec (.segmentSwap d g) s = .next (s.setSeq d ((s.seq d).swapSeg g)) := congrArg Host.Outcome.next (if_pos ⟨hp, hl⟩)

/-! ## Measurements (R475) -/

/-- A sequencer with segment g measured: its digest recorded, the log extended by it, and its mark cleared. -/
def Seq.measured (x : Seq) (g : Nat) : Seq :=
  { x with meas := AMap.set 0 x.meas g (Config.sha256 (x.segBytes g)), dirty := x.dirty &&& (allBits ^^^ (1 <<< g)),
           log := Config.sha256 (digestBytes x.log ++ leBytes 1 g ++ digestBytes (Config.sha256 (x.segBytes g))) }

theorem exec_segmentMeasurement_dirty {d g : Nat} (hd : d < 4) (hg : bitOf (s.seq d).dirty g = true) (h7 : s.atS7 = true) :
    exec (.segmentMeasurement d g) s = .next (s.setSeq d ((s.seq d).measured g)) := congrArg Host.Outcome.next (if_pos ⟨hd, hg, h7⟩)

end Sys2Proof.Machine

open Sys2Proof Sys2Proof.Machine

/-- Settles O26: the swap takes every word of the segment from its shadow, the measurement is of the segment's active contents. -/
theorem segmentsSwapWhole : Obligations.SegmentsSwapWhole := by
  unfold Obligations.SegmentsSwapWhole
  intro s d g hcanon hd hg
  refine ⟨fun hp hl hpm hsh => ?_, fun hdirty h7 hmeas => ?_⟩
  · refine ⟨_, exec_segmentSwap_pending hp hl, State.onlySeq_setSeq hcanon _ _, ?_⟩
    rw [State.seq_setSeq_same hcanon]
    exact ⟨rfl, fun k hk => by rw [Seq.get_swapSeg_pm hpm hsh, if_pos hk], fun k hk => by rw [Seq.get_swapSeg_pm hpm hsh, if_neg hk],
      Seq.pending_swapSeg hg _⟩
  · refine ⟨_, exec_segmentMeasurement_dirty hd hdirty h7, State.onlySeq_setSeq hcanon _ _, ?_⟩
    rw [State.seq_setSeq_same hcanon]
    exact ⟨AMap.get_set_same 0 (AMap.rising_of_wf hmeas) _ _, rfl, rfl, bitOf_clear_same _ hg⟩
end

section
/-! PROOFS. The live mask, the faults that wait and the launch (R103, R107, R383, R390, R409, R410). -/

namespace Sys2Proof.Machine

variable {s t : State}

/-! ## No fault waits (R384, R390, R394) -/

/-- With no fault detected and the minimal service set whole, there is nothing to handle. -/
theorem State.handleAll_none (h : s.flt.pend = []) (hr : s.serviceRow = 0) : s.handleAll = s := by
  have hpend : (s.onFlt fun f => { f with pend := f.pend.filter s.stillFrozen }) = s := by
    rw [State.onFlt, h, List.filter_nil, ← h]
  unfold State.handleAll
  simp only [hpend, h, List.filter_nil, List.foldl_nil]
  exact if_pos hr

theorem State.settleFaults_none (h : s.flt.pend = []) : s.settleFaults = s := if_pos (.inl h)

/-! ## The live mask taken (R107, R383) -/

/-- What a core is beside the rank and the count that the live mask gives it. -/
def Core.besideRank (c : Core) : Core := { c with rank := 0, liveCopy := 0 }

/-- The live mask taking effect: the cores change in rank and count alone. -/
structure State.Masked (s t : State) : Prop where
  canon : t.canon = true
  same : t.besideLive = s.besideLive
  core : ∀ g, (t.core g).besideRank = (s.core g).besideRank

namespace State.Masked

theorem refl (h : s.canon = true) : s.Masked s := ⟨h, rfl, fun _ => rfl⟩

theorem setRank (h : s.Masked t) (g rank n : Nat) : s.Masked (t.setCore g { t.core g with rank := rank, liveCopy := n }) := by
  refine ⟨State.canon_setCore h.canon g _, h.same, fun j => ?_⟩
  rw [State.core_setCore h.canon, ← h.core j]
  split
  · next e => rw [e]; rfl
  · rfl

theorem park (h : s.Masked t) (d : Nat) : s.Masked (if t.liveOf d = [] then t.setSeq d { t.seq d with st := .parked } else t) := by
  split
  · exact ⟨State.canon_setSeq h.canon d _, h.same, h.core⟩
  · exact h

/-- Where every sequencer in the program keeps a live core, one that parks had parked before. -/
theorem seq_park (h : s.Masked t) (hseq : ∀ d, t.seq d = s.seq d) (hlive : ∀ d ∈ s.activeSeqs, s.liveOf d ≠ []) {d : Nat} (hd : d < 4) (j : Nat) :
    (if t.liveOf d = [] then t.setSeq d { t.seq d with st := .parked } else t).seq j = s.seq j := by
  split
  · next he =>
    have hparked : (t.seq d).st = .parked := by
      by_contra hne
      have hnil : s.liveOf d = [] := (congrArg (fun u => State.liveOf u d) h.same :).symm.trans he
      exact hlive d (State.mem_activeSeqs.mpr ⟨hd, hseq d ▸ hne⟩) hnil
    have hsame : ({ t.seq d with st := .parked } : Seq) = t.seq d := by rw [← hparked]
    rw [State.seq_setSeq h.canon, hsame, ← hseq j]
    split
    · next e => rw [e]
    · rfl
  · exact hseq j

theorem onPins (h : s.Masked t) (f : Pins → Nat) : s.Masked (t.onPins fun p => { p with corePll := f p }) :=
  ⟨State.canon_with_rest h.canon, h.same, h.core⟩

end State.Masked

/-- The cores that are to be live have their ranks, and count the live cores. -/
def State.ranked (s : State) : State :=
  overList ((List.range 2048).filter s.prog.live.getLsbD) (fun g t =>
    t.setCore g { t.core g with rank := rankOf s.prog.live g, liveCopy := (liveCounts s.prog.live).1 }) s

/-- The sequencers of dies without a live core park. -/
def State.parkDies (s : State) : State :=
  overList fourDies (fun d t => if t.liveOf d = [] then t.setSeq d { t.seq d with st := .parked } else t) s

theorem State.applyLive_eq (s : State) :
    s.applyLive = s.ranked.parkDies.onPins fun p => { p with corePll := p.corePll &&& s.ranked.parkDies.pllMask } := by
  simp only [State.applyLive, State.parkDies, State.ranked]

theorem State.masked_ranked (h : s.canon = true) : s.Masked s.ranked := by
  unfold State.ranked
  generalize (List.range 2048).filter s.prog.live.getLsbD = gs
  exact overList_keeps (fun g t ht => ht.setRank g _ _) gs s (.refl h)

theorem State.seqs_ranked (s : State) : s.ranked.seqs = s.seqs := by
  unfold State.ranked
  generalize (List.range 2048).filter s.prog.live.getLsbD = gs
  exact overList_view State.seqs (f := fun g t => t.setCore g _) (fun _ _ => rfl) gs s

theorem State.masked_parkDies (h : s.Masked t) : s.Masked t.parkDies :=
  overList_keeps (P := s.Masked) (fun d _ ht => ht.park d) fourDies t h

theorem State.masked_applyLive (h : s.canon = true) : s.Masked s.applyLive := by
  rw [State.applyLive_eq]
  exact (State.masked_parkDies (State.masked_ranked h)).onPins _

theorem State.seq_parkDies (h : s.Masked t) (hseq : ∀ d, t.seq d = s.seq d) (hlive : ∀ d ∈ s.activeSeqs, s.liveOf d ≠ []) (j : Nat) :
    t.parkDies.seq j = s.seq j :=
  (foldl_keeps_mem (P := fun t => s.Masked t ∧ ∀ d, t.seq d = s.seq d) fourDies t
    (fun _ d hd ht => ⟨ht.1.park d, ht.1.seq_park ht.2 hlive (mem_fourDies.mp hd)⟩) ⟨h, hseq⟩).2 j

theorem State.onPins_seq (s : State) (f : Pins → Pins) (d : Nat) : (s.onPins f).seq d = s.seq d := rfl

theorem State.seq_applyLive (h : s.canon = true) (hlive : ∀ d ∈ s.activeSeqs, s.liveOf d ≠ []) (j : Nat) : s.applyLive.seq j = s.seq j := by
  rw [State.applyLive_eq, State.onPins_seq]
  exact State.seq_parkDies (State.masked_ranked h) (fun d => congrArg (fun m => AMap.get Seq.init m d) s.seqs_ranked) hlive j

/-- The state without what taking the live mask changes. -/
def State.besideMask (s : State) : State :=
  { s with cores := [], seqs := [], pins := { s.pins with corePll := 0 }, prog := { s.prog with live := 0, sx12 := 0, sx13 := 0, sx15 := 0 } }

theorem State.besideMask_takeMask (s : State) : s.takeMask.besideMask = s.besideMask := by
  have happly := State.besideLive_applyLive (s.onProg fun p => { p with live := p.admitted })
  unfold State.takeMask State.presetCounts
  generalize (s.onProg fun p => { p with live := p.admitted }).applyLive = t at *
  exact (congrArg State.besideMask happly :)

/-- With the admitted cores live already, there is no new mask to take. -/
theorem State.onProg_admitted (h : s.prog.admitted = s.prog.live) : (s.onProg fun p => { p with live := p.admitted }) = s := by
  have hp : ({ s.prog with live := s.prog.admitted } : Prog) = s.prog := by rw [h]
  exact congrArg (fun p => ({ s with prog := p } : State)) hp

theorem State.presetCounts_cores (s : State) : s.presetCounts.cores = s.cores := rfl
theorem State.presetCounts_seqs (s : State) : s.presetCounts.seqs = s.seqs := rfl

theorem State.core_takeMask (h : s.canon = true) (g : Nat) : (s.takeMask.core g).besideRank = (s.core g).besideRank := by
  have hm := State.masked_applyLive (State.canon_onProg h fun p => { p with live := p.admitted })
  unfold State.takeMask
  rw [State.core, State.presetCounts_cores]
  exact hm.core g

theorem State.seq_takeMask (h : s.canon = true) (ha : s.prog.admitted = s.prog.live) (hlive : ∀ d ∈ s.activeSeqs, s.liveOf d ≠ []) (d : Nat) :
    s.takeMask.seq d = s.seq d := by
  have hseq := State.seq_applyLive h hlive d
  unfold State.takeMask
  rw [State.onProg_admitted ha, State.seq, State.presetCounts_seqs]
  exact hseq

end Sys2Proof.Machine
end

section
/-! PROOFS. Programs (R100 to R103, R107, R409, R410): words of program memory written by the host, launches and resumes. -/

namespace Sys2Proof.Machine

variable {s : State}

/-! ## Swapping every pending segment (R102) -/

/-- A sequencer without its program memory, the shadows and their marks. -/
def Seq.besidePm (x : Seq) : Seq := { x with pm := [], shadow := [], pmPending := 0, dirty := 0 }

theorem Seq.pc_of_besidePm {x y : Seq} (h : y.besidePm = x.besidePm) : y.pc = x.pc := (congrArg Seq.pc h :)

theorem Seq.besidePm_swapSeg (x : Seq) (g : Nat) : (x.swapSeg g).besidePm = x.besidePm := rfl

/-- The swap of one segment that may be swapped. -/
def Seq.swapOne (x : Seq) (g : Nat) : Seq := if bitOf x.pmPending g && (x.st != .run || !x.segLive g) then x.swapSeg g else x

theorem Seq.swapAll_eq (x : Seq) : x.swapAll = (List.range 64).foldl Seq.swapOne x := rfl

theorem Seq.besidePm_swapOne (x : Seq) (g : Nat) : (x.swapOne g).besidePm = x.besidePm := by
  unfold Seq.swapOne
  split
  · exact x.besidePm_swapSeg g
  · rfl

theorem Seq.besidePm_foldl_swapOne : ∀ (gs : List Nat) (x : Seq), (gs.foldl Seq.swapOne x).besidePm = x.besidePm
  | [], _ => rfl
  | g :: gs, x => (Seq.besidePm_foldl_swapOne gs (x.swapOne g)).trans (x.besidePm_swapOne g)

theorem Seq.besidePm_swapAll (x : Seq) : x.swapAll.besidePm = x.besidePm := Seq.besidePm_foldl_swapOne _ x

/-- A sequencer that does not run, with its program memory and shadows in canonical form. -/
structure Seq.Loadable (x : Seq) : Prop where
  idle : x.st ≠ .run
  pm : AMap.wf zeroCw x.pm = true
  shadow : AMap.wf zeroCw x.shadow = true

namespace Seq.Loadable

theorem swapSeg {x : Seq} (h : x.Loadable) (g : Nat) : (x.swapSeg g).Loadable :=
  ⟨h.idle, AMap.wf_overlay _ (AMap.wf_filterKeys h.pm), AMap.wf_filterKeys (p := fun k => !segKeys g k) h.shadow⟩

/-- In a sequencer that does not run a pending segment is swapped. -/
theorem swapOne_eq {x : Seq} (h : x.Loadable) (g : Nat) : x.swapOne g = if bitOf x.pmPending g then x.swapSeg g else x := by
  simp [Seq.swapOne, h.idle]

theorem swapOne {x : Seq} (h : x.Loadable) (g : Nat) : (x.swapOne g).Loadable := by
  rw [h.swapOne_eq]
  split
  · exact h.swapSeg g
  · exact h

theorem get_swapOne {x : Seq} (h : x.Loadable) (g k : Nat) : AMap.get zeroCw (x.swapOne g).pm k =
    if k / 8192 = g ∧ bitOf x.pmPending g = true then AMap.get zeroCw x.shadow k else AMap.get zeroCw x.pm k := by
  rw [h.swapOne_eq]
  split
  · next hp => simp [Seq.get_swapSeg_pm h.pm h.shadow, hp]
  · next hp => simp [hp]

/-- The swap of one segment leaves the shadows and the marks of the others. -/
theorem swapOne_other {x : Seq} (h : x.Loadable) {g k : Nat} (hg : k / 8192 ≠ g) (hk : k / 8192 < 64) :
    AMap.get zeroCw (x.swapOne g).shadow k = AMap.get zeroCw x.shadow k ∧ bitOf (x.swapOne g).pmPending (k / 8192) = bitOf x.pmPending (k / 8192) := by
  rw [h.swapOne_eq]
  split
  · refine ⟨?_, ?_⟩
    · change AMap.get zeroCw (AMap.filterKeys (fun k => !segKeys g k) x.shadow) k = _
      have hseg : segKeys g k = false := Bool.eq_false_iff.mpr (mt segKeys_iff.mp hg)
      rw [AMap.get_filterKeys _ _ _ (AMap.rising_of_wf h.shadow), hseg]
      rfl
    · exact bitOf_clear_other _ hk hg
  · exact ⟨rfl, rfl⟩

/-- After a pass over segments, a word of a pending one among them reads as its shadow did, any other as before. -/
theorem get_foldl_swapOne : ∀ {gs : List Nat} {x : Seq}, x.Loadable → gs.Nodup → ∀ {k : Nat}, k / 8192 < 64 →
    AMap.get zeroCw (gs.foldl Seq.swapOne x).pm k =
      if k / 8192 ∈ gs ∧ bitOf x.pmPending (k / 8192) = true then AMap.get zeroCw x.shadow k else AMap.get zeroCw x.pm k
  | [], x, _, _, k, _ => by simp
  | g :: gs, x, h, hn, k, hk => by
    obtain ⟨hg, hn⟩ := List.nodup_cons.mp hn
    rw [List.foldl_cons, get_foldl_swapOne (h.swapOne g) hn hk, h.get_swapOne]
    by_cases e : k / 8192 = g
    · simp [e, hg]
    · obtain ⟨hshadow, hpend⟩ := h.swapOne_other e hk
      simp [e, hshadow, hpend]

theorem get_swapAll {x : Seq} (h : x.Loadable) {k : Nat} (hk : k / 8192 < 64) : AMap.get zeroCw x.swapAll.pm k =
    if bitOf x.pmPending (k / 8192) then AMap.get zeroCw x.shadow k else AMap.get zeroCw x.pm k := by
  rw [Seq.swapAll_eq, h.get_foldl_swapOne List.nodup_range hk]
  simp [hk]

end Seq.Loadable

/-! ## A word written by the host (R101, R102) -/

/-- A fold over a range that adds to both parts of a pair gives the two sums. -/
theorem foldl_add_pair (f g : Nat → Nat) (step : Nat × Nat → Nat → Nat × Nat) (n : Nat)
    (h : ∀ acc j, j < n → step acc j = (acc.1 + f j, acc.2 + g j)) :
    (List.range n).foldl step (0, 0) = (((List.range n).map f).sum, ((List.range n).map g).sum) := by
  induction n with
  | zero => rfl
  | succ n ih =>
    rw [List.range_succ, List.foldl_append, ih fun acc j hj => h acc j (by omega)]
    simp [h _ n (by omega)]

theorem byteMask_word : BitVec.ofNat 64 ((List.range 8).map fun j => 0xFF * 2 ^ (8 * j)).sum = fullMask := by decide

/-- The eight bytes of an aligned word are one update of the whole word. -/
theorem byteUpds_word {bs : List Byte} (hb : bs.length = 8) (k : Nat) : byteUpds (8 * k) bs =
    [(k, BitVec.ofNat 64 ((List.range 8).map fun i => (bs.getD i 0).toNat * 2 ^ (8 * i)).sum, fullMask)] := by
  have hlo : 8 * k / 8 = k := by omega
  have hn : (8 * k + 8 + 7) / 8 - k = 1 := by omega
  unfold byteUpds
  simp only [hb, hlo, hn, List.range_one, List.map_cons, List.map_nil, Nat.add_zero]
  rw [foldl_add_pair (fun i => (bs.getD i 0).toNat * 2 ^ (8 * i)) (fun j => 0xFF * 2 ^ (8 * j)), byteMask_word]
  intro acc j hj
  rw [if_pos (by omega)]
  simp [Nat.shiftLeft_eq]
/-- A write of word k of a segment goes to its shadow: a pending or live one. -/
def Seq.shadowed (x : Seq) (g : Nat) : Bool := bitOf x.pmPending g || x.segLive g

/-- A sequencer after a write of codeword cw to word k of its program memory. -/
def Seq.written (x : Seq) (k : Nat) (cw : Codeword) : Seq :=
  if x.shadowed (k / 8192) then { x.openShadow (k / 8192) with shadow := AMap.set zeroCw (x.openShadow (k / 8192)).shadow k cw }
  else { x with dirty := x.dirty ||| (1 <<< (k / 8192)), pm := AMap.set zeroCw x.pm k cw }

theorem State.pmWrite_full (s : State) (d k : Nat) (v : Word) :
    s.pmWrite d k v fullMask = s.setSeq d ((s.seq d).written k (encode v false)) := by
  unfold State.pmWrite Seq.written Seq.shadowed
  simp only [rmw_full]
  split <;> rfl

theorem Seq.besidePm_openShadow (x : Seq) (g : Nat) : (x.openShadow g).besidePm = x.besidePm := by
  unfold Seq.openShadow
  split <;> rfl

theorem Seq.besidePm_written (x : Seq) (k : Nat) (cw : Codeword) : (x.written k cw).besidePm = x.besidePm := by
  unfold Seq.written
  split
  · exact x.besidePm_openShadow _
  · rfl

theorem Seq.pending_openShadow (x : Seq) (g : Nat) : bitOf (x.openShadow g).pmPending g = true := by
  unfold Seq.openShadow
  split
  · assumption
  · exact bitOf_set_same _ _

namespace Seq.Loadable

theorem openShadow {x : Seq} (h : x.Loadable) (g : Nat) : (x.openShadow g).Loadable := by
  unfold Seq.openShadow
  split
  · exact h
  · exact ⟨h.idle, h.pm, AMap.wf_overlay _ (AMap.wf_filterKeys h.shadow)⟩

theorem written {x : Seq} (h : x.Loadable) (k : Nat) (cw : Codeword) : (x.written k cw).Loadable := by
  unfold Seq.written
  split
  · exact ⟨(h.openShadow _).idle, (h.openShadow _).pm, AMap.wf_set (h.openShadow _).shadow⟩
  · exact ⟨h.idle, AMap.wf_set h.pm, h.shadow⟩

/-- A word written to a sequencer that does not run is in its active memory after the swap. -/
theorem get_swapAll_written {x : Seq} (h : x.Loadable) {k : Nat} (hk : k / 8192 < 64) (cw : Codeword) :
    AMap.get zeroCw (x.written k cw).swapAll.pm k = cw := by
  rw [(h.written k cw).get_swapAll hk]
  unfold Seq.written
  split
  · rw [if_pos (x.pending_openShadow _)]
    exact AMap.get_set_same _ (AMap.rising_of_wf (h.openShadow _).shadow) _ _
  · next hs =>
    rw [if_neg (show ¬ bitOf x.pmPending (k / 8192) = true from fun hp => hs (by simp [Seq.shadowed, hp]))]
    exact AMap.get_set_same _ (AMap.rising_of_wf h.pm) _ _

end Seq.Loadable

theorem State.bar2Write_word (hc : s.canon = true) {d k : Nat} {bs : List Byte} (hd : d < 4) (hk : k < 2 ^ 19) (hb : bs.length = 8)
    (hi : (s.seq d).st ≠ .run) : s.bar2Write (0x400000 * d + 8 * k) bs = s.setSeq d ((s.seq d).written k
      (encode (BitVec.ofNat 64 ((List.range 8).map fun i => (bs.getD i 0).toNat * 2 ^ (8 * i)).sum) false)).swapAll := by
  have hdiv : (0x400000 * d + 8 * k) / 0x400000 = d := by omega
  have hmod : (0x400000 * d + 8 * k) % 0x400000 = 8 * k := by omega
  have hlast : (0x400000 * d + 8 * k + 8 - 1) / 0x400000 = d := by omega
  have hne : bs ≠ [] := by rintro rfl; simp at hb
  unfold State.bar2Write
  simp only [hdiv, hmod, hb, hlast, if_neg hne, byteUpds_word hb, List.foldl_cons, List.foldl_nil, State.pmWrite_full, State.seq_setSeq_same hc, State.setSeq_setSeq hc]
  rw [if_neg (by omega), if_neg]
  exact fun h => hi ((congrArg Seq.st (Seq.besidePm_written (s.seq d) k _)).symm.trans h)

end Sys2Proof.Machine
end

section
/-! PROOFS. The launch of a program and its resume (R103, R107, R409, R410). -/

namespace Sys2Proof.Machine

variable {s t : State}

/-! ## The steps of a launch (R107) -/

/-- The descriptor taken: the launch number, the step, the options and the completion record's address. -/
def State.described (s : State) : State :=
  let w0 := s.launchWord 0
  let no := (s.prog.launchNo + 1) % 2 ^ 32
  let s := (s.onHost fun h => { h with launchStat := no <<< 32, complLost := false }).onFlt fun f => { f with watchdog := false, replayMax := false }
  s.onProg fun p => { p with
    step := 0, inStep := false, attempts := 0, launchNo := no, norec := bitOf w0 0, nomsi := bitOf w0 1, vec := bits w0 26 16,
    caddr := bits (s.launchWord 1) 63 6 <<< 6, halt := none, launchSat := 0, launchFlush := 0, mbEmptySeen := false, contribs := [] }

/-- Every sequencer swaps its pending segments. -/
def State.swapSeqs (s : State) : State := overList fourDies (fun d s => s.setSeq d (s.seq d).swapAll) s

def State.launchPcs (s : State) : Four Nat := { me := s.launchPc .me, ve := s.launchPc .ve, fe := s.launchPc .fe, xe := s.launchPc .xe }

def State.launchSx (s : State) : AMap Word := (List.range 12).foldl (fun (m : AMap Word) i => AMap.set 0 m i (s.reg (0x320 + 8 * i))) []

/-- Every sequencer in the program starts. -/
def State.startSeqs (s : State) : State := overList s.activeSeqs (fun d t => t.setSeq d ((t.seq d).start s.launchPcs s.launchSx)) s

/-- Every live core has fresh lanes and streams. -/
def State.freshCores (s : State) : State := overList s.liveCores (fun g t => t.freshCore g) s

def State.peersFreed (s : State) : State :=
  s.onSwarm fun w => { w with peers := AMap.mapVals .init (fun e => { e with freed := false }) w.peers }

theorem State.launch_eq (s : State) : s.launch = s.described.takeMask.swapSeqs.startSeqs.freshCores.peersFreed := by
  simp only [State.launch, State.described, State.swapSeqs, State.startSeqs, State.freshCores, State.peersFreed, State.launchPcs, State.launchSx]

/-- A state without what a launch changes after the descriptor is taken. -/
def State.besideLaunch (s : State) : State :=
  { s.besideMask with dies := [], ledg := [], swarm := { s.besideMask.swarm with peers := [] } }

theorem State.besideLaunch_takeMask (s : State) : s.takeMask.besideLaunch = s.besideLaunch := by
  rw [State.besideLaunch, s.besideMask_takeMask, State.besideLaunch]

theorem State.besideLaunch_swapSeqs (s : State) : s.swapSeqs.besideLaunch = s.besideLaunch :=
  overList_view State.besideLaunch (f := fun d t => t.setSeq d (t.seq d).swapAll) (fun _ _ => rfl) fourDies s

theorem State.besideLaunch_startSeqs (s : State) : s.startSeqs.besideLaunch = s.besideLaunch := by
  unfold State.startSeqs
  generalize s.activeSeqs = ds
  generalize s.launchPcs = pc
  generalize s.launchSx = sx
  exact overList_view State.besideLaunch (f := fun d t => t.setSeq d ((t.seq d).start pc sx)) (fun _ _ => rfl) ds s

theorem State.besideLaunch_retireLanes (s : State) (g : Nat) : (s.retireLanes g).besideLaunch = s.besideLaunch := rfl
theorem State.besideLaunch_unbindStreams (s : State) (g : Nat) : (s.unbindStreams g).besideLaunch = s.besideLaunch := rfl

theorem State.besideLaunch_freshCore (s : State) (g : Nat) : (s.freshCore g).besideLaunch = s.besideLaunch := by
  unfold State.freshCore
  simp only
  exact (State.besideLaunch_unbindStreams _ g).trans (State.besideLaunch_retireLanes s g)

theorem State.seqs_retireLanes (s : State) (g : Nat) : (s.retireLanes g).seqs = s.seqs := rfl
theorem State.seqs_unbindStreams (s : State) (g : Nat) : (s.unbindStreams g).seqs = s.seqs := rfl

theorem State.seqs_freshCore (s : State) (g : Nat) : (s.freshCore g).seqs = s.seqs := by
  unfold State.freshCore
  simp only
  exact (State.seqs_unbindStreams _ g).trans (State.seqs_retireLanes s g)

theorem State.besideLaunch_freshCores (s : State) : s.freshCores.besideLaunch = s.besideLaunch := by
  unfold State.freshCores
  generalize s.liveCores = gs
  exact overList_view State.besideLaunch (fun g t => t.besideLaunch_freshCore g) gs s

theorem State.besideLaunch_peersFreed (s : State) : s.peersFreed.besideLaunch = s.besideLaunch := rfl

theorem State.besideLaunch_launch (s : State) : s.launch.besideLaunch = s.described.besideLaunch := by
  rw [State.launch_eq, State.besideLaunch_peersFreed, State.besideLaunch_freshCores, State.besideLaunch_startSeqs, State.besideLaunch_swapSeqs,
    State.besideLaunch_takeMask]

/-! ## The sequencers after a launch -/

theorem State.seqs_freshCores (s : State) : s.freshCores.seqs = s.seqs := by
  unfold State.freshCores
  generalize s.liveCores = gs
  exact overList_view State.seqs (fun g t => t.seqs_freshCore g) gs s

theorem State.canon_swapSeqs (h : s.canon = true) : s.swapSeqs.canon = true :=
  overList_keeps (P := fun t => t.canon = true) (fun d _ ht => State.canon_setSeq ht d _) fourDies s h

theorem State.seq_swapSeqs (h : s.canon = true) {d : Nat} (hd : d < 4) : s.swapSeqs.seq d = (s.seq d).swapAll :=
  (State.seq_overList_setSeq Seq.swapAll h nodup_fourDies d).trans (if_pos (mem_fourDies.mpr hd))

theorem State.seq_startSeqs (h : s.canon = true) {d : Nat} (hd : d ∈ s.activeSeqs) :
    s.startSeqs.seq d = (s.seq d).start s.launchPcs s.launchSx :=
  (State.seq_overList_setSeq (Seq.start s.launchPcs s.launchSx) h s.nodup_activeSeqs d).trans (if_pos hd)

theorem State.liveOf_congr (hl : t.prog.live = s.prog.live) (hf : t.flt.fenced = s.flt.fenced) (d : Nat) : t.liveOf d = s.liveOf d := by
  have hlive : t.isLive = s.isLive := by
    funext g
    simp only [State.isLive, State.coreDown, State.isFenced, hl, hf]
  simp only [State.liveOf, hlive]

theorem State.reg_congr (hr : t.regs = s.regs) (hc : t.cfg = s.cfg) (i : Nat) : t.reg i = s.reg i := by
  rw [State.reg, State.reg, hr, hc]

/-- The start offsets and the SX values depend on the registers alone. -/
theorem State.launch_of_reg (h : ∀ i, t.reg i = s.reg i) : t.launchPcs = s.launchPcs ∧ t.launchSx = s.launchSx := by
  simp only [State.launchPcs, State.launchSx, State.launchPc, State.launchWord, h, and_self]

theorem State.get_launchPcs (s : State) (e : Eng) : s.launchPcs.get e = s.launchPc e := by
  cases e
  all_goals rfl

/-- Writing the first keys in order makes each of them read as written. -/
theorem AMap.get_range_set (f : Nat → Word) (n : Nat) : let m := (List.range n).foldl (fun (m : AMap Word) i => AMap.set 0 m i (f i)) []
    AMap.wf 0 m = true ∧ ∀ i, i < n → AMap.get 0 m i = f i := by
  induction n with
  | zero => exact ⟨rfl, by simp⟩
  | succ n ih =>
    simp only [List.range_succ, List.foldl_append, List.foldl_cons, List.foldl_nil]
    generalize (List.range n).foldl _ _ = m at *
    obtain ⟨hwf, hget⟩ := ih
    refine ⟨AMap.wf_set hwf, fun i hi => ?_⟩
    rw [AMap.get_set _ (AMap.rising_of_wf hwf)]
    split
    · next e => rw [e]
    · exact hget i (by omega)

theorem State.get_launchSx (s : State) {i : Nat} (hi : i < 12) : AMap.get 0 s.launchSx i = s.reg (0x320 + 8 * i) :=
  (AMap.get_range_set (fun i => s.reg (0x320 + 8 * i)) 12).2 i hi

theorem State.seqs_peersFreed (s : State) : s.peersFreed.seqs = s.seqs := rfl

theorem State.canon_described (h : s.canon = true) : s.described.canon = true :=
  State.canon_onProg (State.canon_onFlt (State.canon_onHost h
    (f := fun p => { p with launchStat := ((s.prog.launchNo + 1) % 2 ^ 32) <<< 32, complLost := false }) rfl rfl) _) _

/-- The sequencers, the registers and what says which cores are live stay as the descriptor is taken. -/
theorem State.described_keeps (s : State) : s.described.seqs = s.seqs ∧ s.described.regs = s.regs ∧ s.described.cfg = s.cfg ∧
    s.described.prog.live = s.prog.live ∧ s.described.prog.admitted = s.prog.admitted ∧ s.described.flt.fenced = s.flt.fenced :=
  ⟨rfl, rfl, rfl, rfl, rfl, rfl⟩

theorem State.seq_described (h : s.canon = true) (ha : s.prog.admitted = s.prog.live) (hlive : ∀ d ∈ s.activeSeqs, s.liveOf d ≠ []) (d : Nat) :
    s.described.takeMask.seq d = s.seq d := by
  obtain ⟨hseqs, _, _, hl, hadm, hf⟩ := s.described_keeps
  have hseq : ∀ j, s.described.seq j = s.seq j := fun j => by rw [State.seq, hseqs, State.seq]
  rw [State.seq_takeMask (State.canon_described h) (hadm.trans (ha.trans hl.symm)), hseq]
  intro j hj
  rw [State.liveOf_congr hl hf]
  exact hlive j (State.mem_activeSeqs.mpr (hseq j ▸ State.mem_activeSeqs.mp hj))

/-- What a launch leaves after the descriptor is taken. -/
theorem State.kept_of_besideLaunch (h : t.besideLaunch = s.besideLaunch) : t.regs = s.regs ∧ t.cfg = s.cfg ∧ t.dram = s.dram ∧ t.host = s.host ∧
    t.prog.step = s.prog.step ∧ t.prog.inStep = s.prog.inStep ∧ t.prog.launchNo = s.prog.launchNo :=
  ⟨(congrArg State.regs h :), (congrArg State.cfg h :), (congrArg State.dram h :), (congrArg State.host h :),
    (congrArg (fun u : State => u.prog.step) h :), (congrArg (fun u : State => u.prog.inStep) h :),
    (congrArg (fun u : State => u.prog.launchNo) h :)⟩

theorem State.reg_described (s : State) (i : Nat) : s.described.takeMask.swapSeqs.reg i = s.reg i := by
  obtain ⟨hregs, hcfg, _⟩ := State.kept_of_besideLaunch ((State.besideLaunch_swapSeqs _).trans (State.besideLaunch_takeMask s.described))
  obtain ⟨_, hdregs, hdcfg, _⟩ := s.described_keeps
  exact State.reg_congr (hregs.trans hdregs) (hcfg.trans hdcfg) i

/-- Each sequencer in the program starts from its own program memory. -/
theorem State.seq_launch (h : s.canon = true) (ha : s.prog.admitted = s.prog.live) (hlive : ∀ d ∈ s.activeSeqs, s.liveOf d ≠ [])
    {d : Nat} (hd : d ∈ s.activeSeqs) : s.launch.seq d = (s.seq d).swapAll.start s.launchPcs s.launchSx := by
  have hcanon := State.canon_takeMask (State.canon_described h)
  obtain ⟨hd4, hst⟩ := State.mem_activeSeqs.mp hd
  have hseq := State.seq_swapSeqs hcanon hd4
  rw [State.seq_described h ha hlive] at hseq
  obtain ⟨hpcs, hsx⟩ := State.launch_of_reg s.reg_described
  have hact : d ∈ s.described.takeMask.swapSeqs.activeSeqs :=
    State.mem_activeSeqs.mpr ⟨hd4, fun hp => hst ((congrArg Seq.st (s.seq d).besidePm_swapAll).symm.trans (hseq ▸ hp))⟩
  have hstart := State.seq_startSeqs (State.canon_swapSeqs hcanon) hact
  rw [hseq, hpcs, hsx] at hstart
  rw [← hstart, State.launch_eq, State.seq, State.seqs_peersFreed, State.seqs_freshCores, State.seq]

/-! ## The doorbell and the resume (R103, R409, R410) -/

theorem exec_launchDb (ha : s.dorm.st = .active) (hu : s.hostUp = true) {v : Nat} (hv : bitOf v 0 = true) :
    exec (.launchDb v) s = .next s.doorbell := by
  change execLaunchDb v s = _
  rw [execLaunchDb, State.barServe_active ha hu]
  simp only [hv, if_true]

theorem State.doorbell_busy (hf : s.flt.ended = false) (hb : s.busy = true) :
    s.doorbell = s.onHost fun h => { h with launchStat := h.launchStat / 2 ^ 32 * 2 ^ 32 + 1 } := by
  simp [State.doorbell, hf, hb]

theorem State.doorbell_bad (hf : s.flt.ended = false) (hb : s.busy = false) (hp : s.flt.pend = []) (hr : s.serviceRow = 0)
    (hbad : s.launchBad = true) : s.doorbell = s.onHost fun h => { h with launchStat := h.launchStat / 2 ^ 32 * 2 ^ 32 + 3 } := by
  simp [State.doorbell, hf, hb, State.handleAll_none hp hr, hbad]

theorem State.doorbell_launch (hf : s.flt.ended = false) (hb : s.busy = false) (hp : s.flt.pend = []) (hr : s.serviceRow = 0)
    (hgood : s.launchBad = false) : s.doorbell = s.launch := by
  simp [State.doorbell, hf, hb, State.handleAll_none hp hr, hgood]

/-- What the host reads of an accepted launch. -/
theorem State.launch_shows (s : State) : s.launch.prog.step = 0 ∧ s.launch.prog.inStep = false ∧
    s.launch.prog.launchNo = (s.prog.launchNo + 1) % 2 ^ 32 ∧ s.launch.host.launchStat = s.launch.prog.launchNo * 2 ^ 32 ∧ s.launch.dram = s.dram := by
  obtain ⟨_, _, hdram, hhost, hstep, hin, hno⟩ := State.kept_of_besideLaunch s.besideLaunch_launch
  have hstat : s.described.host.launchStat = s.described.prog.launchNo * 2 ^ 32 := Nat.shiftLeft_eq _ _
  rw [hdram, hhost, hstep, hin, hno]
  exact ⟨rfl, rfl, rfl, hstat, rfl⟩

theorem exec_resume_limit (ha : s.dorm.st = .active) (hu : s.hostUp = true) (hne : s.activeSeqs ≠ []) (hf : s.flt.ended = false)
    (hp : s.flt.pend = []) (hh : ∀ d ∈ s.activeSeqs, (s.seq d).st = .halted ∧ (s.seq d).cause = 1) : exec .resume s =
      .next ((overList s.activeSeqs (fun d s => s.setSeq d { s.seq d with st := .run, cause := 0, wait := .all .none }) s).onFlt
        fun f => { f with watchdog := false, replayMax := false }) := by
  change execResume s = _
  rw [execResume, State.barServe_active ha hu, State.resume, State.settleFaults_none hp]
  rw [if_pos ⟨hne, hf, List.all_eq_true.mpr fun d hd => by simp [hh d hd]⟩]

end Sys2Proof.Machine

open Sys2Proof Sys2Proof.Machine

/-- Settles O51: a whole word is one update, kept in the shadow and swapped in at once, or written through; a launch changes each sequencer
by the swap and by its start alone; the resume is one pass over the sequencers. -/
theorem programsAreLoadedAndLaunched : Obligations.ProgramsAreLoadedAndLaunched := by
  unfold Obligations.ProgramsAreLoadedAndLaunched
  intro s hc ha hu
  refine ⟨fun d k bs hd hk hb hst hpm hsh => ?_, fun v hv hf => ⟨fun hb => ?_, fun hb hp hr => ⟨fun hbad => ?_, fun hgood hadm hlive => ?_⟩⟩,
    fun hne hf hp hh => ?_⟩
  · have hload : (s.seq d).Loadable := ⟨hst, hpm, hsh⟩
    refine ⟨_, ?_, State.onlySeq_setSeq hc d ((s.seq d).written k (encode (BitVec.ofNat 64
      ((List.range 8).map fun i => (bs.getD i 0).toNat * 2 ^ (8 * i)).sum) false)).swapAll, ?_, ?_⟩
    · change execProgramMemoryWrite _ bs s = _
      rw [execProgramMemoryWrite, State.barServe_active ha hu, State.bar2Write_word hc hd hk hb hst]
    · rw [State.seq_setSeq_same hc]
      exact Seq.pc_of_besidePm ((Seq.besidePm_swapAll _).trans (Seq.besidePm_written _ k _))
    · rw [State.seq_setSeq_same hc]
      exact hload.get_swapAll_written (by omega) _
  · rw [exec_launchDb ha hu hv, State.doorbell_busy hf hb, State.onHost]
  · rw [exec_launchDb ha hu hv, State.doorbell_bad hf hb hp hr hbad, State.onHost]
  · obtain ⟨hstep, hin, hno, hstat, hdram⟩ := s.launch_shows
    refine ⟨s.launch, by rw [exec_launchDb ha hu hv, State.doorbell_launch hf hb hp hr hgood], hstep, hin, hno, hstat, hdram, fun d hd => ?_⟩
    rw [State.seq_launch hc hadm hlive hd]
    exact ⟨rfl, fun e => ⟨s.get_launchPcs e, Four.get_all _ e⟩, fun i hi => s.get_launchSx hi⟩
  · obtain ⟨hprog, hcores, _, hdram, _⟩ := State.kept_of_besideSeqs (State.besideSeqs_overList _ s.activeSeqs s)
    refine ⟨_, exec_resume_limit ha hu hne hf hp hh, hprog, hcores, hdram, fun d hd => ?_⟩
    exact (State.seq_overList_setSeq (fun x => { x with st := .run, cause := 0, wait := .all .none }) hc s.nodup_activeSeqs d).trans (if_pos hd)
end

section
/-! PROOFS. Address arithmetic (R80, R86, R128 to R130): what the instruction writes and what later slots read. -/

namespace Sys2Proof.Machine

variable {s t u : State}

/-! ## One instruction -/

theorem State.canon_startOf (h : s.canon = true) (g : Nat) (e : Eng) (x : QEntry) : (s.startOf g e x).canon = true := by
  unfold State.startOf State.begun
  refine State.canon_readEntry ?_ g e x
  split
  · exact State.canon_consumeToken h g _
  · exact h

/-- What writing AX k leaves of a core, apart from the record of what was replaced. -/
theorem Core.axWrite_besideUndo (c : Core) (e : Eng) (q k v : Nat) : { c.axWrite e q k v with axUndo := c.axUndo } =
    if k = 31 then c else { c with ax := c.ax.set e (AMap.set 0 (c.ax.get e) k (BitVec.ofNat 48 v)) } := by
  unfold Core.axWrite
  split
  · rfl
  · rfl

theorem Core.q_axWrite (c : Core) (e : Eng) (q k v : Nat) : (c.axWrite e q k v).q = c.q := by
  unfold Core.axWrite
  split
  · rfl
  · rfl

theorem axWrite_mod (c : Core) (e : Eng) (q k v : Nat) : c.axWrite e q k (v % 2 ^ 48) = c.axWrite e q k v := by
  have hv : BitVec.ofNat 48 (v % 2 ^ 48) = BitVec.ofNat 48 v := BitVec.eq_of_toNat_eq (by simp)
  rw [Core.axWrite, hv, Core.axWrite]

theorem addrOp_run (f : Ctx → State → Nat) (c : Ctx) (s : State) : (addrOp f c).run s = (.ok .nothing, writeAd c (f c s) s) := rfl

/-- An engine that performs an address-arithmetic instruction writes its result to AX[AD] and executes the entry. -/
theorem State.runEngine_addr (h : s.canon = true) {g op v : Nat} {e : Eng} {x : QEntry} (hx : s.readyEntry g e op = some x)
    {f : Ctx → State → Nat} (hv : f (x.ctx g e (bitOf x.head.md 0)) (s.startOf g e x) = v) :
    axWritten (s.startOf g e x) (s.runEngine g e op (addrOp f)) g e (x.ctx g e (bitOf x.head.md 0)).h.ad v ∧
      ((s.runEngine g e op (addrOp f)).core g).q =
        ((s.startOf g e x).core g).q.set e (putEntry (((s.startOf g e x).core g).q.get e) (s.doneEntry g e x .nothing)) := by
  have hu := State.canon_startOf h g e x
  rw [State.runEngine_done hx (addrOp_run f _ _), hv]
  generalize s.doneEntry g e x .nothing = y
  generalize hxc : x.ctx g e (bitOf x.head.md 0) = c
  have hg : c.g = g := hxc ▸ rfl
  have he : c.e = e := hxc ▸ rfl
  generalize s.startOf g e x = u at *
  have hw : writeAd c v u = u.setCore g ((u.core g).axWrite e c.q c.h.ad v) := by rw [writeAd, axWrite_mod, hg, he]
  have hwrite : (writeAd c v u).core g = (u.core g).axWrite e c.q c.h.ad v := by rw [hw, State.core_setCore hu, if_pos rfl]
  have hcanon : (writeAd c v u).canon = true := hw ▸ State.canon_setCore hu g _
  have hcore : ∀ j, ((writeAd c v u).setEntry g e y).core j = if j = g then
      { (u.core g).axWrite e c.q c.h.ad v with q := (u.core g).q.set e (putEntry ((u.core g).q.get e) y) } else u.core j := by
    intro j
    rw [State.setEntry, State.core_setCore hcanon, hwrite, Core.q_axWrite]
    split
    · rfl
    · next hj => rw [hw, State.core_setCore hu, if_neg hj]
  have hsame := hcore g
  rw [if_pos rfl] at hsame
  refine ⟨⟨by rw [hw]; rfl, fun j hj => by rw [hcore, if_neg hj], ?_⟩, by rw [hsame]⟩
  rw [hsame, ← Core.axWrite_besideUndo (u.core g) e c.q c.h.ad v]
  have hq := Core.q_axWrite (u.core g) e c.q c.h.ad v
  generalize (u.core g).axWrite e c.q c.h.ad v = k at *
  rw [← hq]

/-- The same of the instruction's step, with its result as the spec writes it. -/
theorem exec_addr (h : s.canon = true) {g op v : Nat} {e : Eng} {x : QEntry} {i : Instr} {f : Ctx → State → Nat}
    (hi : exec i s = .next (s.runEngine g e op (addrOp f))) (hv : f (x.ctx g e (bitOf x.head.md 0)) (s.startOf g e x) = v)
    (hx : s.readyEntry g e op = some x) : ∃ t, exec i s = .next t ∧
      axWritten (s.startOf g e x) t g e (x.ctx g e (bitOf x.head.md 0)).h.ad v ∧
      (t.core g).q = ((s.startOf g e x).core g).q.set e (putEntry (((s.startOf g e x).core g).q.get e) (s.doneEntry g e x .nothing)) :=
  ⟨_, hi, State.runEngine_addr h hx hv⟩

/-! ## The results of Table 4.7 -/

section
variable (c : Ctx) (u : State)

theorem valAshl_eq : valAshl c u = if 48 ≤ addrB c u % 64 then 0 else addrA c u * 2 ^ (addrB c u % 64) := by
  simp only [valAshl, Nat.shiftLeft_eq, ge_iff_le]

theorem valAshr_eq : valAshr c u = if 48 ≤ addrB c u % 64 then 0 else addrA c u / 2 ^ (addrB c u % 64) := by
  simp only [valAshr, Nat.shiftRight_eq_div_pow, ge_iff_le]

theorem valAmovi_eq : valAmovi c u = c.ext.headD 0 % 2 ^ 48 := by
  simp [valAmovi, bits]

theorem valArank_eq : valArank c u = if bits c.h.low 22 0 = 0 then tileOf c u else if tileOf c u < c.ax u c.h.ab then 1 else 0 := by
  unfold valArank
  split
  · rfl
  · simp [b2n]

end

/-! ## What later slots read (R86) -/

/-- On a stream with no recent write, the one write at slot q is seen from slot q + 3 on. -/
theorem Core.axView_axWrite {c : Core} {e : Eng} {k : Nat} (hk : k ≠ 31) (hu : c.axUndo.get e = []) (hw : AMap.wf 0 (c.ax.get e) = true) (q r v : Nat) :
    (c.axWrite e q k v).axView e r k = if r < q + 3 then (AMap.get 0 (c.ax.get e) k).toNat else v % 2 ^ 48 := by
  have hview : (c.axWrite e q k v).axView e r k =
      (undoView [{ slot := q, key := k, old := AMap.get 0 (c.ax.get e) k }] 3 r k (BitVec.ofNat 48 v)).toNat := by
    rw [Core.axView, if_neg hk, Core.axWrite, if_neg hk]
    simp only [Four.get_set_same, hu, AMap.get_set_same _ (AMap.rising_of_wf hw)]
    rfl
  rw [hview, undoView, List.find?_singleton]
  by_cases hr : r < q + 3
  · simp [hr]
  · simp [hr]

end Sys2Proof.Machine

open Sys2Proof Sys2Proof.Machine

/-- Settles O27: the eleven share one rule, with the value each writes; the exposed latency is one record of what the write replaced. -/
theorem addressArithmeticWritesOneAx : Obligations.AddressArithmeticWritesOneAx := by
  unfold Obligations.AddressArithmeticWritesOneAx
  refine ⟨fun s g e x hc => ?_, fun c e q r k v => ⟨fun hk hu hw => ⟨fun hr => ?_, fun hr => ?_⟩, if_pos rfl, if_pos rfl⟩⟩
  · exact ⟨exec_addr hc rfl rfl, exec_addr hc rfl rfl, exec_addr hc rfl rfl, exec_addr hc rfl (valAshl_eq _ _), exec_addr hc rfl (valAshr_eq _ _),
      exec_addr hc rfl rfl, exec_addr hc rfl rfl, exec_addr hc rfl rfl, exec_addr hc rfl rfl, exec_addr hc rfl (valAmovi_eq _ _),
      exec_addr hc rfl (valArank_eq _ _)⟩
  · rw [Core.axView_axWrite hk hu hw, if_pos hr]
  · rw [Core.axView_axWrite hk hu hw, if_neg (by omega)]
end

section
/-! PROOFS. What an access through a home leaves in DRAM: reads, fills and writes of lines change no stored word; the controllers perform
the writes they take later (R309, R332). -/

namespace Sys2Proof.Machine

variable {s : State}

/-! ## The shared operations -/

@[simp] theorem State.dram_ledgIn (s : State) (k n : Nat) : (s.ledgIn k n).dram = s.dram := rfl
@[simp] theorem State.dram_ledgOut (s : State) (k n : Nat) : (s.ledgOut k n).dram = s.dram := rfl
@[simp] theorem State.dram_ledgAlt (s : State) (k n : Nat) : (s.ledgAlt k n).dram = s.dram := rfl
@[simp] theorem State.dram_putLine (s : State) (d la : Nat) (l : Line) : (s.putLine d la l).dram = s.dram := rfl
@[simp] theorem State.dram_freshData (s : State) : s.freshData.2.dram = s.dram := rfl
@[simp] theorem State.dram_flushAll (s : State) : s.flushAll.dram = s.dram := rfl
@[simp] theorem State.dram_beginHalt (s : State) (cause stream pc code : Nat) : (s.beginHalt cause stream pc code).dram = s.dram :=
  State.beginHalt_dram ..

@[simp] theorem State.dram_raise (s : State) (ty fid d0 d1 : Nat) : (s.raise ty fid d0 d1).dram = s.dram :=
  (congrArg State.dram (s.raise_frame ty fid d0 d1) :)

@[simp] theorem State.dram_bump (s : State) (off : Nat) : (s.bump off).dram = s.dram :=
  (congrArg State.dram (s.bumpN_frame off 1) :)

@[simp] theorem State.dram_cancelEntry (s : State) : s.cancelEntry.dram = s.dram := by
  simp [State.cancelEntry, apply_ite State.dram]

@[simp] theorem State.dram_fault (s : State) (row fid arg : Nat) : (s.fault row fid arg).dram = s.dram := by
  simp [State.fault, apply_ite State.dram]

/-! ## Controllers -/

@[simp] theorem State.dram_freeze (s : State) (n cause req dpa : Nat) (cw : Codeword) (synd : Nat) : (s.freeze n cause req dpa cw synd).dram = s.dram := by
  simp [State.freeze, apply_ite State.dram]

/-- The record of the first word of its kind. -/
theorem State.dram_firstOf (s : State) (off : Nat) (v : Word) : (if s.reg off = 0 then s.setReg off v else s).dram = s.dram := by
  split
  · rfl
  · rfl

@[simp] theorem State.dram_dramEcc (s : State) (pl : Place) (w src : Nat) (cw : Codeword) (o : Decoded) : (s.dramEcc pl w src cw o).dram = s.dram := by
  unfold State.dramEcc
  extract_lets b u v x y z
  have hu : u.dram = s.dram := s.dram_bump _
  have hx : x.dram = s.dram := (v.dram_firstOf _ _).trans (s.dram_bump _)
  have hz : z.dram = s.dram := by
    have hy : y.dram = s.dram := hx
    clear_value y u
    unfold z
    split
    · rfl
    · rw [State.setReg_dram, State.setReg_dram]
      split
      · exact (u.dram_bump _).trans hu
      · exact hu
    · rw [State.dram_freeze, State.dram_raise, hy]
  clear_value z
  simp [apply_ite State.dram, hz]

@[simp] theorem State.dram_readWord (s : State) (pl : Place) (src w : Nat) : (s.readWord pl src w).2.dram = s.dram := s.dram_dramEcc ..

@[simp] theorem State.dram_logCmd (s : State) (n bus : Nat) (word : Option Nat) : (s.logCmd n bus word).dram = s.dram := by
  cases word
  · rfl
  · rfl

@[simp] theorem State.dram_openRowOf (s : State) (n bank row : Nat) : (s.openRowOf n bank row).dram = s.dram := by
  simp [State.openRowOf, apply_ite State.dram]

@[simp] theorem State.dram_closeRow (s : State) (n bank : Nat) : (s.closeRow n bank).dram = s.dram := by simp [State.closeRow]
@[simp] theorem State.dram_exitPart (s : State) (n p : Nat) : (s.exitPart n p).dram = s.dram := by simp [State.exitPart]
@[simp] theorem State.dram_wakePart (s : State) (n p : Nat) : (s.wakePart n p).dram = s.dram := by simp [State.wakePart]

@[simp] theorem State.dram_column (s : State) (n bank : Nat) (keep : Bool) : (s.column n bank keep).dram = s.dram := by
  simp [State.column, State.startWck, apply_ite State.dram]

@[simp] theorem State.dram_fillRequest (s : State) (pl : Place) (ws : List Nat) (keep : Bool) : (s.fillRequest pl ws keep).dram = s.dram := by
  unfold State.fillRequest
  simp only
  split
  · simp
  · simp [apply_ite State.dram]

@[simp] theorem State.dram_ctlOffer (s : State) (n : Nat) (r : Req) : (s.ctlOffer n r).2.dram = s.dram := by
  unfold State.ctlOffer
  split
  · rfl
  · simp only
    split
    · rfl
    · split
      · simp [apply_ite State.dram]
      · split
        · simp
        · split
          · simp [apply_ite State.dram]
          · simp

@[simp] theorem State.dram_ctlSubmit (s : State) (n : Nat) (r : Req) : (s.ctlSubmit n r).2.dram = s.dram := by
  have hoffer := s.dram_ctlOffer n r
  unfold State.ctlSubmit
  simp only
  split
  · rfl
  · split
    · next t heq =>
      rw [heq] at hoffer
      exact hoffer
    · exact hoffer

/-! ## Lines -/

@[simp] theorem State.dram_dieFlip (s : State) (d tgt w : Nat) (cw : Codeword) : (s.dieFlip d tgt w cw).2.dram = s.dram := by
  simp [State.dieFlip, apply_ite Prod.snd, apply_ite State.dram]

@[simp] theorem State.dram_lineStore (s : State) (d la i : Nat) (cw : Codeword) (dirty : Bool) : (s.lineStore d la i cw dirty).dram = s.dram := by
  unfold State.lineStore
  split
  · rfl
  · simp

@[simp] theorem State.dram_dieEcc (s : State) (d w cause : Nat) (o : Decoded) : (s.dieEcc d w cause o).dram = s.dram := by
  unfold State.dieEcc
  split
  · rfl
  · exact s.dram_bump _
  · simp

@[simp] theorem State.dram_writeBack (s : State) (d la : Nat) : (s.writeBack d la).dram = s.dram := by
  unfold State.writeBack
  split
  · rfl
  · split
    · split
      · rfl
      · simp [foldl_view State.dram]
    · rfl

@[simp] theorem State.dram_storeLine (s : State) (d la : Nat) (vs : List (Word × Bool)) : (s.storeLine d la vs).dram = s.dram := by
  unfold State.storeLine
  simp only [State.dram_putLine]
  rw [foldl_view_snd State.dram fun c t e => State.dram_dieFlip ..]
  simp [State.makeRoom, apply_ite State.dram]

@[simp] theorem State.dram_readLine (s : State) (pl : Place) (la src : Nat) (keep : Bool) (skip : List Nat) :
    (s.readLine pl la src keep skip).2.dram = s.dram := by
  unfold State.readLine
  simp only [apply_ite Prod.snd, ite_self]
  rw [foldl_view_snd State.dram fun c t i => ?_, State.dram_fillRequest]
  split
  · rfl
  · exact State.dram_readWord ..

@[simp] theorem State.dram_fillWord (s : State) (d la i src : Nat) (keep : Bool) : (s.fillWord d la i src keep).2.dram = s.dram := by
  unfold State.fillWord State.fillLine State.noWord
  split
  · rfl
  · simp [apply_ite Prod.snd, apply_ite State.dram]

@[simp] theorem State.dram_homeRead (s : State) (src w : Nat) (keep : Bool) : (s.homeRead src w keep).2.dram = s.dram := by
  unfold State.homeRead State.lineRead
  simp only
  split
  · split
    · rfl
    · split
      · simp
      · simp
      · simp [apply_ite Prod.snd, apply_ite State.dram]
  · simp

@[simp] theorem State.dram_dropFte (s : State) (frame : Nat) : (s.dropFte frame).dram = s.dram :=
  foldl_view State.dram (fun t d => t.setDie_dram d _) fourDies s

@[simp] theorem State.dram_homeWrite (s : State) (src : Nat) (keep : Bool) (why : ReqFor) (ws : List WUpd) :
    (s.homeWrite src keep why ws).2.dram = s.dram := by
  unfold State.homeWrite
  split
  · rfl
  · next ws u0 rest =>
    extract_lets dpa d la u upd
    split
    · rfl
    · next pl _ =>
      have hu : u.dram = s.dram := by
        unfold u
        rw [foldl_view State.dram fun t x => ?_]
        split
        · exact t.dram_dropFte _
        · rfl
      have hupd : ∀ t dirty, (upd t dirty).dram = t.dram := fun t dirty => by
        unfold upd
        rw [foldl_view State.dram fun t x => ?_]
        split
        · rfl
        · simp only [State.dram_lineStore]
          split
          · exact t.dram_dieEcc ..
          · rfl
      clear_value u upd
      rw [← hu]
      split
      · have hsub := u.dram_ctlSubmit pl.ctl
          { id := 0, src := src, dpa := dpa, len := 8 * (u0 :: rest).length, ws := u0 :: rest, keep := keep, why := why }
        split
        · next hs => rw [hs] at hsub; exact hsub
        · next hs => rw [hs] at hsub; exact (hupd _ false).trans hsub
      · split
        · simp [hupd]
        · simp [apply_ite Prod.snd, apply_ite State.dram, hupd]

theorem State.dram_fteSwap (s : State) (d fr : Nat) (old new : Word) : (s.fteSwap d fr old new).2.dram = s.dram := by
  unfold State.fteSwap
  simp only [apply_ite Prod.snd, apply_ite State.dram, State.dram_homeWrite, State.dram_homeRead, ite_self]

end Sys2Proof.Machine
end

section
/-! PROOFS. The copy of a rehydrated frame of tier F (R305, R392): a compare-and-write of its entry in the line that holds it. -/

namespace Sys2Proof.Machine

variable {s t : State}

/-! ## A word written into a line that is present -/

theorem State.line?_of_lines {d : Nat} (h : (t.die d).lines = (s.die d).lines) (la : Nat) : t.line? d la = s.line? d la := by
  rw [State.line?, State.line?, h]

theorem State.line?_putLine (h : s.canon = true) (d la : Nat) {l : Line} (hl : l.words ≠ []) : (s.putLine d la l).line? d la = some l := by
  have hne : l ≠ Line.init := fun e => hl (congrArg Line.words e)
  have hdie : (s.putLine d la l).die d = { s.die d with lines := AMap.put (s.die d).lines la l } := by
    rw [State.putLine, State.die_setDie h, if_pos rfl, AMap.set, if_neg hne]
  simp [State.line?, hdie, hl]

theorem State.words_of_line? {d la : Nat} {l : Line} (h : s.line? d la = some l) : l.words ≠ [] := by
  unfold State.line? at h
  simp only at h
  split at h
  · cases h
  · next hne =>
    cases h
    simpa using hne

/-- Without a mask set in the die cache's SFLIP registers a codeword is written as it is (R380). -/
theorem State.dieFlip_unset {d : Nat} (hlo : s.reg (frameOff + 0x280 + 0x20 * d) = 0) (hhi : s.reg (frameOff + 0x288 + 0x20 * d) = 0)
    (tgt w : Nat) (cw : Codeword) : s.dieFlip d tgt w cw = (cw, s) := by
  unfold State.dieFlip
  exact if_pos (.inl ⟨hlo, by rw [← hhi]; congr 1; omega⟩)

/-- Dropping translation entries leaves the registers and every line. -/
theorem State.dropFte_keeps (h : s.canon = true) (frame : Nat) : (s.dropFte frame).canon = true ∧ (s.dropFte frame).cfg = s.cfg ∧
    (s.dropFte frame).regs = s.regs ∧ ∀ d, ((s.dropFte frame).die d).lines = (s.die d).lines := by
  unfold State.dropFte
  refine overList_keeps (P := fun t => t.canon = true ∧ t.cfg = s.cfg ∧ t.regs = s.regs ∧ ∀ d, (t.die d).lines = (s.die d).lines)
    (fun k t ht => ?_) fourDies s ⟨h, rfl, rfl, fun _ => rfl⟩
  obtain ⟨hcanon, hcfg, hregs, hlines⟩ := ht
  refine ⟨State.canon_setDie hcanon k _, hcfg, hregs, fun d => ?_⟩
  rw [State.die_setDie hcanon, ← hlines d]
  split
  · next e => rw [e]
  · rfl

/-- The translation entry that a word of the frame table holds leaves every FTC. -/
def State.dropFteOf (s : State) (w : Nat) : State := match fteFrame s.cfg w with | some f => s.dropFte f | none => s

theorem State.dropFteOf_keeps (h : s.canon = true) (w : Nat) : (s.dropFteOf w).canon = true ∧ (s.dropFteOf w).cfg = s.cfg ∧
    (s.dropFteOf w).regs = s.regs ∧ ∀ d, ((s.dropFteOf w).die d).lines = (s.die d).lines := by
  unfold State.dropFteOf
  split
  · exact State.dropFte_keeps h _
  · exact ⟨h, rfl, rfl, fun _ => rfl⟩

/-- A full word written to a line of tier F or of a spread region that is present: no other word changes, and the line is dirty. -/
theorem State.homeWrite_present (h : s.canon = true) {w : Nat} {v : Word} {l : Line} {d : Nat} (hd : homeOf s.cfg (8 * w) = d)
    (hp : (placeOf s.cfg (8 * w)).isSome = true) (hc : combAddr s.cfg (8 * w) = false) (hl : s.line? d (w / 16) = some l)
    (hlo : s.reg (frameOff + 0x280 + 0x20 * d) = 0) (hhi : s.reg (frameOff + 0x288 + 0x20 * d) = 0) (src : Nat) (keep : Bool) (why : ReqFor) :
    s.homeWrite src keep why [{ w := w, mask := fullMask, d := v, p := false }] =
      (true, (((s.dropFteOf w).putLine d (w / 16) { words := l.words.set (w % 16) (encode v false), dirty := true }).ledgIn 4 1).ledgOut 4 1) := by
  obtain ⟨hcanon, hcfg, hregs, hlines⟩ := State.dropFteOf_keeps h w
  obtain ⟨pl, hpl⟩ := Option.isSome_iff_exists.mp hp
  have hreg : ∀ i, (s.dropFteOf w).reg i = s.reg i := State.reg_congr hregs hcfg
  have hline : (s.dropFteOf w).line? d (w / 16) = some l := (State.line?_of_lines (hlines d) _).trans hl
  have hflip := State.dieFlip_unset ((hreg _).trans hlo) ((hreg _).trans hhi) 0 (16 * (w / 16) + w % 16) (encode v false)
  unfold State.homeWrite
  simp only [hpl, hd, List.foldl_cons, List.foldl_nil]
  cases hf : fteFrame s.cfg w
  all_goals
    simp only [State.dropFteOf, hf] at hcfg hline hflip ⊢
    simp [hcfg, hc, hline, rmw_full, State.lineStore, hflip]

/-- A compare-and-write of an entry in a line that is present, whose word is the one expected. -/
theorem State.fteSwap_present (h : s.canon = true) {fr : Nat} {old new : Word} {l : Line} {w d : Nat} (hw : w = s.cfg.frameBase / 8 + fr)
    (hd : homeOf s.cfg (8 * w) = d) (hp : (placeOf s.cfg (8 * w)).isSome = true) (hc : combAddr s.cfg (8 * w) = false)
    (hl : s.line? d (w / 16) = some l) (hold : l.words.getD (w % 16) zeroCw = encode old false)
    (hlo : s.reg (frameOff + 0x280 + 0x20 * d) = 0) (hhi : s.reg (frameOff + 0x288 + 0x20 * d) = 0) :
    s.fteSwap 0 fr old new =
      (true, (((s.dropFteOf w).putLine d (w / 16) { words := l.words.set (w % 16) (encode new false), dirty := true }).ledgIn 4 1).ledgOut 4 1) := by
  have hdec : decode (l.words.getD (w % 16) zeroCw) = { d := old, p := false, cls := .clean, synd := 0 } := by rw [hold, decode_encode]
  have hread : s.homeRead 0xB000 w = ((old, false), s) := by
    unfold State.homeRead
    simp only [hd, hl]
    rw [State.lineRead_clean hl (by rw [hdec]), hdec]
  unfold State.fteSwap
  simp only [← hw, Nat.add_zero, hread]
  rw [if_pos ⟨trivial, trivial⟩, State.homeWrite_present h hd hp hc hl hlo hhi]

/-! ## The frame counted -/

/-- While the list still holds a frame, one that did not move is counted and nothing else happens. -/
theorem State.rehydCount_left {e : Rehyd} {rest : List Rehyd} (h : s.flt.rehyd = e :: rest) :
    s.rehydCount false = s.onFlt fun f => { f with rehydMoved := f.rehydMoved + 0, rehydLeft := f.rehydLeft + 1 } := by
  unfold State.rehydCount
  exact if_neg (by simp [State.onFlt, h])

/-- What a compare-and-write of an entry leaves of the recovery's list. -/
theorem State.fteSwap_keeps (s : State) (fr : Nat) (old new : Word) : let t := (s.fteSwap 0 fr old new).2
    t.flt.rehyd = s.flt.rehyd ∧ t.flt.rehydMoved = s.flt.rehydMoved ∧ t.flt.rehydLeft = s.flt.rehydLeft ∧ t.dram = s.dram := by
  have hoff : (s.fteSwap 0 fr old new).2.offMemory = s.offMemory := by
    unfold State.fteSwap
    simp only [apply_ite Prod.snd, apply_ite State.offMemory, State.offMemory_homeWrite, State.offMemory_homeRead, ite_self]
  have hdram := s.dram_fteSwap 0 fr old new
  generalize (s.fteSwap 0 fr old new).2 = t at *
  exact ⟨(congrArg (fun u : State => u.flt.rehyd) hoff :), (congrArg (fun u : State => u.flt.rehydMoved) hoff :),
    (congrArg (fun u : State => u.flt.rehydLeft) hoff :), hdram⟩

/-- The rest of the list, once the next frame is taken from it. -/
def State.rehydRest (s : State) (rest : List Rehyd) : State := s.onFlt fun f => { f with rehyd := rest }

/-- The event of an entry changed (R305), where it was. -/
def State.fteEvent (frame : Nat) (p : Bool × State) : State := if p.1 then p.2.raise 5 0x9000 frame 0 else p.2

theorem State.besideEvents_fteEvent (frame : Nat) (p : Bool × State) : (State.fteEvent frame p).besideEvents = p.2.besideEvents := by
  unfold State.fteEvent
  split
  · exact (congrArg State.besideEvents (p.2.raise_frame 5 0x9000 frame 0) :)
  · rfl

/-- The copy of a frame that was in tier F: its entry stays repointed, with the lost copy as its stale mirror. -/
theorem exec_rehydrationCopy_tierF {e e' : Rehyd} {rest : List Rehyd} (hr : s.flt.rehyd = e :: e' :: rest) (hrep : s.inReplay = false)
    (hcache : s.cacheReset = false) (htier : (fteOf e.old).tier = 1) : exec .rehydrationCopy s = .next ((State.fteEvent e.frame
      ((s.rehydRest (e' :: rest)).fteSwap 0 e.frame e.now (staleMirror e.now (fteOf e.old).frame))).rehydCount false) := by
  change execRehydrationCopy s = _
  have hboth : ¬ (s.inReplay || s.cacheReset) = true := by simp [hrep, hcache]
  unfold execRehydrationCopy
  split
  · next heq => exact absurd (heq.symm.trans hr) (by simp)
  · next f fs heq =>
    obtain ⟨rfl, rfl⟩ := List.cons.inj (heq.symm.trans hr)
    rw [if_neg hboth]
    extract_lets t old
    rw [if_pos htier]
    have ht : s.rehydRest (e' :: rest) = t := rfl
    have ho : fteOf f.old = old := rfl
    rw [ht, ho]
    generalize t.fteSwap 0 f.frame f.now (staleMirror f.now old.frame) = p
    obtain ⟨ok, u⟩ := p
    rfl

theorem State.kept_of_besideEvents (h : t.besideEvents = s.besideEvents) : t.flt = s.flt ∧ t.dram = s.dram ∧ t.dies = s.dies :=
  ⟨(congrArg State.flt h :), (congrArg State.dram h :), (congrArg State.dies h :)⟩

/-- A frame of tier F is taken from the list and counted as left; no word of DRAM changes (R392). -/
theorem exec_rehydrationCopy_counts {e e' : Rehyd} {rest : List Rehyd} (hr : s.flt.rehyd = e :: e' :: rest) (hrep : s.inReplay = false)
    (hcache : s.cacheReset = false) (htier : (fteOf e.old).tier = 1) : ∃ t, exec .rehydrationCopy s = .next t ∧ t.flt.rehyd = e' :: rest ∧
      t.flt.rehydLeft = s.flt.rehydLeft + 1 ∧ t.flt.rehydMoved = s.flt.rehydMoved ∧ t.dram = s.dram ∧
      t.dies = ((s.rehydRest (e' :: rest)).fteSwap 0 e.frame e.now (staleMirror e.now (fteOf e.old).frame)).2.dies := by
  refine ⟨_, exec_rehydrationCopy_tierF hr hrep hcache htier, ?_⟩
  obtain ⟨hlist, hmoved, hleft, hdram⟩ := State.fteSwap_keeps (s.rehydRest (e' :: rest)) e.frame e.now (staleMirror e.now (fteOf e.old).frame)
  generalize (s.rehydRest (e' :: rest)).fteSwap 0 e.frame e.now (staleMirror e.now (fteOf e.old).frame) = p at *
  obtain ⟨hflt', hdram', hdies'⟩ := State.kept_of_besideEvents (State.besideEvents_fteEvent e.frame p)
  generalize State.fteEvent e.frame p = u at *
  rw [State.rehydCount_left ((congrArg Faults.rehyd hflt').trans hlist)]
  exact ⟨(congrArg Faults.rehyd hflt').trans hlist, congrArg (· + 1) ((congrArg Faults.rehydLeft hflt').trans hleft),
    (congrArg Faults.rehydMoved hflt').trans hmoved, hdram'.trans hdram, hdies'⟩

/-- Where the entry's line is present and holds the repointed entry, it becomes the entry with its stale mirror. -/
theorem State.line?_staleMirror (h : s.canon = true) {e : Rehyd} {rest : List Rehyd} {w d : Nat} (hw : w = s.cfg.frameBase / 8 + e.frame)
    (hd : homeOf s.cfg (8 * w) = d) {l : Line} (hp : (placeOf s.cfg (8 * w)).isSome = true) (hc : combAddr s.cfg (8 * w) = false)
    (hl : s.line? d (w / 16) = some l) (hold : l.words.getD (w % 16) zeroCw = encode e.now false)
    (hlo : s.reg (frameOff + 0x280 + 0x20 * d) = 0) (hhi : s.reg (frameOff + 0x288 + 0x20 * d) = 0) (new : Word)
    (ht : t.dies = ((s.rehydRest rest).fteSwap 0 e.frame e.now new).2.dies) :
    t.line? d (w / 16) = some { words := l.words.set (w % 16) (encode new false), dirty := true } := by
  have hcanon : (s.rehydRest rest).canon = true := State.canon_onFlt h _
  have hswap := State.fteSwap_present hcanon (new := new) hw hd hp hc hl hold hlo hhi
  have hledg : ∀ u : State, ((u.ledgIn 4 1).ledgOut 4 1).dies = u.dies := fun u =>
    (congrArg State.dies ((u.ledgIn 4 1).ledgOut_frame 4 1) :).trans (congrArg State.dies (u.ledgIn_frame 4 1) :)
  rw [hswap, hledg] at ht
  have hpresent := State.line?_putLine (State.dropFteOf_keeps hcanon w).1 d (w / 16)
    (l := { words := l.words.set (w % 16) (encode new false), dirty := true }) (by simpa using State.words_of_line? hl)
  generalize State.putLine _ _ _ _ = u at *
  rw [← hpresent]
  exact State.line?_of_lines (congrArg (fun m => (AMap.get BaseDie.init m d).lines) ht) _

end Sys2Proof.Machine
end

section
/-! PROOFS. The replay of a step (R387 to R390, R398) where nothing is on its way: what its phases leave, and what each sequencer resumes
from. -/

namespace Sys2Proof.Machine

variable {s t : State}

/-! ## Nothing on its way (Table 13.3, phase 2) -/

/-- What holds of the default and of every listed value holds of what any key reads as. -/
theorem AMap.get_of_all {α : Type} {P : α → Prop} {d : α} (hd : P d) (k : Nat) : ∀ {m : AMap α}, (∀ e ∈ m, P e.2) → P (AMap.get d m k)
  | [], _ => hd
  | (j, v) :: m, h => by
    unfold AMap.get
    split
    · exact h _ List.mem_cons_self
    · split
      · exact hd
      · exact AMap.get_of_all hd k fun e he => h e (List.mem_cons_of_mem _ he)

/-- No controller holds a request, no home holds one for it, and no die a duplicate. -/
structure State.Still (s : State) : Prop where
  ctl : ∀ n, (s.ctl n).q = [] ∧ (s.ctl n).inflight = []
  home : s.homeOut = []
  dups : ∀ d, (s.die d).dups = []

theorem State.still_of_memIdle (h : s.memIdle = true) : s.Still := by
  simp only [State.memIdle, Bool.and_eq_true, List.all_eq_true, beq_iff_eq] at h
  obtain ⟨⟨⟨hctl, hhome⟩, hdups⟩, -⟩ := h
  exact ⟨fun n => AMap.get_of_all (P := fun c : Ctl => c.q = [] ∧ c.inflight = []) ⟨rfl, rfl⟩ n hctl, hhome,
    fun d => AMap.get_of_all (P := fun b : BaseDie => b.dups = []) rfl d hdups⟩

theorem State.settle_still (h : s.canon = true) (hs : s.Still) (n : Nat) : s.settle n = s := by
  obtain ⟨hq, hin⟩ := hs.ctl n
  have hctl : s.setCtl n { s.ctl n with q := [], inflight := [] } = s := by
    have hself : ∀ c : Ctl, c.q = [] → c.inflight = [] → { c with q := [], inflight := [] } = c := fun c hq hin => by
      cases c
      cases hq
      cases hin
      rfl
    rw [hself _ hq hin]
    exact congrArg (fun m => { s with ctls := m }) (AMap.set_get_self (State.canon_ctls h) n)
  have hhome : ({ s with homeOut := [] } : State) = s := by rw [← hs.home]
  unfold State.settle
  simp only [hq, hin, List.append_nil, List.filter_nil, List.any_nil, Bool.not_false, List.filter_true, List.foldl_nil]
  rw [hctl, hs.home]
  exact hhome

theorem State.quiesce_still (h : s.canon = true) (hs : s.Still) : s.quiesce = s := by
  have hsettle : ∀ ns, overList ns (fun n s => s.settle n) s = s := fun ns => foldl_fixed ns s fun n _ => State.settle_still h hs n
  have hdups : s.performDups = s := by
    unfold State.performDups overList
    exact foldl_fixed fourDies s fun d _ => by simp only [hs.dups d, List.foldl_nil]
  unfold State.quiesce
  simp only [hsettle, hdups]

/-! ## The queues flushed (R105) -/

theorem State.ledgOut_zero (h : s.canon = true) (k : Nat) : s.ledgOut k 0 = s := by
  have hadd : s.ledgAdd k 1 0 = s := congrArg (fun m => { s with ledg := m }) (AMap.set_get_self (State.canon_ledg h) _)
  have htake : s.ledgTake k 0 = s := congrArg (fun m => { s with ledg := m }) (AMap.set_get_self (State.canon_ledg h) _)
  rw [State.ledgOut, hadd, htake]

/-- The flush of every queue, of cores that hold no slot of the prefetch. -/
structure State.Flushed (s t : State) : Prop where
  canon : t.canon = true
  ledg : t.ledg = s.ledg
  seqs : t.seqs = s.seqs
  flt : t.flt = s.flt
  dram : t.dram = s.dram
  cfg : t.cfg = s.cfg
  prog : { t.prog with contribs := s.prog.contribs } = s.prog
  ctls : t.ctls = s.ctls
  homeOut : t.homeOut = s.homeOut
  dups : ∀ d, (t.die d).dups = (s.die d).dups

theorem State.flushed (h : s.canon = true) (hslots : AMap.sum (fun c => c.slots) s.cores = 0) : s.Flushed s.flushAll := by
  have hcanon := State.canon_flushAll h
  unfold State.flushAll at hcanon ⊢
  simp only [hslots] at hcanon ⊢
  have hdie : ∀ d, AMap.get BaseDie.init (AMap.mapVals .init (BaseDie.dropPrefetch fun _ => true) s.dies) d =
      (s.die d).dropPrefetch fun _ => true := fun d => AMap.get_mapVals rfl d (AMap.rising_of_wf (State.canon_dies h))
  exact ⟨hcanon, (congrArg State.ledg (State.ledgOut_zero h 2) :), rfl, rfl, rfl, rfl, rfl, rfl, rfl, fun d => (congrArg BaseDie.dups (hdie d) :)⟩

namespace State.Flushed

theorem still (h : s.Flushed t) (hs : s.Still) : t.Still :=
  ⟨fun n => by rw [State.ctl, h.ctls]; exact hs.ctl n, h.homeOut.trans hs.home, fun d => (h.dups d).trans (hs.dups d)⟩

theorem seq (h : s.Flushed t) (d : Nat) : t.seq d = s.seq d := by rw [State.seq, h.seqs, State.seq]

theorem latch (h : s.Flushed t) : s.Flushed t.latch :=
  ⟨State.canon_with_rest h.canon, h.ledg, h.seqs, h.flt, h.dram, h.cfg, h.prog, h.ctls, h.homeOut, h.dups⟩

theorem mem_activeSeqs (h : s.Flushed t) {d : Nat} : d ∈ t.activeSeqs ↔ d ∈ s.activeSeqs := by
  rw [State.mem_activeSeqs, State.mem_activeSeqs, h.seq]

theorem live (h : s.Flushed t) : t.prog.live = s.prog.live := (congrArg Prog.live h.prog :)
theorem admitted (h : s.Flushed t) : t.prog.admitted = s.prog.admitted := (congrArg Prog.admitted h.prog :)
theorem attempts (h : s.Flushed t) : t.prog.attempts = s.prog.attempts := (congrArg Prog.attempts h.prog :)
theorem step (h : s.Flushed t) : t.prog.step = s.prog.step := (congrArg Prog.step h.prog :)

theorem liveOf (h : s.Flushed t) (d : Nat) : t.liveOf d = s.liveOf d := State.liveOf_congr h.live (congrArg Faults.fenced h.flt) d

theorem serviceRow (h : s.Flushed t) : t.serviceRow = s.serviceRow := by
  simp only [State.serviceRow, State.baseWorks, State.isFenced, State.anyAdmitted, h.flt, h.cfg, h.admitted]
  rfl

end State.Flushed

/-! ## The sequencers resumed (R388) -/

theorem State.inReplay_of_seqs (h : t.seqs = s.seqs) : t.inReplay = s.inReplay := by
  simp only [State.inReplay, State.seq, h]

/-- Every live core has fresh lanes, streams and counts. -/
def State.freshAll (s : State) : State := overList s.liveCores (fun g t => (t.freshCore g).freshCounts g) s

/-- Every sequencer that waits for replay resumes from its snapshot, with one attempt more. -/
def State.resumed (s : State) : State :=
  { s with seqs := AMap.mapVals .init Seq.restore s.seqs }.onProg fun p => { p with attempts := p.attempts + 1, contribs := [] }

theorem State.restoreStep_eq (s : State) : s.restoreStep = s.takeMask.freshAll.resumed.bump (ledgOff + 0x20) := by
  simp only [State.restoreStep, State.freshAll, State.resumed, State.onProg]

theorem State.besideLaunch_freshCounts (s : State) (g : Nat) : (s.freshCounts g).besideLaunch = s.besideLaunch := rfl
theorem State.seqs_freshCounts (s : State) (g : Nat) : (s.freshCounts g).seqs = s.seqs := rfl

theorem State.besideLaunch_freshAll (s : State) : s.freshAll.besideLaunch = s.besideLaunch := by
  unfold State.freshAll
  generalize s.liveCores = gs
  exact overList_view State.besideLaunch (fun g t => (State.besideLaunch_freshCounts _ g).trans (t.besideLaunch_freshCore g)) gs s

theorem State.seqs_freshAll (s : State) : s.freshAll.seqs = s.seqs := by
  unfold State.freshAll
  generalize s.liveCores = gs
  exact overList_view State.seqs (fun g t => (State.seqs_freshCounts _ g).trans (t.seqs_freshCore g)) gs s

theorem State.kept_of_resumed (h : t.besideLaunch = s.besideLaunch) : t.resumed.prog.attempts = s.prog.attempts + 1 ∧
    t.resumed.dram = s.dram ∧ t.resumed.prog.step = s.prog.step :=
  ⟨(congrArg (fun u : State => u.prog.attempts + 1) h :), (congrArg State.dram h :), (congrArg (fun u : State => u.prog.step) h :)⟩

theorem State.kept_of_bump (s : State) (off : Nat) : (s.bump off).prog = s.prog ∧ (s.bump off).dram = s.dram ∧ (s.bump off).seqs = s.seqs :=
  ⟨(congrArg State.prog (s.bumpN_frame off 1) :), (congrArg State.dram (s.bumpN_frame off 1) :), (congrArg State.seqs (s.bumpN_frame off 1) :)⟩

/-- Phase 5 of a replay: the attempts, and each sequencer restored. -/
theorem State.restoreStep_keeps (h : s.canon = true) (ha : s.prog.admitted = s.prog.live) (hlive : ∀ d ∈ s.activeSeqs, s.liveOf d ≠ []) :
    s.restoreStep.prog.attempts = s.prog.attempts + 1 ∧ s.restoreStep.dram = s.dram ∧ s.restoreStep.prog.step = s.prog.step ∧
      ∀ d, s.restoreStep.seq d = (s.seq d).restore := by
  obtain ⟨hatt, hdram, hstep⟩ := State.kept_of_resumed ((State.besideLaunch_freshAll _).trans s.besideLaunch_takeMask)
  have hmask := State.seq_takeMask h ha hlive
  have hcanon := State.canon_takeMask h
  have hseqs := State.seqs_freshAll s.takeMask
  rw [State.restoreStep_eq]
  generalize s.takeMask.freshAll = u at *
  generalize s.takeMask = m at *
  obtain ⟨hprog', hdram', hseqs'⟩ := u.resumed.kept_of_bump (ledgOff + 0x20)
  generalize u.resumed.bump (ledgOff + 0x20) = r at *
  rw [hprog', hdram']
  refine ⟨hatt, hdram, hstep, fun d => ?_⟩
  rw [← hmask d, State.seq, hseqs']
  exact (AMap.get_mapVals rfl d (hseqs ▸ AMap.rising_of_wf (State.canon_seqs hcanon))).trans (by rw [hseqs, State.seq])

/-! ## FAULT_REPLAY (R387 to R390) -/

theorem exec_faultReplay_waiting (hreset : s.flt.resetting = []) (hctls : s.ctls.all (fun c => c.2.st != .frozen) = true) (hrep : s.inReplay = true)
    (us : Upsets) : exec (.faultReplay [] us) s = .next (if 4 ≤ s.prog.attempts then s.replayLimit else
      let t := s.flushAll.quiesce.handleAll
      if t.flt.pend ≠ [] ∨ t.inReplay = false then t else if (t.audit us).inReplay then (t.audit us).restoreStep else t.audit us) := by
  have hfrozen : ¬ (s.ctls.any fun c => c.2.st == .frozen) = true := by
    simp only [List.all_eq_true, bne_iff_ne] at hctls
    simpa using fun n c hc => hctls (n, c) hc
  change execFaultReplay s [] us = _
  unfold execFaultReplay State.replay
  rw [List.foldl_nil, if_neg (by simp [hrep, hreset]), if_pos hrep, if_neg hfrozen]

/-- With nothing on its way and the ledgers in balance a replay is the audit and the restoring of the step. -/
theorem exec_faultReplay_clean (h : s.canon = true) (hp : s.flt.pend = []) (hreset : s.flt.resetting = [])
    (hctls : s.ctls.all (fun c => c.2.st != .frozen) = true) (hrep : s.inReplay = true) (hatt : s.prog.attempts < 4) (hrow : s.serviceRow = 0)
    (hidle : s.memIdle = true) (hslots : AMap.sum (fun c => c.slots) s.cores = 0) {us : Upsets}
    (hledg : ∀ k, k < 8 → s.balanced k = true ∧ s.ledgUpset us k = false) :
    exec (.faultReplay [] us) s = .next s.flushAll.latch.restoreStep := by
  have hf := State.flushed h hslots
  rw [exec_faultReplay_waiting hreset hctls hrep, if_neg (by omega)]
  generalize s.flushAll = t at *
  have hp' : t.flt.pend = [] := (congrArg Faults.pend hf.flt).trans hp
  have hrep' : t.inReplay = true := (State.inReplay_of_seqs hf.seqs).trans hrep
  have haudit : t.audit us = t.latch := State.audit_sound fun k hk => by
    rw [State.balanced_of_ledg hf.ledg, State.ledgUpset_of_ledg hf.ledg]
    exact hledg k hk
  have hlatch : t.latch.inReplay = true := hrep'
  rw [State.quiesce_still hf.canon (hf.still (State.still_of_memIdle hidle)), State.handleAll_none hp' (hf.serviceRow.trans hrow)]
  simp only
  rw [if_neg (by simp [hp', hrep']), haudit, if_pos hlatch]

theorem Seq.restore_of_replay {x : Seq} (h : x.st = .replay) : x.restore.st = .run ∧ x.restore.pc = x.snap.pc ∧ x.restore.sx = x.snap.sx ∧
    x.restore.mb = x.snap.mb ∧ x.restore.lcnt = x.snap.lcnt ∧ x.restore.wcnt = x.snap.wcnt ∧ x.restore.wait = .all .none := by
  rw [Seq.restore, if_pos h]
  exact ⟨rfl, rfl, rfl, rfl, rfl, rfl, rfl⟩

/-! ## The fifth replay (R390) -/

/-- A halt of cause 8 that begins where none was in progress, or where one of cause 8 was, has cause 8. -/
theorem State.beginHalt_eight (h : ∀ x, s.prog.halt = some x → x.cause = 8) :
    ∃ x, (s.beginHalt 8 0 0 0).prog.halt = some x ∧ x.cause = 8 := by
  cases hh : s.prog.halt with
  | none => exact ⟨_, State.beginHalt_halt hh 8 0 0 0, rfl⟩
  | some x =>
    have hx := h x hh
    refine ⟨x, ?_, hx⟩
    unfold State.beginHalt
    simp only [hh, hx, Nat.lt_irrefl, if_false]
    split
    · rfl
    · rfl

/-! ## The end of service (R394) -/

/-- The end of service as it is told: an event, the alert and a fatal event. -/
def State.serviceTold (s : State) (c : Nat) : State :=
  let s := ((s.onFlt fun f => { f with ended := true }).raise 9 0 c 0).fatal 5 0 0
  { s with mgmt := { s.mgmt with alert := s.mgmt.alert ||| 8 } }

theorem State.endService_eq (s : State) (c : Nat) : s.endService c =
    if s.flt.ended then s else if (s.serviceTold c).busy then (s.serviceTold c).beginHalt 8 0 0 0 else s.serviceTold c := rfl

/-- The state without what telling the end of service changes. -/
def State.besideTelling (s : State) : State :=
  { s with host := .init, ledg := [], freeCtr := 0, nor := { s.nor with fatalQ := [] }, mgmt := { s.mgmt with alert := 0 },
           flt := { s.flt with ended := false } }

theorem State.besideTelling_fatal (s : State) (ty slot reading : Nat) : (s.fatal ty slot reading).besideTelling = s.besideTelling := rfl

theorem State.besideTelling_serviceTold (s : State) (c : Nat) : (s.serviceTold c).besideTelling = s.besideTelling := by
  have hraise := (congrArg State.besideTelling ((s.onFlt fun f => { f with ended := true }).raise_frame 9 0 c 0) :)
  unfold State.serviceTold
  generalize (s.onFlt fun f => { f with ended := true }).raise 9 0 c 0 = t at *
  have hfatal := t.besideTelling_fatal 5 0 0
  generalize t.fatal 5 0 0 = u at *
  exact (hfatal.trans hraise :)

theorem State.kept_of_besideTelling (h : t.besideTelling = s.besideTelling) : t.prog = s.prog ∧ t.seqs = s.seqs ∧ t.cores = s.cores ∧
    t.flt.busy = s.flt.busy ∧ t.flt.resetting = s.flt.resetting ∧ t.flt.result = s.flt.result ∧ t.flt.pend = s.flt.pend ∧ t.flt.homeHeld = s.flt.homeHeld :=
  ⟨(congrArg State.prog h :), (congrArg State.seqs h :), (congrArg State.cores h :), (congrArg (fun u : State => u.flt.busy) h :),
    (congrArg (fun u : State => u.flt.resetting) h :), (congrArg (fun u : State => u.flt.result) h :), (congrArg (fun u : State => u.flt.pend) h :),
    (congrArg (fun u : State => u.flt.homeHeld) h :)⟩

theorem State.endService_halt (c : Nat) (h : s.prog.halt = none) : ∀ x, (s.endService c).prog.halt = some x → x.cause = 8 := by
  obtain ⟨hprog, _⟩ := State.kept_of_besideTelling (s.besideTelling_serviceTold c)
  have hnone : (s.serviceTold c).prog.halt = none := (congrArg Prog.halt hprog).trans h
  rw [State.endService_eq]
  generalize s.serviceTold c = t at *
  intro x hx
  split at hx
  · simp [h] at hx
  · split at hx
    · rw [State.beginHalt_halt hnone] at hx
      obtain rfl := Option.some.inj hx
      rfl
    · simp [hnone] at hx

theorem State.handleAll_pend_nil (h : s.flt.pend = []) : s.handleAll = s.checkService := by
  have hpend : (s.onFlt fun f => { f with pend := f.pend.filter s.stillFrozen }) = s := by
    rw [State.onFlt, h, List.filter_nil, ← h]
  unfold State.handleAll
  simp only [hpend, h, List.filter_nil, List.foldl_nil]

theorem State.replayLimit_halt (hp : s.flt.pend = []) (hh : s.prog.halt = none) :
    (∃ x, s.replayLimit.prog.halt = some x ∧ x.cause = 8) ∧ s.replayLimit.flt.replayMax = true := by
  have hcheck : ∀ x, s.checkService.prog.halt = some x → x.cause = 8 := by
    unfold State.checkService
    split
    · simp [hh]
    · exact State.endService_halt _ hh
  unfold State.replayLimit
  rw [State.handleAll_pend_nil hp]
  generalize s.checkService = t at *
  obtain ⟨_, _, _, hflt⟩ := State.beginHalt_keeps (t.onFlt fun f => { f with replayMax := true }) 8 0 0 0
  exact ⟨State.beginHalt_eight hcheck, congrArg Faults.replayMax hflt⟩

end Sys2Proof.Machine
end

section
/-! PROOFS. The reset of a core as it is done (R382, Table 13.1), and the completion of a halt (R107, R411). -/

namespace Sys2Proof.Machine

variable {s t : State}

/-! ## A core as after start -/

/-- Queues and memories as after start, no stream bound and no token on a lane. -/
structure Core.Blank (c : Core) : Prop where
  q : c.q = .all []
  store : c.store = []
  batt : c.batt = []
  acc : c.acc = []
  desc : c.desc = []
  ax : c.ax = .all []
  streams : c.streams = []
  lane : ∀ l, (c.lane l).count = 0

theorem Core.Blank.of_besideRank {c c' : Core} (h : c.Blank) (he : c'.besideRank = c.besideRank) : c'.Blank where
  q := (congrArg Core.q he :).trans h.q
  store := (congrArg Core.store he :).trans h.store
  batt := (congrArg Core.batt he :).trans h.batt
  acc := (congrArg Core.acc he :).trans h.acc
  desc := (congrArg Core.desc he :).trans h.desc
  ax := (congrArg Core.ax he :).trans h.ax
  streams := (congrArg Core.streams he :).trans h.streams
  lane l := (congrArg (fun c : Core => (c.lane l).count) he :).trans (h.lane l)

theorem Core.Blank.flush {c : Core} (h : c.Blank) : c.flush.Blank :=
  ⟨rfl, h.store, h.batt, h.acc, h.desc, h.ax, rfl, h.lane⟩

/-! ## The reset of a core -/

/-- A lane given up: its tokens are retired. -/
def Lane.retire (l : Lane) : Lane := { l with count := 0, status := 0, retired := l.retired + l.count }

theorem count_retired (m : AMap Lane) (l : Nat) : (AMap.get .init (AMap.mapVals .init Lane.retire m) l).count = 0 := by
  refine AMap.get_of_all (P := fun x : Lane => x.count = 0) rfl l fun e he => ?_
  obtain ⟨x, -, hx⟩ := List.mem_filterMap.mp he
  split at hx
  · cases hx
  · cases hx
    rfl

/-- A core that a reset leaves, with the lanes, the rank and the count it keeps. -/
def Core.afterReset (c : Core) : Core :=
  { Core.init with lanes := AMap.mapVals .init Lane.retire c.lanes, rank := c.rank, liveCopy := c.liveCopy }

theorem Core.blank_afterReset (c : Core) : c.afterReset.Blank := ⟨rfl, rfl, rfl, rfl, rfl, rfl, rfl, count_retired c.lanes⟩

theorem State.core_retireLanes (h : s.canon = true) (g : Nat) :
    (s.retireLanes g).core g = { s.core g with lanes := AMap.mapVals .init Lane.retire (s.core g).lanes } :=
  (State.core_setCore h g g _).trans (if_pos rfl)

theorem State.core_unbindStreams (h : s.canon = true) (g : Nat) : (s.unbindStreams g).core g = { s.core g with streams := [], slots := 0 } :=
  (State.core_setCore (State.canon_with_dies h (AMap.wf_mapVals (State.canon_dies h))) g g _).trans (if_pos rfl)

theorem State.cores_revertExp (s : State) (fid : Nat) : (s.revertExp fid).cores = s.cores :=
  foldl_view State.cores (fun _ _ => State.setReg_cores ..) _ s

theorem State.flt_revertExp (s : State) (fid : Nat) : (s.revertExp fid).flt = s.flt :=
  foldl_view State.flt (fun _ _ => State.setReg_flt ..) _ s

theorem State.core_resetCore (h : s.canon = true) (g : Nat) : (s.resetCore g).core g = (s.core g).afterReset := by
  have hcanon := State.canon_unbindStreams (State.canon_retireLanes h g) g
  have hcore := State.core_unbindStreams (State.canon_retireLanes h g) g
  rw [State.core_retireLanes h] at hcore
  unfold State.resetCore
  simp only
  rw [State.core, State.cores_revertExp]
  generalize (s.retireLanes g).unbindStreams g = t at *
  refine ((State.core_setCore hcanon g g _).trans (if_pos rfl)).trans ?_
  rw [hcore]
  rfl

theorem State.flt_retireLanes (s : State) (g : Nat) : (s.retireLanes g).flt = s.flt := rfl
theorem State.flt_unbindStreams (s : State) (g : Nat) : (s.unbindStreams g).flt = s.flt := rfl

theorem State.flt_resetCore (s : State) (g : Nat) : (s.resetCore g).flt = s.flt := by
  unfold State.resetCore
  simp only
  rw [State.flt_revertExp]
  exact ((s.retireLanes g).flt_unbindStreams g).trans (s.flt_retireLanes g)

/-! ## What follows the reset (R382, R383, R394) -/

/-- A core and the recovery's registers, after what a reset is followed by: a core as after start stays one. -/
structure State.ResetKept (g : Nat) (s t : State) : Prop where
  canon : t.canon = true
  core : (s.core g).Blank → (t.core g).Blank
  busy : t.flt.busy = s.flt.busy
  resetting : t.flt.resetting = s.flt.resetting
  result : t.flt.result = s.flt.result
  pend : t.flt.pend = s.flt.pend
  homeHeld : t.flt.homeHeld = s.flt.homeHeld

namespace State.ResetKept

theorem refl {g : Nat} (h : s.canon = true) : s.ResetKept g s := ⟨h, id, rfl, rfl, rfl, rfl, rfl⟩

theorem trans {g : Nat} {u : State} (h : s.ResetKept g t) (h' : t.ResetKept g u) : s.ResetKept g u :=
  ⟨h'.canon, fun hb => h'.core (h.core hb), h'.busy.trans h.busy, h'.resetting.trans h.resetting, h'.result.trans h.result,
    h'.pend.trans h.pend, h'.homeHeld.trans h.homeHeld⟩

theorem of_flt {g : Nat} (hc : t.canon = true) (hcore : (s.core g).Blank → (t.core g).Blank) (hf : t.flt = s.flt) : s.ResetKept g t :=
  ⟨hc, hcore, congrArg Faults.busy hf, congrArg Faults.resetting hf, congrArg Faults.result hf, congrArg Faults.pend hf, congrArg Faults.homeHeld hf⟩

end State.ResetKept

theorem State.resetKept_beginHalt (h : s.canon = true) (g : Nat) : s.ResetKept g (s.beginHalt 8 0 0 0) := by
  obtain ⟨_, _, _, hflt⟩ := s.beginHalt_keeps 8 0 0 0
  refine .of_flt (State.canon_beginHalt h 8 0 0 0) (fun hb => ?_) hflt
  rw [State.core_beginHalt_error h rfl]
  exact hb.flush

theorem State.resetKept_serviceTold (h : s.canon = true) (g c : Nat) : s.ResetKept g (s.serviceTold c) := by
  obtain ⟨_, _, hcores, hbusy, hresetting, hresult, hpend, hheld⟩ := State.kept_of_besideTelling (s.besideTelling_serviceTold c)
  refine ⟨?_, fun hb => ?_, hbusy, hresetting, hresult, hpend, hheld⟩
  · exact State.canon_with_rest (State.canon_fatal (State.canon_raise (State.canon_onFlt h _) _ _ _ _) _ _ _)
  · rw [State.core, hcores]
    exact hb

theorem State.resetKept_checkService (h : s.canon = true) (g : Nat) : s.ResetKept g s.checkService := by
  unfold State.checkService
  split
  · exact .refl h
  · rw [State.endService_eq]
    split
    · exact .refl h
    · have ht := State.resetKept_serviceTold h g s.serviceRow
      split
      · exact ht.trans (State.resetKept_beginHalt ht.canon g)
      · exact ht

theorem State.flt_of_besideMask (h : t.besideMask = s.besideMask) : t.flt = s.flt := (congrArg State.flt h :)

theorem State.resetKept_takeMask (h : s.canon = true) (g : Nat) : s.ResetKept g s.takeMask :=
  .of_flt (State.canon_takeMask h) (fun hb => hb.of_besideRank (State.core_takeMask h g)) (State.flt_of_besideMask s.besideMask_takeMask)

theorem State.canon_fetchOn (h : s.canon = true) : s.fetchOn.canon = true := State.canon_overList (fun _ _ hu => State.canon_setSeq hu _ _) _ h

theorem State.resetKept_fetchOn (h : s.canon = true) (g : Nat) : s.ResetKept g s.fetchOn := by
  obtain ⟨-, hcores, hflt, -⟩ := State.kept_of_besideSeqs s.besideSeqs_fetchOn
  refine .of_flt (State.canon_fetchOn h) (fun hb => ?_) hflt
  rw [State.core, hcores]
  exact hb

theorem State.resetKept_resumeStepEnd (h : s.canon = true) (g : Nat) : s.ResetKept g s.resumeStepEnd := by
  unfold State.resumeStepEnd
  split
  · have ht := State.resetKept_takeMask h g
    exact ht.trans (State.resetKept_fetchOn ht.canon g)
  · exact .refl h

theorem State.releaseHomes_none (h : s.flt.homeHeld = []) : s.releaseHomes = s := by
  have hself : (s.onFlt fun f => { f with homeHeld := [] }) = s := by rw [State.onFlt, ← h]
  unfold State.releaseHomes
  rw [h, List.foldl_nil, hself]

/-- The state once a core is reset and BUSY is clear. -/
def State.coreResetDone (s : State) (g : Nat) : State := (s.resetCore g).onFlt fun f => { f with busy := none, resetting := [], result := 0 }

theorem exec_perFunctionResetDone_core {g r : Nat} {rs : List Nat} (hg : g < 2048) (hb : s.flt.busy = some (0x1000 + g, false))
    (hr : s.flt.resetting = r :: rs) (hrep : s.inReplay = false) : exec (.perFunctionResetDone true []) s =
      .next (s.coreResetDone g).checkService.releaseHomes.resumeStepEnd.settleFaults := by
  have hfn : s.resetFn (0x1000 + g) true = s.resetCore g := by
    have hclass : (0x1000 + g) / 0x1000 = 1 := by omega
    have hid : (0x1000 + g) % 0x1000 = g := by omega
    simp only [State.resetFn, hclass, hid]
  change execPerFunctionResetDone true [] s = _
  unfold execPerFunctionResetDone
  simp only [hb, hr, hrep, Bool.false_eq_true, if_false, hfn, State.imageReload, List.foldl_nil, Bool.not_true, Bool.or_self, Bool.false_and, State.coreResetDone]

/-- A core whose reset is done is as after start, and the recovery's registers are free (R382). -/
theorem exec_perFunctionResetDone_blank (h : s.canon = true) {g r : Nat} {rs : List Nat} (hg : g < 2048) (hb : s.flt.busy = some (0x1000 + g, false))
    (hr : s.flt.resetting = r :: rs) (hrep : s.inReplay = false) (hp : s.flt.pend = []) (hheld : s.flt.homeHeld = []) :
    ∃ t, exec (.perFunctionResetDone true []) s = .next t ∧ t.flt.busy = none ∧ t.flt.resetting = [] ∧ t.flt.result = 0 ∧ (t.core g).Blank := by
  have hflt : (s.coreResetDone g).flt = { s.flt with busy := none, resetting := [], result := 0 } := by
    rw [State.coreResetDone, State.onFlt, s.flt_resetCore g]
  have hcanon : (s.coreResetDone g).canon = true := State.canon_onFlt (State.canon_resetCore h g) _
  have hblank : ((s.coreResetDone g).core g).Blank := by
    have hcore : (s.coreResetDone g).core g = (s.core g).afterReset := State.core_resetCore h g
    rw [hcore]
    exact (s.core g).blank_afterReset
  have hnext := exec_perFunctionResetDone_core hg hb hr hrep
  generalize s.coreResetDone g = u at *
  have hcheck := State.resetKept_checkService hcanon g
  rw [State.releaseHomes_none (hcheck.homeHeld.trans ((congrArg Faults.homeHeld hflt).trans hheld))] at hnext
  have hkept := hcheck.trans (State.resetKept_resumeStepEnd hcheck.canon g)
  generalize u.checkService.resumeStepEnd = t at *
  rw [State.settleFaults_none (hkept.pend.trans ((congrArg Faults.pend hflt).trans hp))] at hnext
  exact ⟨t, hnext, hkept.busy.trans (congrArg Faults.busy hflt), hkept.resetting.trans (congrArg Faults.resetting hflt),
    hkept.result.trans (congrArg Faults.result hflt), hkept.core hblank⟩

/-! ## The completion of a halt (R107, R411) -/

/-- The state without what the host port and the completion record change. -/
def State.besideHost (s : State) : State := { s with host := .init, freeCtr := 0, pins := { s.pins with wake := false } }

theorem State.besideHost_post (s : State) (m : HostMsg) : (s.post m).besideHost = s.besideHost ∧ (s.post m).host.compl = s.host.compl := by
  unfold State.post
  simp only
  split
  · exact ⟨rfl, rfl⟩
  · exact ⟨rfl, rfl⟩
  · exact ⟨rfl, rfl⟩

theorem State.besideHost_sendMsix (s : State) (vec : Nat) :
    (s.sendMsix vec).besideHost = s.besideHost ∧ (s.sendMsix vec).host.compl = s.host.compl := by
  unfold State.sendMsix
  split
  · exact s.besideHost_post _
  · exact ⟨rfl, rfl⟩

/-- The record's second word is the step. -/
theorem State.complRecord_step (s : State) (h : HaltReq) : (s.complRecord h).2.besideHost = s.besideHost ∧
    (s.complRecord h).1.getD 1 0 = BitVec.ofNat 64 (s.prog.step.toNat % 2 ^ 48) := by
  unfold State.complRecord State.freshTime
  simp only
  generalize List.foldl _ 0 (State.liveCores _) = tok
  exact ⟨rfl, rfl⟩

/-- Sending changes the host port alone, and not its completion record. -/
def State.Sent (s t : State) : Prop := t.besideHost = s.besideHost ∧ t.host.compl = s.host.compl

theorem State.Sent.trans {u : State} (h : s.Sent t) (h' : t.Sent u) : s.Sent u := ⟨h'.1.trans h.1, h'.2.trans h.2⟩

theorem State.sent_record (s : State) (ws : List Word) : s.Sent (if s.prog.norec then s else s.post (.write s.prog.caddr ws)) := by
  split
  · exact ⟨rfl, rfl⟩
  · exact s.besideHost_post _

theorem State.sent_vector (s : State) : s.Sent (if s.prog.nomsi then s else s.sendMsix s.prog.vec) := by
  split
  · exact ⟨rfl, rfl⟩
  · exact s.besideHost_sendMsix _

/-- The record as the host reads it. -/
def State.recorded (s : State) (ws : List Word) : State := s.onHost fun p => { p with compl := ws }

/-- The record sent as the launch asked, or lost with its port. -/
def State.announced (s : State) (ws : List Word) : State :=
  if s.portUp = false then s.onHost fun p => { p with complLost := true }
  else
    let s := if s.prog.norec then s else s.post (.write s.prog.caddr ws)
    if s.prog.nomsi then s else s.sendMsix s.prog.vec

theorem State.complete_eq (s : State) (h : HaltReq) :
    s.complete h = (State.recorded (s.complRecord h).2 (s.complRecord h).1).announced (s.complRecord h).1 := rfl

theorem State.sent_announced (s : State) (ws : List Word) : s.Sent (s.announced ws) := by
  unfold State.announced
  split
  · exact ⟨rfl, rfl⟩
  · exact (s.sent_record ws).trans (State.sent_vector _)

/-- A completion changes the host port alone, whose record names the step. -/
theorem State.complete_keeps (s : State) (h : HaltReq) : (s.complete h).besideHost = s.besideHost ∧
    (s.complete h).host.compl.getD 1 0 = BitVec.ofNat 64 (s.prog.step.toNat % 2 ^ 48) := by
  obtain ⟨hbeside, hstep⟩ := s.complRecord_step h
  rw [State.complete_eq]
  generalize s.complRecord h = p at *
  have hsent := (p.2.recorded p.1).sent_announced p.1
  exact ⟨hsent.1.trans hbeside, (congrArg (fun ws : List Word => ws.getD 1 0) hsent.2).trans hstep⟩

/-- The draining sequencers halted, and no halt in progress. -/
def State.haltDone (s : State) (h : HaltReq) : State :=
  { s with seqs := AMap.mapVals .init (Seq.halted h) s.seqs }.onProg fun p => { p with halt := none, inStep := false }

theorem exec_haltComplete_idle {h : HaltReq} (hh : s.prog.halt = some h) (hidle : s.enginesIdle = true) :
    exec .haltComplete s = .next ((s.haltDone h).complete h).startHeld.settleFaults := by
  change execHaltComplete s = _
  unfold execHaltComplete
  split
  · next x hx =>
    obtain rfl := Option.some.inj (hx.symm.trans hh)
    rw [if_pos hidle]
    rfl
  · next hx => simp [hh] at hx

theorem Seq.halted_of_drain {x : Seq} (hx : x.st = .drain) (h : HaltReq) : (x.halted h).st = .halted ∧ (x.halted h).cause = h.cause ∧
    (x.halted h).infoPc = h.pc ∧ (x.halted h).infoStream = h.stream ∧ (x.halted h).infoCode = h.code := by
  rw [Seq.halted, if_pos hx]
  exact ⟨rfl, rfl, rfl, rfl, rfl⟩

theorem State.kept_of_besideHost (h : t.besideHost = s.besideHost) : t.prog = s.prog ∧ t.seqs = s.seqs ∧ t.dram = s.dram ∧ t.flt = s.flt :=
  ⟨(congrArg State.prog h :), (congrArg State.seqs h :), (congrArg State.dram h :), (congrArg State.flt h :)⟩

/-- With no reset held and no fault waiting, a halt completes with each draining sequencer halted and its record written. -/
theorem exec_haltComplete_record (hc : s.canon = true) {h : HaltReq} (hh : s.prog.halt = some h) (hidle : s.enginesIdle = true)
    (hheld : s.flt.held = none) (hp : s.flt.pend = []) : ∃ t, exec .haltComplete s = .next t ∧ t.prog.halt = none ∧ t.prog.inStep = false ∧
      t.dram = s.dram ∧ t.host.compl.getD 1 0 = BitVec.ofNat 64 (s.prog.step.toNat % 2 ^ 48) ∧ ∀ d, t.seq d = (s.seq d).halted h := by
  obtain ⟨hbeside, hstep⟩ := (s.haltDone h).complete_keeps h
  obtain ⟨hprog, hseqs, hdram, hflt⟩ := State.kept_of_besideHost hbeside
  have hnext := exec_haltComplete_idle hh hidle
  have hseq : ∀ d, (s.haltDone h).seq d = (s.seq d).halted h := fun d => AMap.get_mapVals rfl d (AMap.rising_of_wf (State.canon_seqs hc))
  generalize (s.haltDone h).complete h = t at *
  have hnone : t.flt.held = none := (congrArg Faults.held hflt).trans hheld
  have hstart : t.startHeld = t := by rw [State.startHeld, hnone]
  rw [hstart, State.settleFaults_none ((congrArg Faults.pend hflt).trans hp)] at hnext
  exact ⟨t, hnext, congrArg Prog.halt hprog, congrArg Prog.inStep hprog, hdram, hstep, fun d => by rw [State.seq, hseqs]; exact hseq d⟩

end Sys2Proof.Machine

open Sys2Proof Sys2Proof.Machine

/-- Settles O47: with nothing on its way a replay is the audit and the restoring of the step; a reset core stays as after start whatever
follows; the entry's compare-and-write is made in the line that holds it; a completion changes the host port alone. -/
theorem recoveryRestoresTheStep : Obligations.RecoveryRestoresTheStep := by
  unfold Obligations.RecoveryRestoresTheStep
  intro s hc
  refine ⟨fun hp hreset hctls hrep => ⟨fun hatt hrow hidle hslots hbal hadm hlive us hus => ?_, fun hatt hh us => ?_⟩,
    fun g r rs hg hb hr hrep hp hheld => ?_, fun e e' rest hr hrep hcache htier => ?_, fun h hh hidle hheld hp => ?_⟩
  · have hf := (State.flushed hc hslots).latch
    have hnext := exec_faultReplay_clean hc hp hreset hctls hrep hatt hrow hidle hslots fun k hk => ⟨hbal k hk, hus k hk⟩
    generalize s.flushAll.latch = u at *
    obtain ⟨hatt', hdram, hstep, hseq⟩ := State.restoreStep_keeps hf.canon (hf.admitted.trans (hadm.trans hf.live.symm))
      fun d hd hnil => hlive d (hf.mem_activeSeqs.mp hd) ((hf.liveOf d).symm.trans hnil)
    refine ⟨_, hnext, hatt'.trans (congrArg (· + 1) hf.attempts), hdram.trans hf.dram, hstep.trans hf.step, fun d _ hd => ?_⟩
    rw [hseq, hf.seq]
    exact Seq.restore_of_replay hd
  · obtain ⟨⟨x, hx, hcause⟩, hmax⟩ := State.replayLimit_halt hp hh
    exact ⟨_, x, by rw [exec_faultReplay_waiting hreset hctls hrep, if_pos hatt], hx, hcause, hmax⟩
  · obtain ⟨t, hnext, hbusy, hresetting, hresult, hblank⟩ := exec_perFunctionResetDone_blank hc hg hb hr hrep hp hheld
    exact ⟨t, hnext, hbusy, hresetting, hresult, hblank.q, hblank.store, hblank.batt, hblank.acc, hblank.desc, hblank.ax, hblank.streams, hblank.lane⟩
  · obtain ⟨t, hnext, hlist, hleft, hmoved, hdram, hdies⟩ := exec_rehydrationCopy_counts hr hrep hcache htier
    exact ⟨t, hnext, hlist, hleft, hmoved, hdram, fun l hp hcomb hl hold hlo hhi =>
      State.line?_staleMirror hc rfl rfl hp hcomb hl hold hlo hhi _ hdies⟩
  · obtain ⟨t, hnext, hnone, hin, hdram, hrec, hseq⟩ := exec_haltComplete_record hc hh hidle hheld hp
    refine ⟨t, hnext, hnone, hin, hdram, hrec, fun d hd => ?_⟩
    rw [hseq]
    exact Seq.halted_of_drain hd h
end

section
/-! PROOFS. Computations that answer: what runs to its end from a state, and the memories of a core that decode clean (R119, R365, R368,
R380). -/

namespace Sys2Proof.Machine

/-! ## Computations that answer -/

section
variable {α β : Type} {s t u : State}

/-- From s a computation answers a and leaves t. -/
def M.Gives (m : M α) (s : State) (a : α) (t : State) : Prop := m.run s = (.ok a, t)

theorem M.gives_pure (a : α) (s : State) : M.Gives (pure a) s a s := rfl
theorem M.gives_get (s : State) : M.Gives get s s s := rfl

theorem M.Gives.bind {m : M α} {f : α → M β} {a : α} {b : β} (hm : M.Gives m s a t) (hf : M.Gives (f a) t b u) : M.Gives (m >>= f) s b u := by
  have e : (m >>= f).run s = ExceptT.bindCont f (m.run s).1 (m.run s).2 := rfl
  rw [M.Gives, e, hm]
  exact hf

theorem M.Gives.attempt {m : M α} {a : α} (h : M.Gives m s a t) : M.Gives (attempt m) s (.ok a) t :=
  congrArg (fun r : Except Nat α × State => ((.ok r.1, r.2) : Except Nat (Except Nat α) × State)) h

theorem M.Gives.map {m : M α} {a : α} (h : M.Gives m s a t) (f : α → β) : M.Gives (f <$> m) s (f a) t := by
  rw [← bind_pure_comp]
  exact h.bind (M.gives_pure _ _)

/-- A loop whose step answers from every state that the elements before it can leave: the invariant speaks of those elements. -/
theorem M.gives_forIn {xs : List α} {f : α → β → M (ForInStep β)} {I : List α → β → State → Prop}
    (hstep : ∀ done x b s, x ∈ xs → I done b s → ∃ b' s', M.Gives (f x b) s (.yield b') s' ∧ I (done ++ [x]) b' s')
    {b : β} (h : I [] b s) : ∃ b' s', M.Gives (forIn xs b f) s b' s' ∧ I xs b' s' := by
  suffices hgen : ∀ rest done b s, (∀ x ∈ rest, x ∈ xs) → I done b s → ∃ b' s', M.Gives (forIn rest b f) s b' s' ∧ I (done ++ rest) b' s' from
    hgen xs [] b s (fun _ hx => hx) h
  intro rest
  induction rest with
  | nil =>
    intro done b s _ hI
    refine ⟨b, s, ?_, by rwa [List.append_nil]⟩
    rw [List.forIn_nil]
    exact M.gives_pure b s
  | cons x rest ih =>
    intro done b s hmem hI
    obtain ⟨b', s', hx, hI'⟩ := hstep done x b s (hmem x List.mem_cons_self) hI
    obtain ⟨b'', s'', hrest, hI''⟩ := ih (done ++ [x]) b' s' (fun y hy => hmem y (List.mem_cons_of_mem _ hy)) hI'
    refine ⟨b'', s'', ?_, by rwa [List.append_assoc] at hI''⟩
    rw [List.forIn_cons]
    exact hx.bind hrest

/-- A loop that leaves the state, with what it has gathered after each prefix of its elements. -/
theorem M.gives_gather {xs : List α} {f : α → β → M (ForInStep β)} (acc : List α → β)
    (hstep : ∀ done x, x ∈ xs → M.Gives (f x (acc done)) s (.yield (acc (done ++ [x]))) s) : M.Gives (forIn xs (acc []) f) s (acc xs) s := by
  obtain ⟨b, t, hloop, rfl, rfl⟩ := M.gives_forIn (f := f) (I := fun done b t => b = acc done ∧ t = s)
    (fun done x b t hx hI => ⟨_, _, by rw [hI.1, hI.2]; exact hstep done x hx, rfl, rfl⟩) (b := acc []) ⟨rfl, rfl⟩
  exact hloop

end

variable {s t : State}

/-! ## Memories that decode clean -/

theorem decode_get_clean {m : AMap Codeword} (h : ∀ e ∈ m, (decode e.2).cls = .clean) (k : Nat) : (decode (AMap.get zeroCw m k)).cls = .clean :=
  AMap.get_of_all (P := fun cw => (decode cw).cls = .clean) (by rw [← encode_zero, decode_encode]) k h

/-- A clean memory is one in canonical form of which every word decodes clean. -/
theorem cleanMap_iff {m : AMap Codeword} : cleanMap m = true ↔ AMap.wf zeroCw m = true ∧ ∀ k, (decode (AMap.get zeroCw m k)).cls = .clean := by
  simp only [cleanMap, Bool.and_eq_true, List.all_eq_true, beq_iff_eq]
  refine and_congr_right fun hwf => ⟨fun h k => decode_get_clean h k, fun h e he => ?_⟩
  rw [← AMap.get_of_mem zeroCw (AMap.rising_of_wf hwf) he]
  exact h e.1

/-- The data of a word of a memory. -/
def dataAt (m : AMap Codeword) (k : Nat) : Word := (decode (AMap.get zeroCw m k)).d

/-- A memory after an update. -/
def writeMem (m : AMap Codeword) (u : WUpd) : AMap Codeword := AMap.set zeroCw m u.w (rmw (AMap.get zeroCw m u.w) u.d u.mask u.p).1

theorem mergeBits_full (old new : Word) : mergeBits old new fullMask = new := by
  have hones : fullMask = BitVec.allOnes 64 := rfl
  rw [mergeBits, hones, BitVec.not_allOnes, BitVec.and_zero, BitVec.and_allOnes, BitVec.zero_or]

/-- What an update stores: a codeword of the merged word. -/
theorem decode_rmw (old : Codeword) (new mask : Word) (p : Bool) :
    (decode (rmw old new mask p).1).d = mergeBits (decode old).d new mask ∧ (decode (rmw old new mask p).1).cls = .clean := by
  unfold rmw
  split
  · next h => rw [h, mergeBits_full, decode_encode]; exact ⟨rfl, rfl⟩
  · rw [decode_encode]; exact ⟨rfl, rfl⟩

/-- Of a clean word an update reports nothing to count. -/
theorem rmw_reports_clean {old : Codeword} (h : (decode old).cls = .clean) (new mask : Word) (p : Bool) :
    (rmw old new mask p).2 = none ∨ ∃ o, (rmw old new mask p).2 = some o ∧ o.cls = .clean := by
  unfold rmw
  split
  · exact .inl rfl
  · exact .inr ⟨_, rfl, h⟩

theorem dataAt_writeMem {m : AMap Codeword} (h : cleanMap m = true) (u : WUpd) (k : Nat) :
    dataAt (writeMem m u) k = if k = u.w then mergeBits (dataAt m k) u.d u.mask else dataAt m k := by
  unfold dataAt writeMem
  rw [AMap.get_set _ (AMap.rising_of_wf (cleanMap_iff.mp h).1)]
  split
  · next e => rw [(decode_rmw ..).1, e]
  · rfl

theorem cleanMap_writeMem {m : AMap Codeword} (h : cleanMap m = true) (u : WUpd) : cleanMap (writeMem m u) = true := by
  obtain ⟨hwf, hclean⟩ := cleanMap_iff.mp h
  refine cleanMap_iff.mpr ⟨AMap.wf_set hwf, fun k => ?_⟩
  unfold writeMem
  rw [AMap.get_set _ (AMap.rising_of_wf hwf)]
  split
  · exact (decode_rmw ..).2
  · exact hclean k

theorem cleanMap_foldl_writeMem : ∀ {us : List WUpd} {m : AMap Codeword}, cleanMap m = true → cleanMap (us.foldl writeMem m) = true
  | [], _, h => h
  | u :: us, _, h => cleanMap_foldl_writeMem (us := us) (cleanMap_writeMem h u)

end Sys2Proof.Machine
end

section
/-! PROOFS. Reads and writes of the SRAMs that a core reaches, where they decode clean and no SFLIP mask is set (R119, R365, R368, R380). -/

namespace Sys2Proof.Machine

variable {s t : State} {g : Nat}

/-- The memories core g reaches in its die, and its descriptors, decode clean, and no SFLIP mask is set on them. -/
structure State.Quiet (s : State) (g : Nat) : Prop where
  mem : ∀ sp, cleanMap (s.memOf g sp) = true
  desc : cleanMap (s.core g).desc = true
  undo : ∀ e, ∀ u ∈ (s.core g).descUndo.get e, ∀ w ∈ u.old.1, (decode w).cls = .clean
  core : s.reg (coreOff g + 0x220) = 0 ∧ s.reg (coreOff g + 0x220 + 8) = 0
  cluster : s.reg (cluOff (clusterOf g) + 0x810) = 0 ∧ s.reg (cluOff (clusterOf g) + 0x810 + 8) = 0

theorem State.quiet_of_quietCore (h : s.quietCore g = true) : s.Quiet g := by
  simp only [State.quietCore, Bool.and_eq_true, beq_iff_eq, List.all_eq_true] at h
  obtain ⟨⟨⟨⟨⟨⟨⟨⟨⟨hstore, hbatt⟩, hdesc⟩, hacc⟩, hclu⟩, hundo⟩, hc0⟩, hc1⟩, hk0⟩, hk1⟩ := h
  refine ⟨fun sp => ?_, hdesc, fun e => hundo e (by cases e <;> decide), ⟨hc0, hc1⟩, ⟨hk0, hk1⟩⟩
  unfold State.memOf
  split
  · exact hclu
  · exact hbatt
  · exact hacc
  · exact hstore

/-- A space of a core's die that an operand names: the core store, the cluster store or the batts. -/
def LocalSpace (sp : Nat) : Prop := sp = 0 ∨ sp = 1 ∨ sp = 3

/-- A memory of a core's die put in place of the one at a space. -/
def State.setMem (s : State) (g sp : Nat) (m : AMap Codeword) : State :=
  match sp with
  | 1 => s.setCluster (clusterOf g) { s.cluster (clusterOf g) with store := m }
  | 3 => s.setCore g { s.core g with batt := m }
  | _ => s.setCore g { s.core g with store := m }

/-! ## Reads -/

theorem State.coreRead_quiet (h : s.Quiet g) {sp tgt : Nat} (htgt : (s.core g).sram tgt = s.memOf g sp) (k : Nat) :
    s.coreRead g tgt k = ((dataAt (s.memOf g sp) k, (decode (AMap.get zeroCw (s.memOf g sp) k)).p), s) := by
  rw [State.coreRead_clean g tgt k (by rw [htgt]; exact (cleanMap_iff.mp (h.mem sp)).2 k), htgt, dataAt]

/-- A word of a local space is read without any other effect. -/
theorem readWord_quiet {c : Ctx} {sp : Nat} (h : s.Quiet c.g) (hsp : LocalSpace sp) (k : Nat) :
    M.Gives (readWord c sp k) s (dataAt (s.memOf c.g sp) k, (decode (AMap.get zeroCw (s.memOf c.g sp) k)).p) s := by
  obtain rfl | rfl | rfl := hsp
  · have hread := State.coreRead_quiet h (sp := 0) (tgt := 0) rfl k
    exact congrArg (fun r : (Word × Bool) × State => ((.ok r.1, r.2) : Except Nat (Word × Bool) × State)) hread
  · have hread := State.clusterRead_clean (s := s) (clusterOf c.g) k ((cleanMap_iff.mp (h.mem 1)).2 k)
    exact congrArg (fun r : (Word × Bool) × State => ((.ok r.1, r.2) : Except Nat (Word × Bool) × State)) hread
  · have hread := State.coreRead_quiet h (sp := 3) (tgt := 1) rfl k
    exact congrArg (fun r : (Word × Bool) × State => ((.ok r.1, r.2) : Except Nat (Word × Bool) × State)) hread

/-! ## Writes -/

theorem State.coreStore_quiet (h : s.Quiet g) (tgt k : Nat) (cw : Codeword) :
    s.coreStore g tgt k cw = s.setCore g ((s.core g).setSram tgt (AMap.set zeroCw ((s.core g).sram tgt) k cw)) := by
  unfold State.coreStore
  rw [State.sflip_quiet _ _ _ _ _ h.core.1 h.core.2]

theorem State.coreWrite_quiet (h : s.Quiet g) {sp tgt : Nat} (htgt : (s.core g).sram tgt = s.memOf g sp) (u : WUpd) :
    s.coreWrite g tgt u.w u.d u.mask u.p = s.setCore g ((s.core g).setSram tgt (writeMem (s.memOf g sp) u)) := by
  have hstore := State.coreStore_quiet h tgt u.w
  have hecc := rmw_reports_clean ((cleanMap_iff.mp (h.mem sp)).2 u.w) u.d u.mask u.p
  rw [htgt] at hstore
  unfold State.coreWrite writeMem
  rw [htgt]
  generalize rmw (AMap.get zeroCw (s.memOf g sp) u.w) u.d u.mask u.p = r at *
  obtain ⟨cw, o⟩ := r
  obtain rfl | ⟨o', rfl, hcls⟩ := hecc
  · exact hstore cw
  · simp only [hcls]
    exact hstore cw

theorem State.clusterWrite_quiet (h : s.Quiet g) (u : WUpd) :
    s.clusterWrite (clusterOf g) u.w u.d u.mask u.p = s.setMem g 1 (writeMem (s.memOf g 1) u) := by
  have hstore : ∀ cw, s.clusterStore (clusterOf g) u.w cw = s.setMem g 1 (AMap.set zeroCw (s.memOf g 1) u.w cw) := fun cw => by
    unfold State.clusterStore
    rw [State.sflip_quiet _ _ _ _ _ h.cluster.1 h.cluster.2]
    rfl
  have hecc := rmw_reports_clean ((cleanMap_iff.mp (h.mem 1)).2 u.w) u.d u.mask u.p
  have hmem : (s.cluster (clusterOf g)).store = s.memOf g 1 := rfl
  unfold State.clusterWrite writeMem
  rw [hmem]
  generalize rmw (AMap.get zeroCw (s.memOf g 1) u.w) u.d u.mask u.p = r at *
  obtain ⟨cw, o⟩ := r
  obtain rfl | ⟨o', rfl, hcls⟩ := hecc
  · exact hstore cw
  · simp only [hcls]
    exact hstore cw

/-- A state that differs in its ledgers alone. -/
theorem State.eq_with_ledg (h : { t with ledg := s.ledg } = s) : t = { s with ledg := t.ledg } := by
  rw [← h]

/-- The count of a write in ledger 4. -/
def State.countWrite (s : State) (p : Bool) : State := if p then (s.ledgIn 4 1).ledgAlt 4 1 else (s.ledgIn 4 1).ledgOut 4 1

theorem State.countWrite_frame (s : State) (p : Bool) : { s.countWrite p with ledg := s.ledg } = s := by
  unfold State.countWrite
  split
  · exact (congrArg (fun t : State => { t with ledg := s.ledg }) ((s.ledgIn 4 1).ledgAlt_frame 4 1) :).trans (s.ledgIn_frame 4 1)
  · exact (congrArg (fun t : State => { t with ledg := s.ledg }) ((s.ledgIn 4 1).ledgOut_frame 4 1) :).trans (s.ledgIn_frame 4 1)

/-- The write of one word of a local space, with what ledger 4 counts. -/
def State.putLocal (s : State) (g sp : Nat) (u : WUpd) : State :=
  (if sp = 1 then s.clusterWrite (clusterOf g) u.w u.d u.mask u.p
    else s.coreWrite g (if sp = 3 then 1 else if sp = spAcc then 3 else 0) u.w u.d u.mask u.p).countWrite u.p

theorem writeLocal_gives (c : Ctx) (sp : Nat) (u : WUpd) (s : State) : M.Gives (writeLocal c sp u) s () (s.putLocal c.g sp u) := rfl

theorem State.putLocal_quiet (h : s.Quiet g) {sp : Nat} (hsp : LocalSpace sp) (u : WUpd) :
    ∃ m, s.putLocal g sp u = { s.setMem g sp (writeMem (s.memOf g sp) u) with ledg := m } := by
  have hwrite : (if sp = 1 then s.clusterWrite (clusterOf g) u.w u.d u.mask u.p
      else s.coreWrite g (if sp = 3 then 1 else if sp = spAcc then 3 else 0) u.w u.d u.mask u.p) =
      s.setMem g sp (writeMem (s.memOf g sp) u) := by
    obtain rfl | rfl | rfl := hsp
    · rw [if_neg (by decide), if_neg (by decide), if_neg (by decide)]
      exact State.coreWrite_quiet h (sp := 0) (tgt := 0) rfl u
    · rw [if_pos rfl]
      exact State.clusterWrite_quiet h u
    · rw [if_neg (by decide), if_pos rfl]
      exact State.coreWrite_quiet h (sp := 3) (tgt := 1) rfl u
  unfold State.putLocal
  rw [hwrite]
  exact ⟨_, State.eq_with_ledg (State.countWrite_frame _ _)⟩

/-! ## What the writes leave -/

/-- A core without the memories that writes of its local spaces change. -/
def Core.besideMems (c : Core) : Core := { c with store := [], batt := [] }

/-- Only the core store, the batts and the cluster store of a core have changed, and ledger 4's counts; they decode clean. -/
structure State.MemsOnly (g : Nat) (s t : State) : Prop where
  canon : t.canon = true
  quiet : t.Quiet g
  frame : { t with cores := s.cores, clusters := s.clusters, ledg := s.ledg } = s
  other : ∀ h, h ≠ g → t.core h = s.core h
  core : (t.core g).besideMems = (s.core g).besideMems

theorem State.core_setMem_store (h : s.canon = true) (m : AMap Codeword) : (s.setMem g 0 m).core g = { s.core g with store := m } :=
  (State.core_setCore h g g _).trans (if_pos rfl)

theorem State.core_setMem_batt (h : s.canon = true) (m : AMap Codeword) : (s.setMem g 3 m).core g = { s.core g with batt := m } :=
  (State.core_setCore h g g _).trans (if_pos rfl)

/-- A memory put at a space is read there; the others of the core's die stay. -/
theorem State.memOf_setMem (h : s.canon = true) {sp : Nat} (hsp : LocalSpace sp) (m : AMap Codeword) :
    (s.setMem g sp m).memOf g sp = m ∧ ∀ sp', (s.setMem g sp m).memOf g sp' = m ∨ (s.setMem g sp m).memOf g sp' = s.memOf g sp' := by
  obtain rfl | rfl | rfl := hsp
  · have hcore := State.core_setMem_store h m (g := g)
    refine ⟨congrArg Core.store hcore, fun sp' => ?_⟩
    unfold State.memOf
    rw [hcore]
    split
    · exact .inr rfl
    · exact .inr rfl
    · exact .inr rfl
    · exact .inl rfl
  · have hclu : (s.setMem g 1 m).cluster (clusterOf g) = { s.cluster (clusterOf g) with store := m } :=
      (State.cluster_setCluster h _ _ _).trans (if_pos rfl)
    refine ⟨congrArg Cluster.store hclu, fun sp' => ?_⟩
    unfold State.memOf
    rw [hclu]
    split
    · exact .inl rfl
    · exact .inr rfl
    · exact .inr rfl
    · exact .inr rfl
  · have hcore := State.core_setMem_batt h m (g := g)
    refine ⟨congrArg Core.batt hcore, fun sp' => ?_⟩
    unfold State.memOf
    rw [hcore]
    split
    · exact .inr rfl
    · exact .inl rfl
    · exact .inr rfl
    · exact .inr rfl

/-- What a memory put at a space leaves: the core but for its memories, the other cores, and all but cores and clusters. -/
theorem State.setMem_keeps (h : s.canon = true) {sp : Nat} (hsp : LocalSpace sp) (m : AMap Codeword) :
    { s.setMem g sp m with cores := s.cores, clusters := s.clusters } = s ∧ (∀ j, j ≠ g → (s.setMem g sp m).core j = s.core j) ∧
      ((s.setMem g sp m).core g).besideMems = (s.core g).besideMems := by
  obtain rfl | rfl | rfl := hsp
  · exact ⟨rfl, fun j hj => (State.core_setCore h g j _).trans (if_neg hj),
      (congrArg Core.besideMems (State.core_setMem_store h m) :)⟩
  · exact ⟨rfl, fun _ _ => rfl, rfl⟩
  · exact ⟨rfl, fun j hj => (State.core_setCore h g j _).trans (if_neg hj),
      (congrArg Core.besideMems (State.core_setMem_batt h m) :)⟩

theorem State.Quiet.of_mems (h : s.Quiet g) (hm : ∀ sp, cleanMap (t.memOf g sp) = true) (hc : (t.core g).besideMems = (s.core g).besideMems)
    (hr : t.regs = s.regs) (hcfg : t.cfg = s.cfg) : t.Quiet g where
  mem := hm
  desc := (congrArg Core.desc hc :) ▸ h.desc
  undo := (congrArg Core.descUndo hc :) ▸ h.undo
  core := by rw [State.reg_congr hr hcfg, State.reg_congr hr hcfg]; exact h.core
  cluster := by rw [State.reg_congr hr hcfg, State.reg_congr hr hcfg]; exact h.cluster

theorem State.canon_putLocal (h : s.canon = true) (g sp : Nat) (u : WUpd) : (s.putLocal g sp u).canon = true :=
  writeLocal_canonical { g := g, e := .xe, q := 0, pc := 0, qid := 0, h := headOf 0, ext := [], lc := [], keep := false } sp u s _ _ rfl h

namespace State.MemsOnly

theorem refl (h : s.canon = true) (hq : s.Quiet g) : s.MemsOnly g s := ⟨h, hq, rfl, fun _ _ => rfl, rfl⟩

theorem regs (h : s.MemsOnly g t) : t.regs = s.regs := (congrArg State.regs h.frame :)
theorem cfg (h : s.MemsOnly g t) : t.cfg = s.cfg := (congrArg State.cfg h.frame :)

/-- One more word written to a local space. -/
theorem putLocal (h : s.MemsOnly g t) {sp : Nat} (hsp : LocalSpace sp) (u : WUpd) :
    s.MemsOnly g (t.putLocal g sp u) ∧ (t.putLocal g sp u).memOf g sp = writeMem (t.memOf g sp) u := by
  obtain ⟨l, hput⟩ := State.putLocal_quiet h.quiet hsp u
  have hclean := cleanMap_writeMem (h.quiet.mem sp) u
  have hcanon := State.canon_putLocal h.canon g sp u
  obtain ⟨hmem, hmems⟩ := State.memOf_setMem h.canon hsp (writeMem (t.memOf g sp) u) (g := g)
  obtain ⟨hframe, hother, hcore⟩ := State.setMem_keeps h.canon hsp (writeMem (t.memOf g sp) u) (g := g)
  rw [hput] at hcanon ⊢
  generalize t.setMem g sp (writeMem (t.memOf g sp) u) = v at *
  have hall : ∀ sp', cleanMap (v.memOf g sp') = true := fun sp' => by
    obtain he | he := hmems sp'
    · rw [he]; exact hclean
    · rw [he]; exact h.quiet.mem sp'
  have hquiet : v.Quiet g := h.quiet.of_mems hall hcore (congrArg State.regs hframe :) (congrArg State.cfg hframe :)
  refine ⟨⟨hcanon, ⟨hquiet.mem, hquiet.desc, hquiet.undo, hquiet.core, hquiet.cluster⟩, ?_, fun j hj => (hother j hj).trans (h.other j hj),
    hcore.trans h.core⟩, hmem⟩
  exact (congrArg (fun w : State => { w with cores := s.cores, clusters := s.clusters, ledg := s.ledg }) hframe :).trans h.frame

/-- A list of words written to a local space. -/
theorem foldl_putLocal {sp : Nat} (hsp : LocalSpace sp) : ∀ {us : List WUpd} {t : State}, s.MemsOnly g t →
    s.MemsOnly g (us.foldl (fun t u => t.putLocal g sp u) t) ∧ (us.foldl (fun t u => t.putLocal g sp u) t).memOf g sp = us.foldl writeMem (t.memOf g sp)
  | [], _, h => ⟨h, rfl⟩
  | u :: us, t, h => by
    obtain ⟨hput, hmem⟩ := h.putLocal hsp u
    obtain ⟨hrest, hmem'⟩ := foldl_putLocal hsp (us := us) hput
    exact ⟨hrest, hmem'.trans (by rw [hmem, List.foldl_cons])⟩

end State.MemsOnly

/-- Words written to a local space in order. -/
theorem writeWords_gives (c : Ctx) {sp : Nat} (hsp : LocalSpace sp) (us : List WUpd) (s : State) :
    ∃ st, M.Gives (writeWords c sp us) s st (us.foldl (fun t u => t.putLocal c.g sp u) s) := by
  have hne : sp ≠ 2 := by
    obtain rfl | rfl | rfl := hsp
    all_goals decide
  have hloop : ∀ (us : List WUpd) (s : State), M.Gives (forIn us PUnit.unit fun u _ => do
      writeLocal c sp u
      pure (ForInStep.yield PUnit.unit)) s PUnit.unit (us.foldl (fun t u => t.putLocal c.g sp u) s) := by
    intro us
    induction us with
    | nil => intro s; rw [List.forIn_nil]; exact M.gives_pure _ s
    | cons u us ih =>
      intro s
      rw [List.forIn_cons]
      exact M.Gives.bind (a := ForInStep.yield PUnit.unit) ((writeLocal_gives c sp u s).bind (M.gives_pure _ _)) (ih _)
  refine ⟨statusIf (us.any fun u => u.p) stPOISON, ?_⟩
  unfold writeWords
  simp only [if_neg hne]
  exact (hloop us s).bind (M.gives_pure _ _)

end Sys2Proof.Machine
end

section
/-! PROOFS. Elements of a memory: what a write of one element changes, and what a list of them leaves (R152, R153, Table 12.3). -/

namespace Sys2Proof.Machine

/-! ## Updates of data words -/

/-- Data words after an update. -/
def updData (f : Nat → Word) (u : WUpd) (k : Nat) : Word := if k = u.w then mergeBits (f k) u.d u.mask else f k

theorem dataAt_foldl_writeMem : ∀ {us : List WUpd} {m : AMap Codeword}, cleanMap m = true →
    dataAt (us.foldl writeMem m) = us.foldl updData (dataAt m)
  | [], _, _ => rfl
  | u :: us, m, h => by
    have hdata : dataAt (writeMem m u) = updData (dataAt m) u := funext fun k => dataAt_writeMem h u k
    rw [List.foldl_cons, dataAt_foldl_writeMem (cleanMap_writeMem h u), hdata, List.foldl_cons]

/-- The update that writes one element. -/
def putUpd (w : Nat) (x : Put) : WUpd :=
  { w := x.a / 64, mask := BitVec.ofNat 64 ((2 ^ w - 1) <<< (x.a % 64)), d := BitVec.ofNat 64 ((x.v % 2 ^ w) <<< (x.a % 64)), p := x.p }

/-- Two updates of one word, the later over the earlier, are one. -/
theorem mergeBits_mergeBits (old d d' m m' : Word) : mergeBits (mergeBits old d m) d' m' = mergeBits old (mergeBits d d' m') (m' ||| m) := by
  ext i hi
  simp only [mergeBits, BitVec.getElem_or, BitVec.getElem_and, BitVec.getElem_not]
  cases m[i]
  all_goals
    cases m'[i]
    all_goals simp

theorem putsToUpds_cons (w : Nat) (x : Put) (xs : List Put) : putsToUpds w (x :: xs) =
    match putsToUpds w xs with
    | u :: us =>
      if u.w = x.a / 64 then
        { w := u.w, mask := u.mask ||| (putUpd w x).mask, d := mergeBits (putUpd w x).d u.d u.mask, p := u.p || x.p } :: us
      else putUpd w x :: u :: us
    | [] => [putUpd w x] := rfl

/-- The grouped updates of a list of elements do what the elements' own updates do in order. -/
theorem foldl_putsToUpds (w : Nat) : ∀ (xs : List Put) (f : Nat → Word),
    (putsToUpds w xs).foldl updData f = xs.foldl (fun f x => updData f (putUpd w x)) f
  | [], _ => rfl
  | x :: xs, f => by
    have ih := foldl_putsToUpds w xs (updData f (putUpd w x))
    rw [List.foldl_cons, ← ih, putsToUpds_cons]
    cases putsToUpds w xs with
    | nil => rfl
    | cons u us =>
      simp only
      split
      · next hw =>
        have hmerge : updData f { w := u.w, mask := u.mask ||| (putUpd w x).mask, d := mergeBits (putUpd w x).d u.d u.mask, p := u.p || x.p } =
            updData (updData f (putUpd w x)) u := by
          funext k
          unfold updData
          by_cases hk : k = u.w
          · rw [if_pos hk, if_pos hk, if_pos (show k = (putUpd w x).w from hk.trans hw), mergeBits_mergeBits]
          · rw [if_neg hk, if_neg hk, if_neg (show ¬ k = (putUpd w x).w from fun e => hk (e.trans hw.symm))]
        exact congrArg (us.foldl updData) hmerge
      · rfl

/-! ## Elements -/

/-- The element of w bits at a bit address. -/
def elemAt (f : Nat → Word) (w a : Nat) : Nat := bits (f (a / 64)).toNat (a % 64 + w - 1) (a % 64)

theorem State.peek_eq (s : State) (g sp w a : Nat) : s.peek g sp w a = elemAt (dataAt (s.memOf g sp)) w a := rfl

theorem elemAt_eq {w : Nat} (hw : 0 < w) (f : Nat → Word) (a : Nat) : elemAt f w a = (f (a / 64)).toNat >>> (a % 64) % 2 ^ w := by
  have hn : a % 64 + w - 1 + 1 - a % 64 = w := by omega
  rw [elemAt, bits, hn]

theorem elemAt_lt {w : Nat} (hw : 0 < w) (f : Nat → Word) (a : Nat) : elemAt f w a < 2 ^ w := by
  rw [elemAt_eq hw]
  exact Nat.mod_lt _ (Nat.two_pow_pos w)

theorem testBit_elemAt {w : Nat} (hw : 0 < w) (f : Nat → Word) (a j : Nat) :
    (elemAt f w a).testBit j = (decide (j < w) && (f (a / 64)).getLsbD (a % 64 + j)) := by
  rw [elemAt_eq hw, Nat.testBit_mod_two_pow, Nat.testBit_shiftRight, BitVec.testBit_toNat]

/-- Widths of elements: they divide a word. -/
structure Width (w : Nat) : Prop where
  pos : 0 < w
  dvd : w ∣ 64

/-- An aligned element lies in one word. -/
theorem Width.fits {w a : Nat} (h : Width w) (ha : w ∣ a) : a % 64 + w ≤ 64 := by
  obtain ⟨k, hk⟩ := h.dvd
  obtain ⟨q, hq⟩ := (Nat.dvd_mod_iff h.dvd).mpr ha
  have hlt : w * q < w * k := by rw [← hq, ← hk]; exact Nat.mod_lt _ (by omega)
  have hle : w * (q + 1) ≤ w * k := Nat.mul_le_mul_left w (Nat.lt_of_mul_lt_mul_left hlt)
  rw [Nat.mul_add, Nat.mul_one] at hle
  omega

/-- The bits of two aligned elements of one word are apart. -/
theorem Width.apart {w a b i : Nat} (h : Width w) (ha : w ∣ a) (hb : w ∣ b) (hab : a ≠ b) (hword : a / 64 = b / 64)
    (hi : a % 64 ≤ i ∧ i < a % 64 + w) : ¬ (b % 64 ≤ i ∧ i < b % 64 + w) := by
  obtain ⟨p, hp⟩ := (Nat.dvd_mod_iff h.dvd).mpr ha
  obtain ⟨q, hq⟩ := (Nat.dvd_mod_iff h.dvd).mpr hb
  have hne : a % 64 ≠ b % 64 := by omega
  rintro ⟨hlo, hhi⟩
  have hpq : p = i / w := (Nat.div_eq_of_lt_le (by rw [Nat.mul_comm]; omega) (by rw [Nat.mul_comm, Nat.mul_add]; omega)).symm
  have hqq : q = i / w := (Nat.div_eq_of_lt_le (by rw [Nat.mul_comm]; omega) (by rw [Nat.mul_comm, Nat.mul_add]; omega)).symm
  exact hne (by rw [hp, hq, hpq, hqq])

theorem getLsbD_putMask (w i : Nat) (x : Put) :
    (putUpd w x).mask.getLsbD i = (decide (i < 64) && (decide (x.a % 64 ≤ i) && decide (i - x.a % 64 < w))) := by
  rw [putUpd, BitVec.getLsbD_ofNat, Nat.testBit_shiftLeft, Nat.testBit_two_pow_sub_one]

theorem getLsbD_putData (w i : Nat) (x : Put) :
    (putUpd w x).d.getLsbD i = (decide (i < 64) && (decide (x.a % 64 ≤ i) && (x.v % 2 ^ w).testBit (i - x.a % 64))) := by
  rw [putUpd, BitVec.getLsbD_ofNat, Nat.testBit_shiftLeft]

theorem getLsbD_mergeBits (old new mask : Word) (i : Nat) :
    (mergeBits old new mask).getLsbD i = if mask.getLsbD i then new.getLsbD i else old.getLsbD i := by
  by_cases hi : i < 64
  · simp only [mergeBits, BitVec.getLsbD_or, BitVec.getLsbD_and, BitVec.getLsbD_not]
    cases mask.getLsbD i
    all_goals simp [hi]
  · have hnone : ∀ v : Word, v.getLsbD i = false := fun v => BitVec.getLsbD_of_ge v i (Nat.le_of_not_lt hi)
    simp only [hnone, Bool.false_eq_true, if_false]

/-- A write of one element is read at its address, and changes no other aligned element. -/
theorem elemAt_updData {w a : Nat} (h : Width w) (f : Nat → Word) {x : Put} (ha : w ∣ a) (hx : w ∣ x.a) :
    elemAt (updData f (putUpd w x)) w a = if a = x.a then x.v % 2 ^ w else elemAt f w a := by
  have hfits := h.fits ha
  apply Nat.eq_of_testBit_eq
  intro j
  rw [testBit_elemAt h.pos]
  by_cases hj : j < w
  · have hj64 : a % 64 + j < 64 := by omega
    by_cases hword : a / 64 = x.a / 64
    · have hupd : updData f (putUpd w x) (a / 64) = mergeBits (f (a / 64)) (putUpd w x).d (putUpd w x).mask := if_pos hword
      rw [hupd, getLsbD_mergeBits, getLsbD_putMask, getLsbD_putData]
      by_cases hax : a = x.a
      · subst hax
        simp [hj, hj64]
      · have hapart := h.apart ha hx hax hword (i := a % 64 + j) ⟨by omega, by omega⟩
        have hmask : (decide (x.a % 64 ≤ a % 64 + j) && decide (a % 64 + j - x.a % 64 < w)) = false := by
          simp only [Bool.and_eq_false_iff, decide_eq_false_iff_not]
          omega
        simp [hmask, hax, testBit_elemAt h.pos, hj]
    · have hupd : updData f (putUpd w x) (a / 64) = f (a / 64) := if_neg hword
      have hax : a ≠ x.a := fun e => hword (e ▸ rfl)
      rw [hupd, if_neg hax, testBit_elemAt h.pos]
  · rw [decide_eq_false hj, Bool.false_and]
    split
    · rw [Nat.testBit_mod_two_pow, decide_eq_false hj, Bool.false_and]
    · rw [testBit_elemAt h.pos, decide_eq_false hj, Bool.false_and]

/-- An element at no address of a list of writes is left. -/
theorem elemAt_foldl_other {w a : Nat} (h : Width w) (ha : w ∣ a) : ∀ {xs : List Put} (f : Nat → Word), (∀ x ∈ xs, w ∣ x.a ∧ x.a ≠ a) →
    elemAt (xs.foldl (fun f x => updData f (putUpd w x)) f) w a = elemAt f w a
  | [], _, _ => rfl
  | x :: xs, f, hxs => by
    obtain ⟨hx, hne⟩ := hxs x List.mem_cons_self
    rw [List.foldl_cons, elemAt_foldl_other h ha _ fun y hy => hxs y (List.mem_cons_of_mem _ hy), elemAt_updData h f ha hx, if_neg hne.symm]

/-- Of elements written apart, each is read as it was written. -/
theorem elemAt_foldl_mem {w : Nat} (h : Width w) : ∀ {xs : List Put} (f : Nat → Word), (∀ x ∈ xs, w ∣ x.a) → (xs.map Put.a).Nodup →
    ∀ {x}, x ∈ xs → elemAt (xs.foldl (fun f x => updData f (putUpd w x)) f) w x.a = x.v % 2 ^ w
  | y :: xs, f, hxs, hn, x, hx => by
    obtain ⟨hy, hn⟩ := List.nodup_cons.mp hn
    rw [List.foldl_cons]
    obtain rfl | hx := List.mem_cons.mp hx
    · have hx := hxs x List.mem_cons_self
      rw [elemAt_foldl_other h hx _ fun z hz => ⟨hxs z (List.mem_cons_of_mem _ hz), fun e => hy (e ▸ List.mem_map_of_mem hz)⟩,
        elemAt_updData h f hx hx, if_pos rfl]
    · exact elemAt_foldl_mem h _ (fun z hz => hxs z (List.mem_cons_of_mem _ hz)) hn hx

/-- The same of the grouped updates in a memory that decodes clean. -/
theorem elemAt_writeMem {w : Nat} (h : Width w) {m : AMap Codeword} (hm : cleanMap m = true) {xs : List Put} (hxs : ∀ x ∈ xs, w ∣ x.a)
    (hn : (xs.map Put.a).Nodup) {x : Put} (hx : x ∈ xs) : elemAt (dataAt ((putsToUpds w xs).foldl writeMem m)) w x.a = x.v % 2 ^ w := by
  rw [dataAt_foldl_writeMem hm, foldl_putsToUpds]
  exact elemAt_foldl_mem h _ hxs hn hx

end Sys2Proof.Machine
end

section
/-! PROOFS. Operands without index descriptors or masks in a core's own memories: what reading a source and writing a destination come to
(R118, R133, R152, R153, R216). -/

namespace Sys2Proof.Machine

variable {s t u : State} {c : Ctx}

/-! ## Descriptors at execution (R133, R368) -/

theorem Core.mem_descView {k : Core} {e : Eng} {q h : Nat} {w : Codeword} (hw : w ∈ k.descView e q h) :
    w ∈ k.descWords h ∨ ∃ u ∈ k.descUndo.get e, w ∈ u.old.1 := by
  unfold Core.descView Core.descSeen undoView at hw
  split at hw
  · next u hu => exact .inr ⟨u, List.mem_of_find?_eq_some hu, hw⟩
  · exact .inl hw

theorem State.Quiet.descView_clean (h : s.Quiet c.g) {e : Eng} {q hd : Nat} {w : Codeword} (hw : w ∈ (s.core c.g).descView e q hd) :
    (decode w).cls = .clean := by
  obtain hw | ⟨u, hu, hw⟩ := Core.mem_descView hw
  · obtain ⟨i, -, rfl⟩ := List.mem_map.mp hw
    exact (cleanMap_iff.mp h.desc).2 _
  · exact h.undo e u hu w hw

/-- A fold that gathers a value of each clean word and leaves the state. -/
theorem foldl_gather {γ : Type} {f : List γ × State → Codeword × Nat → List γ × State} {v : Codeword → γ}
    (hf : ∀ acc w n, (decode w).cls = .clean → f (acc, s) (w, n) = (acc ++ [v w], s)) : ∀ (ws : List Codeword) (n : Nat) (acc : List γ),
    (∀ w ∈ ws, (decode w).cls = .clean) → (ws.zipIdx n).foldl f (acc, s) = (acc ++ ws.map v, s)
  | [], _, acc, _ => by simp
  | w :: ws, n, acc, h => by
    rw [List.zipIdx_cons, List.foldl_cons, hf acc w n (h w List.mem_cons_self),
      foldl_gather hf ws (n + 1) _ fun x hx => h x (List.mem_cons_of_mem _ hx)]
    simp

theorem readDescWords_gives (h : s.Quiet c.g) (hd : Nat) :
    M.Gives (readDescWords c hd) s (((s.core c.g).descView c.e c.q hd).map fun w => ((decode w).d, (decode w).p)) s := by
  have hfold := foldl_gather (s := s) (v := fun w => ((decode w).d, (decode w).p))
    (f := fun (acc : List (Word × Bool) × State) cw =>
      let o := decode cw.1
      let s' := acc.2.coreEcc c.g (16 * hd + cw.2) o
      (acc.1 ++ [(o.d, o.p)], match o.cls with
        | .corrected _ => if (s.core c.g).descView c.e c.q hd = (s.core c.g).descWords hd then s'.coreStore c.g 2 (16 * hd + cw.2) (encode o.d o.p) else s'
        | _ => s'))
    (fun acc w n hw => by simp only [hw, State.coreEcc_clean c.g _ hw]) ((s.core c.g).descView c.e c.q hd) 0 []
    fun w hw => h.descView_clean hw
  exact congrArg (fun r : List (Word × Bool) × State => ((.ok r.1, r.2) : Except Nat (List (Word × Bool)) × State)) hfold

/-- The descriptor of a handle as an instruction sees it. -/
def State.descAt (s : State) (c : Ctx) (h : Nat) : Desc :=
  if h = 0 then descOf [] else descOf (((s.core c.g).descView c.e c.q h).map fun w => (decode w).d.toNat)

theorem State.opndAt_eq (s : State) (c : Ctx) (h : Nat) : s.opndAt c h = opndOf (s.descAt c) h := rfl

theorem readDesc_gives (h : s.Quiet c.g) (hd : Nat) : M.Gives (readDesc c hd) s (s.descAt c hd) s := by
  unfold readDesc State.descAt
  split
  · exact M.gives_pure _ s
  · have hmap : ∀ ws : List Codeword, ((ws.map fun w => ((decode w).d, (decode w).p)).map fun w => w.1.toNat) = ws.map fun w => (decode w).d.toNat :=
      fun ws => List.map_map
    rw [← hmap]
    exact (readDescWords_gives h hd).bind (M.gives_pure _ s)

/-- A linked descriptor, where one is named, and what follows. -/
theorem readLink_gives {β : Type} (h : s.Quiet c.g) (hd : Nat) {f : Option Desc → M β} {b : β}
    (hf : M.Gives (f (if hd = 0 then none else some (s.descAt c hd))) s b t) :
    M.Gives (if hd = 0 then pure none >>= f else some <$> readDesc c hd >>= f) s b t := by
  split
  · next h0 =>
    rw [if_pos h0] at hf
    exact (M.gives_pure _ s).bind hf
  · next h0 =>
    rw [if_neg h0] at hf
    exact ((readDesc_gives h hd).map some).bind hf

theorem readOpnd_gives (h : s.Quiet c.g) (hd : Nat) : M.Gives (readOpnd c hd) s (s.opndAt c hd) s := by
  unfold readOpnd
  exact (readDesc_gives h hd).bind (readLink_gives h _ (readLink_gives h _ (readLink_gives h _ (M.gives_pure _ s))))

theorem mapM_readOpnd_gives (h : s.Quiet c.g) : ∀ hs : List Nat, M.Gives (hs.mapM (readOpnd c)) s (hs.map (s.opndAt c)) s
  | [] => by rw [List.mapM_nil]; exact M.gives_pure _ s
  | hd :: hs => by
    rw [List.mapM_cons]
    exact (readOpnd_gives h hd).bind ((mapM_readOpnd_gives h hs).bind (M.gives_pure _ s))

/-- With no operand poisoned the instruction goes on with its operands. -/
theorem withOpnds_gives (h : s.Quiet c.g) {hs : List Nat} (hp : ∀ hd ∈ hs, (s.opndAt c hd).poisoned c (s.core c.g) = false)
    {k : List Opnd → M Res} {r : Res} (hk : M.Gives (k (hs.map (s.opndAt c))) s r t) : M.Gives (withOpnds c hs k) s r t := by
  have hany : ¬ ((hs.map (s.opndAt c)).any fun o => o.poisoned c (s.core c.g)) = true := by
    simpa using hp
  unfold withOpnds withOpndsOr
  refine (mapM_readOpnd_gives h hs).bind ((M.gives_get s).bind ?_)
  rw [if_neg hany]
  exact hk

theorem execCheck_gives {ok : Bool} {written : List Desc} (hok : ok = true) (hrole : s.prog.inStep = true → ∀ d ∈ written, d.role ≠ 1) :
    M.Gives (execCheck ok written) s () s := by
  have hstep : ¬ (s.prog.inStep && written.any fun d => d.role == 1) = true := by
    simp only [Bool.and_eq_true, List.any_eq_true, beq_iff_eq]
    rintro ⟨hin, d, hd, hr⟩
    exact hrole hin d hd hr
  unfold execCheck
  rw [hok]
  refine (M.gives_get s).bind ?_
  rw [if_neg hstep]
  exact M.gives_pure _ s

/-! ## Positions of an operand -/

theorem length_tuples : ∀ ns : List Nat, (tuples ns).length = product' ns := by
  have hprod : ∀ ns : List Nat, (tuples ns).length = ns.prod := by
    intro ns
    induction ns with
    | nil => rfl
    | cons n ns ih =>
      simp only [tuples, List.length_flatMap, List.length_map, List.length_range, List.map_const', List.sum_replicate, List.prod_cons, ih, smul_eq_mul]
      exact Nat.mul_comm _ _
  intro ns
  rw [hprod, product', List.prod_eq_foldl]

/-- An operand of a local space, with no index descriptor and no mask. -/
structure Opnd.Plain (o : Opnd) : Prop where
  space : LocalSpace o.d.space
  idx : o.idx = none
  mask : o.mask = none

theorem Opnd.Plain.shape {o : Opnd} (h : o.Plain) : o.shape = o.d.used := by rw [Opnd.shape, h.idx]

theorem Opnd.Plain.count {o : Opnd} (h : o.Plain) : o.count = (tuples o.d.used).length := by rw [Opnd.count, h.shape, length_tuples]

theorem readMask_gives {o : Opnd} (h : o.Plain) (js : List Nat) : M.Gives (readMask c o js) s (List.replicate o.count (true, false)) s := by
  unfold readMask
  rw [h.mask]
  exact M.gives_pure _ s

theorem opndIndices_gives {o : Opnd} (h : o.Plain) (js : List Nat) : M.Gives (opndIndices c o js) s [] s := by
  unfold opndIndices
  rw [h.idx]
  exact M.gives_pure _ s

theorem resolveAt_gives {o : Opnd} (h : o.Plain) (idx : List (Int × Bool)) (js ix : List Nat) :
    M.Gives (resolveAt o idx js ix) s (some (o.d.bitAt js ix).toNat) s := by
  unfold resolveAt
  rw [h.idx]
  exact M.gives_pure _ s

/-- The positions of an operand beside the mask bits that keep them all. -/
theorem Opnd.Plain.zip_mask {o : Opnd} (h : o.Plain) : ((tuples o.shape).zip (List.replicate o.count (true, false))).map Prod.fst = tuples o.d.used := by
  rw [h.shape, List.map_fst_zip (by rw [List.length_replicate, h.count])]

theorem mask_of_mem_zip {ps : List (List Nat)} {n : Nat} {y : List Nat × Bool × Bool} (hy : y ∈ ps.zip (List.replicate n (true, false))) :
    y.2 = (true, false) := List.eq_of_mem_replicate (List.of_mem_zip hy).2

/-! ## Destinations -/

/-- A position of a destination. -/
def Opnd.dstAt (o : Opnd) (js ix : List Nat) : DstEl := { a := some (o.d.bitAt js ix).toNat, keep := true, p := false }

theorem readDest_gives {o : Opnd} (h : o.Plain) (js : List Nat) (s : State) :
    M.Gives (readDest c o js) s ((tuples o.d.used).map (o.dstAt js), none) s := by
  unfold readDest
  refine (readMask_gives h js).bind ((opndIndices_gives h js).bind ?_)
  refine M.Gives.bind (M.gives_gather (fun done => (((done.map Prod.fst).map (o.dstAt js)).toArray, none)) fun done y hy => ?_) ?_
  · obtain ⟨ix, m⟩ := y
    have hm : m = (true, false) := mask_of_mem_zip hy
    refine (resolveAt_gives h [] js ix).attempt.bind ?_
    simp only [hm, List.map_append, List.map_cons, List.map_nil, List.push_toArray, Opnd.dstAt]
    exact M.gives_pure _ s
  · simp only [h.zip_mask]
    exact M.gives_pure _ s

/-! ## Sources -/

/-- The word of a memory at a bit address, with its poison. -/
def readAt (m : AMap Codeword) (a : Nat) : Word × Bool := (dataAt m (a / 64), (decode (AMap.get zeroCw m (a / 64))).p)

/-- The element of a source at a position. -/
def Opnd.srcAt (o : Opnd) (m : AMap Codeword) (js ix : List Nat) : SrcEl :=
  { ix := ix, v := elemAt (dataAt m) (fmtWidth o.d.fmt) (o.d.bitAt js ix).toNat, p := (readAt m (o.d.bitAt js ix).toNat).2, keep := true }

/-- The word read last, after a list of positions. -/
def Opnd.lastRead (o : Opnd) (m : AMap Codeword) (js : List Nat) (done : List (List Nat)) : Option (Nat × Word × Bool) :=
  done.getLast?.map fun ix => ((o.d.bitAt js ix).toNat / 64, readAt m (o.d.bitAt js ix).toNat)

/-- The word of a position: the one read last, where it is the same, or one read now. -/
theorem rereadWord_gives {o : Opnd} (hq : s.Quiet c.g) (h : o.Plain) (js : List Nat) (done : List (List Nat)) (a : Nat) :
    M.Gives (match o.lastRead (s.memOf c.g o.d.space) js done with
      | some (j, v, p) => if j = a / 64 then pure (v, p) else readWord c o.d.space (a / 64)
      | none => readWord c o.d.space (a / 64)) s (readAt (s.memOf c.g o.d.space) a) s := by
  have hread := readWord_quiet hq h.space (a / 64)
  unfold Opnd.lastRead
  cases done.getLast? with
  | none => exact hread
  | some ix =>
    simp only [Option.map_some]
    split
    · next e =>
      have hsame : readAt (s.memOf c.g o.d.space) (o.d.bitAt js ix).toNat = readAt (s.memOf c.g o.d.space) a := by rw [readAt, readAt, e]
      rw [← hsame]
      exact M.gives_pure _ s
    · exact hread

theorem readSource_gives {o : Opnd} (hq : s.Quiet c.g) (h : o.Plain) (js : List Nat) :
    M.Gives (readSource c o js) s ((tuples o.d.used).map (o.srcAt (s.memOf c.g o.d.space) js), none) s := by
  unfold readSource readSourceWith
  refine (opndIndices_gives h js).bind ((readMask_gives h js).bind ?_)
  refine M.Gives.bind (M.gives_gather (fun done => (((done.map Prod.fst).map (o.srcAt (s.memOf c.g o.d.space) js)).toArray,
    o.lastRead (s.memOf c.g o.d.space) js (done.map Prod.fst), none)) fun done y hy => ?_) ?_
  · obtain ⟨ix, m⟩ := y
    have hm : m = (true, false) := mask_of_mem_zip hy
    subst hm
    refine (resolveAt_gives h [] js ix).attempt.bind ?_
    refine (rereadWord_gives hq h js (done.map Prod.fst) (o.d.bitAt js ix).toNat).attempt.bind ?_
    simp only [List.map_append, List.map_cons, List.map_nil, List.push_toArray, Opnd.srcAt, Opnd.lastRead, List.getLast?_append, Bool.or_false]
    exact M.gives_pure _ s
  · simp only [h.zip_mask]
    exact M.gives_pure _ s

end Sys2Proof.Machine
end

section
/-! PROOFS. MOVE and FILL (R83, R84, R136): each element of a destination whose elements lie apart is what was written to it. -/

namespace Sys2Proof.Machine

variable {s t u : State} {c : Ctx}

/-! ## Widths and alignment (R152, Table 5.3) -/

theorem width_fmtWidth {f : Nat} (h : f < 0xC) : Width (fmtWidth f) := by
  have hall : ∀ f, f < 0xC → 0 < fmtWidth f ∧ fmtWidth f ∣ 64 := by decide
  exact ⟨(hall f h).1, (hall f h).2⟩

/-- A width of at most a byte divides it; a wider one is whole bytes. -/
theorem fmtWidth_bytes {f : Nat} (h : f < 0xC) : fmtWidth f ∣ 8 ∨ (8 < fmtWidth f ∧ fmtWidth f = 8 * (fmtWidth f / 8)) := by
  have hall : ∀ f, f < 0xC → fmtWidth f ∣ 8 ∨ (8 < fmtWidth f ∧ fmtWidth f = 8 * (fmtWidth f / 8)) := by decide
  exact hall f h

theorem dvd_toNat {w : Nat} {z : Int} (h : (w : Int) ∣ z) : w ∣ z.toNat := by
  obtain hz | hz := Int.le_total 0 z
  · exact Int.natCast_dvd_natCast.mp (by rwa [Int.toNat_of_nonneg hz])
  · rw [Int.toNat_of_nonpos hz]
    exact dvd_zero w

/-- What the checks of Table 5.3 say of a descriptor's elements in an iteration. -/
structure Desc.Aligned (d : Desc) (js : List Nat) : Prop where
  fmt : d.fmt < 0xC
  base : fmtWidth d.fmt ≤ 8 ∨ d.baseAt js % Int.ofNat (fmtWidth d.fmt / 8) = 0

theorem Opnd.aligned_of_ok {o : Opnd} {write : Bool} {r : Option Nat} {its : List (List Nat)} (h : o.ok write r its = true) {js : List Nat}
    (hjs : js ∈ its) : o.d.Aligned js := by
  simp only [Opnd.ok, Desc.ok, Bool.and_eq_true, decide_eq_true_eq, List.all_eq_true, Bool.or_eq_true, beq_iff_eq] at h
  obtain ⟨⟨⟨⟨⟨⟨⟨⟨-, -⟩, -⟩, hfmt⟩, -⟩, -⟩, hits⟩, -⟩, -⟩ := h
  exact ⟨hfmt, (hits js hjs).1⟩

namespace Desc.Aligned

theorem width {d : Desc} {js : List Nat} (h : d.Aligned js) : Width (fmtWidth d.fmt) := width_fmtWidth h.fmt

theorem dvd_bitAt {d : Desc} {js : List Nat} (h : d.Aligned js) (ix : List Nat) : fmtWidth d.fmt ∣ (d.bitAt js ix).toNat := by
  refine dvd_toNat (Int.dvd_add ?_ (Int.dvd_mul_right ..))
  obtain h8 | ⟨hbig, hw⟩ := fmtWidth_bytes h.fmt
  · exact Dvd.dvd.mul_right (Int.natCast_dvd_natCast.mpr h8) _
  · have hbase : (Int.ofNat (fmtWidth d.fmt / 8)) ∣ d.baseAt js := by
      obtain hle | hb := h.base
      · omega
      · exact Int.dvd_of_emod_eq_zero hb
    rw [hw]
    exact Int.mul_dvd_mul_left 8 hbase

end Desc.Aligned

/-! ## A destination written -/

/-- The writes of kept values at the positions of a destination. -/
def Opnd.putsAt (o : Opnd) (js : List Nat) (ps : List (List Nat)) (vs : List Val) : List Put :=
  (ps.zip vs).map fun x => { a := (o.d.bitAt js x.1).toNat, v := x.2.v, p := x.2.p }

theorem putsOf_dstAt (o : Opnd) (js : List Nat) : ∀ (ps : List (List Nat)) (vs : List Val), (∀ v ∈ vs, v.keep = true) →
    putsOf (ps.map (o.dstAt js)) vs = o.putsAt js ps vs
  | [], _, _ => rfl
  | _ :: _, [], _ => rfl
  | p :: ps, v :: vs, h => by
    have ih := putsOf_dstAt o js ps vs fun x hx => h x (List.mem_cons_of_mem _ hx)
    have hv := h v List.mem_cons_self
    simp only [putsOf, Opnd.putsAt, List.map_cons, List.zip_cons_cons, List.filterMap_cons, Opnd.dstAt, hv, Bool.and_self, if_true, Bool.or_false] at ih ⊢
    rw [← ih]

theorem Opnd.addr_putsAt (o : Opnd) (js : List Nat) {ps : List (List Nat)} {vs : List Val} (h : ps.length ≤ vs.length) :
    (o.putsAt js ps vs).map Put.a = o.d.addrs js ps := by
  have hzip := congrArg (List.map fun ix => (o.d.bitAt js ix).toNat) (List.map_fst_zip h)
  rw [List.map_map] at hzip
  rw [Opnd.putsAt, List.map_map, Desc.addrs, ← hzip]
  rfl

theorem Opnd.mem_putsAt (o : Opnd) (js : List Nat) {ps : List (List Nat)} {vs : List Val} (h : vs.length = ps.length) {i : Nat} (hi : i < vs.length) :
    { a := (o.d.bitAt js (ps.getD i [])).toNat, v := (vs[i]).v, p := (vs[i]).p } ∈ o.putsAt js ps vs := by
  have hip : i < ps.length := h ▸ hi
  have hmem : (ps[i], vs[i]) ∈ ps.zip vs := by
    rw [← List.getElem_zip (h := by rw [List.length_zip]; omega)]
    exact List.getElem_mem _
  rw [List.getD_eq_getElem _ _ hip]
  exact List.mem_map_of_mem (f := fun x : List Nat × Val => ({ a := (o.d.bitAt js x.1).toNat, v := x.2.v, p := x.2.p } : Put)) hmem

/-- Each position of a destination reads as the value of the same number. -/
def Opnd.Holds (o : Opnd) (g : Nat) (js : List Nat) (vs : List Nat) (t : State) : Prop :=
  ∀ i, i < vs.length → t.peek g o.d.space (fmtWidth o.d.fmt) (o.d.bitAt js ((tuples o.d.used).getD i [])).toNat = vs.getD i 0

/-- Values written to a destination: only memories change, and where the elements lie apart each is the value written to it. -/
theorem storeVals_gives {o : Opnd} (ho : o.Plain) {js : List Nat} (ha : o.d.Aligned js) (ht : u.MemsOnly c.g t) {vs : List Val}
    (hlen : vs.length = (tuples o.d.used).length) (hkeep : ∀ v ∈ vs, v.keep = true) :
    ∃ st t', M.Gives (storeVals c o ((tuples o.d.used).map (o.dstAt js)) vs) t st t' ∧ u.MemsOnly c.g t' ∧
      ((o.d.addrs js (tuples o.d.used)).Nodup → o.Holds c.g js (vs.map fun v => v.v % 2 ^ fmtWidth o.d.fmt) t') := by
  obtain ⟨st, hwrite⟩ := writeWords_gives c ho.space (putsToUpds (fmtWidth o.d.fmt) (o.putsAt js (tuples o.d.used) vs)) t
  obtain ⟨hmems, hmem⟩ := ht.foldl_putLocal ho.space (us := putsToUpds (fmtWidth o.d.fmt) (o.putsAt js (tuples o.d.used) vs))
  generalize List.foldl (fun t u => State.putLocal t c.g o.d.space u) t _ = t' at hwrite hmems hmem
  have hstore : ∃ st, M.Gives (storeVals c o ((tuples o.d.used).map (o.dstAt js)) vs) t st t' := by
    unfold storeVals writeElems
    rw [putsOf_dstAt o js _ vs hkeep]
    exact ⟨_, hwrite.bind (M.gives_pure _ _)⟩
  obtain ⟨st', hstore⟩ := hstore
  refine ⟨st', t', hstore, hmems, fun hn i hi => ?_⟩
  rw [List.length_map] at hi
  have haddr : ((o.putsAt js (tuples o.d.used) vs).map Put.a).Nodup := by rwa [o.addr_putsAt js hlen.ge]
  have hdvd : ∀ x ∈ o.putsAt js (tuples o.d.used) vs, fmtWidth o.d.fmt ∣ x.a := fun x hx => by
    obtain ⟨y, -, rfl⟩ := List.mem_map.mp hx
    exact ha.dvd_bitAt _
  have hread := elemAt_writeMem ha.width (ht.quiet.mem o.d.space) hdvd haddr (o.mem_putsAt js hlen hi)
  have hval : (vs.map fun v => v.v % 2 ^ fmtWidth o.d.fmt).getD i 0 = vs[i].v % 2 ^ fmtWidth o.d.fmt := by simp [hi]
  rw [State.peek_eq, hmem, hval]
  exact hread

/-! ## Iterations (R83, R84) -/

/-- One iteration: only memories change, and the first one, of no loop, makes a property hold. -/
def M.Iterates (u : State) (g : Nat) (val : State → Prop) (m : M (ForInStep Nat)) (js : List Nat) (t : State) : Prop :=
  ∃ st t', M.Gives m t (.yield st) t' ∧ u.MemsOnly g t' ∧ (t = u → js = [] → val t')

/-- The iterations of an instruction, none of which halts. -/
theorem iterations_give {g : Nat} {val : State → Prop} {its : List (List Nat)} {f : List Nat → Nat → M (ForInStep Nat)} (hu : u.MemsOnly g u)
    (hf : ∀ js ∈ its, ∀ st t, u.MemsOnly g t → M.Iterates u g val (f js st) js t) :
    ∃ st t, M.Gives (forIn its 0 f) u st t ∧ u.MemsOnly g t ∧ (its = [] → t = u) ∧ (its = [[]] → val t) := by
  refine M.gives_forIn (I := fun done _ t => u.MemsOnly g t ∧ (done = [] → t = u) ∧ (done = [[]] → val t)) ?_ ⟨hu, fun _ => rfl, by simp⟩
  intro done js st t hjs hI
  obtain ⟨ht, hnone, -⟩ := hI
  obtain ⟨st', t', hgives, ht', hval⟩ := hf js hjs st t ht
  refine ⟨st', t', hgives, ht', by simp, fun hone => ?_⟩
  obtain ⟨rfl, rfl⟩ : done = [] ∧ js = [] := by
    cases done with
    | nil => simpa using hone
    | cons a as => simp at hone
  exact hval (hnone rfl) rfl

/-! ## MOVE -/

/-- The elements of a source. -/
def Opnd.elems (o : Opnd) (s : State) (g : Nat) (js : List Nat) : List Nat :=
  (tuples o.d.used).map fun ix => s.peek g o.d.space (fmtWidth o.d.fmt) (o.d.bitAt js ix).toNat

/-- A copy: only memories change, and where the destination's elements lie apart each is the source's. -/
theorem copyIter_gives {d a : Opnd} (hd : d.Plain) (ha : a.Plain) {js : List Nat} (hal : d.d.Aligned js) (hfmt : a.d.fmt = d.d.fmt)
    (hcount : a.count = d.count) (ht : u.MemsOnly c.g t) :
    ∃ st t', M.Gives (copyIter c d a js) t st t' ∧ u.MemsOnly c.g t' ∧
      ((d.d.addrs js (tuples d.d.used)).Nodup → d.Holds c.g js (a.elems t c.g js) t') := by
  have hsrc := readSource_gives ht.quiet ha js
  generalize hes : (tuples a.d.used).map (a.srcAt (t.memOf c.g a.d.space) js) = es at hsrc
  have hlen : es.length = (tuples d.d.used).length := by rw [← hes, List.length_map, ← ha.count, ← hd.count, hcount]
  obtain ⟨st, t', hstore, hmems, hholds⟩ := storeVals_gives hd hal ht (vs := es.map fun e => ⟨e.v, e.p, e.keep⟩) (by rw [List.length_map, hlen])
    (by rw [← hes]; simp [Opnd.srcAt])
  refine ⟨st, t', ?_, hmems, fun hn => ?_⟩
  · unfold copyIter
    exact hsrc.bind ((readDest_gives hd js t).bind (hstore.bind ((M.gives_pure _ _).bind ((M.gives_pure _ _).bind (M.gives_pure _ _)))))
  · have hvals : (es.map fun e => (⟨e.v, e.p, e.keep⟩ : Val)).map (fun v => v.v % 2 ^ fmtWidth d.d.fmt) = a.elems t c.g js := by
      rw [← hes, List.map_map, List.map_map, Opnd.elems]
      refine List.map_congr_left fun ix _ => ?_
      exact Nat.mod_eq_of_lt (hfmt ▸ elemAt_lt (hfmt.symm ▸ hal.width.pos) _ _)
    rw [← hvals]
    exact hholds hn

end Sys2Proof.Machine
end

section
/-! PROOFS. What MOVE and FILL leave when their engine has performed them (R136): the copy and the fill over every iteration, and the entry
executed. -/

namespace Sys2Proof.Machine

variable {s t u : State} {c : Ctx}

/-! ## An instruction that writes only the memories of its core -/

/-- From u an instruction of c answers a status: only memories change, with no iteration nothing, and one without loops makes a property
hold. -/
def M.Writes (m : M Res) (u : State) (c : Ctx) (val : State → Prop) : Prop :=
  ∃ st t, M.Gives m u (Res.nothing.flag st) t ∧ u.MemsOnly c.g t ∧ (c.its = [] → t = u) ∧ (c.its = [[]] → val t)

/-- A destination of a local space that the checks accept and that no step forbids to write. -/
structure Ctx.CanWrite (c : Ctx) (u : State) (d : Opnd) : Prop where
  plain : d.Plain
  clear : d.poisoned c (u.core c.g) = false
  ok : d.ok true none c.its = true
  role : u.prog.inStep = true → d.d.role ≠ 1

theorem Ctx.CanWrite.written {d : Opnd} (h : c.CanWrite u d) (hin : u.prog.inStep = true) : ∀ x ∈ [d.d], x.role ≠ 1 := fun x hx => by
  rw [List.mem_singleton.mp hx]
  exact h.role hin

theorem Opnd.length_elems {o : Opnd} (h : o.Plain) (s : State) (g : Nat) (js : List Nat) : (o.elems s g js).length = o.count := by
  rw [Opnd.elems, List.length_map, h.count]

theorem Opnd.getD_elems {o : Opnd} (h : o.Plain) (s : State) (g : Nat) (js : List Nat) {i : Nat} (hi : i < o.count) :
    (o.elems s g js).getD i 0 = s.peek g o.d.space (fmtWidth o.d.fmt) (o.d.bitAt js ((tuples o.d.used).getD i [])).toNat := by
  rw [h.count] at hi
  simp [Opnd.elems, hi]

/-! ## MOVE -/

/-- Element number i of a destination of no loop is element number i of its source in u, where the destination's elements lie apart. -/
def Opnd.Moved (d a : Opnd) (u : State) (g : Nat) (t : State) : Prop :=
  (d.d.addrs [] (tuples d.d.used)).Nodup → d.Holds g [] (a.elems u g []) t

/-- One iteration of MOVE. -/
theorem move_iterates {d a : Opnd} (hd : d.Plain) (ha : a.Plain) {js : List Nat} (hal : d.d.Aligned js) (hfmt : a.d.fmt = d.d.fmt)
    (hcount : a.count = d.count) (ht : u.MemsOnly c.g t) (st : Nat) :
    M.Iterates u c.g (d.Moved a u c.g) (do
      let q ← copyIter c d a js
      pure (.yield (st ||| q))) js t := by
  obtain ⟨q, t', hcopy, ht', hholds⟩ := copyIter_gives hd ha hal hfmt hcount ht
  refine ⟨_, t', hcopy.bind (M.gives_pure _ _), ht', ?_⟩
  rintro rfl rfl
  exact hholds

/-- MOVE copies in linear order. -/
theorem opMove_writes {d a : Opnd} (hu : u.MemsOnly c.g u) (hd : u.opndAt c c.h.hd = d) (ha : u.opndAt c c.h.ha = a) (hD : c.CanWrite u d)
    (hA : a.Plain) (hclear : a.poisoned c (u.core c.g) = false) (hok : a.ok false none c.its = true) (hfmt : a.d.fmt = d.d.fmt)
    (hcount : a.count = d.count) : M.Writes (opMove c) u c (d.Moved a u c.g) := by
  obtain ⟨st, t, hloop, ht, hnone, hone⟩ := iterations_give hu fun js hjs st t ht =>
    move_iterates hD.plain hA (Opnd.aligned_of_ok hD.ok hjs) hfmt hcount ht st
  refine ⟨st, t, ?_, ht, hnone, hone⟩
  refine withOpnds_gives hu.quiet (by simp only [List.forall_mem_cons, hd, ha]; exact ⟨hD.clear, hclear, by simp⟩) ?_
  simp only [List.map_cons, List.map_nil, hd, ha]
  exact (execCheck_gives (by simp [hok, hD.ok, hfmt, hcount]) hD.written).bind (hloop.bind (M.gives_pure _ _))

/-! ## FILL -/

/-- Every element of a destination of an iteration is the low bits of v. -/
def Opnd.Filled (d : Opnd) (g : Nat) (js : List Nat) (v : Nat) (t : State) : Prop :=
  ∀ p ∈ tuples d.d.used, t.peek g d.d.space (fmtWidth d.d.fmt) (d.d.bitAt js p).toNat = v % 2 ^ fmtWidth d.d.fmt

/-- One value stored at every position of a destination. -/
theorem storeVal_gives {d : Opnd} (hd : d.Plain) {js : List Nat} (hal : d.d.Aligned js) (v : Nat) (ht : u.MemsOnly c.g t) :
    ∃ q t', M.Gives (storeVals c d ((tuples d.d.used).map (d.dstAt js)) (((tuples d.d.used).map (d.dstAt js)).map fun _ => ⟨v, false, true⟩)) t q t' ∧
      u.MemsOnly c.g t' ∧ ((d.d.addrs js (tuples d.d.used)).Nodup → d.Filled c.g js v t') := by
  obtain ⟨q, t', hstore, ht', hholds⟩ := storeVals_gives hd hal ht (vs := ((tuples d.d.used).map (d.dstAt js)).map fun _ => ⟨v, false, true⟩)
    (by simp) (by simp)
  refine ⟨q, t', hstore, ht', fun hn p hp => ?_⟩
  obtain ⟨i, hi, rfl⟩ := List.mem_iff_getElem.mp hp
  have hread := hholds hn i (by simpa using hi)
  rw [List.getD_eq_getElem _ _ hi] at hread
  simpa [hi] using hread

/-- One iteration of FILL. -/
theorem fill_iterates {d : Opnd} (hd : d.Plain) {js : List Nat} (hal : d.d.Aligned js) (ht : u.MemsOnly c.g t) (st : Nat) :
    M.Iterates u c.g (fun t => (d.d.addrs [] (tuples d.d.used)).Nodup → d.Filled c.g [] (c.ext.headD 0) t) (do
      let (ds, sd) ← readDest c d js
      let q ← storeVals c d ds (ds.map fun _ => ⟨c.ext.headD 0 % 2 ^ fmtWidth d.d.fmt, false, true⟩)
      finish sd
      pure (.yield (st ||| q))) js t := by
  obtain ⟨q, t', hstore, ht', hfilled⟩ := storeVal_gives hd hal (c.ext.headD 0 % 2 ^ fmtWidth d.d.fmt) ht
  refine ⟨_, t', (readDest_gives hd js t).bind (hstore.bind ((M.gives_pure _ _).bind (M.gives_pure _ _))), ht', ?_⟩
  rintro rfl rfl
  simpa only [Opnd.Filled, Nat.mod_mod] using hfilled

/-- FILL writes the low bits of its extension word everywhere. -/
theorem opFill_writes {d : Opnd} (hu : u.MemsOnly c.g u) (hd : u.opndAt c c.h.hd = d) (hD : c.CanWrite u d) :
    M.Writes (opFill c) u c fun t => (d.d.addrs [] (tuples d.d.used)).Nodup → d.Filled c.g [] (c.ext.headD 0) t := by
  obtain ⟨st, t, hloop, ht, hnone, hone⟩ := iterations_give hu fun js hjs st t ht => fill_iterates hD.plain (Opnd.aligned_of_ok hD.ok hjs) ht st
  refine ⟨st, t, ?_, ht, hnone, hone⟩
  refine withOpnds_gives hu.quiet (by simp only [List.forall_mem_cons, hd]; exact ⟨hD.clear, by simp⟩) ?_
  simp only [List.map_cons, List.map_nil, hd]
  exact (execCheck_gives hD.ok hD.written).bind (hloop.bind (M.gives_pure _ _))

/-! ## What the start and the end of an entry leave (R165, R489) -/

theorem State.ledgOut_setCore_frame (s : State) (g : Nat) (k : Core) (l n : Nat) :
    { (s.setCore g k).ledgOut l n with cores := s.cores, ledg := s.ledg } = s := by
  have hcore : { s.setCore g k with cores := s.cores, ledg := s.ledg } = s := rfl
  have hledg := State.ledgOut_frame (s.setCore g k) l n
  generalize s.setCore g k = t at *
  exact (congrArg (fun w : State => { w with cores := s.cores, ledg := s.ledg }) hledg :).trans hcore

theorem State.consumeToken_frame (s : State) (g l : Nat) : { (s.consumeToken g l).2 with cores := s.cores, ledg := s.ledg } = s :=
  s.ledgOut_setCore_frame g _ 1 1

theorem State.core_consumeToken (h : s.canon = true) {g j : Nat} (l : Nat) (hj : j ≠ g) : (s.consumeToken g l).2.core j = s.core j :=
  (State.core_setCore h g j _).trans (if_neg hj)

/-- An intact entry starts from a state that differs from the one before in its own core and in the ledger of tokens alone. -/
theorem State.startOf_keeps (h : s.canon = true) {g : Nat} {e : Eng} {x : QEntry} (hx : x.intact = true) :
    { s.startOf g e x with cores := s.cores, ledg := s.ledg } = s ∧ ∀ j, j ≠ g → (s.startOf g e x).core j = s.core j := by
  rw [State.startOf_intact hx]
  split
  · exact ⟨s.consumeToken_frame g _, fun j hj => State.core_consumeToken h _ hj⟩
  · exact ⟨rfl, fun _ _ => rfl⟩

theorem State.core_setEntry (h : t.canon = true) (g j : Nat) (e : Eng) (x : QEntry) :
    (t.setEntry g e x).core j = if j = g then { t.core g with q := (t.core g).q.set e (putEntry ((t.core g).q.get e) x) } else t.core j :=
  State.core_setCore h g j _

/-- The queues do not show in a memory. -/
theorem State.peek_setEntry (h : t.canon = true) (g : Nat) (e : Eng) (x : QEntry) (sp w a : Nat) :
    (t.setEntry g e x).peek g sp w a = t.peek g sp w a := by
  have hcore := State.core_setEntry h g g e x
  rw [if_pos rfl] at hcore
  have hmem : (t.setEntry g e x).memOf g sp = t.memOf g sp := by
    unfold State.memOf
    rw [hcore]
    rfl
  rw [State.peek_eq, State.peek_eq, hmem]

/-- A move engine's instruction that writes only memories: the step executes its entry. -/
theorem runEngine_writes (h : s.canon = true) {g op : Nat} {x : QEntry} (hx : s.readyEntry g .xe op = some x) (hi : x.intact = true)
    {f : Ctx → M Res} {val : State → Prop} (hf : M.Writes (f (x.ctx g .xe (bitOf x.head.md 0))) (s.startOf g .xe x) (x.ctx g .xe (bitOf x.head.md 0)) val) :
    ∃ t y, s.runEngine g .xe op f = t.setEntry g .xe y ∧ t.canon = true ∧ (∀ j, j ≠ g → (t.setEntry g .xe y).core j = s.core j) ∧
      t.dram = s.dram ∧ t.seqs = s.seqs ∧ (s.startOf g .xe x).finished (t.setEntry g .xe y) g .xe x (s.received g x) ∧
      ((x.ctx g .xe (bitOf x.head.md 0)).its = [[]] → val t) ∧ ((x.ctx g .xe (bitOf x.head.md 0)).its = [] → t = s.startOf g .xe x) := by
  obtain ⟨st, t, hgives, ht, hnone, hone⟩ := hf
  have hdone : s.doneEntry g .xe x (Res.nothing.flag st) =
      { x with phase := .executed, consumed := true, recv := s.received g x, status := s.received g x ||| (0 ||| st), sat := 0, flush := 0 } := by
    unfold State.doneEntry
    rw [State.begun_intact hi]
    rfl
  obtain ⟨hframe, hother⟩ := State.startOf_keeps h hi (g := g) (e := .xe)
  have hrun := State.runEngine_done hx hgives
  rw [hdone] at hrun
  generalize s.startOf g .xe x = u at *
  have hkeeps := ht.frame
  refine ⟨t, _, hrun, ht.canon, fun j hj => ?_, ?_, ?_, ⟨0 ||| st, 0, 0, ?_⟩, hone, hnone⟩
  · rw [State.core_setEntry ht.canon, if_neg hj, ht.other j hj, hother j hj]
  · exact (congrArg State.dram hkeeps :).trans (congrArg State.dram hframe :)
  · exact (congrArg State.seqs hkeeps :).trans (congrArg State.seqs hframe :)
  · have hq : (t.core g).q = (u.core g).q := (congrArg Core.q ht.core :)
    rw [State.core_setEntry ht.canon, if_pos rfl, ← hq]

/-- An operand whose descriptors are local, without a mask. -/
theorem State.opndAt_plain (u : State) (c : Ctx) (h : Nat) (hlocal : (u.opndAt c h).isLocal = true) (hmask : (u.opndAt c h).mask = none) :
    (u.opndAt c h).Plain := by
  have hspace : (u.opndAt c h).d.space < 4 := by
    have hdesc : ∀ ws, (descOf ws).space < 4 := fun ws => Nat.mod_lt _ (by decide)
    rw [State.opndAt_eq]
    change (u.descAt c h).space < 4
    unfold State.descAt
    split
    · exact hdesc _
    · exact hdesc _
  simp only [Opnd.isLocal, Bool.and_eq_true, bne_iff_ne, ne_eq, Option.isNone_iff_eq_none] at hlocal
  obtain ⟨⟨⟨hne, hidx⟩, -⟩, -⟩ := hlocal
  exact ⟨by unfold LocalSpace; omega, hidx, hmask⟩

end Sys2Proof.Machine

open Sys2Proof Sys2Proof.Machine

/-- Settles O37: both write only memories, iteration by iteration; elements that lie apart keep what they were given. -/
theorem moveAndFillWriteEachElement : Obligations.MoveAndFillWriteEachElement := by
  unfold Obligations.MoveAndFillWriteEachElement
  intro s g x hcanon u c k A D el does hquiet hintact hDclear hDlocal hDmask hrole hDok
  have hu : u.MemsOnly g u := .refl (State.canon_startOf hcanon g .xe x) (State.quiet_of_quietCore hquiet)
  have hprog : u.prog = s.prog := (congrArg State.prog (State.startOf_keeps hcanon hintact (g := g) (e := .xe)).1 :)
  have hD : c.CanWrite u D := ⟨State.opndAt_plain u c _ hDlocal hDmask, hDclear, hDok, by rwa [hprog]⟩
  have hdoes : ∀ (op : Nat) (i : Instr) (f : Ctx → M Res) (val : State → Prop), exec i s = .next (s.runEngine g .xe op f) →
      s.readyEntry g .xe op = some x → M.Writes (f c) u c (fun t => (D.d.addrs [] (tuples D.d.used)).Nodup → val t) →
      (∀ t y, t.canon = true → val t → val (t.setEntry g .xe y)) → does i val := by
    intro op i f val hexec hready hwrites hval
    obtain ⟨t, y, hrun, ht, hother, hdram, hseqs, hfin, hone, hnone⟩ := runEngine_writes hcanon hready hintact hwrites
    refine ⟨_, hexec.trans (congrArg Host.Outcome.next hrun), hother, hdram, hseqs, hfin, fun h1 hn => hval t y ht (hone h1 hn), fun h0 => ?_⟩
    have hcore := State.core_setEntry ht g g .xe y
    rw [if_pos rfl, hnone h0] at hcore
    rw [hnone h0]
    exact ⟨(congrArg Core.store hcore :), (congrArg Core.batt hcore :), rfl⟩
  refine ⟨fun hready hAclear hAlocal hAmask hAok hfmt hcount => ?_, fun hready => ?_⟩
  · have hA := State.opndAt_plain u c _ hAlocal hAmask
    refine hdoes 0x70 _ opMove _ rfl hready ?_ fun t y ht hval i hi => (State.peek_setEntry ht g .xe y _ _ _).trans (hval i hi)
    obtain ⟨st, t, hgives, ht, hnone, hone⟩ := opMove_writes hu rfl rfl hD hA hAclear hAok hfmt hcount
    refine ⟨st, t, hgives, ht, hnone, fun h1 hn i hi => ?_⟩
    rw [← hcount] at hi
    exact (hone h1 hn i (by rwa [Opnd.length_elems hA])).trans (Opnd.getD_elems hA u g [] hi)
  · refine hdoes 0x71 _ opFill _ rfl hready (opFill_writes hu rfl hD) fun t y ht hval p hp => ?_
    exact (State.peek_setEntry ht g .xe y _ _ _).trans (hval p hp)
end

section
/-! PROOFS. What an engine's instruction leaves when it answers, and what it leaves of the other cores, DRAM and the sequencers (R113, R118). -/

namespace Sys2Proof.Machine

variable {s t u : State} {g : Nat}

/-! ## An instruction of one core -/

/-- In t, reached from s by an instruction of core g, the other cores, DRAM and the sequencers are as in s. -/
structure State.OnlyCore (g : Nat) (s t : State) : Prop where
  canon : t.canon = true
  other : ∀ j, j ≠ g → t.core j = s.core j
  dram : t.dram = s.dram
  seqs : t.seqs = s.seqs

theorem State.OnlyCore.refl (h : s.canon = true) : s.OnlyCore g s := ⟨h, fun _ _ => rfl, rfl, rfl⟩

theorem State.OnlyCore.trans (h : s.OnlyCore g t) (h' : t.OnlyCore g u) : s.OnlyCore g u :=
  ⟨h'.canon, fun j hj => (h'.other j hj).trans (h.other j hj), h'.dram.trans h.dram, h'.seqs.trans h.seqs⟩

theorem State.OnlyCore.setCore (h : s.OnlyCore g t) (k : Core) : s.OnlyCore g (t.setCore g k) :=
  ⟨State.canon_setCore h.canon g k, fun j hj => ((State.core_setCore h.canon g j k).trans (if_neg hj)).trans (h.other j hj), h.dram, h.seqs⟩

theorem State.OnlyCore.setEntry (h : s.OnlyCore g t) (e : Eng) (x : QEntry) : s.OnlyCore g (t.setEntry g e x) := h.setCore _

/-- A state with the cores, DRAM and sequencers of another. -/
theorem State.OnlyCore.of_same (h : s.OnlyCore g t) (hc : u.canon = true) (hcores : u.cores = t.cores) (hdram : u.dram = t.dram)
    (hseqs : u.seqs = t.seqs) : s.OnlyCore g u :=
  ⟨hc, fun j hj => (congrArg (fun m => AMap.get Core.init m j) hcores).trans (h.other j hj), hdram.trans h.dram, hseqs.trans h.seqs⟩

theorem State.OnlyCore.of_mems (hc : s.OnlyCore g t) (h : t.MemsOnly g u) : s.OnlyCore g u :=
  ⟨h.canon, fun j hj => (h.other j hj).trans (hc.other j hj), (congrArg State.dram h.frame :).trans hc.dram,
    (congrArg State.seqs h.frame :).trans hc.seqs⟩

theorem State.onlyCore_startOf (h : s.canon = true) (g : Nat) (e : Eng) {x : QEntry} (hx : x.intact = true) : s.OnlyCore g (s.startOf g e x) := by
  obtain ⟨hframe, hother⟩ := State.startOf_keeps h hx (g := g) (e := e)
  exact ⟨State.canon_startOf h g e x, hother, (congrArg State.dram hframe :), (congrArg State.seqs hframe :)⟩

/-! ## Counting -/

theorem State.cores_bumpN (s : State) (off k : Nat) : (s.bumpN off k).cores = s.cores := (congrArg State.cores (s.bumpN_frame off k) :)

theorem State.OnlyCore.bumpN (h : s.OnlyCore g t) (off k : Nat) : s.OnlyCore g (t.bumpN off k) :=
  h.of_same (State.canon_bumpN h.canon off k) (t.cores_bumpN off k) (congrArg State.dram (t.bumpN_frame off k) :)
    (congrArg State.seqs (t.bumpN_frame off k) :)

theorem State.OnlyCore.raise (h : s.OnlyCore g t) (ty fid d0 d1 : Nat) : s.OnlyCore g (t.raise ty fid d0 d1) :=
  h.of_same (State.canon_raise h.canon ty fid d0 d1) rfl rfl rfl

/-- Counting changes no register but the one that tells of an overflow. -/
theorem State.reg_bumpN (h : s.canon = true) (off k : Nat) {i : Nat} (hi : i ≠ 0x700) : (s.bumpN off k).reg i = s.reg i := by
  unfold State.bumpN
  extract_lets v w u
  have hu : u.canon = true := State.canon_with_cnt h (AMap.wf_set (State.canon_cnt h))
  split
  · change (u.setReg 0x700 _).reg i = s.reg i
    rw [State.reg_setReg hu, if_neg hi]
    rfl
  · rfl

/-! ## The entry at its completion -/

/-- An entry performed with a result. -/
def QEntry.ended (x : QEntry) (recv : Nat) (r : Res) : QEntry :=
  { x with phase := if r.running then .running else .executed, consumed := true, recv := recv, status := recv ||| r.status, sat := r.sat,
           flush := r.flush }

/-- An intact entry that its engine can start, where its instruction answers. -/
theorem State.runEngine_ended {op : Nat} {e : Eng} {f : Ctx → M Res} {x : QEntry} {r : Res} (hx : s.readyEntry g e op = some x)
    (hi : x.intact = true) (hf : M.Gives (f (x.ctx g e (bitOf x.head.md 0))) (s.startOf g e x) r t) :
    s.runEngine g e op f = t.setEntry g e (x.ended (s.received g x) r) := by
  rw [State.runEngine_done hx hf, State.doneEntry, State.begun_intact hi]
  rfl

theorem State.q_setEntry (h : t.canon = true) (e : Eng) (y : QEntry) :
    ((t.setEntry g e y).core g).q = (t.core g).q.set e (putEntry ((t.core g).q.get e) y) := by
  rw [State.core_setEntry h, if_pos rfl]

/-- An entry that ends executed where the queues are those it started with. -/
theorem State.finished_ended (h : t.canon = true) (hq : (t.core g).q = (u.core g).q) (e : Eng) (x : QEntry) (recv : Nat) {r : Res}
    (hr : r.running = false) : u.finished (t.setEntry g e (x.ended recv r)) g e x recv := by
  refine ⟨r.status, r.sat, r.flush, ?_⟩
  rw [State.q_setEntry h, hq, QEntry.ended, hr]
  rfl

/-- Everything of a core but its queues is as before the entry's end. -/
theorem State.besideQ_setEntry (h : t.canon = true) (e : Eng) (y : QEntry) : { (t.setEntry g e y).core g with q := (t.core g).q } = t.core g := by
  rw [State.core_setEntry h, if_pos rfl]

end Sys2Proof.Machine
end

section
/-! PROOFS. Words of a core's SRAMs where no SFLIP mask is set on the core (R363, R365, R380). -/

namespace Sys2Proof.Machine

variable {s t u : State} {g : Nat}

/-! ## SRAMs by their target -/

theorem Core.sram_setSram (c : Core) (tgt : Nat) (m : AMap Codeword) : (c.setSram tgt m).sram tgt = m := by
  match tgt with
  | 0 | 1 | 2 | 3 | _ + 4 => rfl

theorem Core.setSram_setSram (c : Core) (tgt : Nat) (m m' : AMap Codeword) : (c.setSram tgt m).setSram tgt m' = c.setSram tgt m' := by
  match tgt with
  | 0 | 1 | 2 | 3 | _ + 4 => rfl

/-- No SFLIP mask is set on a core's SRAMs. -/
structure State.Unflipped (s : State) (g : Nat) : Prop where
  lo : s.reg (coreOff g + 0x220) = 0
  hi : s.reg (coreOff g + 0x220 + 8) = 0

theorem State.Unflipped.of_regs (h : s.Unflipped g) (hr : t.regs = s.regs) (hc : t.cfg = s.cfg) : t.Unflipped g :=
  ⟨(State.reg_congr hr hc _).trans h.lo, (State.reg_congr hr hc _).trans h.hi⟩

theorem coreOff_gt (g : Nat) : 0x700 < coreOff g := by
  unfold coreOff seqOff
  omega

theorem State.Unflipped.bumpN (h : s.Unflipped g) (hc : s.canon = true) (off k : Nat) : (s.bumpN off k).Unflipped g := by
  have hgt := coreOff_gt g
  exact ⟨(State.reg_bumpN hc off k (by omega)).trans h.lo, (State.reg_bumpN hc off k (by omega)).trans h.hi⟩

theorem State.coreStore_unflipped (h : s.Unflipped g) (tgt k : Nat) (cw : Codeword) :
    s.coreStore g tgt k cw = s.setCore g ((s.core g).setSram tgt (AMap.set zeroCw ((s.core g).sram tgt) k cw)) := by
  unfold State.coreStore
  rw [State.sflip_quiet _ _ _ _ _ h.lo h.hi]

/-! ## One word written -/

/-- In t, reached from s, an SRAM of core g has become m; nothing else of the core has changed, and no SFLIP mask is set. -/
structure State.Stored (g tgt : Nat) (m : AMap Codeword) (s t : State) : Prop where
  only : s.OnlyCore g t
  core : t.core g = (s.core g).setSram tgt m
  unflipped : t.Unflipped g

theorem State.Stored.refl (hc : s.canon = true) (h : s.Unflipped g) {tgt : Nat} (hm : s.core g = (s.core g).setSram tgt ((s.core g).sram tgt)) :
    s.Stored g tgt ((s.core g).sram tgt) s := ⟨.refl hc, hm, h⟩

theorem State.Stored.sram {tgt : Nat} {m : AMap Codeword} (h : s.Stored g tgt m t) : (t.core g).sram tgt = m := by
  rw [h.core, Core.sram_setSram]

theorem State.Stored.coreStore {tgt : Nat} {m : AMap Codeword} (h : s.Stored g tgt m t) (k : Nat) (cw : Codeword) :
    s.Stored g tgt (AMap.set zeroCw m k cw) (t.coreStore g tgt k cw) := by
  rw [State.coreStore_unflipped h.unflipped, h.sram]
  refine ⟨h.only.setCore _, ?_, h.unflipped.of_regs rfl rfl⟩
  rw [State.core_setCore h.only.canon, if_pos rfl, h.core, Core.setSram_setSram]

/-- Counting what was met changes none of this. -/
theorem State.Stored.bumpN {tgt : Nat} {m : AMap Codeword} (h : s.Stored g tgt m t) (off k : Nat) : s.Stored g tgt m (t.bumpN off k) :=
  ⟨h.only.bumpN off k, (congrArg (fun cs => AMap.get Core.init cs g) (t.cores_bumpN off k)).trans h.core, h.unflipped.bumpN h.only.canon off k⟩

theorem State.Stored.raise {tgt : Nat} {m : AMap Codeword} (h : s.Stored g tgt m t) (ty fid d0 d1 : Nat) :
    s.Stored g tgt m (t.raise ty fid d0 d1) := ⟨h.only.raise .., h.core, h.unflipped.of_regs rfl rfl⟩

/-- A write of bits of a word stores the merge with what the old word delivers, whatever that word was. -/
theorem State.Stored.coreWrite {tgt : Nat} {m : AMap Codeword} (h : s.Stored g tgt m t) (k : Nat) (d mask : Word) (p : Bool) :
    s.Stored g tgt (AMap.set zeroCw m k (rmw (AMap.get zeroCw m k) d mask p).1) (t.coreWrite g tgt k d mask p) := by
  unfold State.coreWrite
  rw [h.sram]
  generalize rmw (AMap.get zeroCw m k) d mask p = r
  obtain ⟨cw, o⟩ := r
  refine State.Stored.coreStore ?_ k cw
  match o with
  | none => exact h
  | some o =>
    simp only
    split
    · exact h
    · exact h.bumpN _ _
    · exact (h.bumpN _ _).raise _ _ _ _

/-- A whole word is stored as its codeword. -/
theorem State.Stored.coreWrite_full {tgt : Nat} {m : AMap Codeword} (h : s.Stored g tgt m t) (k : Nat) (d : Word) (p : Bool) :
    s.Stored g tgt (AMap.set zeroCw m k (encode d p)) (t.coreWrite g tgt k d fullMask p) := by
  have hw := h.coreWrite k d fullMask p
  rwa [rmw_full] at hw

/-! ## A run of words -/

/-- Words of a memory set one after the other from a place on. -/
def setFrom (m : AMap Codeword) (b : Nat) (f : Nat → Codeword) (is : List Nat) : AMap Codeword :=
  is.foldl (fun m i => AMap.set zeroCw m (b + i) (f i)) m

theorem wf_setFrom {b : Nat} {f : Nat → Codeword} : ∀ {is : List Nat} {m : AMap Codeword}, AMap.wf zeroCw m = true →
    AMap.wf zeroCw (setFrom m b f is) = true
  | [], _, h => h
  | _ :: is, _, h => wf_setFrom (is := is) (AMap.wf_set h)

theorem get_setFrom {b : Nat} {f : Nat → Codeword} : ∀ {is : List Nat} {m : AMap Codeword}, AMap.wf zeroCw m = true → ∀ j,
    AMap.get zeroCw (setFrom m b f is) j = if b ≤ j ∧ j - b ∈ is then f (j - b) else AMap.get zeroCw m j
  | [], m, _, j => by simp [setFrom]
  | i :: is, m, h, j => by
    have hset := AMap.get_set zeroCw (AMap.rising_of_wf h) (b + i) j (f i)
    change AMap.get zeroCw (setFrom (AMap.set zeroCw m (b + i) (f i)) b f is) j = _
    rw [get_setFrom (AMap.wf_set h) j, hset]
    by_cases hj : j = b + i
    · simp [hj]
    · have he : b ≤ j → j - b ≠ i := fun hb e => hj (by omega)
      by_cases hb : b ≤ j
      · simp [hj, hb, he hb]
      · simp [hj, hb]

theorem get_setFrom_range {m : AMap Codeword} (h : AMap.wf zeroCw m = true) (b : Nat) (f : Nat → Codeword) {i n : Nat} (hi : i < n) :
    AMap.get zeroCw (setFrom m b f (List.range n)) (b + i) = f i := by
  rw [get_setFrom h, if_pos ⟨Nat.le_add_right b i, by simpa using hi⟩, Nat.add_sub_cancel_left]

theorem get_setFrom_outside {m : AMap Codeword} (h : AMap.wf zeroCw m = true) (b : Nat) (f : Nat → Codeword) {j n : Nat} (hj : j < b ∨ b + n ≤ j) :
    AMap.get zeroCw (setFrom m b f (List.range n)) j = AMap.get zeroCw m j := by
  rw [get_setFrom h, if_neg]
  rintro ⟨hb, hmem⟩
  have := List.mem_range.mp hmem
  omega

/-- Steps that each store one word store the run. -/
theorem State.Stored.foldl {tgt b : Nat} {f : Nat → Codeword} {step : State → Nat → State}
    (hstep : ∀ {m : AMap Codeword} {t : State} (i : Nat), s.Stored g tgt m t → s.Stored g tgt (AMap.set zeroCw m (b + i) (f i)) (step t i)) :
    ∀ {is : List Nat} {m : AMap Codeword} {t : State}, s.Stored g tgt m t → s.Stored g tgt (setFrom m b f is) (is.foldl step t)
  | [], _, _, h => h
  | i :: is, _, _, h => State.Stored.foldl hstep (is := is) (hstep i h)

end Sys2Proof.Machine
end

section
/-! PROOFS. DSET, DLOAD, DSTORE and DADV (R131 to R134, R363): the words of a handle that each writes, whatever the rest of the core holds. -/

namespace Sys2Proof.Machine

variable {s t u : State} {c : Ctx}

/-! ## Parts of a word -/

theorem rmw_part {mask : Word} (h : mask ≠ fullMask) (old : Codeword) (new : Word) (p : Bool) :
    (rmw old new mask p).1 = encode (mergeBits (decode old).d new mask) ((decode old).p || p) := by
  rw [rmw, if_neg h]

/-- Codes above the last field stand for it. -/
theorem fieldPlace_min (f : Nat) : fieldPlace f = fieldPlace (min f 0x17) := by
  obtain hf | hf := Nat.le_total f 0x17
  · rw [Nat.min_eq_left hf]
  · rw [Nat.min_eq_right hf]
    unfold fieldPlace
    repeat rw [if_neg (by omega)]

/-- A field is less than a word. -/
theorem fieldMask_ne_full (f : Nat) : BitVec.ofNat 64 ((2 ^ (fieldPlace f).2.2 - 1) <<< (fieldPlace f).2.1) ≠ fullMask := by
  have hall : ∀ f, f ≤ 0x17 → BitVec.ofNat 64 ((2 ^ (fieldPlace f).2.2 - 1) <<< (fieldPlace f).2.1) ≠ fullMask := by decide
  rw [fieldPlace_min]
  exact hall _ (Nat.min_le_right _ _)

/-! ## A handle marked as written -/

/-- The state in which the core of an instruction has noted that it writes a handle. -/
def State.marked (u : State) (c : Ctx) (hd : Nat) : State := u.setCore c.g ((u.core c.g).descMark c.e c.q hd)

/-- The descriptor table of a core with a handle noted: what has changed from u is the note and the table. -/
def State.Described (u : State) (c : Ctx) (hd : Nat) (m : AMap Codeword) (t : State) : Prop :=
  u.OnlyCore c.g t ∧ t.core c.g = { (u.core c.g).descMark c.e c.q hd with desc := m }

theorem State.described_of_stored (hu : u.canon = true) {hd : Nat} {m : AMap Codeword} (h : (u.marked c hd).Stored c.g 2 m t) :
    u.Described c hd m t := by
  have hcore : (u.marked c hd).core c.g = (u.core c.g).descMark c.e c.q hd := (State.core_setCore hu _ _ _).trans (if_pos rfl)
  refine ⟨((State.OnlyCore.refl hu).setCore _).trans h.only, ?_⟩
  rw [h.core, hcore]
  rfl

theorem State.stored_marked (hu : u.canon = true) (hf : u.Unflipped c.g) (hd : Nat) :
    (u.marked c hd).Stored c.g 2 (u.core c.g).desc (u.marked c hd) := by
  have hcore : (u.marked c hd).core c.g = (u.core c.g).descMark c.e c.q hd := (State.core_setCore hu _ _ _).trans (if_pos rfl)
  refine ⟨.refl (State.canon_setCore hu _ _), ?_, hf.of_regs rfl rfl⟩
  rw [hcore]
  rfl

/-! ## DSET -/

/-- The descriptor table after a write of a field. -/
def fieldSet (m : AMap Codeword) (hd f v : Nat) : AMap Codeword :=
  let o := decode (AMap.get zeroCw m (16 * hd + (fieldPlace f).1))
  AMap.set zeroCw m (16 * hd + (fieldPlace f).1) (encode (mergeBits o.d (BitVec.ofNat 64 ((v % 2 ^ (fieldPlace f).2.2) <<< (fieldPlace f).2.1))
    (BitVec.ofNat 64 ((2 ^ (fieldPlace f).2.2 - 1) <<< (fieldPlace f).2.1))) o.p)

/-- DSET of a handle without a poison mark writes its field and notes the write. -/
theorem State.described_dset (hu : u.canon = true) (hf : u.Unflipped c.g) {hd : Nat} (hp : AMap.get 0 (u.core c.g).poisoned hd = 0) (f v : Nat) :
    u.Described c hd (fieldSet (u.core c.g).desc hd f v) (u.dset c hd f v) := by
  have hwrite := (State.stored_marked hu hf hd).coreWrite (16 * hd + (fieldPlace f).1)
    (BitVec.ofNat 64 ((v % 2 ^ (fieldPlace f).2.2) <<< (fieldPlace f).2.1))
    (BitVec.ofNat 64 ((2 ^ (fieldPlace f).2.2 - 1) <<< (fieldPlace f).2.1)) false
  rw [rmw_part (fieldMask_ne_full f), Bool.or_false] at hwrite
  have hdesc := State.described_of_stored hu hwrite
  have hpois : AMap.get 0 (((u.marked c hd).coreWrite c.g 2 (16 * hd + (fieldPlace f).1)
      (BitVec.ofNat 64 ((v % 2 ^ (fieldPlace f).2.2) <<< (fieldPlace f).2.1))
      (BitVec.ofNat 64 ((2 ^ (fieldPlace f).2.2 - 1) <<< (fieldPlace f).2.1)) false).core c.g).poisoned hd = 0 := by
    rw [hdesc.2]
    exact hp
  have hdset : u.dset c hd f v = (u.marked c hd).coreWrite c.g 2 (16 * hd + (fieldPlace f).1)
      (BitVec.ofNat 64 ((v % 2 ^ (fieldPlace f).2.2) <<< (fieldPlace f).2.1))
      (BitVec.ofNat 64 ((2 ^ (fieldPlace f).2.2 - 1) <<< (fieldPlace f).2.1)) false := by
    unfold State.dset
    exact if_pos hpois
  rw [hdset]
  exact hdesc

theorem opDset_gives (c : Ctx) (u : State) : M.Gives (opDset c) u .nothing
    (u.dset c c.h.hd (bits c.h.md 14 9) (if bits c.h.md 3 3 = 1 then c.ext.headD 0 else c.ax u (bits c.h.md 8 4))) := rfl

/-! ## DLOAD -/

/-- A word of the core store that decodes clean is read without any other effect. -/
theorem readStore_gives (k : Nat) (h : (decode (AMap.get zeroCw (s.core c.g).store k)).cls = .clean) :
    M.Gives (readWord c 0 k) s ((decode (AMap.get zeroCw (s.core c.g).store k)).d, (decode (AMap.get zeroCw (s.core c.g).store k)).p) s := by
  have hread := State.coreRead_clean (s := s) c.g 0 k h
  exact congrArg (fun r : (Word × Bool) × State => ((.ok r.1, r.2) : Except Nat (Word × Bool) × State)) hread

/-- An aligned block of 128 bytes of the core store is a DLOAD's or DSTORE's place. -/
theorem dAddrOk_store {a : Nat} (ha : a % 128 = 0) (hin : a + 128 ≤ 2 ^ 20) : dAddrOk 0 a = true := by
  simp only [dAddrOk, inExtent, Bool.and_eq_true, beq_iff_eq, decide_eq_true_eq, Int.ofNat_eq_natCast]
  omega

/-- The 16 words of the core store from a place on, as they are read. -/
def Core.block (k : Core) (b : Nat) : List (Word × Bool) :=
  (List.range 16).map fun i => ((decode (AMap.get zeroCw k.store (b + i))).d, (decode (AMap.get zeroCw k.store (b + i))).p)

theorem Core.getD_block (k : Core) (b : Nat) {i : Nat} (hi : i < 16) :
    (k.block b).getD i (0, false) = ((decode (AMap.get zeroCw k.store (b + i))).d, (decode (AMap.get zeroCw k.store (b + i))).p) := by
  simp [Core.block, hi]

/-- What DLOAD leaves of the state it has read the words vs in. -/
def State.dload (u : State) (c : Ctx) (vs : List (Word × Bool)) : State :=
  let t := (List.range 16).foldl (fun s i => s.coreWrite c.g 2 (16 * c.h.hd + i) (vs.getD i (0, false)).1 fullMask (vs.getD i (0, false)).2)
    (u.marked c c.h.hd)
  t.setCore c.g { t.core c.g with
    poisoned := AMap.set 0 (t.core c.g).poisoned c.h.hd (if vs.any fun v => v.2 then poisonMark else 0) }

theorem opDload_gives {a : Nat} (hsp : bits c.h.md 14 13 = 0) (ha : c.ax u (bits c.h.md 8 4) = a) (hok : dAddrOk 0 a = true)
    (hclean : ∀ i, i < 16 → (decode (AMap.get zeroCw (u.core c.g).store (a / 8 + i))).cls = .clean) :
    ∃ r, M.Gives (opDload c) u r (u.dload c ((u.core c.g).block (a / 8))) := by
  refine ⟨{ Res.nothing with status := statusIf (((u.core c.g).block (a / 8)).any fun v => v.2) stPOISON }, ?_⟩
  unfold opDload
  refine (M.gives_get u).bind ?_
  simp only [hsp, ha, hok]
  refine M.Gives.bind (M.gives_gather (fun done => (done.map fun i => ((decode (AMap.get zeroCw (u.core c.g).store (a / 8 + i))).d,
    (decode (AMap.get zeroCw (u.core c.g).store (a / 8 + i))).p)).toArray) fun done i hi => ?_) ?_
  · refine (readStore_gives _ (hclean i (List.mem_range.mp hi))).bind ?_
    simp only [List.map_append, List.map_cons, List.map_nil, List.push_toArray]
    exact M.gives_pure _ u
  · exact M.Gives.bind (a := ()) rfl (M.gives_pure _ _)

/-- DLOAD stores the words it has read, and marks the handle where one carries poison. -/
theorem State.dload_leaves (hu : u.canon = true) (hf : u.Unflipped c.g) (vs : List (Word × Bool)) :
    u.OnlyCore c.g (u.dload c vs) ∧
      ((u.dload c vs).core c.g).desc =
        setFrom (u.core c.g).desc (16 * c.h.hd) (fun i => encode (vs.getD i (0, false)).1 (vs.getD i (0, false)).2) (List.range 16) ∧
      ((u.dload c vs).core c.g).poisoned = AMap.set 0 (u.core c.g).poisoned c.h.hd (if vs.any fun v => v.2 then poisonMark else 0) := by
  have hfold := State.Stored.foldl (s := u.marked c c.h.hd) (b := 16 * c.h.hd) (f := fun i => encode (vs.getD i (0, false)).1 (vs.getD i (0, false)).2)
    (step := fun s i => s.coreWrite c.g 2 (16 * c.h.hd + i) (vs.getD i (0, false)).1 fullMask (vs.getD i (0, false)).2)
    (fun i h => h.coreWrite_full _ _ _) (is := List.range 16) (State.stored_marked hu hf c.h.hd)
  obtain ⟨honly, hcore⟩ := State.described_of_stored hu hfold
  unfold State.dload
  generalize (List.range 16).foldl _ (u.marked c c.h.hd) = t at honly hcore
  have hset : ∀ k, (t.setCore c.g k).core c.g = k := fun k => (State.core_setCore honly.canon _ _ k).trans (if_pos rfl)
  refine ⟨honly.setCore _, ?_, ?_⟩
  · rw [hset, hcore]
  · rw [hset, hcore]
    rfl

/-! ## DSTORE -/

/-- The words of a handle that decode clean are read without any other effect. -/
theorem readDescWords_clean {hd : Nat} (h : ∀ w ∈ (u.core c.g).descView c.e c.q hd, (decode w).cls = .clean) :
    M.Gives (readDescWords c hd) u (((u.core c.g).descView c.e c.q hd).map fun w => ((decode w).d, (decode w).p)) u := by
  have hfold := foldl_gather (s := u) (v := fun w => ((decode w).d, (decode w).p))
    (f := fun (acc : List (Word × Bool) × State) cw =>
      let o := decode cw.1
      let s' := acc.2.coreEcc c.g (16 * hd + cw.2) o
      (acc.1 ++ [(o.d, o.p)], match o.cls with
        | .corrected _ => if (u.core c.g).descView c.e c.q hd = (u.core c.g).descWords hd then s'.coreStore c.g 2 (16 * hd + cw.2) (encode o.d o.p) else s'
        | _ => s'))
    (fun acc w n hw => by simp only [hw, State.coreEcc_clean c.g _ hw]) ((u.core c.g).descView c.e c.q hd) 0 [] h
  exact congrArg (fun r : List (Word × Bool) × State => ((.ok r.1, r.2) : Except Nat (List (Word × Bool)) × State)) hfold

/-- The updates that store words from a place on. -/
def blockUpds (b : Nat) (vs : List (Word × Bool)) : List WUpd :=
  vs.zipIdx.map fun p => { w := b + p.2, mask := fullMask, d := p.1.1, p := p.1.2 }

theorem opDstore_gives {a : Nat} (hsp : bits c.h.md 14 13 = 0) (ha : c.ax u (bits c.h.md 8 4) = a) (hok : dAddrOk 0 a = true)
    (h : ∀ w ∈ (u.core c.g).descView c.e c.q c.h.hd, (decode w).cls = .clean) :
    ∃ r, M.Gives (opDstore c) u r ((blockUpds (a / 8) (((u.core c.g).descView c.e c.q c.h.hd).map fun w => ((decode w).d, (decode w).p))).foldl
      (fun t u => t.putLocal c.g 0 u) u) := by
  obtain ⟨st, hwrite⟩ := writeWords_gives c (.inl rfl : LocalSpace 0)
    (blockUpds (a / 8) (((u.core c.g).descView c.e c.q c.h.hd).map fun w => ((decode w).d, (decode w).p))) u
  refine ⟨{ Res.nothing with status := st ||| statusIf ((u.core c.g).isPoisoned c.e c.q c.h.hd) stPOISON }, ?_⟩
  unfold opDstore
  refine (M.gives_get u).bind ?_
  simp only [hsp, ha, hok]
  exact (M.gives_get u).bind ((readDescWords_clean h).bind (hwrite.bind (M.gives_pure _ _)))

/-- A whole word written to the core store, with ledger 4's count. -/
theorem State.Stored.putStore {m : AMap Codeword} (h : s.Stored c.g 0 m t) (k : Nat) (d : Word) (p : Bool) :
    s.Stored c.g 0 (AMap.set zeroCw m k (encode d p)) (t.putLocal c.g 0 { w := k, mask := fullMask, d := d, p := p }) := by
  have hw := h.coreWrite_full k d p
  have hcanon := State.canon_putLocal h.only.canon c.g 0 { w := k, mask := fullMask, d := d, p := p }
  unfold State.putLocal at hcanon ⊢
  rw [if_neg (by decide), if_neg (by decide), if_neg (by decide)] at hcanon ⊢
  simp only at hcanon ⊢
  generalize t.coreWrite c.g 0 k d fullMask p = v at hw hcanon ⊢
  have hframe := v.countWrite_frame p
  refine ⟨hw.only.of_same hcanon (congrArg State.cores hframe :) (congrArg State.dram hframe :) (congrArg State.seqs hframe :), ?_,
    hw.unflipped.of_regs (congrArg State.regs hframe :) (congrArg State.cfg hframe :)⟩
  exact (congrArg (fun v : State => v.core c.g) hframe :).trans hw.core

/-- DSTORE stores the words of the handle. -/
theorem State.stored_block (hu : u.canon = true) (hf : u.Unflipped c.g) (b : Nat) (vs : List (Word × Bool)) :
    u.Stored c.g 0 (setFrom (u.core c.g).store b (fun i => encode (vs.getD i (0, false)).1 (vs.getD i (0, false)).2) (List.range vs.length))
      ((blockUpds b vs).foldl (fun t u => t.putLocal c.g 0 u) u) := by
  have hupds : blockUpds b vs = (List.range vs.length).map fun i =>
      { w := b + i, mask := fullMask, d := (vs.getD i (0, false)).1, p := (vs.getD i (0, false)).2 } := by
    refine List.ext_getElem (by simp [blockUpds]) fun i hi hi' => ?_
    have hlt : i < vs.length := by simpa [blockUpds] using hi
    simp [blockUpds, hlt]
  rw [hupds, List.foldl_map]
  exact State.Stored.foldl (fun i h => h.putStore _ _ _) (State.Stored.refl hu hf (tgt := 0) rfl)

/-! ## DADV -/

/-- The base of a descriptor after an advance by n steps. -/
def Desc.advanced (d : Desc) (l : Nat) (n : Int) : Nat := wrapBits 48 (Int.ofNat d.base + d.incs.getD l 0 * n)

/-- How far DADV advances: its immediate or a register. -/
def Ctx.advance (c : Ctx) (u : State) : Int :=
  if bits c.h.md 12 12 = 1 then sext 12 (bits c.h.md 11 0) else sext 48 (c.ax u (bits c.h.md 8 4))

/-- The descriptor of a handle other than H0 whose words decode clean is read without any other effect. -/
theorem readDesc_clean {hd : Nat} (hne : hd ≠ 0) (h : ∀ w ∈ (u.core c.g).descView c.e c.q hd, (decode w).cls = .clean) :
    M.Gives (readDesc c hd) u (descOf (((u.core c.g).descView c.e c.q hd).map fun w => (decode w).d.toNat)) u := by
  have hmap : ∀ ws : List Codeword, ((ws.map fun w => ((decode w).d, (decode w).p)).map fun w => w.1.toNat) = ws.map fun w => (decode w).d.toNat :=
    fun ws => List.map_map
  unfold readDesc
  rw [if_neg hne, ← hmap]
  exact (readDescWords_clean h).bind (M.gives_pure _ u)

theorem opDadv_gives {d : Desc} (hp : (u.core c.g).isPoisoned c.e c.q c.h.hd = false) (hne : c.h.hd ≠ 0)
    (h : ∀ w ∈ (u.core c.g).descView c.e c.q c.h.hd, (decode w).cls = .clean)
    (hd : descOf (((u.core c.g).descView c.e c.q c.h.hd).map fun w => (decode w).d.toNat) = d) :
    M.Gives (opDadv c) u .nothing ((u.marked c c.h.hd).coreWrite c.g 2 (16 * c.h.hd)
      (BitVec.ofNat 64 (d.advanced (bits c.h.md 14 13) (c.advance u))) (BitVec.ofNat 64 (maskOf 47 0)) false) := by
  have hread := readDesc_clean hne h
  rw [hd] at hread
  unfold opDadv
  refine (M.gives_get u).bind ?_
  rw [hp]
  refine hread.bind ?_
  unfold Ctx.advance
  split
  · exact (M.gives_pure _ u).bind (M.Gives.bind (a := ()) rfl (M.gives_pure _ _))
  · exact (M.gives_get u).bind ((M.gives_pure _ u).bind (M.Gives.bind (a := ()) rfl (M.gives_pure _ _)))

/-- DADV writes the base and notes the write. -/
theorem State.described_dadv (hu : u.canon = true) (hf : u.Unflipped c.g) (hd b : Nat) :
    let o := decode (AMap.get zeroCw (u.core c.g).desc (16 * hd))
    u.Described c hd (AMap.set zeroCw (u.core c.g).desc (16 * hd)
        (encode (mergeBits o.d (BitVec.ofNat 64 b) (BitVec.ofNat 64 (2 ^ 48 - 1))) o.p))
      ((u.marked c hd).coreWrite c.g 2 (16 * hd) (BitVec.ofNat 64 b) (BitVec.ofNat 64 (maskOf 47 0)) false) := by
  have hmask : BitVec.ofNat 64 (maskOf 47 0) = BitVec.ofNat 64 (2 ^ 48 - 1) := by decide
  have hwrite := (State.stored_marked hu hf hd).coreWrite (16 * hd) (BitVec.ofNat 64 b) (BitVec.ofNat 64 (maskOf 47 0)) false
  rw [rmw_part (by decide), Bool.or_false] at hwrite
  rw [hmask] at hwrite ⊢
  exact State.described_of_stored hu hwrite

end Sys2Proof.Machine
end

section
/-! PROOFS. The descriptor instructions at their entry (R131 to R134, R363). -/

namespace Sys2Proof.Machine

variable {s t u : State} {c : Ctx}

/-- A descriptor instruction of an intact entry, performed: what it leaves of the core but the queues, and of all else. -/
theorem exec_descriptor (h : s.canon = true) {g op : Nat} {e : Eng} {x : QEntry} (hx : s.readyEntry g e op = some x) (hi : x.intact = true)
    {i : Instr} {f : Ctx → M Res} (hexec : exec i s = .next (s.runEngine g e op f)) {r : Res}
    (hf : M.Gives (f (x.ctx g e (bitOf x.head.md 0))) (s.startOf g e x) r t) (ht : (s.startOf g e x).OnlyCore g t) :
    ∃ v, exec i s = .next v ∧ s.OnlyCore g v ∧ { v.core g with q := (t.core g).q } = t.core g :=
  ⟨_, hexec.trans (congrArg Host.Outcome.next (State.runEngine_ended hx hi hf)), ((State.onlyCore_startOf h g e hi).trans ht).setEntry e _,
    State.besideQ_setEntry ht.canon e _⟩

end Sys2Proof.Machine

open Sys2Proof Sys2Proof.Machine

/-- Settles O28: each instruction writes words of one SRAM, whole or in part, in the state its entry starts from. -/
theorem descriptorInstructionsActOnTheirHandle : Obligations.DescriptorInstructionsActOnTheirHandle := by
  unfold Obligations.DescriptorInstructionsActOnTheirHandle
  intro s g e x hcanon u c k hd a view d others hi hlo hhi hdesc hstore
  have hu : u.canon = true := State.canon_startOf hcanon g e x
  have hf : u.Unflipped c.g := ⟨hlo, hhi⟩
  have hothers : ∀ {t : State}, s.OnlyCore g t → others t := fun h => ⟨h.other, h.dram, h.seqs⟩
  refine ⟨fun hx hp => ?dset, fun hx hsp ha hin hclean => ?dload, fun hx hsp ha hin hclean hlen => ?dstore, fun hx hp hne hclean => ?dadv⟩
  case dset =>
    obtain ⟨honly, hcore⟩ := State.described_dset hu hf hp (bits c.h.md 14 9) (if bits c.h.md 3 3 = 1 then c.ext.headD 0 else a)
    obtain ⟨v, hv, hv', hq⟩ := exec_descriptor hcanon hx hi (i := .dset g e) rfl (opDset_gives c u) honly
    have hall := hq.trans hcore
    exact ⟨v, hv, hothers hv', (congrArg Core.desc hall :), (congrArg Core.store hall :), (congrArg Core.ax hall :)⟩
  case dload =>
    obtain ⟨r, hgives⟩ := opDload_gives (u := u) hsp rfl (dAddrOk_store ha hin) hclean
    obtain ⟨honly, htable, hpois⟩ := State.dload_leaves hu hf (k.block (a / 8))
    obtain ⟨v, hv, hv', hq⟩ := exec_descriptor hcanon hx hi (i := .dload g e) rfl hgives honly
    have hvdesc : (v.core g).desc = setFrom k.desc (16 * hd)
      (fun i => encode ((k.block (a / 8)).getD i (0, false)).1 ((k.block (a / 8)).getD i (0, false)).2) (List.range 16) :=
      (congrArg Core.desc hq :).trans htable
    have hvpois : (v.core g).poisoned = AMap.set 0 k.poisoned hd (if (k.block (a / 8)).any fun v => v.2 then poisonMark else 0) :=
      (congrArg Core.poisoned hq :).trans hpois
    refine ⟨v, hv, hothers hv', fun i hi => ?_, fun j hj => ?_, fun hwf => ?_⟩
    · rw [hvdesc, get_setFrom_range hdesc _ _ hi, Core.getD_block _ _ hi]
      exact decode_clean (hclean i hi)
    · rw [hvdesc]
      exact get_setFrom_outside hdesc _ _ hj
    · have hany : (k.block (a / 8)).any (fun v => v.2) = true ↔ ∃ i, i < 16 ∧ (decode (AMap.get zeroCw k.store (a / 8 + i))).p = true := by
        simp [Core.block]
      rw [hvpois, AMap.get_set_same _ (AMap.rising_of_wf hwf), ← hany]
      split
      · next hb => simp [hb, poisonMark]
      · next hb => simp [hb]
  case dstore =>
    obtain ⟨r, hgives⟩ := opDstore_gives (u := u) hsp rfl (dAddrOk_store ha hin) hclean
    have hstored := State.stored_block hu hf (a / 8) (view.map fun w => ((decode w).d, (decode w).p))
    obtain ⟨v, hv, hv', hq⟩ := exec_descriptor hcanon hx hi (i := .dstore g e) rfl hgives hstored.only
    have hvstore : (v.core g).store = setFrom k.store (a / 8) (fun i => encode
        ((view.map fun w => ((decode w).d, (decode w).p)).getD i (0, false)).1
        ((view.map fun w => ((decode w).d, (decode w).p)).getD i (0, false)).2) (List.range (view.map fun w => ((decode w).d, (decode w).p)).length) :=
      (congrArg Core.store hq :).trans (congrArg Core.store hstored.core :)
    rw [List.length_map, hlen] at hvstore
    refine ⟨v, hv, hothers hv', fun i hi => ?_, fun j hj => ?_⟩
    · have hiv : i < view.length := by omega
      rw [hvstore, get_setFrom_range hstore _ _ hi]
      simp only [List.getD_eq_getElem?_getD, List.getElem?_map, List.getElem?_eq_getElem hiv, Option.map_some, Option.getD_some]
      exact decode_clean (hclean _ (List.getElem_mem hiv))
    · rw [hvstore]
      exact get_setFrom_outside hstore _ _ hj
  case dadv =>
    have hgives := opDadv_gives (u := u) hp hne hclean (d := d) rfl
    obtain ⟨honly, hcore⟩ := State.described_dadv hu hf hd (d.advanced (bits c.h.md 14 13) (c.advance u))
    obtain ⟨v, hv, hv', hq⟩ := exec_descriptor hcanon hx hi (i := .dadv g e) rfl hgives honly
    have hall := hq.trans hcore
    exact ⟨v, hv, hothers hv', (congrArg Core.desc hall :), (congrArg Core.store hall :)⟩
end

section
/-! PROOFS. Operands of a core's own memories that may be masked (R119, R152, R153, R159): reading a source and the places of a destination
comes to its end and changes nothing, and writing values changes only memories. -/

namespace Sys2Proof.Machine

variable {s t u : State} {c : Ctx}

/-! ## Elements -/

/-- An element of a memory with the poison of its word. -/
def elemOf (m : AMap Codeword) (w a : Nat) : Elem := (elemAt (dataAt m) w a, (readAt m a).2)

/-- The word read last, after a list of bit addresses. -/
def lastWord (m : AMap Codeword) (done : List Nat) : Option (Nat × Word × Bool) := done.getLast?.map fun a => (a / 64, readAt m a)

theorem lastWord_cases (m : AMap Codeword) (done : List Nat) :
    lastWord m done = none ∨ ∃ j, lastWord m done = some (j, dataAt m j, (decode (AMap.get zeroCw m j)).p) := by
  unfold lastWord
  cases done.getLast? with
  | none => exact .inl rfl
  | some a => exact .inr ⟨a / 64, rfl⟩

/-- A word that follows itself is not read again. -/
theorem readNext_gives (hq : s.Quiet c.g) {sp : Nat} (hsp : LocalSpace sp) (done : List Nat) (a : Nat) :
    M.Gives (match lastWord (s.memOf c.g sp) done with
      | some (j, v, p) => if j = a / 64 then pure (v, p) else readWord c sp (a / 64)
      | none => readWord c sp (a / 64)) s (readAt (s.memOf c.g sp) a) s := by
  have hread := readWord_quiet hq hsp (a / 64)
  obtain he | ⟨j, he⟩ := lastWord_cases (s.memOf c.g sp) done
  · rw [he]
    exact hread
  · rw [he]
    simp only
    split
    · next e => exact e ▸ M.gives_pure _ s
    · exact hread

/-- Elements of a local space are read without any other effect. -/
theorem readElems_gives (hq : s.Quiet c.g) {sp : Nat} (hsp : LocalSpace sp) (w : Nat) (as : List Nat) :
    M.Gives (readElems c sp w as) s (as.map (elemOf (s.memOf c.g sp) w)) s := by
  unfold readElems
  refine M.Gives.bind (M.gives_gather (fun done => (lastWord (s.memOf c.g sp) done, (done.map (elemOf (s.memOf c.g sp) w)).toArray))
    fun done a _ => ?_) (M.gives_pure _ s)
  have hread := readWord_quiet hq hsp (a / 64)
  have hend : M.Gives (pure (f := M) (ForInStep.yield (some (a / 64, readAt (s.memOf c.g sp) a),
      (done.map (elemOf (s.memOf c.g sp) w)).toArray.push (elemOf (s.memOf c.g sp) w a)))) s
      (.yield (lastWord (s.memOf c.g sp) (done ++ [a]), ((done ++ [a]).map (elemOf (s.memOf c.g sp) w)).toArray)) s := by
    simp only [List.map_append, List.map_cons, List.map_nil, List.push_toArray, lastWord, List.getLast?_append]
    exact M.gives_pure _ s
  obtain he | ⟨j, he⟩ := lastWord_cases (s.memOf c.g sp) done
  · simp only [he]
    exact hread.bind hend
  · simp only [he]
    split
    · next e =>
      subst e
      exact (M.gives_pure _ s).bind hend
    · exact hread.bind hend

/-! ## Local operands -/

/-- The mask of an operand, if it has one, is in a core's own memories. -/
def Opnd.MaskLocal (o : Opnd) : Prop := ∀ m, o.mask = some m → LocalSpace m.space

/-- An operand in a core's own memories, its mask too, without an index descriptor. -/
structure Opnd.Local (o : Opnd) : Prop where
  space : LocalSpace o.d.space
  idx : o.idx = none
  mask : o.MaskLocal

theorem localSpace_of_lt {sp : Nat} (h : sp < 4) (hne : sp ≠ 2) : LocalSpace sp := by
  unfold LocalSpace
  omega

theorem State.space_descAt (u : State) (c : Ctx) (h : Nat) : (u.descAt c h).space < 4 := by
  have hdesc : ∀ ws, (descOf ws).space < 4 := fun ws => Nat.mod_lt _ (by decide)
  unfold State.descAt
  split
  · exact hdesc _
  · exact hdesc _

theorem State.opndAt_local (u : State) (c : Ctx) (h : Nat) (hlocal : (u.opndAt c h).isLocal = true) : (u.opndAt c h).Local := by
  simp only [Opnd.isLocal, Bool.and_eq_true, bne_iff_ne, ne_eq, Option.isNone_iff_eq_none] at hlocal
  obtain ⟨⟨⟨hne, hidx⟩, -⟩, hmask⟩ := hlocal
  refine ⟨localSpace_of_lt (u.space_descAt c h) hne, hidx, fun m hm => ?_⟩
  rw [hm] at hmask
  have hdesc : ∃ k, m = u.descAt c k := by
    rw [State.opndAt_eq] at hm
    unfold opndOf at hm
    simp only at hm
    split at hm
    · cases hm
    · exact ⟨_, (Option.some.inj hm).symm⟩
  obtain ⟨k, rfl⟩ := hdesc
  exact localSpace_of_lt (u.space_descAt c k) (by simpa using hmask)

theorem opndIndices_none {o : Opnd} (h : o.idx = none) (js : List Nat) : M.Gives (opndIndices c o js) s [] s := by
  unfold opndIndices
  rw [h]
  exact M.gives_pure _ s

theorem resolveAt_direct {o : Opnd} (h : o.idx = none) (idx : List (Int × Bool)) (js ix : List Nat) :
    M.Gives (resolveAt o idx js ix) s (some (o.d.bitAt js ix).toNat) s := by
  unfold resolveAt
  rw [h]
  exact M.gives_pure _ s

theorem readMask_local (hq : s.Quiet c.g) {o : Opnd} (h : o.MaskLocal) (js : List Nat) :
    ∃ ms, M.Gives (readMask c o js) s ms s ∧ (o.mask = none → ms = List.replicate o.count (true, false)) := by
  unfold readMask
  cases hm : o.mask with
  | none => exact ⟨_, M.gives_pure _ s, fun _ => rfl⟩
  | some m => exact ⟨_, (readElems_gives hq (h m hm) 1 _).bind (M.gives_pure _ s), fun he => by cases he⟩

/-- Beside mask bits that keep them all, positions stand as they are. -/
theorem Opnd.map_zip_kept {β : Type} (o : Opnd) (f : List Nat × Bool × Bool → β) :
    ((tuples o.shape).zip (List.replicate o.count (true, false))).map f = (tuples o.shape).map fun ix => f (ix, true, false) := by
  have hlen : o.count = (tuples o.shape).length := (length_tuples o.shape).symm
  exact List.ext_getElem (by simp [hlen]) fun i _ _ => by simp

/-! ## Sources and destinations -/

/-- The element of a source at a position with its mask bit, where the position lies at a bit address. -/
def srcOf (m : AMap Codeword) (w : Nat) (place : List Nat → Nat) (y : List Nat × Bool × Bool) : SrcEl :=
  if y.2.1 then { ix := y.1, v := elemAt (dataAt m) w (place y.1), p := (readAt m (place y.1)).2 || y.2.2, keep := true }
  else { ix := y.1, v := 0, p := y.2.2, keep := false }

/-- A source whose positions lie at known places of a local space is read to its end. -/
theorem readSourceWith_local (hq : s.Quiet c.g) {o : Opnd} (hsp : LocalSpace o.d.space) (hmask : o.MaskLocal) {js : List Nat}
    {idx : List (Int × Bool)} {place : List Nat → Nat} (hat : ∀ ix ∈ tuples o.shape, M.Gives (resolveAt o idx js ix) s (some (place ix)) s) :
    ∃ es, M.Gives (readSourceWith c o js idx) s (es, none) s ∧
      (o.mask = none → es = (tuples o.shape).map fun ix => srcOf (s.memOf c.g o.d.space) (fmtWidth o.d.fmt) place (ix, true, false)) := by
  obtain ⟨ms, hms, hall⟩ := readMask_local (c := c) hq hmask js
  refine ⟨((tuples o.shape).zip ms).map (srcOf (s.memOf c.g o.d.space) (fmtWidth o.d.fmt) place), ?_, fun hm => by rw [hall hm, o.map_zip_kept]⟩
  unfold readSourceWith
  refine hms.bind (M.Gives.bind (M.gives_gather (fun done => ((done.map (srcOf (s.memOf c.g o.d.space) (fmtWidth o.d.fmt) place)).toArray,
    lastWord (s.memOf c.g o.d.space) ((done.filter fun y => y.2.1).map fun y => place y.1), none)) fun done y hy => ?_) (M.gives_pure _ s))
  obtain ⟨ix, keep, p⟩ := y
  cases keep with
  | false =>
    simp only [Option.isNone_none, if_true, Bool.not_false, List.map_append, List.map_cons, List.map_nil, List.push_toArray, srcOf,
      Bool.false_eq_true, if_false, List.filter_append, List.filter_cons, List.filter_nil, List.append_nil]
    exact M.gives_pure _ s
  | true =>
    refine (hat ix (List.of_mem_zip hy).1).attempt.bind ((readNext_gives hq hsp _ _).attempt.bind ?_)
    simp only [List.map_append, List.map_cons, List.map_nil, List.push_toArray, srcOf, List.filter_append, lastWord, List.getLast?_append]
    exact M.gives_pure _ s

/-- A place of a destination with its mask bit. -/
def dstOf (place : List Nat → Nat) (y : List Nat × Bool × Bool) : DstEl := { a := some (place y.1), keep := y.2.1, p := y.2.2 }

/-- The places of a destination are read to their end. -/
theorem readDest_local (hq : s.Quiet c.g) {o : Opnd} (hmask : o.MaskLocal) {js : List Nat} {idx : List (Int × Bool)} {place : List Nat → Nat}
    (hidx : M.Gives (opndIndices c o js) s idx s) (hat : ∀ ix ∈ tuples o.shape, M.Gives (resolveAt o idx js ix) s (some (place ix)) s) :
    ∃ ds, M.Gives (readDest c o js) s (ds, none) s ∧ (o.mask = none → ds = (tuples o.shape).map fun ix => dstOf place (ix, true, false)) := by
  obtain ⟨ms, hms, hall⟩ := readMask_local (c := c) hq hmask js
  refine ⟨((tuples o.shape).zip ms).map (dstOf place), ?_, fun hm => by rw [hall hm, o.map_zip_kept]⟩
  unfold readDest
  refine hms.bind (hidx.bind (M.Gives.bind (M.gives_gather (fun done => ((done.map (dstOf place)).toArray, none)) fun done y hy => ?_)
    (M.gives_pure _ s)))
  obtain ⟨ix, m⟩ := y
  refine (hat ix (List.of_mem_zip hy).1).attempt.bind ?_
  simp only [List.map_append, List.map_cons, List.map_nil, List.push_toArray, dstOf]
  exact M.gives_pure _ s

end Sys2Proof.Machine
end

section
/-! PROOFS. Values written at the places of a destination, the iterations of an instruction, and the entry it leaves (R83, R84, R118, R153). -/

namespace Sys2Proof.Machine

variable {s t u : State} {c : Ctx} {g : Nat}

/-! ## Values at places (R153) -/

/-- The writes of values at the places of positions. -/
def putsFor (place : List Nat → Nat) (val : List Nat → Val) (ps : List (List Nat)) : List Put :=
  ps.map fun ix => { a := place ix, v := (val ix).v, p := (val ix).p }

theorem putsOf_kept {place : List Nat → Nat} {val : List Nat → Val} : ∀ {ps : List (List Nat)}, (∀ ix ∈ ps, (val ix).keep = true) →
    putsOf (ps.map fun ix => dstOf place (ix, true, false)) (ps.map val) = putsFor place val ps
  | [], _ => rfl
  | p :: ps, h => by
    have ih := putsOf_kept (place := place) fun ix hix => h ix (List.mem_cons_of_mem _ hix)
    have hp := h p List.mem_cons_self
    simp only [putsOf, putsFor, dstOf, List.map_cons, List.zip_cons_cons, List.filterMap_cons, hp, Bool.and_self, if_true, Bool.or_false] at ih ⊢
    rw [ih]

/-- In t the positions of a destination read as values: those the destination's width holds. -/
def Opnd.Reads (o : Opnd) (g : Nat) (place : List Nat → Nat) (val : List Nat → Val) (ps : List (List Nat)) (t : State) : Prop :=
  ∀ ix ∈ ps, t.peek g o.d.space (fmtWidth o.d.fmt) (place ix) = (val ix).v % 2 ^ fmtWidth o.d.fmt

/-- Values written to a destination in a core's own memories: only memories change. At aligned places that lie apart, one for each
position, each position reads as its value. -/
theorem storeVals_local {o : Opnd} (hsp : LocalSpace o.d.space) (ht : u.MemsOnly c.g t) (ds : List DstEl) (vs : List Val) :
    ∃ st t', M.Gives (storeVals c o ds vs) t st t' ∧ u.MemsOnly c.g t' ∧ ∀ (ps : List (List Nat)) (place : List Nat → Nat) (val : List Nat → Val),
      ds = ps.map (fun ix => dstOf place (ix, true, false)) → vs = ps.map val → (∀ ix ∈ ps, (val ix).keep = true) → Width (fmtWidth o.d.fmt) →
      (∀ ix ∈ ps, fmtWidth o.d.fmt ∣ place ix) → (ps.map place).Nodup → o.Reads c.g place val ps t' := by
  obtain ⟨st, hwrite⟩ := writeWords_gives c hsp (putsToUpds (fmtWidth o.d.fmt) (putsOf ds vs)) t
  obtain ⟨hmems, hmem⟩ := ht.foldl_putLocal hsp (us := putsToUpds (fmtWidth o.d.fmt) (putsOf ds vs))
  generalize List.foldl (fun t u => State.putLocal t c.g o.d.space u) t _ = t' at hwrite hmems hmem
  refine ⟨_, t', hwrite.bind (M.gives_pure _ _), hmems, ?_⟩
  rintro ps place val rfl rfl hkeep hw hdvd hn ix hix
  rw [putsOf_kept hkeep] at hmem
  have haddr : ((putsFor place val ps).map Put.a).Nodup := by rwa [putsFor, List.map_map]
  have hall : ∀ x ∈ putsFor place val ps, fmtWidth o.d.fmt ∣ x.a := fun x hx => by
    obtain ⟨jx, hjx, rfl⟩ := List.mem_map.mp hx
    exact hdvd jx hjx
  rw [State.peek_eq, hmem]
  exact elemAt_writeMem hw (ht.quiet.mem o.d.space) hall haddr (List.mem_map_of_mem hix)

/-! ## Iterations (R83, R84) -/

/-- One iteration of an instruction that gathers what it reports: only memories change, the gathered report stays good, and the first
iteration, of no loop, makes a property hold. -/
def M.Passes {β : Type} (u : State) (g : Nat) (good : β → Prop) (val : State → Prop) (m : M (ForInStep β)) (js : List Nat) (t : State) : Prop :=
  ∃ b t', M.Gives m t (.yield b) t' ∧ good b ∧ u.MemsOnly g t' ∧ (t = u → js = [] → val t')

/-- What follows an answer comes to an end with a property, and so does the whole. -/
theorem M.Gives.bind_ends {α β : Type} {m : M α} {a : α} {f : α → M β} {P : β → State → Prop} (hm : M.Gives m s a t)
    (hf : ∃ b u, M.Gives (f a) t b u ∧ P b u) : ∃ b u, M.Gives (m >>= f) s b u ∧ P b u := by
  obtain ⟨b, u, hf, hP⟩ := hf
  exact ⟨b, u, hm.bind hf, hP⟩

/-- The iterations of an instruction, none of which halts, and what follows them. -/
theorem iterations_end {β γ : Type} {good : β → Prop} {val : State → Prop} {its : List (List Nat)} {f : List Nat → β → M (ForInStep β)}
    {k : β → M γ} {P : γ → State → Prop} {b : β} (hu : u.MemsOnly g u) (hb : good b)
    (hf : ∀ js ∈ its, ∀ b t, good b → u.MemsOnly g t → M.Passes u g good val (f js b) js t)
    (hk : ∀ b t, good b → u.MemsOnly g t → (its = [[]] → val t) → ∃ r v, M.Gives (k b) t r v ∧ P r v) :
    ∃ r v, M.Gives (forIn its b f >>= k) u r v ∧ P r v := by
  obtain ⟨b', t, hloop, hgood, ht, -, hone⟩ := M.gives_forIn (xs := its) (f := f) (b := b)
    (I := fun done b t => good b ∧ u.MemsOnly g t ∧ (done = [] → t = u) ∧ (done = [[]] → val t)) (fun done js b t hjs hI => by
      obtain ⟨hgood, ht, hnone, -⟩ := hI
      obtain ⟨b', t', hgives, hgood', ht', hval⟩ := hf js hjs b t hgood ht
      refine ⟨b', t', hgives, hgood', ht', by simp, fun hone => ?_⟩
      obtain ⟨rfl, rfl⟩ : done = [] ∧ js = [] := by
        cases done with
        | nil => simpa using hone
        | cons a as => simp at hone
      exact hval (hnone rfl) rfl) ⟨hb, hu, fun _ => rfl, by simp⟩
  exact hloop.bind_ends (hk b' t hgood ht hone)

/-! ## Counting before the iterations -/

/-- In t, reached from s by counting, the cores, clusters, DRAM and program are those of s; no SFLIP mask is set that was not. -/
structure State.CountedFrom (g : Nat) (s t : State) : Prop where
  mems : t.MemsOnly g t
  only : s.OnlyCore g t
  cores : t.cores = s.cores
  clusters : t.clusters = s.clusters
  prog : t.prog = s.prog

theorem State.CountedFrom.core (h : s.CountedFrom g t) (j : Nat) : t.core j = s.core j := congrArg (fun m => AMap.get Core.init m j) h.cores

theorem State.memOf_congr (hcores : t.cores = s.cores) (hclusters : t.clusters = s.clusters) (g sp : Nat) : t.memOf g sp = s.memOf g sp := by
  unfold State.memOf State.core State.cluster
  rw [hcores, hclusters]

theorem State.CountedFrom.refl (h : s.MemsOnly g s) : s.CountedFrom g s := ⟨h, .refl h.canon, rfl, rfl, rfl⟩

theorem cluOff_gt (k : Nat) : 0x700 < cluOff k := by
  unfold cluOff seqOff
  omega

theorem State.CountedFrom.bumpN (h : s.MemsOnly g s) (off n : Nat) : s.CountedFrom g (s.bumpN off n) := by
  have hclusters : (s.bumpN off n).clusters = s.clusters := (congrArg State.clusters (s.bumpN_frame off n) :)
  have hcore : (s.bumpN off n).core g = s.core g := congrArg (fun m => AMap.get Core.init m g) (s.cores_bumpN off n)
  have hreg : ∀ i, 0x700 < i → (s.bumpN off n).reg i = s.reg i := fun i hi => State.reg_bumpN h.canon off n (by omega)
  have hgt := coreOff_gt g
  have hgt' := cluOff_gt (clusterOf g)
  have hquiet : (s.bumpN off n).Quiet g := by
    refine ⟨fun sp => ?_, ?_, ?_, ⟨?_, ?_⟩, ⟨?_, ?_⟩⟩
    · rw [State.memOf_congr (s.cores_bumpN off n) hclusters]
      exact h.quiet.mem sp
    · exact hcore ▸ h.quiet.desc
    · exact hcore ▸ h.quiet.undo
    · exact (hreg _ (by omega)).trans h.quiet.core.1
    · exact (hreg _ (by omega)).trans h.quiet.core.2
    · exact (hreg _ (by omega)).trans h.quiet.cluster.1
    · exact (hreg _ (by omega)).trans h.quiet.cluster.2
  exact ⟨.refl (State.canon_bumpN h.canon off n) hquiet, (State.OnlyCore.refl h.canon).bumpN off n, s.cores_bumpN off n, hclusters,
    (congrArg State.prog (s.bumpN_frame off n) :)⟩

/-! ## The entry of an instruction that writes only memories -/

/-- From u an instruction answers executed after counting and writes of memories, and makes a property hold. -/
def M.Performs (m : M Res) (u : State) (g : Nat) (val : State → Prop) : Prop :=
  ∃ r t, M.Gives m u r t ∧ r.running = false ∧ (∃ u', u.CountedFrom g u' ∧ u'.MemsOnly g t) ∧ val t

/-- Its entry is left executed, everything of the core but its queues and memories as before. -/
theorem M.Performs.runEngine (h : s.canon = true) {e : Eng} {op : Nat} {x : QEntry} (hx : s.readyEntry g e op = some x) (hi : x.intact = true)
    {f : Ctx → M Res} {val : State → Prop} (hf : M.Performs (f (x.ctx g e (bitOf x.head.md 0))) (s.startOf g e x) g val) :
    ∃ t y, s.runEngine g e op f = t.setEntry g e y ∧ t.canon = true ∧ s.OnlyCore g (t.setEntry g e y) ∧
      (s.startOf g e x).finished (t.setEntry g e y) g e x (s.received g x) ∧
      { ((t.setEntry g e y).core g).besideMems with q := ((s.startOf g e x).core g).q } = ((s.startOf g e x).core g).besideMems ∧ val t := by
  obtain ⟨r, t, hgives, hrun, ⟨u', hcount, ht⟩, hval⟩ := hf
  have hcore : (t.core g).besideMems = ((s.startOf g e x).core g).besideMems := ht.core.trans (congrArg Core.besideMems (hcount.core g))
  refine ⟨t, _, State.runEngine_ended hx hi hgives, ht.canon,
    ((State.onlyCore_startOf h g e hi).trans (hcount.only.of_mems ht)).setEntry e _,
    State.finished_ended ht.canon (congrArg Core.q hcore :) e x _ hrun, ?_, hval⟩
  rw [← hcore, State.core_setEntry ht.canon, if_pos rfl]
  have hq : ((s.startOf g e x).core g).q = (t.core g).q := (congrArg Core.q hcore :).symm
  rw [hq]
  rfl

end Sys2Proof.Machine
end

section
/-! PROOFS. What the vector engine's instructions share (R118, R363, R374, R375): their operands, the arithmetic check, and a core fault in
place of a result. -/

namespace Sys2Proof.Machine

variable {s t u : State} {c : Ctx} {g : Nat}

/-! ## Computations that stop -/

/-- From s a computation stops with a cause and leaves t. -/
def M.Throws {α : Type} (m : M α) (s : State) (k : Nat) (t : State) : Prop := m.run s = (.error k, t)

theorem M.Gives.run_bind {α β : Type} {m : M α} {a : α} (hm : M.Gives m s a t) (f : α → M β) : (m >>= f).run s = (f a).run t := by
  have e : (m >>= f).run s = ExceptT.bindCont f (m.run s).1 (m.run s).2 := rfl
  rw [e, hm]
  rfl

theorem M.Gives.throws {α β : Type} {m : M α} {a : α} {f : α → M β} {k : Nat} (hm : M.Gives m s a t) (hf : M.Throws (f a) t k u) :
    M.Throws (m >>= f) s k u := (hm.run_bind f).trans hf

theorem M.Throws.bind {α β : Type} {m : M α} {k : Nat} (hm : M.Throws m s k t) (f : α → M β) : M.Throws (m >>= f) s k t := by
  have e : (m >>= f).run s = ExceptT.bindCont f (m.run s).1 (m.run s).2 := rfl
  rw [M.Throws, e, hm]
  rfl

theorem M.throws_throw {α : Type} (k : Nat) (s : State) : M.Throws (throw k : M α) s k s := rfl

/-- A loop each of whose steps answers, keeping what is good, or stops with a cause; so does what follows a good end. -/
theorem M.forIn_throws {α β γ : Type} {f : α → β → M (ForInStep β)} {h : β → M γ} {good : β → State → Prop} {k : Nat}
    (hend : ∀ b s, good b s → ∃ t, M.Throws (h b) s k t) : ∀ {xs : List α} (_ : ∀ x ∈ xs, ∀ b s, good b s →
      (∃ b' s', M.Gives (f x b) s (.yield b') s' ∧ good b' s') ∨ ∃ s', M.Throws (f x b) s k s') {b : β} {s : State},
    good b s → ∃ t, M.Throws (forIn xs b f >>= h) s k t
  | [], _, b, s, hgood => by
    obtain ⟨t, ht⟩ := hend b s hgood
    exact ⟨t, by rw [List.forIn_nil]; exact (M.gives_pure b s).throws ht⟩
  | x :: xs, hstep, b, s, hgood => by
    rw [List.forIn_cons, bind_assoc]
    obtain ⟨b', s', hx, hgood'⟩ | ⟨s', hx⟩ := hstep x List.mem_cons_self b s hgood
    · obtain ⟨t, hrest⟩ := M.forIn_throws hend (fun y hy => hstep y (List.mem_cons_of_mem _ hy)) hgood'
      exact ⟨t, hx.throws hrest⟩
    · exact ⟨s', hx.bind _⟩

/-- What is bound in both branches of a choice of an operand, and what follows. -/
theorem M.Gives.matchBind_ends {α β : Type} {b : Option Opnd} {A : Opnd → M α} {B : M α} {f : α → M β} {v : α} {P : β → State → Prop}
    (h : M.Gives (match b with | some y => A y | none => B) s v t) (hf : ∃ r u, M.Gives (f v) t r u ∧ P r u) :
    ∃ r u, M.Gives (match b with | some y => A y >>= f | none => B >>= f) s r u ∧ P r u := by
  cases b with
  | none => exact M.Gives.bind_ends h hf
  | some y => exact M.Gives.bind_ends h hf

/-! ## Operands -/

/-- With no operand poisoned the instruction goes on with its operands, whatever it would do with poisoned ones. -/
theorem withOpndsOr_run (h : s.Quiet c.g) {hs : List Nat} (hp : ∀ hd ∈ hs, (s.opndAt c hd).poisoned c (s.core c.g) = false)
    (bad : List Opnd → M Unit) (k : List Opnd → M Res) : (withOpndsOr bad c hs k).run s = (k (hs.map (s.opndAt c))).run s := by
  have hany : ¬ ((hs.map (s.opndAt c)).any fun o => o.poisoned c (s.core c.g)) = true := by
    simpa using hp
  unfold withOpndsOr
  rw [(mapM_readOpnd_gives h hs).run_bind, (M.gives_get s).run_bind, if_neg hany]

/-- The same where its part comes to an end with a property. -/
theorem withOpndsOr_ends (h : s.Quiet c.g) {hs : List Nat} (hp : ∀ hd ∈ hs, (s.opndAt c hd).poisoned c (s.core c.g) = false)
    {bad : List Opnd → M Unit} {k : List Opnd → M Res} {P : Res → State → Prop} (hk : ∃ r t, M.Gives (k (hs.map (s.opndAt c))) s r t ∧ P r t) :
    ∃ r t, M.Gives (withOpndsOr bad c hs k) s r t ∧ P r t := by
  obtain ⟨r, t, hk, hP⟩ := hk
  exact ⟨r, t, (withOpndsOr_run h hp bad k).trans hk, hP⟩

/-! ## The arithmetic check (R374, R375) -/

/-- The check found nothing, or what a recomputation put right. -/
def checkPassed (chk : ArithCheck) : Prop := chk = .clean ∨ ∃ n, chk = .recomputed n

theorem arithEvents_passed {chk : ArithCheck} (hchk : checkPassed chk) (h : s.MemsOnly g s) (off : Nat) :
    ∃ t, M.Gives (arithEvents c off chk) s none t ∧ s.CountedFrom g t := by
  obtain rfl | ⟨n, rfl⟩ := hchk
  · exact ⟨s, M.gives_pure _ s, .refl h⟩
  · exact ⟨_, rfl, .bumpN h _ n⟩

theorem arithEvents_failed {chk : ArithCheck} (hchk : ¬ checkPassed chk) (h : s.MemsOnly g s) (off : Nat) :
    ∃ t l, M.Gives (arithEvents c off chk) s (some l) t ∧ s.CountedFrom g t := by
  match chk with
  | .clean => exact absurd (.inl rfl) hchk
  | .recomputed n => exact absurd (.inr ⟨n, rfl⟩) hchk
  | .failed l n => exact ⟨_, l, rfl, .bumpN h _ n⟩

theorem passUnits_none (n : Nat) (s : State) : M.Gives (passUnits none n) s none s := rfl

/-- Where a group fails in the end, one fails among these or there are groups left to pass. -/
theorem passUnits_some (l n : Nat) (s : State) :
    (∃ l', M.Gives (passUnits (some l) n) s (some l') s) ∨ M.Throws (passUnits (some l) n) s coreFault s := by
  unfold passUnits
  simp only
  split
  · exact .inr (M.throws_throw _ s)
  · exact .inl ⟨_, M.gives_pure _ s⟩

/-! ## A core fault -/

theorem State.flt_flushAll (s : State) : s.flushAll.flt = s.flt := rfl

theorem State.flt_beginHalt (s : State) (cause stream pc code : Nat) : (s.beginHalt cause stream pc code).flt = s.flt := by
  unfold State.beginHalt
  simp only
  split
  · rw [State.flt_flushAll]
  · rfl

/-- A fault waits for recovery. -/
theorem State.mem_pend_fault (s : State) (row fid arg : Nat) : Flt.mk row fid arg ∈ (s.fault row fid arg).flt.pend := by
  unfold State.fault
  extract_lets u f v
  have hv : Flt.mk row fid arg ∈ v.flt.pend := List.mem_append_right _ (List.mem_singleton.mpr rfl)
  split
  · split
    · exact hv
    · rw [State.flt_beginHalt]
      exact hv
  · split
    · rw [State.flt_beginHalt]
      exact hv
    · exact hv

/-- An instruction that meets a core fault leaves the fault to recovery. -/
theorem State.runEngine_faults {op : Nat} {e : Eng} {f : Ctx → M Res} {x : QEntry} (h : s.readyEntry g e op = some x)
    (hf : M.Throws (f (x.ctx g e (bitOf x.head.md 0))) (s.startOf g e x) coreFault t) :
    Flt.mk 1 (0x1000 + g) 0 ∈ (s.runEngine g e op f).flt.pend := by
  unfold State.runEngine
  rw [h]
  unfold M.Throws State.startOf State.begun at hf
  cases hw : x.head.wv
  · simp only [hw, Bool.false_eq_true, if_false] at hf ⊢
    rw [hf]
    exact State.mem_pend_fault ..
  · simp only [hw, if_true] at hf ⊢
    rw [hf]
    exact State.mem_pend_fault ..

end Sys2Proof.Machine
end

section
/-! PROOFS. CARD (R216 to R220, R226, R375): each place takes the chain's value of the elements beside it, group by group of lanes. -/

namespace Sys2Proof.Machine

variable {s t u : State} {c : Ctx}

/-! ## Shapes -/

theorem Opnd.Local.shape {o : Opnd} (h : o.Local) : o.shape = o.d.used := by rw [Opnd.shape, h.idx]

/-- The bit address of a position. -/
def Desc.place (d : Desc) (js ix : List Nat) : Nat := (d.bitAt js ix).toNat

theorem Desc.addrs_eq (d : Desc) (js : List Nat) (ps : List (List Nat)) : d.addrs js ps = ps.map (d.place js) := rfl

/-- A local source and its elements, where it is not masked. -/
theorem readSource_direct (hq : s.Quiet c.g) {o : Opnd} (h : o.Local) (js : List Nat) :
    ∃ es, M.Gives (readSource c o js) s (es, none) s ∧ (o.mask = none → es = (tuples o.d.used).map fun ix =>
      srcOf (s.memOf c.g o.d.space) (fmtWidth o.d.fmt) (o.d.place js) (ix, true, false)) := by
  obtain ⟨es, hes, hall⟩ := readSourceWith_local (c := c) hq h.space h.mask (js := js) (idx := []) (place := o.d.place js)
    fun ix _ => resolveAt_direct h.idx [] js ix
  exact ⟨es, (opndIndices_none h.idx js).bind hes, h.shape ▸ hall⟩

/-- The places of a local destination, where it is not masked. -/
theorem readDest_direct (hq : s.Quiet c.g) {o : Opnd} (h : o.Local) (js : List Nat) :
    ∃ ds, M.Gives (readDest c o js) s (ds, none) s ∧
      (o.mask = none → ds = (tuples o.d.used).map fun ix => dstOf (o.d.place js) (ix, true, false)) := by
  obtain ⟨ds, hds, hall⟩ := readDest_local (c := c) hq h.mask (opndIndices_none h.idx js) (place := o.d.place js)
    fun ix _ => resolveAt_direct h.idx [] js ix
  exact ⟨ds, hds, h.shape ▸ hall⟩

/-- Values written to the places of a local destination that has no mask: each position reads as its value. -/
theorem storeVals_direct {o : Opnd} (h : o.Local) {js : List Nat} (hal : o.d.Aligned js) (ht : u.MemsOnly c.g t) {ds : List DstEl}
    (hds : o.mask = none → ds = (tuples o.d.used).map fun ix => dstOf (o.d.place js) (ix, true, false)) (vs : List Val) :
    ∃ st t', M.Gives (storeVals c o ds vs) t st t' ∧ u.MemsOnly c.g t' ∧ ∀ val : List Nat → Val, o.mask = none →
      vs = (tuples o.d.used).map val → (∀ ix ∈ tuples o.d.used, (val ix).keep = true) → (o.d.addrs js (tuples o.d.used)).Nodup →
      o.Reads c.g (o.d.place js) val (tuples o.d.used) t' := by
  obtain ⟨st, t', hgives, ht', hreads⟩ := storeVals_local h.space ht ds vs
  exact ⟨st, t', hgives, ht', fun val hm hvs hkeep hn => hreads _ _ val (hds hm) hvs hkeep hal.width (fun ix _ => hal.dvd_bitAt ix) hn⟩

/-! ## The chain on elements side by side -/

/-- The value the chain delivers of an element of HA and one of HB. -/
def chainVal (gs : List Stage) (out fa fb : Nat) (x y : SrcEl) : Val :=
  ⟨deliverAs out (chainStep gs (entryOf fb y.v) { fl := fmtFloat fa, x := entryOf fa x.v, pred := true, ev := .none }).x, x.p || y.p, true⟩

/-- What a CARD's places take of the lanes. -/
def laneVal (out : Nat) (l : Option Lane' × Bool) : Val × Ev :=
  match l.1 with | some x => (Val.mk (deliverAs out x.x) l.2 true, x.ev) | none => (⟨0, l.2, false⟩, Ev.none)

/-- Elements side by side that are all kept give each position the chain's value. -/
theorem laneVal_chainRun {gs : List Stage} {out fa fb : Nat} {x y : List Nat → SrcEl} {ps : List (List Nat)} (hx : ∀ ix ∈ ps, (x ix).keep = true)
    (hy : ∀ ix ∈ ps, (y ix).keep = true) :
    ((chainRun gs fa fb (ps.map x) (ps.map y)).map fun l => (laneVal out l).1) = ps.map fun ix => chainVal gs out fa fb (x ix) (y ix) := by
  rw [chainRun, List.zip_map', List.map_map, List.map_map]
  refine List.map_congr_left fun ix hix => ?_
  simp only [Function.comp, hx ix hix, hy ix hix, laneVal, chainVal, Bool.and_self, if_true]

/-- The operand HB of a CARD, or zeros beside HA where it has none. -/
def cardB (c : Ctx) (b : Option Opnd) (as : List SrcEl) (js : List Nat) : M (List SrcEl × Option Nat) :=
  match b with
  | some y => readSource c y js
  | none => pure (as.map fun e => { e with v := 0, p := false, keep := true }, none)

/-- The format of HB's elements, INT32 where there is none. -/
def fmtB (b : Option Opnd) : Nat := match b with | some y => y.d.fmt | none => 8

/-- HB's pattern at a position of an iteration as it enters the chain. -/
def entryB (b : Option Opnd) (t : State) (g : Nat) (js ix : List Nat) : Nat :=
  match b with
  | some y => entryOf y.d.fmt (t.peek g y.d.space (fmtWidth y.d.fmt) (y.d.place js ix))
  | none => entryOf 8 0

theorem entryB_none (t : State) (g : Nat) (js ix : List Nat) : entryB none t g js ix = entryOf (fmtB none) 0 := rfl

theorem entryB_some (y : Opnd) (t : State) (g : Nat) (js ix : List Nat) :
    entryB (some y) t g js ix = entryOf (fmtB (some y)) (elemAt (dataAt (t.memOf g y.d.space)) (fmtWidth y.d.fmt) (y.d.place js ix)) := rfl

theorem cardB_gives (hq : s.Quiet c.g) {b : Option Opnd} (hb : ∀ y, b = some y → y.Local) {ps : List (List Nat)}
    (hps : ∀ y, b = some y → tuples y.d.used = ps) (as : List SrcEl) (js : List Nat) :
    ∃ bs, M.Gives (cardB c b as js) s (bs, none) s ∧ ((∀ y, b = some y → y.mask = none) → ∀ x : List Nat → SrcEl, as = ps.map x →
      ∃ y : List Nat → SrcEl, bs = ps.map y ∧ ∀ ix, (y ix).keep = true ∧ entryOf (fmtB b) (y ix).v = entryB b s c.g js ix) := by
  cases b with
  | none =>
    refine ⟨_, M.gives_pure _ s, fun _ x has => ⟨fun ix => { x ix with v := 0, p := false, keep := true }, ?_, fun ix => ⟨rfl, ?_⟩⟩⟩
    case refine_2 => rw [entryB_none]
    rw [has, List.map_map]
    rfl
  | some y =>
    obtain ⟨bs, hbs, hall⟩ := readSource_direct hq (hb y rfl) js
    refine ⟨bs, hbs, fun hm _ _ => ⟨_, (hps y rfl) ▸ hall (hm y rfl), fun ix => ⟨rfl, ?_⟩⟩⟩
    rw [entryB_some]
    rfl

/-! ## One iteration -/

/-- Where the destination's elements lie apart and nothing is masked, each of its positions is the chain's value of what t held. -/
def cardDone (gs : List Stage) (d a : Opnd) (b : Option Opnd) (g : Nat) (js : List Nat) (t t' : State) : Prop :=
  ∀ ix ∈ tuples a.d.used, t'.peek g d.d.space (fmtWidth d.d.fmt) (d.d.place js ix) =
    deliverAs d.d.fmt (chainStep gs (entryB b t g js ix)
      { fl := fmtFloat a.d.fmt, x := entryOf a.d.fmt (t.peek g a.d.space (fmtWidth a.d.fmt) (a.d.place js ix)), pred := true, ev := .none }).x
        % 2 ^ fmtWidth d.d.fmt

/-- The operands of a CARD are unmasked, and the destination's elements lie apart. -/
def cardApart (d a : Opnd) (b : Option Opnd) (js : List Nat) : Prop :=
  d.mask = none ∧ a.mask = none ∧ (∀ y, b = some y → y.mask = none) ∧ (d.d.addrs js (tuples d.d.used)).Nodup

/-- The operands of a CARD as its check accepts them: without an exit the destination has the source's positions, and so has HB. -/
structure CardOpnds (exit : Nat) (d a : Opnd) (b : Option Opnd) (its : List (List Nat)) : Prop where
  dst : d.Local
  src : a.Local
  hb : ∀ y, b = some y → y.Local
  shape : exit = 0 → d.d.used = a.d.used
  shapeB : ∀ y, b = some y → y.d.used = a.d.used
  aligned : ∀ js ∈ its, d.d.Aligned js

theorem cardOpnds_of_ok {exit : Nat} {gs : List Stage} {its : List (List Nat)} {d a : Opnd} {b : Option Opnd}
    (hok : cardOk exit gs its d a b = true) (hd : d.Local) (ha : a.Local) (hb : ∀ y, b = some y → y.Local) : CardOpnds exit d a b its := by
  simp only [cardOk, Bool.and_eq_true, beq_iff_eq] at hok
  obtain ⟨⟨⟨⟨⟨⟨⟨⟨-, hdok⟩, -⟩, hbok⟩, -⟩, -⟩, -⟩, hshape⟩, -⟩ := hok
  refine ⟨hd, ha, hb, fun he => ?_, fun y hy => ?_, fun js hjs => Opnd.aligned_of_ok hdok hjs⟩
  · rw [if_pos he, hd.shape, ha.shape] at hshape
    exact hshape
  · subst hy
    simp only [Bool.and_eq_true, beq_iff_eq] at hbok
    obtain ⟨⟨⟨⟨-, -⟩, -⟩, hsame⟩, -⟩ := hbok
    rwa [(hb y rfl).shape, ha.shape] at hsame

/-- One iteration of a CARD. -/
theorem cardIter_gives {exit : Nat} {gs : List Stage} {its : List (List Nat)} {d a : Opnd} {b : Option Opnd} (h : CardOpnds exit d a b its)
    (left : Option Nat) {js : List Nat} (hjs : js ∈ its) (ht : u.MemsOnly c.g t) :
    ∃ r t', M.Gives (cardIter c exit gs left d a b js) t r t' ∧ u.MemsOnly c.g t' ∧
      (left = none → exit = 0 → cardApart d a b js → cardDone gs d a b c.g js t t') := by
  obtain ⟨as, has, hasAll⟩ := readSource_direct ht.quiet h.src js
  obtain ⟨bs, hbs, hbsAll⟩ := cardB_gives ht.quiet h.hb (fun y hy => congrArg tuples (h.shapeB y hy)) as js
  obtain ⟨ds, hds, hdsAll⟩ := readDest_direct ht.quiet h.dst js
  unfold cardIter
  refine has.bind_ends (M.Gives.matchBind_ends hbs (hds.bind_ends ?_))
  by_cases he : exit = 0
  · obtain ⟨st, t', hst, ht', hreads⟩ := storeVals_direct h.dst (h.aligned js hjs) ht hdsAll
      ((((chainRun gs a.d.fmt (fmtB b) as bs).take (inGroups left (chainRun gs a.d.fmt (fmtB b) as bs).length)).map (laneVal d.d.fmt)).map Prod.fst)
    simp only [if_pos he]
    refine ⟨_, t', hst.bind ((M.gives_pure _ _).bind ((M.gives_pure _ _).bind (M.gives_pure _ _))), ht', ?_⟩
    rintro rfl - ⟨hdm, ham, hbm, hn⟩ ix hix
    obtain ⟨y, hy, hyall⟩ := hbsAll hbm _ (hasAll ham)
    have hvals := laneVal_chainRun (gs := gs) (out := d.d.fmt) (fa := a.d.fmt) (fb := fmtB b) (ps := tuples a.d.used)
      (x := fun ix => srcOf (t.memOf c.g a.d.space) (fmtWidth a.d.fmt) (a.d.place js) (ix, true, false)) (y := y)
      (fun _ _ => rfl) (fun ix _ => (hyall ix).1)
    have hread := hreads (fun ix => chainVal gs d.d.fmt a.d.fmt (fmtB b)
        (srcOf (t.memOf c.g a.d.space) (fmtWidth a.d.fmt) (a.d.place js) (ix, true, false)) (y ix)) hdm
      (by rw [inGroups, List.take_length, List.map_map, h.shape he, ← hvals, ← hasAll ham, ← hy]; rfl) (fun _ _ => rfl) hn ix (by rwa [h.shape he])
    rw [hread, ← (hyall ix).2]
    rfl
  · simp only [if_neg he]
    obtain ⟨st, t', hst, ht', -⟩ := storeVals_direct h.dst (h.aligned js hjs) ht hdsAll _
    exact ⟨_, t', hst.bind ((M.gives_pure _ _).bind ((M.gives_pure _ _).bind (M.gives_pure _ _))), ht', fun _ hz => absurd hz he⟩

end Sys2Proof.Machine
end

section
/-! PROOFS. CARD as its engine performs it (R216, R226, R374, R375): completed where the check passes, a core fault where it fails twice. -/

namespace Sys2Proof.Machine

variable {s t u : State} {c : Ctx}

/-- The operand HB of a CARD, if it has one. -/
def cardHb (c : Ctx) (u : State) : Option Opnd := if c.h.hb = 0 then none else some (u.opndAt c c.h.hb)

theorem map_cardHandles (c : Ctx) (u : State) : ([c.h.hd, c.h.ha] ++ (if c.h.hb = 0 then [] else [c.h.hb])).map (u.opndAt c) =
    u.opndAt c c.h.hd :: u.opndAt c c.h.ha :: (cardHb c u).toList := by
  unfold cardHb
  split
  · rfl
  · rfl

/-- What a CARD starts with: its operands unpoisoned and accepted, the destination writable. -/
structure CardReady (c : Ctx) (u : State) : Prop where
  quiet : u.MemsOnly c.g u
  clear : ∀ hd ∈ [c.h.hd, c.h.ha] ++ (if c.h.hb = 0 then [] else [c.h.hb]), (u.opndAt c hd).poisoned c (u.core c.g) = false
  ok : cardOk (bits c.h.md 6 4) (c.ext.map stageOf) c.its (u.opndAt c c.h.hd) (u.opndAt c c.h.ha) (cardHb c u) = true
  role : u.prog.inStep = true → ∀ d ∈ [(u.opndAt c c.h.hd).d], d.role ≠ 1
  opnds : CardOpnds (bits c.h.md 6 4) (u.opndAt c c.h.hd) (u.opndAt c c.h.ha) (cardHb c u) c.its

theorem State.peek_congr {g : Nat} (hcores : t.cores = s.cores) (hclusters : t.clusters = s.clusters) (sp w a : Nat) :
    t.peek g sp w a = s.peek g sp w a := by
  rw [State.peek_eq, State.peek_eq, State.memOf_congr hcores hclusters]

theorem cardDone_congr {gs : List Stage} {d a : Opnd} {b : Option Opnd} {g : Nat} {js : List Nat} {u' : State} (h : u.CountedFrom g u')
    (hdone : cardDone gs d a b g js u' t) : cardDone gs d a b g js u t := by
  have hpeek := State.peek_congr (g := g) h.cores h.clusters
  intro ix hix
  rw [hdone ix hix, hpeek]
  cases b with
  | none => rfl
  | some y => simp only [entryB, hpeek]

/-- Where its check passes a CARD is performed. -/
theorem opCard_performs (h : CardReady c u) {chk : ArithCheck} (hchk : checkPassed chk) :
    M.Performs (opCard chk c) u c.g fun t => c.its = [[]] → bits c.h.md 6 4 = 0 →
      cardApart (u.opndAt c c.h.hd) (u.opndAt c c.h.ha) (cardHb c u) [] →
      cardDone (c.ext.map stageOf) (u.opndAt c c.h.hd) (u.opndAt c c.h.ha) (cardHb c u) c.g [] u t := by
  obtain ⟨u', hcheck, hcount⟩ := arithEvents_passed (c := c) hchk h.quiet 0x218
  refine withOpndsOr_ends h.quiet.quiet h.clear ?_
  rw [map_cardHandles]
  simp only [Option.head?_toList]
  refine (execCheck_gives h.ok h.role).bind_ends (hcheck.bind_ends ?_)
  refine iterations_end (good := fun b : Option Nat × Res => b.1 = none ∧ b.2.running = false)
    (val := fun t => bits c.h.md 6 4 = 0 → cardApart (u.opndAt c c.h.hd) (u.opndAt c c.h.ha) (cardHb c u) [] →
      cardDone (c.ext.map stageOf) (u.opndAt c c.h.hd) (u.opndAt c c.h.ha) (cardHb c u) c.g [] u' t) hcount.mems ⟨rfl, rfl⟩ ?_ ?_
  · rintro js hjs ⟨left, r⟩ t ⟨rfl, -⟩ ht
    obtain ⟨q, t', hiter, ht', hdone⟩ := cardIter_gives (gs := c.ext.map stageOf) h.opnds none hjs ht
    refine ⟨(none, r.plus q), t', hiter.bind ((passUnits_none _ t').bind (M.gives_pure _ _)), ⟨rfl, rfl⟩, ht', ?_⟩
    rintro rfl rfl
    exact hdone rfl
  · rintro ⟨left, r⟩ t ⟨rfl, hrun⟩ ht hone
    exact ⟨r, t, (M.gives_pure _ _).bind (M.gives_pure _ _), hrun, ⟨u', hcount, ht⟩, fun h1 he ha => cardDone_congr hcount (hone h1 he ha)⟩

/-- Where a group fails for the second time a CARD does not complete. -/
theorem opCard_throws (h : CardReady c u) {chk : ArithCheck} (hchk : ¬ checkPassed chk) : ∃ t, M.Throws (opCard chk c) u coreFault t := by
  obtain ⟨u', l, hcheck, hcount⟩ := arithEvents_failed (c := c) hchk h.quiet 0x218
  unfold opCard withOpnds
  simp only [M.Throws, withOpndsOr_run h.quiet.quiet h.clear, map_cardHandles, Option.head?_toList, (execCheck_gives h.ok h.role).run_bind,
    hcheck.run_bind]
  refine M.forIn_throws (good := fun b t => (∃ l, b.1 = some l) ∧ u'.MemsOnly c.g t) ?_ ?_ ⟨⟨l, rfl⟩, hcount.mems⟩
  · rintro ⟨left, r⟩ t ⟨⟨l, rfl⟩, -⟩
    exact ⟨t, (M.throws_throw coreFault t).bind _⟩
  · rintro js hjs ⟨left, r⟩ t ⟨⟨l, rfl⟩, ht⟩
    obtain ⟨q, t', hiter, ht', -⟩ := cardIter_gives (gs := c.ext.map stageOf) h.opnds (some l) hjs ht
    obtain ⟨l', hpass⟩ | hpass := passUnits_some l (groupsOf (u.opndAt c c.h.ha).count) t'
    · exact .inl ⟨(some l', r.plus q), t', hiter.bind (hpass.bind (M.gives_pure _ _)), ⟨l', rfl⟩, ht'⟩
    · exact .inr ⟨t', hiter.throws (hpass.bind _)⟩

end Sys2Proof.Machine
end

section
/-! PROOFS. RED to a descriptor (R226, R229, R233): the reduction of the source's elements in linear order. -/

namespace Sys2Proof.Machine

variable {s t u : State} {c : Ctx}

/-- The elements of a reduction in linear order. -/
def redEls (t : State) (g : Nat) (a : Opnd) (js : List Nat) : List RedEl :=
  (tuples a.d.used).zipIdx.map fun p =>
    { i := p.2, x := entryOf a.d.fmt (t.peek g a.d.space (fmtWidth a.d.fmt) (a.d.place js p.1)), pred := true }

theorem redRead_gives (hq : s.Quiet c.g) {a : Opnd} (h : a.Local) (js : List Nat) :
    ∃ es p, M.Gives (redRead c a js) s (es, p) s ∧ (a.mask = none → es = redEls s c.g a js) := by
  obtain ⟨as, has, hall⟩ := readSource_direct hq h js
  refine ⟨_, _, has.bind ((M.gives_pure _ _).bind (M.gives_pure _ _)), fun hm => ?_⟩
  rw [hall hm, List.zipIdx_map, List.filter_eq_self.mpr, List.map_map]
  · rfl
  · intro p hp
    obtain ⟨y, -, rfl⟩ := List.mem_map.mp hp
    rfl

/-- What a RED's check says of its destination. -/
theorem redOk_dest {op : Nat} {its : List (List Nat)} {a d : Opnd} (h : redOk op its a (some d) = true) (hd : d.Local) :
    d.ok true none its = true ∧ d.d.used = [1] := by
  simp only [redOk, Bool.and_eq_true, beq_iff_eq] at h
  obtain ⟨-, ⟨⟨hok, -⟩, hshape⟩, -⟩ := h
  exact ⟨hok, hd.shape ▸ hshape⟩

/-- Where nothing is masked, position 0 of the destination is the reduction of what t held. -/
def redDone (op : Nat) (d a : Opnd) (g : Nat) (js : List Nat) (t t' : State) : Prop :=
  t'.peek g d.d.space (fmtWidth d.d.fmt) (d.d.place js [0]) = (reduceSet op (fmtFloat a.d.fmt) false (redEls t g a js)).v % 2 ^ fmtWidth d.d.fmt

/-- A RED to HD on valid local operands. -/
theorem opRed_performs (h : u.MemsOnly c.g u) (hmb : bitOf c.h.md 3 = false)
    (hclear : ∀ hd ∈ [c.h.ha, c.h.hd], (u.opndAt c hd).poisoned c (u.core c.g) = false)
    (hok : redOk (bits c.h.md 2 0) c.its (u.opndAt c c.h.ha) (some (u.opndAt c c.h.hd)) = true)
    (hrole : u.prog.inStep = true → ∀ d ∈ [(u.opndAt c c.h.hd).d], d.role ≠ 1) (ha : (u.opndAt c c.h.ha).Local) (hd : (u.opndAt c c.h.hd).Local) :
    M.Performs (opRed c) u c.g fun t => c.its = [[]] → (u.opndAt c c.h.ha).mask = none → (u.opndAt c c.h.hd).mask = none →
      redDone (bits c.h.md 2 0) (u.opndAt c c.h.hd) (u.opndAt c c.h.ha) c.g [] u t := by
  obtain ⟨hdok, hused⟩ := redOk_dest hok hd
  unfold opRed
  simp only [hmb, Bool.false_eq_true, if_false]
  refine withOpndsOr_ends h.quiet hclear ((execCheck_gives hok hrole).bind_ends ?_)
  refine iterations_end (good := fun r : Res => r.running = false) (val := fun t => (u.opndAt c c.h.ha).mask = none →
    (u.opndAt c c.h.hd).mask = none → redDone (bits c.h.md 2 0) (u.opndAt c c.h.hd) (u.opndAt c c.h.ha) c.g [] u t) h rfl ?_
    fun r t hrun ht hone => ⟨r, t, M.gives_pure _ _, hrun, ⟨u, .refl h, ht⟩, hone⟩
  intro js hjs r t _ ht
  obtain ⟨es, p, hes, hall⟩ := redRead_gives ht.quiet ha js
  obtain ⟨ds, hds, hdsAll⟩ := readDest_direct ht.quiet hd js
  obtain ⟨st, t', hst, ht', hreads⟩ := storeVals_direct hd (Opnd.aligned_of_ok hdok hjs) ht hdsAll
    [⟨(reduceSet (bits c.h.md 2 0) (fmtFloat (u.opndAt c c.h.ha).d.fmt) false es).v, p, true⟩]
  refine ⟨_, t', hes.bind (hds.bind (hst.bind ((M.gives_pure _ _).bind (M.gives_pure _ _)))), rfl, ht', ?_⟩
  rintro rfl rfl ham hdm
  rw [hall ham] at hreads
  rw [hused] at hreads
  exact hreads (fun _ => ⟨_, p, true⟩) hdm rfl (fun _ _ => rfl) (List.nodup_singleton _) [0] (by simp [tuples])

end Sys2Proof.Machine
end

section
/-! PROOFS. MASKGEN (R147): the mask bit of each column and row. -/

namespace Sys2Proof.Machine

variable {s t u : State} {c : Ctx}

/-- The mask bit of a MASKGEN at a position. -/
def maskAt (c : Ctx) (u : State) (ix : List Nat) : Nat :=
  b2n (maskBit (bits c.h.md 1 0) (sext 48 (c.ax u (bits c.h.md 6 2))) (Int.ofNat (bits (c.ext.headD 0) 31 0)) (Int.ofNat (ix.getD 0 0))
    (Int.ofNat (ix.getD 1 0)))

/-- Where the destination is unmasked and its elements lie apart, each of its positions is its mask bit. -/
def maskDone (c : Ctx) (d : Opnd) (u t : State) : Prop :=
  d.mask = none → (d.d.addrs [] (tuples d.d.used)).Nodup → ∀ ix ∈ tuples d.d.used,
    t.peek c.g d.d.space (fmtWidth d.d.fmt) (d.d.place [] ix) = maskAt c u ix % 2 ^ fmtWidth d.d.fmt

/-- A MASKGEN on a valid local destination. -/
theorem opMaskgen_performs (h : u.MemsOnly c.g u) (hclear : ∀ hd ∈ [c.h.hd], (u.opndAt c hd).poisoned c (u.core c.g) = false)
    (hok : maskgenOk c.its (u.opndAt c c.h.hd) = true) (hrole : u.prog.inStep = true → ∀ d ∈ [(u.opndAt c c.h.hd).d], d.role ≠ 1)
    (hd : (u.opndAt c c.h.hd).Local) :
    M.Performs (opMaskgen c) u c.g fun t => c.its = [[]] → maskDone c (u.opndAt c c.h.hd) u t := by
  have hdok : (u.opndAt c c.h.hd).ok true none c.its = true := by
    simp only [maskgenOk, Bool.and_eq_true] at hok
    exact hok.1.1.1
  refine withOpndsOr_ends h.quiet hclear ((execCheck_gives hok hrole).bind_ends ((M.gives_get u).bind_ends ?_))
  refine iterations_end (good := fun _ : Nat => True) (val := maskDone c (u.opndAt c c.h.hd) u) h trivial ?_
    fun st t _ ht hone => ⟨_, t, M.gives_pure _ _, rfl, ⟨u, .refl h, ht⟩, hone⟩
  intro js hjs st t _ ht
  obtain ⟨ds, hds, hdsAll⟩ := readDest_direct ht.quiet hd js
  obtain ⟨q, t', hst, ht', hreads⟩ := storeVals_direct hd (Opnd.aligned_of_ok hdok hjs) ht hdsAll
    ((tuples (u.opndAt c c.h.hd).shape).map fun ix => Val.mk (maskAt c u ix) false true)
  refine ⟨_, t', hds.bind (hst.bind ((M.gives_pure _ _).bind (M.gives_pure _ _))), trivial, ht', ?_⟩
  rintro rfl rfl hdm hn
  exact hreads (fun ix => ⟨maskAt c t ix, false, true⟩) hdm (by rw [hd.shape]) (fun _ _ => rfl) hn

end Sys2Proof.Machine
end

section
/-! PROOFS. SOFTMAX (R232, R233, R375): a row's outputs at its positions. -/

namespace Sys2Proof.Machine

variable {s t u : State} {c : Ctx}

/-! ## A destination of one row -/

/-- The outputs of a row are as many as its elements. -/
theorem length_softmaxRow (base2 : Bool) (p : Nat) (as : List (Option Nat)) : (softmaxRow base2 p as).1.length = as.length := by
  unfold softmaxRow
  extract_lets xs live m k e r
  have hxs : xs.length = as.length := List.length_map _
  split
  · exact List.length_map _
  · split
    · exact List.length_map _
    · split
      · exact (List.length_map _).trans hxs
      · split
        · exact List.length_map _
        · exact (List.length_map _).trans hxs

/-- A list cut into pieces of its own length is one piece. -/
theorem chunksOf_length {α : Type} {n : Nat} {xs : List α} (hn : n ≠ 0) (hlen : xs.length = n) : chunksOf n xs = [xs] := by
  have hone : (xs.length + n - 1) / n = 1 := by
    rw [hlen, show n + n - 1 = (n - 1) + n by omega, Nat.add_div_right _ (by omega), Nat.div_eq_of_lt (by omega)]
  unfold chunksOf
  rw [hone]
  simp [← hlen]

/-- A source of one dimension is one row. -/
theorem softmaxRows_single {α : Type} {n : Nat} {xs : List α} (hlen : xs.length = n) :
    (if n = 0 then List.replicate (product' ([] : List Nat)) [] else (chunksOf n xs).filter fun x => x.length == n) = [xs] := by
  split
  · next h0 =>
    subst h0
    rw [List.length_eq_zero_iff.mp hlen]
    rfl
  · next hn => simp [chunksOf_length hn hlen, hlen]

theorem tuples_single (n : Nat) : tuples [n] = (List.range n).map fun i => [i] := by
  simp [tuples]

/-- A list by its positions. -/
theorem eq_map_getD_range {α : Type} {n : Nat} {xs : List α} (hlen : xs.length = n) (d : α) : xs = (List.range n).map fun i => xs.getD i d := by
  subst hlen
  exact List.ext_getElem (by simp) fun i hi _ => by simp [hi]

/-! ## One iteration -/

/-- The outputs of the row of a source of n elements. -/
def softOuts (c : Ctx) (t : State) (a : Opnd) (js : List Nat) (n : Nat) : List Nat :=
  (softmaxRow (bitOf c.h.md 0) (bits (c.ext.headD 0) 31 0) ((List.range n).map fun j =>
    some (entryOf a.d.fmt (t.peek c.g a.d.space (fmtWidth a.d.fmt) (a.d.place js [j]))))).1

theorem length_softOuts (c : Ctx) (t : State) (a : Opnd) (js : List Nat) (n : Nat) : (softOuts c t a js n).length = n := by
  unfold softOuts
  rw [length_softmaxRow, List.length_map, List.length_range]

/-- Where nothing is masked and the destination's elements lie apart, a source of one row leaves the row's outputs in the destination's
format. -/
def softmaxDone (c : Ctx) (d a : Opnd) (js : List Nat) (t t' : State) : Prop :=
  d.mask = none → a.mask = none → (d.d.addrs js (tuples d.d.used)).Nodup → ∀ n, a.d.used = [n] → ∀ i, i < n →
    t'.peek c.g d.d.space (fmtWidth d.d.fmt) (d.d.place js [i]) =
      (convert false 7 d.d.fmt ((softOuts c t a js n).getD i 0)).1 % 2 ^ fmtWidth d.d.fmt

/-- What a SOFTMAX's check says of its destination. -/
theorem softmaxOk_dest {its : List (List Nat)} {d a : Opnd} (h : softmaxOk its d a = true) (hd : d.Local) (ha : a.Local) :
    d.ok true none its = true ∧ d.d.used = a.d.used := by
  simp only [softmaxOk, Bool.and_eq_true, beq_iff_eq] at h
  obtain ⟨⟨⟨⟨⟨⟨⟨⟨-, hok⟩, -⟩, -⟩, -⟩, hshape⟩, -⟩, -⟩, -⟩ := h
  exact ⟨hok, by rw [← hd.shape, ← hshape, ha.shape]⟩

theorem softmaxIter_gives {d a : Opnd} (hd : d.Local) (ha : a.Local) (hused : d.d.used = a.d.used) {js : List Nat} (hal : d.d.Aligned js)
    (ht : u.MemsOnly c.g t) : ∃ r t', M.Gives (softmaxIter c none d a js) t r t' ∧ u.MemsOnly c.g t' ∧ softmaxDone c d a js t t' := by
  obtain ⟨as, has, hasAll⟩ := readSource_direct ht.quiet ha js
  obtain ⟨ds, hds, hdsAll⟩ := readDest_direct ht.quiet hd js
  obtain ⟨st, t', hst, ht', hreads⟩ := storeVals_direct hd hal ht hdsAll _
  refine ⟨_, t', has.bind (hds.bind (hst.bind ((M.gives_pure _ _).bind ((M.gives_pure _ _).bind (M.gives_pure _ _))))), ht', ?_⟩
  intro hdm ham hn n hone i hi
  have hlen : as.length = n := by rw [hasAll ham, List.length_map, hone, tuples_single, List.length_map, List.length_range]
  have hrow : (as.map fun e => if e.keep then some (entryOf a.d.fmt e.v) else none) = (List.range n).map fun j =>
      some (entryOf a.d.fmt (t.peek c.g a.d.space (fmtWidth a.d.fmt) (a.d.place js [j]))) := by
    rw [hasAll ham, hone, tuples_single, List.map_map, List.map_map]
    rfl
  refine hreads (fun ix => ⟨(convert false 7 d.d.fmt ((softOuts c t a js n).getD (ix.getD 0 0) 0)).1, as.any (·.p), true⟩) hdm ?_
    (fun _ _ => rfl) hn [i] (by rw [hused, hone, tuples_single]; exact List.mem_map_of_mem (List.mem_range.mpr hi))
  simp only [inGroups, List.take_length, ha.shape, hone, List.headD_cons, List.tail_cons, softmaxRows_single hlen, List.map_cons, List.map_nil,
    List.flatMap_cons, List.flatMap_nil, List.append_nil, hrow, hused, tuples_single, List.map_map]
  change List.map _ (softOuts c t a js n) = _
  conv_lhs => rw [eq_map_getD_range (length_softOuts c t a js n) 0]
  rw [List.map_map]
  rfl

/-- Where its check passes a SOFTMAX is performed. -/
theorem opSoftmax_performs (h : u.MemsOnly c.g u) {chk : ArithCheck} (hchk : checkPassed chk)
    (hclear : ∀ hd ∈ [c.h.hd, c.h.ha], (u.opndAt c hd).poisoned c (u.core c.g) = false)
    (hok : softmaxOk c.its (u.opndAt c c.h.hd) (u.opndAt c c.h.ha) = true)
    (hrole : u.prog.inStep = true → ∀ d ∈ [(u.opndAt c c.h.hd).d], d.role ≠ 1) (ha : (u.opndAt c c.h.ha).Local) (hd : (u.opndAt c c.h.hd).Local) :
    M.Performs (opSoftmax chk c) u c.g fun t => c.its = [[]] → softmaxDone c (u.opndAt c c.h.hd) (u.opndAt c c.h.ha) [] u t := by
  obtain ⟨hdok, hused⟩ := softmaxOk_dest hok hd ha
  obtain ⟨u', hcheck, hcount⟩ := arithEvents_passed (c := c) hchk h 0x218
  refine withOpndsOr_ends h.quiet hclear ((execCheck_gives hok hrole).bind_ends (hcheck.bind_ends ?_))
  refine iterations_end (good := fun b : Option Nat × Res => b.1 = none ∧ b.2.running = false)
    (val := softmaxDone c (u.opndAt c c.h.hd) (u.opndAt c c.h.ha) [] u') hcount.mems ⟨rfl, rfl⟩ ?_ ?_
  · rintro js hjs ⟨left, r⟩ t ⟨rfl, -⟩ ht
    obtain ⟨q, t', hiter, ht', hdone⟩ := softmaxIter_gives hd ha hused (Opnd.aligned_of_ok hdok hjs) ht
    refine ⟨(none, r.plus q), t', hiter.bind ((passUnits_none _ t').bind (M.gives_pure _ _)), ⟨rfl, rfl⟩, ht', ?_⟩
    rintro rfl rfl
    exact hdone
  · rintro ⟨left, r⟩ t ⟨rfl, hrun⟩ ht hone
    refine ⟨r, t, (M.gives_pure _ _).bind (M.gives_pure _ _), hrun, ⟨u', hcount, ht⟩, fun h1 => ?_⟩
    have hdone := hone h1
    unfold softmaxDone softOuts at hdone ⊢
    simpa only [State.peek_congr hcount.cores hcount.clusters] using hdone

end Sys2Proof.Machine
end

section
/-! PROOFS. O33: what each vector instruction delivers, in the words of the statement. -/

namespace Sys2Proof.Machine

variable {s t u : State} {c : Ctx} {g : Nat}

/-- Positions of one and of two dimensions. -/
theorem mem_tuples_pair {m n i j : Nat} (hj : j < m) (hi : i < n) : [j, i] ∈ tuples [m, n] := by
  simp [tuples, hi, hj]

/-- A descriptor has five sizes. -/
theorem State.sizes_descAt (u : State) (c : Ctx) (h : Nat) : (u.descAt c h).sizes.length = 5 := by
  have hdesc : ∀ ws, (descOf ws).sizes.length = 5 := fun ws => by simp [descOf]
  unfold State.descAt
  split
  · exact hdesc _
  · exact hdesc _

/-- The sizes of a handle's descriptor that has one dimension. -/
theorem State.used_one (u : State) (c : Ctx) (h : Nat) (hr : (u.opndAt c h).d.rank = 1) :
    (u.opndAt c h).d.used = [(u.opndAt c h).d.sizes.getD 0 0] := by
  rw [Desc.used, hr]
  exact match (u.descAt c h).sizes, u.sizes_descAt c h with | _ :: _, _ => rfl

/-- The sizes of a handle's descriptor that has two dimensions. -/
theorem State.used_two (u : State) (c : Ctx) (h : Nat) (hr : (u.opndAt c h).d.rank = 2) :
    (u.opndAt c h).d.used = [(u.opndAt c h).d.sizes.getD 0 0, (u.opndAt c h).d.sizes.getD 1 0] := by
  rw [Desc.used, hr]
  exact match (u.descAt c h).sizes, u.sizes_descAt c h with | _ :: _ :: _, _ => rfl

/-- What a MASKGEN's check says of its destination. -/
theorem maskgenOk_dest {its : List (List Nat)} {d : Opnd} (h : maskgenOk its d = true) : d.d.rank = 2 ∧ d.d.fmt = 11 := by
  simp only [maskgenOk, Bool.and_eq_true, beq_iff_eq] at h
  obtain ⟨⟨-, hrank⟩, hfmt⟩ := h
  exact ⟨hrank, hfmt⟩

end Sys2Proof.Machine

open Sys2Proof Sys2Proof.Machine

/-- Settles O33: each instruction is performed (`opCard_performs`, `opRed_performs`, `opSoftmax_performs`, `opMaskgen_performs`): it writes
only memories of its core, and in its one iteration each position of the destination takes the value stated. -/
theorem vectorInstructionsDeliverTheirValues : Obligations.VectorInstructionsDeliverTheirValues := by
  unfold Obligations.VectorInstructionsDeliverTheirValues
  intro s g x chk hcanon u c k A B D gs exit passes one src dst does hquiet hintact hAclear hBclear hDclear hAlocal hrole
  have hu : u.MemsOnly g u := .refl (State.canon_startOf hcanon g .ve x) (State.quiet_of_quietCore hquiet)
  have hprog : u.prog = s.prog := (congrArg State.prog (State.startOf_keeps hcanon hintact (g := g) (e := .ve)).1 :)
  have hrole' : u.prog.inStep = true → ∀ d ∈ [D.d], d.role ≠ 1 := by
    rw [hprog]
    simpa using hrole
  have hA : A.Local := u.opndAt_local c _ hAlocal
  have hdoes : ∀ (op : Nat) (i : Instr) (f : Ctx → M Res) (val val' : State → Prop), exec i s = .next (s.runEngine g .ve op f) →
      s.readyEntry g .ve op = some x → M.Performs (f c) u g val →
      (∀ t y, t.canon = true → val t → one → val' (t.setEntry g .ve y)) → does i val' := by
    intro op i f val val' hexec hready hperf hval
    obtain ⟨t, y, hrun, ht, honly, hfin, hbeside, hv⟩ := hperf.runEngine hcanon hready hintact
    exact ⟨_, hexec.trans (congrArg Host.Outcome.next hrun), honly.other, honly.dram, honly.seqs, hfin, (congrArg Core.acc hbeside :),
      (congrArg Core.lanes hbeside :), hval t y ht hv⟩
  have hclear : ∀ hd ∈ [c.h.hd, c.h.ha], (u.opndAt c hd).poisoned c (u.core c.g) = false := by
    simpa using ⟨hDclear, hAclear⟩
  refine ⟨fun hready hDlocal hBlocal hok => ?_, fun hready hDlocal hmb hok => ?_, fun hready hDlocal hok hpass => ?_,
    fun hready hDlocal hok => ?_⟩
  · have hD : D.Local := u.opndAt_local c _ hDlocal
    have hB : ∀ y, cardHb c u = some y → y.Local := by
      intro y hy
      unfold cardHb at hy
      split at hy
      · cases hy
      · exact Option.some.inj hy ▸ u.opndAt_local c _ hBlocal
    have hall : CardReady c u := by
      refine ⟨hu, fun hd hmem => ?_, hok, hrole', cardOpnds_of_ok hok hD hA hB⟩
      obtain h | h := List.mem_append.mp hmem
      · exact hclear hd h
      · split at h
        · cases h
        · exact List.mem_singleton.mp h ▸ hBclear
    refine ⟨fun hpass => hdoes 0x50 _ (opCard chk) _ _ rfl hready (opCard_performs hall hpass) ?_, fun hfail => ?_⟩
    · rintro t y ht hval ⟨hone, hAm, hBm, hDm, hn⟩ hexit ix hix
      have hBm' : ∀ y, cardHb c u = some y → y.mask = none := by
        intro y hy
        unfold cardHb at hy
        split at hy
        · cases hy
        · exact Option.some.inj hy ▸ hBm
      have hdone := hval hone hexit ⟨hDm, hAm, hBm', hn⟩ ix hix
      refine (State.peek_setEntry ht g .ve y _ _ _).trans (hdone.trans ?_)
      unfold cardHb
      by_cases h0 : c.h.hb = 0
      · simp only [if_pos h0]
        rfl
      · simp only [if_neg h0]
        rfl
    · obtain ⟨t, ht⟩ := opCard_throws hall hfail
      exact ⟨_, rfl, State.runEngine_faults hready ht⟩
  · have hD : D.Local := u.opndAt_local c _ hDlocal
    refine hdoes 0x51 _ opRed _ _ rfl hready (opRed_performs hu hmb (by simpa using ⟨hAclear, hDclear⟩) hok hrole' hA hD) ?_
    rintro t y ht hval ⟨hone, hAm, -, hDm, -⟩
    exact (State.peek_setEntry ht g .ve y _ _ _).trans (hval hone hAm hDm)
  · have hD : D.Local := u.opndAt_local c _ hDlocal
    refine hdoes 0x52 _ (opSoftmax chk) _ _ rfl hready (opSoftmax_performs hu hpass hclear hok hrole' hA hD) ?_
    rintro t y ht hval ⟨hone, hAm, -, hDm, hn⟩ hrank i hi
    exact (State.peek_setEntry ht g .ve y _ _ _).trans (hval hone hDm hAm hn _ (u.used_one c _ hrank) i hi)
  · have hD : D.Local := u.opndAt_local c _ hDlocal
    obtain ⟨hrank, hfmt⟩ := maskgenOk_dest hok
    refine hdoes 0x53 _ opMaskgen _ _ rfl hready (opMaskgen_performs hu (List.forall_mem_singleton.mpr hDclear) hok hrole' hD) ?_
    rintro t y ht hval ⟨hone, -, -, hDm, hn⟩ i j hj hi
    have hix : [j, i] ∈ tuples D.d.used := by
      rw [u.used_two c _ hrank]
      exact mem_tuples_pair hj hi
    have hbit : ∀ b, b2n b % 2 ^ fmtWidth 11 = b2n b := by decide
    refine (State.peek_setEntry ht g .ve y _ _ _).trans ((hval hone hDm hn [j, i] hix).trans ?_)
    rw [hfmt]
    exact hbit _
end

section
/-! PROOFS. GIDX (R316, R141): the stream it binds. -/

namespace Sys2Proof.Machine

variable {s t u : State} {c : Ctx} {g : Nat}

/-! ## The queue an engine starts from -/

/-- Consuming a token changes no queue. -/
theorem State.q_startOf (h : s.canon = true) {e : Eng} {x : QEntry} (hx : x.intact = true) : ((s.startOf g e x).core g).q = (s.core g).q := by
  rw [State.startOf_intact hx]
  split
  · have hcore : ∀ k, ((s.setCore g k).core g).q = k.q := fun k => congrArg Core.q ((State.core_setCore h g g k).trans (if_pos rfl))
    exact hcore _
  · rfl

/-- The entry an engine can start is in its queue. -/
theorem State.mem_of_readyEntry {e : Eng} {op : Nat} {x : QEntry} (h : s.readyEntry g e op = some x) : x ∈ (s.core g).q.get e := by
  unfold State.readyEntry at h
  split at h
  · split at h
    · next y hy =>
      have hxy : y = x := by
        split at h
        · exact Option.some.inj h
        · cases h
      subst hxy
      unfold State.nextEntry queuedEntry at hy
      simp only at hy
      split at hy
      · next z hz =>
        split at hy
        · exact Option.some.inj hy ▸ List.mem_of_find?_eq_some hz
        · cases hy
      · cases hy
    · cases h
  · cases h

/-! ## The binding -/

theorem readWords_gives (h : s.Quiet c.g) (hd : Nat) : ∃ ws, M.Gives (readWords c hd) s ws s :=
  ⟨_, (readDescWords_gives h hd).bind (M.gives_pure _ s)⟩

/-- A stream as GIDX binds it to a handle: at position 0, with as many positions as are named. -/
def IdxStream.bound0 (q : IdxStream) (handle total : Nat) : Prop :=
  q.bound = true ∧ q.handle = handle ∧ q.drawn = 0 ∧ q.ahead = 0 ∧ q.stopped = false ∧ q.total = total ∧ q.vals = []

theorem AMap.get_set_ne {α : Type} [DecidableEq α] {d v : α} (hv : v ≠ d) (m : AMap α) (k : Nat) : AMap.get d (AMap.set d m k v) k = v := by
  unfold AMap.set
  rw [if_neg hv]
  exact AMap.get_put_same d k v m

/-- A core with a stream bound. -/
def State.bindStream (u : State) (g q : Nat) (st : IdxStream) : State :=
  u.setCore g { u.core g with streams := AMap.set .init (u.core g).streams q st }

theorem State.core_bindStream (h : u.canon = true) (q : Nat) (st : IdxStream) :
    (u.bindStream g q st).core g = { u.core g with streams := AMap.set .init (u.core g).streams q st } :=
  (State.core_setCore h g g _).trans (if_pos rfl)

/-- A GIDX whose entry is still in its queue binds its stream. -/
theorem opGidx_gives (h : u.Quiet c.g) {ix : Desc}
    (hclear : ∀ hd ∈ [c.h.ha], (u.opndAt c hd).poisoned c (u.core c.g) = false) (hok : (u.opndAt c c.h.ha).ok false none c.its = true)
    (hix : (u.opndAt c c.h.ha).idx = some ix) (hmem : ∃ x ∈ (u.core c.g).q.get c.e, x.qid = c.qid) :
    ∃ st : IdxStream, st.bound0 c.h.ha (c.its.length * ix.sizes.getD 0 0) ∧
      M.Gives (opGidx c) u .nothing (u.bindStream c.g (bits c.h.md 1 0) st) := by
  obtain ⟨dw, hdw⟩ := readWords_gives h c.h.ha
  obtain ⟨xw, hxw⟩ := readWords_gives h (u.opndAt c c.h.ha).d.indexh
  have hhere : (((u.core c.g).q.get c.e).any fun x => x.qid == c.qid) = true := by simpa using hmem
  refine ⟨{ bound := true, handle := c.h.ha, desc := dw, idxDesc := xw, lc := c.lc, levels := c.h.lc, total := c.its.length * ix.sizes.getD 0 0,
            ahead := 0, drawn := 0, sub := 0, vals := [], stopped := false }, ⟨rfl, rfl, rfl, rfl, rfl, rfl, rfl⟩, ?_⟩
  refine withOpnds_gives h hclear ((execCheck_gives (written := []) ?_ fun _ _ hd => by cases hd).bind (hdw.bind (hxw.bind ((M.gives_get u).bind ?_))))
  · rw [hok, hix]
    rfl
  · refine M.Gives.bind (a := ()) ?_ (M.gives_pure _ _)
    simp only [hhere, if_true, hix]
    rfl

/-- An entry that ends after a stream was bound: only its core has changed, and the stream is as it was bound. -/
theorem State.bindStream_ended (h : s.OnlyCore g u) {q : Nat} {st : IdxStream} {handle total : Nat} (hst : st.bound0 handle total) (e : Eng)
    (x : QEntry) (recv : Nat) {r : Res} (hr : r.running = false) :
    let t := (u.bindStream g q st).setEntry g e (x.ended recv r)
    s.OnlyCore g t ∧ u.finished t g e x recv ∧ (AMap.get IdxStream.init (t.core g).streams q).bound0 handle total := by
  intro t
  have hcore := State.core_bindStream (g := g) h.canon q st
  have hcanon : (u.bindStream g q st).canon = true := (h.setCore _).canon
  refine ⟨(h.setCore _).setEntry e _, State.finished_ended hcanon (congrArg Core.q hcore :) e x recv hr, ?_⟩
  have hne : st ≠ .init := by
    rintro rfl
    cases hst.1
  have hstreams : (t.core g).streams = AMap.set .init (u.core g).streams q st :=
    (congrArg Core.streams (State.besideQ_setEntry hcanon e _) :).trans (congrArg Core.streams hcore :)
  rw [hstreams, AMap.get_set_ne hne]
  exact hst

end Sys2Proof.Machine
end

section
/-! PROOFS. Operands with an index descriptor (R142, R157, R314): where the positions of one lie whose indices are known and in range. -/

namespace Sys2Proof.Machine

variable {s t u : State} {c : Ctx} {g : Nat}

/-! ## Indices -/

/-- The index at a position of an index descriptor with the poison of its word. -/
def indexAt (t : State) (g : Nat) (x : Desc) (js : List Nat) (j : Nat) : Int × Bool :=
  (intValue x.fmt (elemOf (t.memOf g x.space) (fmtWidth x.fmt) (x.place js [j])).1, (elemOf (t.memOf g x.space) (fmtWidth x.fmt) (x.place js [j])).2)

/-- All indices of an index descriptor. -/
def indexVals (t : State) (g : Nat) (x : Desc) (js : List Nat) : List (Int × Bool) := (List.range (x.sizes.getD 0 0)).map (indexAt t g x js)

theorem length_indexVals (t : State) (g : Nat) (x : Desc) (js : List Nat) : (indexVals t g x js).length = x.sizes.getD 0 0 := by
  rw [indexVals, List.length_map, List.length_range]

theorem getD_indexVals (t : State) (g : Nat) {x : Desc} (js : List Nat) {j : Nat} (hj : j < x.sizes.getD 0 0) (d : Int × Bool) :
    (indexVals t g x js).getD j d = indexAt t g x js j := by
  have hlt : j < (indexVals t g x js).length := by rwa [length_indexVals]
  rw [List.getD_eq_getElem _ _ hlt]
  simp [indexVals]

theorem readIndices_gives (hq : s.Quiet c.g) {x : Desc} (hsp : LocalSpace x.space) (js : List Nat) :
    M.Gives (readIndices c x js) s (indexVals s c.g x js) s := by
  have hvals : indexVals s c.g x js = ((x.addrs js (tuples [x.sizes.getD 0 0])).map (elemOf (s.memOf c.g x.space) (fmtWidth x.fmt))).map fun e =>
      (intValue x.fmt e.1, e.2) := by
    rw [Desc.addrs_eq, tuples_single, List.map_map, List.map_map, List.map_map]
    rfl
  rw [hvals]
  exact (readElems_gives hq hsp _ _).bind (M.gives_pure _ s)

/-- The indices of a GATHER that reads them all on demand. -/
theorem gatherIndices_gives (hq : s.Quiet c.g) {x : Desc} (hsp : LocalSpace x.space) (q : Nat) (js : List Nat) :
    ∃ as, M.Gives (gatherIndices c false q x js) s (indexVals s c.g x js, as, none) s := by
  refine ⟨(List.range (x.sizes.getD 0 0)).map fun p => x.place js [p], ?_⟩
  unfold gatherIndices
  refine M.Gives.bind (M.gives_gather (fun done => ((done.map (indexAt s c.g x js)).toArray, (done.map fun p => x.place js [p]).toArray, none))
    fun done p _ => ?_) (M.gives_pure _ s)
  have hread : M.Gives (do
      let es ← readElems c x.space (fmtWidth x.fmt) [(x.bitAt js [p]).toNat]
      pure ((match es with | e :: _ => (intValue x.fmt e.1, e.2) | [] => (0, true)), [(x.bitAt js [p]).toNat])) s
      (indexAt s c.g x js p, [x.place js [p]]) s := (readElems_gives hq hsp (fmtWidth x.fmt) [x.place js [p]]).bind (M.gives_pure _ s)
  simp only [Option.isNone_none, if_true, Bool.false_eq_true, if_false, List.map_append, List.map_cons, List.map_nil, List.push_toArray]
  refine M.Gives.bind hread.attempt ?_
  simp only [List.toArray_appendList]
  exact M.gives_pure _ s

/-! ## Positions -/

/-- A position has as many indices as there are dimensions. -/
theorem length_of_mem_tuples : ∀ {ns ix : List Nat}, ix ∈ tuples ns → ix.length = ns.length
  | [], ix, h => by rw [List.mem_singleton.mp h]
  | n :: ns, ix, h => by
    obtain ⟨jx, hjx, h⟩ := List.mem_flatMap.mp h
    obtain ⟨i, -, rfl⟩ := List.mem_map.mp h
    exact congrArg (· + 1) (length_of_mem_tuples hjx)

/-- The last index of a position is within its size. -/
theorem getLastD_lt_of_mem_tuples {n : Nat} : ∀ {l ix : List Nat}, ix ∈ tuples (l ++ [n]) → ix.getLastD 0 < n
  | [], ix, h => by
    obtain ⟨i, hi, rfl⟩ := List.mem_map.mp (tuples_single n ▸ h)
    exact List.mem_range.mp hi
  | m :: l, ix, h => by
    obtain ⟨jx, hjx, h⟩ := List.mem_flatMap.mp h
    obtain ⟨i, -, rfl⟩ := List.mem_map.mp h
    have hlt := getLastD_lt_of_mem_tuples hjx
    have hlen := length_of_mem_tuples hjx
    match jx with
    | [] => simp at hlen
    | j :: js => exact hlt

theorem product'_append_single (l : List Nat) (n : Nat) : product' (l ++ [n]) = product' l * n := by
  simp [product']

/-! ## Indexed operands -/

/-- An unmasked local operand with a local index descriptor whose indices in t are known and lie in its last dimension. -/
structure Opnd.Indexed (o : Opnd) (x : Desc) (t : State) (g : Nat) (js : List Nat) : Prop where
  idx : o.idx = some x
  space : LocalSpace o.d.space
  xspace : LocalSpace x.space
  mask : o.mask = none
  known : ∀ j, j < x.sizes.getD 0 0 → (indexAt t g x js j).2 = false
  range : ∀ j, j < x.sizes.getD 0 0 → 0 ≤ (indexAt t g x js j).1 ∧ (indexAt t g x js j).1 < Int.ofNat (o.d.used.getLastD 0)

/-- Where the position of an indexed operand lies. -/
def Opnd.placeBy (o : Opnd) (x : Desc) (t : State) (g : Nat) (js ix : List Nat) : Nat :=
  o.d.place js (ix.dropLast ++ [(indexAt t g x js (ix.getLastD 0)).1.toNat])

namespace Opnd.Indexed

variable {o : Opnd} {x : Desc} {js : List Nat}

theorem maskLocal (h : o.Indexed x t g js) : o.MaskLocal := fun m hm => by
  rw [h.mask] at hm
  cases hm

theorem shape (h : o.Indexed x t g js) : o.shape = o.d.used.take (o.d.rank - 1) ++ [x.sizes.getD 0 0] := by rw [Opnd.shape, h.idx]

theorem opndIndices (h : o.Indexed x t c.g js) (hq : t.Quiet c.g) : M.Gives (opndIndices c o js) t (indexVals t c.g x js) t := by
  unfold Machine.opndIndices
  rw [h.idx]
  exact readIndices_gives hq h.xspace js

/-- A position is resolved through its index. -/
theorem resolveAt (h : o.Indexed x t g js) {ix : List Nat} (hix : ix ∈ tuples o.shape) :
    M.Gives (resolveAt o (indexVals t g x js) js ix) s (some (o.placeBy x t g js ix)) s := by
  have hlast : ix.getLastD 0 < x.sizes.getD 0 0 := getLastD_lt_of_mem_tuples (h.shape ▸ hix)
  have hknown := h.known _ hlast
  obtain ⟨hlo, hhi⟩ := h.range _ hlast
  unfold Machine.resolveAt
  rw [h.idx, getD_indexVals t g js hlast]
  simp only [hknown, Bool.false_eq_true, if_false]
  rw [if_neg (by omega)]
  exact M.gives_pure _ s

/-- With as many sizes as it has indices nothing of it changes. -/
theorem withSizes (h : o.Indexed x t g js) {ns : List Nat} (hns : ns.getD 0 0 = x.sizes.getD 0 0) :
    ({ o with idx := some { x with sizes := ns } }.shape = o.shape) ∧
      ∀ {ix : List Nat}, ix ∈ tuples o.shape → M.Gives (Machine.resolveAt { o with idx := some { x with sizes := ns } } (indexVals t g x js) js ix) s
        (some (o.placeBy x t g js ix)) s := by
  refine ⟨?_, fun {ix} hix => ?_⟩
  · rw [h.shape]
    simp only [Opnd.shape, hns]
  · have hres := h.resolveAt (s := s) hix
    unfold Machine.resolveAt at hres ⊢
    rw [h.idx] at hres
    exact hres

end Opnd.Indexed

end Sys2Proof.Machine
end

section
/-! PROOFS. GATHER, FCOMPAT and SCATTER (R142, R143, R314, R321): one iteration over indices in range. -/

namespace Sys2Proof.Machine

variable {s t u : State} {c : Ctx} {g : Nat}

/-! ## Slots -/

/-- A change of the ledger alone. -/
theorem State.MemsOnly.of_ledg {t' : State} (h : u.MemsOnly g t) (hc : t'.canon = true) (hf : { t' with ledg := t.ledg } = t) : u.MemsOnly g t' := by
  have hcores : t'.cores = t.cores := (congrArg State.cores hf :)
  have hcore : ∀ j, t'.core j = t.core j := fun j => congrArg (fun m => AMap.get Core.init m j) hcores
  have hmem := State.memOf_congr hcores (congrArg State.clusters hf :)
  refine ⟨hc, h.quiet.of_mems (fun sp => by rw [hmem]; exact h.quiet.mem sp) (by rw [hcore]) (congrArg State.regs hf :) (congrArg State.cfg hf :), ?_,
    fun j hj => (hcore j).trans (h.other j hj), by rw [hcore]; exact h.core⟩
  have hframe := (congrArg (fun t : State => { t with cores := u.cores, clusters := u.clusters, ledg := u.ledg }) hf :)
  exact hframe.trans h.frame

/-- Slots taken and returned are only counted. -/
theorem State.MemsOnly.slotUse (h : u.MemsOnly g t) (n : Nat) : ∃ t', M.Gives (slotUse n) t () t' ∧ u.MemsOnly g t' :=
  have hin := h.of_ledg (State.canon_ledgIn h.canon 2 n) (t.ledgIn_frame 2 n)
  ⟨(t.ledgIn 2 n).ledgOut 2 n, rfl, hin.of_ledg (State.canon_ledgOut hin.canon 2 n) (State.ledgOut_frame _ 2 n)⟩

/-! ## One iteration -/

/-- The elements of a destination, of format f like the source's, are the source's elements at their places. -/
def Opnd.Copied (d a : Opnd) (g : Nat) (dst src : List Nat → Nat) (ps : List (List Nat)) (u t : State) : Prop :=
  ∀ p ∈ ps, t.peek g d.d.space (fmtWidth d.d.fmt) (dst p) = u.peek g a.d.space (fmtWidth a.d.fmt) (src p)

/-- A destination that reads as the elements of a source of its format is a copy of it. -/
theorem Opnd.Reads.copied {d a : Opnd} (hfmt : a.d.fmt = d.d.fmt) (hal : Width (fmtWidth d.d.fmt)) {dst src : List Nat → Nat} {ps : List (List Nat)}
    {val : List Nat → Val} (hval : ∀ p ∈ ps, (val p).v = u.peek g a.d.space (fmtWidth a.d.fmt) (src p)) (h : d.Reads g dst val ps t) :
    d.Copied a g dst src ps u t := by
  intro p hp
  rw [h p hp, hval p hp, hfmt, State.peek_eq]
  exact Nat.mod_eq_of_lt (elemAt_lt hal.pos _ _)

/-- The value that a source element hands to a destination. -/
def SrcEl.val (e : SrcEl) : Val := ⟨e.v, e.p, e.keep⟩

/-- One iteration of a GATHER without a stream: each position of the destination takes the element that its index names. -/
theorem gatherIter_gives {d a : Opnd} {x : Desc} {js : List Nat} (hu : u.MemsOnly c.g u) (ha : a.Indexed x u c.g js) (hd : d.Local)
    (hdm : d.mask = none) (hal : d.d.Aligned js) (hfmt : a.d.fmt = d.d.fmt) (hused : d.d.used = a.shape)
    (hn : (d.d.addrs js (tuples d.d.used)).Nodup) (q : Nat) :
    ∃ st t, M.Gives (gatherIter c false q d a js) u st t ∧ u.MemsOnly c.g t ∧
      d.Copied a c.g (d.d.place js) (a.placeBy x u c.g js) (tuples d.d.used) u t := by
  obtain ⟨as, hidx⟩ := gatherIndices_gives hu.quiet ha.xspace q js
  have hlen := length_indexVals u c.g x js
  have hns : ((indexVals u c.g x js).length :: x.sizes.tail).getD 0 0 = x.sizes.getD 0 0 := hlen
  obtain ⟨hshape, hat⟩ := ha.withSizes (s := u) hns
  obtain ⟨es, hes, hall⟩ := readSourceWith_local (c := c) (o := { a with idx := some { x with sizes := (indexVals u c.g x js).length :: x.sizes.tail } })
    (js := js) (idx := indexVals u c.g x js) (place := a.placeBy x u c.g js) hu.quiet ha.space ha.maskLocal
    fun ix hix => hat (hshape ▸ hix)
  have hes' : es = (tuples d.d.used).map fun ix => srcOf (u.memOf c.g a.d.space) (fmtWidth a.d.fmt) (a.placeBy x u c.g js) (ix, true, false) := by
    rw [hused, ← hshape]
    exact hall ha.mask
  have hcut : cutRows (product' a.shape.dropLast) (indexVals u c.g x js).length es = es := by
    refine List.take_of_length_le ?_
    rw [hes', List.length_map, length_tuples, hused, hlen, ha.shape, List.dropLast_concat, product'_append_single]
  unfold gatherIter
  rw [ha.idx]
  simp only
  refine hidx.bind_ends (hes.bind_ends ?_)
  generalize linesOf _ + linesOf as = n
  obtain ⟨t, hslot, ht⟩ := hu.slotUse n
  obtain ⟨ds, hds, hdsAll⟩ := readDest_direct ht.quiet hd js
  obtain ⟨st, t', hst, ht', hreads⟩ := storeVals_direct hd hal ht hdsAll (es.map SrcEl.val)
  refine hslot.bind_ends (hds.bind_ends ⟨st, t', ?_, ht', ?_⟩)
  · rw [hcut]
    exact hst.bind ((M.gives_pure _ _).bind ((M.gives_pure _ _).bind ((M.gives_pure _ _).bind (M.gives_pure _ _))))
  · rw [hes', List.map_map] at hreads
    exact (hreads _ hdm rfl (fun _ _ => rfl) hn).copied hfmt hal.width fun _ _ => rfl

/-- One iteration of a SCATTER: each source element goes to the place its index names. -/
theorem scatterIter_gives {d a : Opnd} {x : Desc} {js : List Nat} (hu : u.MemsOnly c.g u) (hd : d.Indexed x u c.g js) (ha : a.Local)
    (ham : a.mask = none) (hal : d.d.Aligned js) (hfmt : a.d.fmt = d.d.fmt) (hused : a.d.used = d.shape)
    (hn : ((tuples a.d.used).map (d.placeBy x u c.g js)).Nodup) :
    ∃ st t, M.Gives (copyIter c d a js) u st t ∧ u.MemsOnly c.g t ∧
      d.Copied a c.g (d.placeBy x u c.g js) (a.d.place js) (tuples a.d.used) u t := by
  obtain ⟨es, hes, hall⟩ := readSource_direct hu.quiet ha js
  obtain ⟨ds, hds, hdsAll⟩ := readDest_local (c := c) hu.quiet hd.maskLocal (hd.opndIndices hu.quiet) (place := d.placeBy x u c.g js)
    fun ix hix => hd.resolveAt hix
  obtain ⟨st, t, hst, ht, hreads⟩ := storeVals_local hd.space hu ds (es.map SrcEl.val)
  refine ⟨st, t, hes.bind (hds.bind (hst.bind ((M.gives_pure _ _).bind ((M.gives_pure _ _).bind (M.gives_pure _ _))))), ht, ?_⟩
  rw [hall ham, List.map_map] at hreads
  refine (hreads (tuples a.d.used) (d.placeBy x u c.g js) _ (hused ▸ hdsAll hd.mask) rfl (fun _ _ => rfl) hal.width
    (fun ix _ => hal.dvd_bitAt _) hn).copied hfmt hal.width fun _ _ => rfl

/-! ## The instructions -/

/-- One iteration and what follows it. -/
theorem oneIteration_gives {β γ : Type} {its : List (List Nat)} (hits : its = [[]]) {f : List Nat → β → M (ForInStep β)} {k : β → M γ} {r : γ}
    {b b' : β} (hf : M.Gives (f [] b) s (.yield b') t) (hk : M.Gives (k b') t r u) : M.Gives (forIn its b f >>= k) s r u := by
  subst hits
  rw [List.forIn_cons, bind_assoc]
  exact hf.bind hk

/-- The same where what follows comes to an end with a property. -/
theorem oneIteration_ends {β γ : Type} {its : List (List Nat)} (hits : its = [[]]) {f : List Nat → β → M (ForInStep β)} {k : β → M γ}
    {P : γ → State → Prop} {b b' : β} (hf : M.Gives (f [] b) s (.yield b') t) (hk : ∃ r v, M.Gives (k b') t r v ∧ P r v) :
    ∃ r v, M.Gives (forIn its b f >>= k) s r v ∧ P r v := by
  obtain ⟨r, v, hk, hP⟩ := hk
  exact ⟨r, v, oneIteration_gives hits hf hk, hP⟩

/-- What a forager instruction starts with: its operands unpoisoned and valid, one iteration, the destination writable. -/
structure ForagerReady (c : Ctx) (u : State) : Prop where
  quiet : u.MemsOnly c.g u
  clear : ∀ hd ∈ [c.h.hd, c.h.ha], (u.opndAt c hd).poisoned c (u.core c.g) = false
  src : (u.opndAt c c.h.ha).ok false none c.its = true
  dst : (u.opndAt c c.h.hd).ok true none c.its = true
  its : c.its = [[]]
  role : u.prog.inStep = true → ∀ d ∈ [(u.opndAt c c.h.hd).d], d.role ≠ 1

theorem ForagerReady.aligned (h : ForagerReady c u) : (u.opndAt c c.h.hd).d.Aligned [] := Opnd.aligned_of_ok h.dst (by simp [h.its])

/-- What the shapes of a GATHER say. -/
theorem gatherShapes_of_ok {a d : Opnd} (h : gatherShapes a d = true) : a.d.fmt = d.d.fmt ∧ d.d.used = a.shape := by
  simp only [gatherShapes, Bool.and_eq_true, beq_iff_eq] at h
  obtain ⟨⟨-, hfmt⟩, hused⟩ := h
  exact ⟨hfmt, hused⟩

/-- A GATHER or FCOMPAT without a stream. -/
theorem opGatherWith_performs (h : ForagerReady c u) {x : Desc} (ha : (u.opndAt c c.h.ha).Indexed x u c.g []) (hd : (u.opndAt c c.h.hd).Local)
    (hdm : (u.opndAt c c.h.hd).mask = none) (hsp : (u.opndAt c c.h.ha).d.space = spCL)
    (hshapes : gatherShapes (u.opndAt c c.h.ha) (u.opndAt c c.h.hd) = true)
    (hn : ((u.opndAt c c.h.hd).d.addrs [] (tuples (u.opndAt c c.h.hd).d.used)).Nodup) {spaces : Nat → Bool}
    (hspaces : spaces (u.opndAt c c.h.hd).d.space = true) (q : Nat) :
    M.Performs (opGatherWith spaces false q c) u c.g ((u.opndAt c c.h.hd).Copied (u.opndAt c c.h.ha) c.g ((u.opndAt c c.h.hd).d.place [])
      ((u.opndAt c c.h.ha).placeBy x u c.g []) (tuples (u.opndAt c c.h.hd).d.used) u) := by
  obtain ⟨hfmt, hused⟩ := gatherShapes_of_ok hshapes
  obtain ⟨st, t, hiter, ht, hcopied⟩ := gatherIter_gives h.quiet ha hd hdm h.aligned hfmt hused hn q
  refine withOpndsOr_ends h.quiet.quiet h.clear ((M.gives_get u).bind_ends ((execCheck_gives ?_ h.role).bind_ends ?_))
  · rw [h.src, h.dst, hshapes, hsp, hspaces]
    rfl
  · exact oneIteration_ends h.its (hiter.bind (M.gives_pure _ _)) ⟨_, t, M.gives_pure _ _, rfl, ⟨u, .refl h.quiet, ht⟩, hcopied⟩

/-- A SCATTER. -/
theorem opScatter_performs (h : ForagerReady c u) {x : Desc} (hd : (u.opndAt c c.h.hd).Indexed x u c.g []) (ha : (u.opndAt c c.h.ha).Local)
    (ham : (u.opndAt c c.h.ha).mask = none) (hsp : (u.opndAt c c.h.hd).d.space = spCL) (hsa : (u.opndAt c c.h.ha).d.space ≠ spTVA)
    (hshapes : gatherShapes (u.opndAt c c.h.hd) (u.opndAt c c.h.ha) = true)
    (hn : ((tuples (u.opndAt c c.h.ha).d.used).map ((u.opndAt c c.h.hd).placeBy x u c.g [])).Nodup) :
    M.Performs (opScatter c) u c.g ((u.opndAt c c.h.hd).Copied (u.opndAt c c.h.ha) c.g ((u.opndAt c c.h.hd).placeBy x u c.g [])
      ((u.opndAt c c.h.ha).d.place []) (tuples (u.opndAt c c.h.ha).d.used) u) := by
  obtain ⟨hfmt, hused⟩ := gatherShapes_of_ok hshapes
  obtain ⟨st, t, hiter, ht, hcopied⟩ := scatterIter_gives h.quiet hd ha ham h.aligned hfmt.symm hused hn
  refine withOpndsOr_ends h.quiet.quiet h.clear ((execCheck_gives ?_ h.role).bind_ends ?_)
  · rw [h.src, h.dst, hshapes, hsp]
    simpa using hsa
  · exact oneIteration_ends h.its (hiter.bind (M.gives_pure _ _)) ⟨_, t, M.gives_pure _ _, rfl, ⟨u, .refl h.quiet, ht⟩, hcopied⟩

end Sys2Proof.Machine
end

section
/-! PROOFS. O35: the operands of the forager's instructions in the words of the statement. -/

namespace Sys2Proof.Machine

variable {s u : State} {c : Ctx} {g : Nat}

/-- The index descriptor of an operand is a descriptor of its core. -/
theorem State.idx_opndAt {h : Nat} {x : Desc} (hx : (u.opndAt c h).idx = some x) : ∃ k, x = u.descAt c k := by
  rw [State.opndAt_eq] at hx
  unfold opndOf at hx
  simp only at hx
  split at hx
  · cases hx
  · exact ⟨_, (Option.some.inj hx).symm⟩

theorem State.localSpace_opndAt {h : Nat} (hne : (u.opndAt c h).d.space ≠ 2) : LocalSpace (u.opndAt c h).d.space :=
  localSpace_of_lt (u.space_descAt c h) hne

theorem State.localSpace_idx {h : Nat} {x : Desc} (hx : (u.opndAt c h).idx = some x) (hne : x.space ≠ 2) : LocalSpace x.space := by
  obtain ⟨k, rfl⟩ := State.idx_opndAt hx
  exact localSpace_of_lt (u.space_descAt c k) hne

/-- An unmasked operand outside TVA space without an index descriptor. -/
theorem State.opndAt_direct {h : Nat} (hne : (u.opndAt c h).d.space ≠ 2) (hidx : (u.opndAt c h).idx = none) (hmask : (u.opndAt c h).mask = none) :
    (u.opndAt c h).Local :=
  ⟨State.localSpace_opndAt hne, hidx, fun m hm => by rw [hmask] at hm; cases hm⟩

end Sys2Proof.Machine

open Sys2Proof Sys2Proof.Machine

/-- Settles O35: GIDX by `opGidx_gives`; GATHER, FCOMPAT and SCATTER are performed (`opGatherWith_performs`, `opScatter_performs`), each
position resolved through its index. -/
theorem foragerInstructionsComplete : Obligations.ForagerInstructionsComplete := by
  unfold Obligations.ForagerInstructionsComplete
  intro s g x hcanon u c k A D el index known does hquiet hintact hAclear hDclear hrole
  have hu : u.MemsOnly g u := .refl (State.canon_startOf hcanon g .fe x) (State.quiet_of_quietCore hquiet)
  have hprog : u.prog = s.prog := (congrArg State.prog (State.startOf_keeps hcanon hintact (g := g) (e := .fe)).1 :)
  have hrole' : u.prog.inStep = true → ∀ d ∈ [D.d], d.role ≠ 1 := by
    rw [hprog]
    simpa using hrole
  have hclear : ∀ hd ∈ [c.h.hd, c.h.ha], (u.opndAt c hd).poisoned c (u.core c.g) = false := by
    simpa using ⟨hDclear, hAclear⟩
  have hdoes : ∀ (op : Nat) (i : Instr) (f : Ctx → M Res) (val val' : State → Prop), exec i s = .next (s.runEngine g .fe op f) →
      s.readyEntry g .fe op = some x → M.Performs (f c) u g val →
      (∀ t y, t.canon = true → val t → val' (t.setEntry g .fe y)) → does i val' := by
    intro op i f val val' hexec hready hperf hval
    obtain ⟨t, y, hrun, ht, honly, hfin, -, hv⟩ := hperf.runEngine hcanon hready hintact
    exact ⟨_, hexec.trans (congrArg Host.Outcome.next hrun), honly.other, honly.dram, honly.seqs, hfin, hval t y ht hv⟩
  refine ⟨fun ix hready hAok hix => ?_, ?_, ?_⟩
  · have hmem : ∃ y ∈ (u.core c.g).q.get c.e, y.qid = c.qid :=
      ⟨x, by rw [show (u.core c.g).q = (s.core g).q from State.q_startOf hcanon hintact]; exact State.mem_of_readyEntry hready, rfl⟩
    obtain ⟨st, hst, hgives⟩ := opGidx_gives hu.quiet (List.forall_mem_singleton.mpr hAclear) hAok hix hmem
    obtain ⟨honly, hfin, hbound⟩ := State.bindStream_ended (q := bits c.h.md 1 0) (State.onlyCore_startOf hcanon g .fe hintact) hst .fe x
      (s.received g x) (r := .nothing) rfl
    exact ⟨_, congrArg Host.Outcome.next (State.runEngine_ended hready hintact hgives), honly.other, honly.dram, honly.seqs, hfin, hbound⟩
  · intro ix hix hixsp hAsp hDsp hits hAm hDm hDidx hAok hDok hshapes hcl hknown hrange hn rows
    have hA : A.Indexed ix u g [] :=
      ⟨hix, State.localSpace_opndAt hAsp, State.localSpace_idx hix hixsp, hAm, hknown, hrange⟩
    have hD : D.Local := State.opndAt_direct hDsp hDidx hDm
    have hready' : ForagerReady c u := ⟨hu, hclear, hAok, hDok, hits, hrole'⟩
    have hrows : ∀ t y, t.canon = true → D.Copied A g (D.d.place []) (A.placeBy ix u g []) (tuples D.d.used) u t → rows (t.setEntry g .fe y) :=
      fun t y ht hval p hp => (State.peek_setEntry ht g .fe y _ _ _).trans (hval p hp)
    refine ⟨fun hready huse => ?_, fun hready hsp => ?_⟩
    · refine hdoes 0x61 _ opGather _ _ rfl hready ?_ hrows
      unfold opGather
      rw [huse]
      exact opGatherWith_performs hready' hA hD hDm hcl hshapes hn (by simpa [spTVA] using hDsp) _
    · refine hdoes 0x63 _ opFcompat _ _ rfl hready ?_ hrows
      exact opGatherWith_performs hready' hA hD hDm hcl hshapes hn (by simpa using hsp) 0
  · intro ix hix hixsp hAsp hDsp hits hAm hDm hAidx hAok hDok hshapes hknown hrange place hn hready
    have hD : D.Indexed ix u g [] :=
      ⟨hix, State.localSpace_opndAt (by rw [hDsp]; decide), State.localSpace_idx hix hixsp, hDm, hknown, hrange⟩
    have hA : A.Local := State.opndAt_direct hAsp hAidx hAm
    refine hdoes 0x62 _ opScatter _ _ rfl hready (opScatter_performs ⟨hu, hclear, hAok, hDok, hits, hrole'⟩ hD hA hAm hDsp hAsp hshapes hn) ?_
    intro t y ht hval p hp
    refine (State.peek_setEntry ht g .fe y _ _ _).trans ?_
    rw [← hDsp]
    exact hval p hp
end

section
/-! PROOFS. What sending changes (R419, R420, R423): the ports, the swarm's buffers and counts alone. -/

namespace Sys2Proof.Machine

variable {s t u : State} {g : Nat}

/-- The state without its ports, the swarm's buffers, and what counting changes. -/
def State.offLinks (s : State) : State := { s.besidePorts with swarm := .init }

theorem State.offLinks_of_besidePorts (h : t.besidePorts = s.besidePorts) : t.offLinks = s.offLinks :=
  congrArg (fun v : State => { v with swarm := Swarm.init }) h

theorem State.offLinks_rtTake (s : State) (d n : Nat) : (s.rtTake d n).offLinks = s.offLinks := rfl

theorem State.offLinks_ledgOut (s : State) (k n : Nat) : (s.ledgOut k n).offLinks = s.offLinks :=
  (congrArg State.offLinks (s.ledgOut_frame k n) :)

theorem State.offLinks_setPort (s : State) (p : Nat) (q : Port) : (s.setPort p q).offLinks = s.offLinks := rfl

theorem State.offLinks_sendCtl (s : State) (p : Nat) (f : Flit) : (s.sendCtl p f).offLinks = s.offLinks := rfl

theorem State.offLinks_tryFlit {p : Nat} {f : Flit} (e : s.tryFlit p f = some t) : t.offLinks = s.offLinks := by
  unfold State.tryFlit at e
  extract_lets q at e
  split at e
  · cases e
    exact s.offLinks_sendCtl p f
  · split at e
    · extract_lets q' at e
      cases e
      rw [State.offLinks_ledgOut, State.offLinks_of_besidePorts (State.besidePorts_bump ..), State.offLinks_setPort]
    · cases e

theorem State.offLinks_creditBack (s : State) (p vc : Nat) : (s.creditBack p vc).offLinks = s.offLinks := by
  unfold State.creditBack
  extract_lets u q n v
  have hu : u.offLinks = s.offLinks := by
    unfold u
    split
    · exact s.offLinks_rtTake _ _
    · rfl
  have hv : v.offLinks = s.offLinks := hu
  split
  · exact hu
  · split
    · exact (v.offLinks_sendCtl p .idle).trans hv
    · exact hv

theorem State.offLinks_leave (s : State) (f : Flit) (src : Nat) : (s.leave f src).offLinks = s.offLinks := by
  unfold State.leave
  split
  · split
    · rfl
    · exact s.offLinks_creditBack _ _
  · rfl

theorem State.offLinks_pump (s : State) (p : Nat) : (s.pump p).offLinks = s.offLinks := by
  unfold State.pump
  extract_lets q go
  have hgo : go.2.offLinks = s.offLinks := by
    refine (foldl_view_snd State.offLinks (fun acc v f => ?_) q.waitq [] (s.setPort p { q with waitq := [] })).trans (s.offLinks_setPort p _)
    simp only
    split
    · rfl
    · split
      · next w hw => exact (w.offLinks_leave _ _).trans (State.offLinks_tryFlit hw)
      · rfl
  exact hgo

theorem State.offLinks_sendTo_getD (s : State) (serial i : Nat) (f : Flit) (src : Nat) : ((s.sendTo serial i f src).getD s).offLinks = s.offLinks := by
  unfold State.sendTo
  split
  · rfl
  · exact (State.offLinks_pump _ _).trans (s.offLinks_setPort _ _)

theorem State.offLinks_sendXfer (s : State) (g slot : Nat) (x : Xfer) : (s.sendXfer g slot x).offLinks = s.offLinks := by
  unfold State.sendXfer
  extract_lets tag me u
  have hu : u.offLinks = s.offLinks := s.offLinks_sendTo_getD _ _ _ _
  exact (foldl_view State.offLinks (fun v c => v.offLinks_sendTo_getD _ _ _ _) _ u).trans hu

theorem State.cores_sendXfer (s : State) (g slot : Nat) (x : Xfer) : (s.sendXfer g slot x).cores = s.cores :=
  (congrArg State.cores (s.offLinks_sendXfer g slot x) :)

theorem State.OnlyCore.sendXfer (h : s.OnlyCore g t) (h' slot : Nat) (x : Xfer) : s.OnlyCore g (t.sendXfer h' slot x) :=
  h.of_same (State.canon_sendXfer h.canon h' slot x) (t.cores_sendXfer h' slot x) (congrArg State.dram (t.offLinks_sendXfer h' slot x) :)
    (congrArg State.seqs (t.offLinks_sendXfer h' slot x) :)

end Sys2Proof.Machine
end

section
/-! PROOFS. PEERPUT and PEERGET (R144, R423): the transfer they leave in slot 0 of a core that had none. -/

namespace Sys2Proof.Machine

variable {s t u : State} {c : Ctx} {g : Nat}

/-! ## One transfer queued and started -/

/-- A transfer queued with what its instruction does after its iterations. -/
def State.launchXfer (s : State) (g : Nat) (x : Xfer) : State := ((s.queueXfer g x).noteWaits g).startXfers g

/-- Where only one transfer waits, and none is under way, slot 0 is the first free one. -/
theorem freeSlots_of_waiting (x : Xfer) :
    (List.range 32).filter (fun k => !(AMap.get Xfer.init [(32, x)] k).active) = List.range 32 := by
  refine List.filter_eq_self.mpr fun k hk => ?_
  have hlt := List.mem_range.mp hk
  have hget : AMap.get Xfer.init [(32, x)] k = Xfer.init := by
    simp only [AMap.get]
    rw [if_neg (by omega), if_pos hlt]
  rw [hget]
  rfl

/-- A core without transfers that queues one starts it in slot 0. -/
theorem State.startXfers_one {x : Xfer} (hx : (s.core g).xfers = [(32, x)]) :
    s.startXfers g = (s.setCore g { s.core g with xfers := [(0, { x with active := true, data := [] })] }).sendXfer g 0 x := by
  have hne : ({ x with active := true, data := [] } : Xfer) ≠ Xfer.init := fun e => by cases congrArg Xfer.active e
  unfold State.startXfers
  simp only [hx, freeSlots_of_waiting]
  simp only [List.filter_cons, Nat.le_refl, decide_true, if_true, List.filter_nil, List.range_succ_eq_map, List.zip_cons_cons, List.zip_nil_left,
    List.foldl_cons, List.foldl_nil, hx, AMap.erase, AMap.set, if_neg hne, AMap.put]

theorem State.xfers_queueXfer (h : s.canon = true) (hx : (s.core g).xfers = []) (x : Xfer) :
    (s.queueXfer g x).core g = { s.core g with xfers := [(32, x)] } := by
  unfold State.queueXfer
  rw [State.core_setCore h, if_pos rfl]
  simp only [hx]
  rfl

/-- What the transfer leaves: in its core the transfer in slot 0 and the queues as before, the rest untouched. -/
theorem State.launchXfer_leaves (h : s.OnlyCore g t) (hx : (t.core g).xfers = []) (x : Xfer) :
    s.OnlyCore g (t.launchXfer g x) ∧ ((t.launchXfer g x).core g).q = (t.core g).q ∧
      ((t.launchXfer g x).core g).xfers = [(0, { x with active := true, data := [] })] := by
  have hqueue := State.xfers_queueXfer h.canon hx x
  have honly : s.OnlyCore g (t.queueXfer g x) := h.setCore _
  have hnote : ((t.queueXfer g x).noteWaits g).core g = { (t.queueXfer g x).core g with waitq := (t.queueXfer g x).waiters g } :=
    (State.core_setCore honly.canon g g _).trans (if_pos rfl)
  have honly' : s.OnlyCore g ((t.queueXfer g x).noteWaits g) := honly.setCore _
  have hxfers : (((t.queueXfer g x).noteWaits g).core g).xfers = [(32, x)] := by rw [hnote, hqueue]
  have hq : (((t.queueXfer g x).noteWaits g).core g).q = (t.core g).q := by rw [hnote, hqueue]
  unfold State.launchXfer
  rw [State.startXfers_one hxfers]
  generalize (t.queueXfer g x).noteWaits g = v at honly' hq
  have hset : ∀ k : Core, (v.setCore g k).core g = k := fun k => (State.core_setCore honly'.canon g g k).trans (if_pos rfl)
  have hsend : ∀ w : State, (w.sendXfer g 0 x).core g = w.core g := fun w => congrArg (fun m => AMap.get Core.init m g) (w.cores_sendXfer g 0 x)
  refine ⟨(honly'.setCore _).sendXfer g 0 x, ?_, ?_⟩
  · rw [hsend, hset]
    exact hq
  · rw [hsend, hset]

/-! ## The instruction -/

/-- Values for the packed places need fresh data and nothing else. -/
theorem fillAbsent_gives (hu : u.OnlyCore g s) : ∀ es : List SrcEl, ∃ vs t, M.Gives (fillAbsent es) s vs t ∧ u.OnlyCore g t ∧ t.cores = s.cores := by
  intro es
  induction es generalizing s with
  | nil => exact ⟨_, s, M.gives_pure _ s, hu, rfl⟩
  | cons e es ih =>
    unfold fillAbsent
    by_cases hk : e.keep = true
    · obtain ⟨vs, t, hvs, ht, hcores⟩ := ih hu
      rw [if_pos hk]
      exact ⟨_, t, (M.gives_pure _ s).bind (hvs.bind (M.gives_pure _ t)), ht, hcores⟩
    · have hfresh : u.OnlyCore g s.freshData.2 := hu.of_same (State.canon_freshData hu.canon) rfl rfl rfl
      obtain ⟨vs, t, hvs, ht, hcores⟩ := ih hfresh
      rw [if_neg hk]
      exact ⟨_, t, M.Gives.bind (M.Gives.bind (a := s.freshData.1) (t := s.freshData.2) rfl (M.gives_pure _ _)) (hvs.bind (M.gives_pure _ t)), ht, hcores⟩

/-- What a PEERPUT or PEERGET of one iteration that names a peer leaves of its core, which had no transfer: its queues, and in slot 0 one
transfer of its own. -/
def State.Launched (u : State) (g : Nat) (x : Xfer) (t : State) : Prop :=
  u.OnlyCore g t ∧ (t.core g).q = (u.core g).q ∧ AMap.get Xfer.init (t.core g).xfers 0 = { x with active := true, data := [] }

theorem State.launched (h : u.OnlyCore g t) (hcores : t.cores = u.cores) (hx : (u.core g).xfers = []) (x : Xfer) :
    u.Launched g x (t.launchXfer g x) := by
  have hcore : t.core g = u.core g := congrArg (fun m => AMap.get Core.init m g) hcores
  obtain ⟨honly, hq, hxfers⟩ := State.launchXfer_leaves h (hcore ▸ hx) x
  refine ⟨honly, hcore ▸ hq, ?_⟩
  rw [hxfers]
  rfl

/-- A transfer of an instruction toward a peer. -/
def Xfer.Names (x : Xfer) (qid op serial len : Nat) (got : List Nat) : Prop :=
  x.qid = qid ∧ x.op = op ∧ x.peer = serial ∧ x.len = len ∧ x.got = got

/-- An iteration that queues one transfer and else only draws fresh data. -/
def M.Queues (m : M Nat) (u : State) (g qid op serial len : Nat) (got : List Nat) : Prop :=
  ∃ st x t, M.Gives m u st (t.queueXfer g x) ∧ u.OnlyCore g t ∧ t.cores = u.cores ∧ x.Names qid op serial len got

/-- The transfer of a PEERPUT. -/
theorem putIter_queues (hc : u.canon = true) (hq : u.Quiet c.g) {a : Opnd} (ha : a.Local) (serial : Nat) (r : Opnd) (ws : List Word) (js : List Nat) :
    M.Queues (putIter c (some serial) r a ws js) u c.g c.qid 1 serial r.d.packed [] := by
  obtain ⟨es, hes, -⟩ := readSource_direct hq ha js
  obtain ⟨vs, t, hvs, ht, hcores⟩ := fillAbsent_gives (.refl hc : u.OnlyCore c.g u) es
  exact ⟨_, _, t, hes.bind ((M.gives_pure _ u).bind (hvs.bind (M.Gives.bind (a := ()) rfl (M.gives_pure _ _)))), ht, hcores, rfl, rfl, rfl, rfl, rfl⟩

/-- The transfer of a PEERGET: it waits for every word. -/
theorem getIter_queues (hc : u.canon = true) (hq : u.Quiet c.g) {d : Opnd} (hd : d.Local) (serial : Nat) (r : Opnd) (ws : List Word) (js : List Nat) :
    M.Queues (getIter c (some serial) d r ws js) u c.g c.qid (if bits c.h.md 13 12 = 0 then 2 else 3) serial r.d.packed
      (List.range ((r.d.packed + 7) / 8)) := by
  obtain ⟨ds, hds, -⟩ := readDest_direct hq hd js
  exact ⟨_, _, u, hds.bind ((M.gives_pure _ u).bind (M.Gives.bind (a := ()) rfl (M.gives_pure _ _))), .refl hc, rfl, rfl, rfl, rfl, rfl, rfl⟩

/-- The remote operand of a peer instruction, and its local one. -/
def peerRemote (put : Bool) (c : Ctx) (u : State) : Opnd := if put then u.opndAt c c.h.hd else u.opndAt c c.h.ha
def peerLocal (put : Bool) (c : Ctx) (u : State) : Opnd := if put then u.opndAt c c.h.ha else u.opndAt c c.h.hd

/-- What a peer instruction starts with: a peer, operands unpoisoned and accepted, one iteration, no transfer, no write that a step
forbids. -/
structure PeerReady (put : Bool) (c : Ctx) (u : State) (serial : Nat) : Prop where
  quiet : u.Quiet c.g
  clear : ∀ hd ∈ [c.h.hd, c.h.ha], (u.opndAt c hd).poisoned c (u.core c.g) = false
  its : c.its = [[]]
  peer : peerOfIns c u = some serial
  idle : (u.core c.g).xfers = []
  remote : remoteOk c.its (peerRemote put c u).d = true
  ok : (peerLocal put c u).ok (!put) none c.its = true
  fmt : (peerLocal put c u).d.fmt = (peerRemote put c u).d.fmt
  count : (peerLocal put c u).count = (peerRemote put c u).count
  len : (peerRemote put c u).d.packed ≤ 2 ^ 27
  role : u.prog.inStep = true → ∀ d ∈ (if put then [] else [(u.opndAt c c.h.hd).d]), d.role ≠ 1

theorem PeerReady.check {put : Bool} {serial : Nat} (h : PeerReady put c u serial) :
    (remoteOk c.its (peerRemote put c u).d && (peerLocal put c u).ok (!put) none c.its && (peerLocal put c u).d.fmt == (peerRemote put c u).d.fmt
      && (peerLocal put c u).count == (peerRemote put c u).count && decide ((peerRemote put c u).d.packed ≤ 2 ^ 27)) = true := by
  simp only [h.remote, h.ok, h.fmt, h.count, h.len, beq_self_eq_true, decide_true, Bool.and_self]

theorem remoteWords_gives (h : s.Quiet c.g) (hd : Nat) : ∃ ws, M.Gives (remoteWords c hd) s ws s :=
  ⟨_, (readDescWords_gives h hd).bind (M.gives_pure _ s)⟩

/-- A peer instruction of one iteration is left running with its transfer started. -/
theorem opPeer_gives {put : Bool} {serial op len : Nat} {got : List Nat} (h : PeerReady put c u serial)
    (hiter : ∀ ws, M.Queues (if put then putIter c (some serial) (peerRemote put c u) (u.opndAt c c.h.ha) ws []
      else getIter c (some serial) (u.opndAt c c.h.hd) (peerRemote put c u) ws []) u c.g c.qid op serial len got) :
    ∃ st x t, M.Gives (opPeer put c) u { Res.nothing with status := st, running := true } t ∧ u.Launched c.g x t ∧ x.Names c.qid op serial len got := by
  obtain ⟨ws, hws⟩ := remoteWords_gives h.quiet (peerRemote put c u).h
  obtain ⟨st, x, t, hgives, ht, hcores, hnames⟩ := hiter ws
  refine ⟨0 ||| st, x, _, ?_, State.launched ht hcores h.idle x, hnames⟩
  refine withOpnds_gives h.quiet h.clear ((execCheck_gives h.check h.role).bind (hws.bind ((M.gives_get u).bind ?_)))
  simp only [h.peer]
  refine oneIteration_gives h.its (b' := 0 ||| st) (t := t.queueXfer c.g x) ?_ ?_
  · cases put with
    | true => exact hgives.bind (M.gives_pure _ _)
    | false => exact hgives.bind (M.gives_pure _ _)
  · rw [h.its]
    exact M.Gives.bind (a := ()) rfl (M.gives_pure _ _)

end Sys2Proof.Machine
end

section
/-! PROOFS. The end of a transfer that times out (R425), and MIRRORSYNC over cached frames (R145, R302, R311). -/

namespace Sys2Proof.Machine

variable {s t u : State} {c : Ctx} {g : Nat}

/-! ## The end of a core's one transfer -/

/-- Nothing starts where nothing waits. -/
theorem State.startXfers_none (hx : (s.core g).xfers = []) : s.startXfers g = s := by
  unfold State.startXfers
  simp only [hx]
  rfl

/-- An entry with further status bits, and one that is executed. -/
def QEntry.flagged (e : QEntry) (st : Nat) : QEntry := { e with status := e.status ||| st }
def QEntry.executed (e : QEntry) : QEntry := { e with phase := .executed }

theorem State.xferFlag_one {e : QEntry} {qid : Nat} (hq : (s.core g).q.get .xe = [e]) (he : e.qid = qid) (st : Nat) :
    s.xferFlag g qid st = s.setEntry g .xe (e.flagged st) := by
  unfold State.xferFlag
  rw [hq, List.find?_cons_of_pos (by simpa using he)]
  rfl

/-- The queue of one entry after the entry is set. -/
theorem State.q_setEntry_one (h : s.canon = true) {e y : QEntry} (hq : (s.core g).q.get .xe = [e]) (hy : e.qid = y.qid) :
    ((s.setEntry g .xe y).core g).q = (s.core g).q.set .xe [y] ∧ ((s.setEntry g .xe y).core g).xfers = (s.core g).xfers := by
  have hput : putEntry ((s.core g).q.get .xe) y = [y] := by rw [hq, putEntry, List.map_singleton, if_pos hy]
  refine ⟨?_, (congrArg Core.xfers (State.besideQ_setEntry h .xe y) :)⟩
  rw [State.q_setEntry h, hput]

/-- The one transfer of a core ends: its slot is free and its entry executed with a further status. -/
theorem State.endXfer_one (h : s.OnlyCore g t) {slot : Nat} {y : Xfer} {e : QEntry} (hx : (t.core g).xfers = [(slot, y)])
    (hq : (t.core g).q.get .xe = [e]) (he : e.qid = y.qid) (hrun : e.phase = .running) (st : Nat) :
    s.OnlyCore g (t.endXfer g slot st) ∧ ((t.endXfer g slot st).core g).xfers = [] ∧
      ((t.endXfer g slot st).core g).q = (t.core g).q.set .xe [(e.flagged st).executed] := by
  have hy : AMap.get Xfer.init [(slot, y)] slot = y := if_pos rfl
  have herase : AMap.erase [(slot, y)] slot = [] := if_pos rfl
  have hset : ∀ k : Core, (t.setCore g k).core g = k := fun k => (State.core_setCore h.canon g g k).trans (if_pos rfl)
  have hu : s.OnlyCore g (t.setCore g { t.core g with xfers := [] }) := h.setCore _
  have hxu : ((t.setCore g { t.core g with xfers := [] }).core g).xfers = [] := by rw [hset]
  have hqu : ((t.setCore g { t.core g with xfers := [] }).core g).q = (t.core g).q := by rw [hset]
  unfold State.endXfer
  simp only [hx, hy, herase]
  generalize t.setCore g { t.core g with xfers := [] } = v at hu hxu hqu
  have hqv : (v.core g).q.get .xe = [e] := hqu ▸ hq
  obtain ⟨hqw, hxw⟩ := State.q_setEntry_one (y := e.flagged st) hu.canon hqv rfl
  have hw : s.OnlyCore g (v.setEntry g .xe (e.flagged st)) := hu.setEntry _ _
  rw [State.xferFlag_one hqv he]
  generalize v.setEntry g .xe (e.flagged st) = w at hqw hxw hw
  have hone : (w.core g).q.get .xe = [e.flagged st] := by rw [hqw, Four.get_set_same]
  obtain ⟨hqend, hxend⟩ := State.q_setEntry_one (y := (e.flagged st).executed) hw.canon hone rfl
  have hfind : [e.flagged st].find? (fun z => z.qid == y.qid && z.phase == .running) = some (e.flagged st) :=
    List.find?_cons_of_pos (by simp [QEntry.flagged, he, hrun])
  have hnone : ((w.setEntry g .xe (e.flagged st).executed).core g).xfers = [] := hxend.trans (hxw.trans hxu)
  have hleaves : ∀ r, r = w.setEntry g .xe (e.flagged st).executed → s.OnlyCore g (r.startXfers g) ∧ ((r.startXfers g).core g).xfers = [] ∧
      ((r.startXfers g).core g).q = (t.core g).q.set .xe [(e.flagged st).executed] := by
    rintro _ rfl
    rw [State.startXfers_none hnone, hqend, hqw, hqu, Four.set_set]
    exact ⟨hw.setEntry _ _, hnone, rfl⟩
  refine hleaves _ ?_
  rw [if_neg (by simp), hone, hfind]
  rfl

/-- A transfer with no word to come ends as for an absent peer. -/
theorem State.absentXfer_one {slot : Nat} {y : Xfer} (hx : (s.core g).xfers = [(slot, y)]) (hgot : y.got = []) :
    s.absentXfer g slot = s.endXfer g slot stPOISON := by
  have hy : AMap.get Xfer.init [(slot, y)] slot = y := if_pos rfl
  unfold State.absentXfer
  simp only [hx, List.any_cons, beq_self_eq_true, Bool.true_or, if_true, hy, hgot, List.foldl_nil]

/-! ## Cached frames -/

/-- In t, reached from s by translating cached frames, the cores are those of s and the same frames are cached. -/
structure State.Translated (d : Nat) (s t : State) : Prop where
  canon : t.canon = true
  cores : t.cores = s.cores
  dram : t.dram = s.dram
  seqs : t.seqs = s.seqs
  cached : ∀ fr, t.cachedFte d fr = s.cachedFte d fr

theorem State.Translated.trans {d : Nat} (h : s.Translated d t) (h' : t.Translated d u) : s.Translated d u :=
  ⟨h'.canon, h'.cores.trans h.cores, h'.dram.trans h.dram, h'.seqs.trans h.seqs, fun fr => (h'.cached fr).trans (h.cached fr)⟩

theorem State.Translated.onlyCore {d : Nat} (h : s.Translated d t) (hu : u.OnlyCore g s) : u.OnlyCore g t :=
  hu.of_same h.canon h.cores h.dram h.seqs

/-- A cached frame's entry. -/
theorem State.cachedFte_some {d fr : Nat} {f : Fte} (h : s.cachedFte d fr = some f) :
    ∃ e, (AMap.get [] (s.die d).ftc (ftcSet fr)).find? (fun e => e.1 == fr) = some e ∧ (decode e.2).cls = .clean ∧ fteOf (decode e.2).d = f := by
  unfold State.cachedFte at h
  split at h
  · next e he =>
    split at h
    · next hclean => exact ⟨e, he, hclean, Option.some.inj h⟩
    · cases h
  · cases h

/-- An entry moved to the front of its set is found, and so are the others. -/
theorem find?_moved {fr : Nat} {e : Nat × Codeword} {es : List (Nat × Codeword)} (he : es.find? (fun x => x.1 == fr) = some e) (k : Nat) :
    (e :: es.filter fun x => x.1 != fr).find? (fun x => x.1 == k) = es.find? fun x => x.1 == k := by
  have hfr : e.1 = fr := by simpa using List.find?_some he
  by_cases hk : k = fr
  · rw [List.find?_cons_of_pos (by simp [hfr, hk]), hk, he]
  · rw [List.find?_cons_of_neg (by simp [hfr, Ne.symm hk]), List.find?_filter]
    refine congrArg (fun p => es.find? p) (funext fun x => ?_)
    by_cases hx : x.1 = k
    · simp [hx, hk]
    · simp [hx]

/-- The state in which an entry has become the most recently used of its set. -/
def State.ftcMoved (s : State) (d fr : Nat) (e : Nat × Codeword) : State :=
  s.setDie d { s.die d with
    ftc := AMap.set [] (s.die d).ftc (ftcSet fr) (e :: (AMap.get [] (s.die d).ftc (ftcSet fr)).filter fun x => x.1 != fr) }

theorem State.translated_ftcMoved (h : s.canon = true) {d fr : Nat} {e : Nat × Codeword}
    (he : (AMap.get [] (s.die d).ftc (ftcSet fr)).find? (fun e => e.1 == fr) = some e) (off : Nat) :
    s.Translated d ((s.ftcMoved d fr e).bump off) := by
  have hframe := (s.ftcMoved d fr e).bumpN_frame off 1
  refine ⟨State.canon_bumpN (State.canon_setDie h d _) off 1, (congrArg State.cores hframe :), (congrArg State.dram hframe :),
    (congrArg State.seqs hframe :), fun k => ?_⟩
  have hdie : ((s.ftcMoved d fr e).bump off).die d = { s.die d with
      ftc := AMap.put (s.die d).ftc (ftcSet fr) (e :: (AMap.get [] (s.die d).ftc (ftcSet fr)).filter fun x => x.1 != fr) } := by
    have hdies : ((s.ftcMoved d fr e).bump off).dies = (s.ftcMoved d fr e).dies := (congrArg State.dies hframe :)
    refine (congrArg (fun m => AMap.get BaseDie.init m d) hdies).trans ((State.die_setDie h d d _).trans ((if_pos rfl).trans ?_))
    rw [AMap.set, if_neg (List.cons_ne_nil _ _)]
  unfold State.cachedFte
  rw [hdie]
  simp only
  by_cases hset : ftcSet k = ftcSet fr
  · rw [hset, AMap.get_put_same, find?_moved he]
  · rw [AMap.get_put_other _ _ hset]

/-- A cached frame is translated to its entry. -/
theorem State.translate_cached (h : s.canon = true) {d fr : Nat} {f : Fte} (hf : s.cachedFte d fr = some f) :
    ∃ t, s.translate d fr = (some f, t) ∧ s.Translated d t := by
  obtain ⟨e, he, hclean, rfl⟩ := State.cachedFte_some hf
  have hlook : s.ftcLook d fr = (some (decode e.2).d, s.ftcMoved d fr e) := by
    unfold State.ftcLook
    simp only [he, hclean]
    rfl
  refine ⟨(s.ftcMoved d fr e).bump (frameOff + 0x100 + 8 * d), ?_, State.translated_ftcMoved h he _⟩
  unfold State.translate
  rw [hlook]

/-! ## MIRRORSYNC -/

/-- A cached frame is mirrored and stale. -/
def State.frameStale (s : State) (d fr : Nat) : Bool := match s.cachedFte d fr with | some f => f.mir && f.mstale | none => false

theorem anyStale_gives : ∀ (frs : List Nat) {s : State}, s.canon = true → (∀ fr ∈ frs, (s.cachedFte c.die fr).isSome = true) →
    ∃ t, M.Gives (anyStale c frs) s (frs.any (s.frameStale c.die)) t ∧ s.Translated c.die t
  | [], s, hc, _ => ⟨s, M.gives_pure _ s, hc, rfl, rfl, rfl, fun _ => rfl⟩
  | fr :: frs, s, hc, h => by
    obtain ⟨f, hf⟩ := Option.isSome_iff_exists.mp (h fr List.mem_cons_self)
    obtain ⟨t, htr, ht⟩ := State.translate_cached hc hf
    obtain ⟨v, hrest, hv⟩ := anyStale_gives frs ht.canon fun k hk => (ht.cached k).symm ▸ h k (List.mem_cons_of_mem _ hk)
    have hact : M.Gives (act fun s => s.translate c.die fr) s (some f) t :=
      congrArg (fun r : Option Fte × State => ((.ok r.1, r.2) : Except Nat (Option Fte) × State)) htr
    have hstale : t.frameStale c.die = s.frameStale c.die := funext fun k => by
      unfold State.frameStale
      rw [ht.cached]
    rw [hstale] at hrest
    have hany : (fr :: frs).any (s.frameStale c.die) = ((f.mir && f.mstale) || frs.any (s.frameStale c.die)) := by
      rw [List.any_cons]
      unfold State.frameStale
      rw [hf]
    refine ⟨v, ?_, ht.trans hv⟩
    rw [hany]
    exact hact.bind (hrest.bind (M.gives_pure _ v))

theorem opMirrorsync_gives (hc : u.canon = true) (hq : u.Quiet c.g) (hclear : ∀ hd ∈ [c.h.ha], (u.opndAt c hd).poisoned c (u.core c.g) = false)
    (hok : (u.opndAt c c.h.ha).ok false none c.its = true) (hsp : (u.opndAt c c.h.ha).d.space = spTVA)
    (hattr : bitOf (u.opndAt c c.h.ha).d.attr 1 = true)
    (hcached : ∀ fr ∈ (u.opndAt c c.h.ha).d.frames c.its, (u.cachedFte c.die fr).isSome = true) :
    ∃ t, M.Gives (opMirrorsync c) u (Res.nothing.flag (statusIf (((u.opndAt c c.h.ha).d.frames c.its).any (u.frameStale c.die)) stPOISON)) t ∧
      u.Translated c.die t := by
  obtain ⟨t, ht, htr⟩ := anyStale_gives ((u.opndAt c c.h.ha).d.frames c.its) hc hcached
  refine ⟨t, withOpnds_gives hq hclear ((execCheck_gives (written := []) ?_ fun _ _ hd => by cases hd).bind (ht.bind (M.gives_pure _ t))), htr⟩
  rw [hok, hsp, hattr]
  rfl

end Sys2Proof.Machine
end

section
/-! PROOFS. O40: what the entry of a peer instruction and of a MIRRORSYNC holds. -/

namespace Sys2Proof.Machine

variable {s t u : State} {g : Nat}

/-- The queues of an entry's core after the entry ends, where they are those it started with. -/
theorem State.q_ended (h : t.canon = true) (hq : (t.core g).q = (u.core g).q) (e : Eng) (y : QEntry) :
    ((t.setEntry g e y).core g).q = (u.core g).q.set e (putEntry ((u.core g).q.get e) y) := by
  rw [State.q_setEntry h, hq]

/-- A peer instruction left running: its entry, and the transfer in slot 0. -/
theorem runEngine_launches (h : s.canon = true) {op : Nat} {x : QEntry} (hx : s.readyEntry g .xe op = some x) (hi : x.intact = true)
    {f : Ctx → M Res} {st top serial len : Nat} {got : List Nat} {y : Xfer}
    (hf : M.Gives (f (x.ctx g .xe (bitOf x.head.md 0))) (s.startOf g .xe x) { Res.nothing with status := st, running := true } t)
    (hy : (s.startOf g .xe x).Launched g y t) (hnames : y.Names x.qid top serial len got) :
    (s.runEngine g .xe op f).dram = s.dram ∧ (s.runEngine g .xe op f).seqs = s.seqs ∧
      ((s.runEngine g .xe op f).core g).q = ((s.startOf g .xe x).core g).q.set .xe (putEntry (((s.startOf g .xe x).core g).q.get .xe) { x with
        phase := .running, consumed := true, recv := s.received g x, status := s.received g x ||| st, sat := 0, flush := 0 }) ∧
      let z := AMap.get Xfer.init ((s.runEngine g .xe op f).core g).xfers 0
      z.active = true ∧ z.qid = x.qid ∧ z.op = top ∧ z.peer = serial ∧ z.len = len ∧ z.got = got := by
  obtain ⟨honly, hq, hslot⟩ := hy
  obtain ⟨hqid, hop, hpeer, hlen, hgot⟩ := hnames
  have hall := (State.onlyCore_startOf h g .xe hi).trans honly
  rw [State.runEngine_ended hx hi hf]
  have hxfers := (congrArg Core.xfers (State.besideQ_setEntry (g := g) honly.canon .xe
    (x.ended (s.received g x) { Res.nothing with status := st, running := true })) :)
  refine ⟨hall.dram, hall.seqs, State.q_ended honly.canon hq .xe _, ?_⟩
  rw [hxfers, hslot]
  exact ⟨rfl, hqid, hop, hpeer, hlen, hgot⟩

end Sys2Proof.Machine

open Sys2Proof Sys2Proof.Machine

/-- Settles O40: the transfers start (`opPeer_gives`), one without its RSP ends with its core's only entry (`State.endXfer_one`), and
MIRRORSYNC gathers the stale marks of frames that stay cached (`anyStale_gives`). -/
theorem peerTransfersAndMirrorSync : Obligations.PeerTransfersAndMirrorSync := by
  unfold Obligations.PeerTransfersAndMirrorSync
  intro s g x hcanon u c k A D starts
  have hu : u.canon = true := State.canon_startOf hcanon g .xe x
  have hstarts : ∀ (op : Nat) (i : Instr) (put : Bool) (serial top len : Nat) (got : List Nat),
      exec i s = .next (s.runEngine g .xe op (opPeer put)) → s.readyEntry g .xe op = some x → x.intact = true → PeerReady put c u serial →
      (∀ ws, M.Queues (if put then putIter c (some serial) (peerRemote put c u) (u.opndAt c c.h.ha) ws []
        else getIter c (some serial) (u.opndAt c c.h.hd) (peerRemote put c u) ws []) u c.g c.qid top serial len got) →
      starts i serial top len got := by
    intro op i put serial top len got hexec hready hintact hpeer hiter
    obtain ⟨st, y, t, hgives, hy, hnames⟩ := opPeer_gives hpeer hiter
    exact ⟨_, st, hexec, runEngine_launches hcanon hready hintact hgives hy hnames⟩
  refine ⟨?_, ?_, ?_, ?_⟩
  · intro serial hquiet hintact hidle hAclear hDclear hits hpeer hfmt hcount
    have hq : u.Quiet c.g := State.quiet_of_quietCore hquiet
    have hprog : u.prog = s.prog := (congrArg State.prog (State.startOf_keeps hcanon hintact (g := g) (e := .xe)).1 :)
    have hclear : ∀ hd ∈ [c.h.hd, c.h.ha], (u.opndAt c hd).poisoned c (u.core c.g) = false := by
      simpa using ⟨hDclear, hAclear⟩
    refine ⟨fun hready hremote hok hlocal hlen => ?_, fun hready hremote hok hlocal hlen hrole => ?_⟩
    · exact hstarts 0x73 _ true serial 1 _ [] rfl hready hintact
        ⟨hq, hclear, hits, hpeer, hidle, hremote, hok, hfmt, hcount, hlen, fun _ _ hd => by cases hd⟩
        fun ws => putIter_queues hu hq (u.opndAt_local c _ hlocal) serial _ ws []
    · exact hstarts 0x74 _ false serial _ _ _ rfl hready hintact
        ⟨hq, hclear, hits, hpeer, hidle, hremote, hok, hfmt.symm, hcount.symm, hlen,
          fun hin d hd => List.mem_singleton.mp hd ▸ hrole (hprog ▸ hin)⟩
        fun ws => getIter_queues hu hq (u.opndAt_local c _ hlocal) serial _ ws []
  · intro slot y e hslot hx hactive hrsp hgot hqe he hrun
    have hy : AMap.get Xfer.init (s.core g).xfers slot = y := by
      rw [hx]
      exact if_pos rfl
    have hb : s.OnlyCore g (s.bump (peerOff ((s.portsTo y.peer).headD 0) + 0x48)) := (State.OnlyCore.refl hcanon).bumpN _ 1
    have hcore : (s.bump (peerOff ((s.portsTo y.peer).headD 0) + 0x48)).core g = s.core g :=
      congrArg (fun m => AMap.get Core.init m g) (s.cores_bumpN _ 1)
    have hexec : exec (.peerTransferTimeout g slot) s = .next ((s.bump (peerOff ((s.portsTo y.peer).headD 0) + 0x48)).absentXfer g slot) := by
      change execPeerTransferTimeout g slot s = _
      unfold execPeerTransferTimeout
      simp only [hy]
      rw [if_pos ⟨hactive, hrsp, hslot⟩]
    generalize s.bump (peerOff ((s.portsTo y.peer).headD 0) + 0x48) = b at hb hcore hexec
    rw [← hcore] at hx hqe
    rw [State.absentXfer_one hx hgot] at hexec
    obtain ⟨honly, hxfers, hq⟩ := State.endXfer_one hb hx hqe he hrun stPOISON
    rw [hcore] at hq
    exact ⟨_, hexec, hxfers, honly.dram, honly.seqs, hq⟩
  · intro slot hrsp
    change execPeerTransferTimeout g slot s = _
    unfold execPeerTransferTimeout
    simp only
    rw [if_neg fun h => hrsp h.2.1]
  · intro hready hintact hquiet hAclear hok hsp hattr hwait hcached
    obtain ⟨t, hgives, ht⟩ := opMirrorsync_gives (c := c) hu (State.quiet_of_quietCore hquiet) (List.forall_mem_singleton.mpr hAclear) hok hsp hattr hcached
    have hexec : exec (.mirrorsync g) s = .next (s.runEngine g .xe 0x75 opMirrorsync) := by
      change execMirrorsync g s = _
      unfold execMirrorsync
      simp only [hready]
      rw [if_neg (by rw [hwait]; exact Bool.false_ne_true)]
    rw [State.runEngine_ended hready hintact hgives] at hexec
    have hstart := State.onlyCore_startOf hcanon g .xe hintact
    have hall := ht.onlyCore hstart
    refine ⟨_, hexec, hall.dram, hall.seqs, (State.q_ended ht.canon (congrArg (fun m => (AMap.get Core.init m g).q) ht.cores) .xe _).trans ?_⟩
    simp only [QEntry.ended, Res.flag, Res.nothing, Nat.zero_or, Bool.false_eq_true, if_false]
    rfl
end
